-- ==== Sys2Proof/Word.lean ====
section
/-!
DEFINITION. The word types of the model and their plainest arithmetic.

Registers, entries and addresses are what the spec treats as bits, so they are bit vectors; counts and
indices are natural numbers.
-/
namespace Sys2Proof

/-- A byte of memory. -/
abbrev Byte := BitVec 8

/-- A 64-bit register or memory word. -/
abbrev Word := BitVec 64

/-- A 128-bit Tumbler entry (04 R160). -/
abbrev Entry := BitVec 128

/-- A 64-byte line. -/
abbrev Line := BitVec 512

/-- Bits `[lo + w - 1 : lo]` of a natural number. -/
def natBits (n lo w : Nat) : Nat := (n >>> lo) % 2 ^ w

/-- `n` with bits `[lo + w - 1 : lo]` replaced by the low `w` bits of `v`. -/
def natSetBits (n lo w v : Nat) : Nat :=
  n % 2 ^ lo + (v % 2 ^ w) * 2 ^ lo + (n >>> (lo + w)) * 2 ^ (lo + w)

/-- The two's complement reading of the low `w` bits of `n`. -/
def natToInt (w n : Nat) : Int :=
  let v := n % 2 ^ w
  if v < 2 ^ (w - 1) then (v : Int) else (v : Int) - (2 ^ w : Nat)

/-- The low `w` bits of an integer, as a natural number. -/
def intToNat (w : Nat) (i : Int) : Nat := (i % (2 ^ w : Nat)).toNat

/-- The least multiple of `k` that is at least `n`. -/
def roundUp (n k : Nat) : Nat := (n + k - 1) / k * k

end Sys2Proof
end

