-- ==== Sys2Proof/Messages.lean ====
section
/-!
DEFINITION. The messages that commands carry: what reaches the package from other packages, from its own units and
from the outside, as plain data.
-/
namespace Sys2Proof

/-- Where a descriptor came from (09 Table 09-2): a PCIe function's queue, or an Ethernet queue pair and its port. -/
inductive Origin where
  | pcie (fn : Nat) (q : Nat)
  | qp (i : Nat) (port : Nat)
  deriving DecidableEq, Repr

/-- The record kinds of the order stream (09 Table 09-6, 16 Table 16-6). -/
inductive RecKind where
  | admission | pause | resume | cancel | kdrain | release | parked | ready | adapterReady | fail | expire
  | commitReady | commitWithdraw | stop | jobReady | start
  deriving DecidableEq, Repr

/-- An order-stream record: its kind and source package; ward index and ASEQ; a descriptor (Tables 09-3, 09-4) with
the origin and transcript extent of an ADMIT; one argument (a cause, a slot with its adapter id in `extent`, a GEN);
KDRAIN's list of ward index, ASEQ and delivered sequence. -/
structure OrderRecord where
  kind   : RecKind
  src    : Nat
  ward   : Nat
  aseq   : Nat
  desc   : Nat
  origin : Origin
  extent : Nat
  arg    : Nat
  list   : List (Nat × Nat × Nat)
  deriving DecidableEq, Repr

/-- A record with every item zero. -/
def OrderRecord.plain (k : RecKind) (src ward aseq arg : Nat) : OrderRecord :=
  ⟨k, src, ward, aseq, 0, .pcie 0 0, 0, arg, []⟩

/-- A batch (09 R339): its number, its apply time in ns, the ASEQ of its first ADMIT, its records. -/
structure Batch where
  number : Nat
  apply  : Nat
  first  : Nat
  recs   : List OrderRecord
  deriving DecidableEq, Repr

/-- A request's result of a step in a step exchange (10 Table 10-3). -/
structure StepResult where
  ward   : Nat
  aseq   : Nat
  accept : Nat
  deliv  : Nat
  ended  : Bool
  trunc  : Bool
  deriving DecidableEq, Repr

/-- A step exchange (10 Table 10-3). -/
structure StepExchange where
  lane     : Nat
  step     : Nat
  sender   : Nat
  doneAt   : Nat
  digest   : Nat
  gen      : Nat
  results  : List StepResult
  matched  : List (Nat × Nat × Nat)
  headroom : Nat
  report   : Nat
  deriving DecidableEq, Repr

/-- What a step sampled for one request on this package: the drafts accepted, the tokens delivered with their FP16
log-probabilities, and whether the last is an end token. -/
structure Sampled where
  ward   : Nat
  accept : Nat
  tokens : List (Nat × Nat)
  ended  : Bool
  deriving DecidableEq, Repr

/-- A row of a launch (10 R385): its request, first position, count, whether it verifies drafts, the token id at
FIRST, and the position shards of its request as the placement has them (07 R280: first block and package of each; none:
not sharded). -/
structure RowSpec where
  ward   : Nat
  first  : Nat
  count  : Nat
  verify : Bool
  token  : Nat
  shards : List (Nat × Nat)
  deriving DecidableEq, Repr

/-- A Bezel stream that a launch binds to a buffer (07 R276): ward index, layer, the first of its positions and
their number, its kind (Table 07-5: 0 EXPAND_K, 1 EXPAND_V, 2 LATENT_POS, 3 LATENT_DIM, 4 ROPE, 5 SCALES of a
LATENT_POS stream, 6 SCALES of a LATENT_DIM stream), and the column count N of the consuming tile. An EXPAND kind names
its heads (R277): how many, the rows of U that each takes, the device-physical address of U, the format code of U and the
address of its scales. On a Facet core the stream goes to the scratch range at `scratch` of the launch's context. -/
structure StreamSpec where
  buffer : Nat
  ward   : Nat
  layer  : Nat
  first  : Nat
  count  : Nat
  kind   : Nat
  cols   : Nat
  heads  : Nat
  dim    : Nat
  ubase  : Nat
  ufmt   : Nat
  uscale : Nat
  scratch : Nat
  deriving DecidableEq, Repr

/-- What a started strand of a launch receives (10 R385, R386): its CONTEXT, the address of its row list there, its
prefill tokens and its rows. -/
structure StrandLaunch where
  context : Nat
  rowList : Nat
  tokens  : Nat
  rows    : List RowSpec
  deriving DecidableEq, Repr

/-- What the Warden launches on a core (10 R385-R387): table set and entry point, lane, the base of the KV write
aperture (0: the launch writes no KV), the ward index, position and layer of each record slot of it (07 R268), the
attention heads of the core (06 R254: the first and their number; none: the entry point works no heads), the four
strands, the streams, and how many XDISPATCH entries of each layer the launch will issue (R388). -/
structure LaunchSpec where
  tset     : Nat
  ep       : Nat
  lane     : Nat
  aperture : Nat
  slots    : List (Nat × Nat × Nat)
  heads    : Nat × Nat
  strands  : List StrandLaunch
  streams  : List StreamSpec
  disp     : List (Nat × Nat)
  deriving DecidableEq, Repr

/-- A Bitting lookup (07 R300): the request, and the placement of its positions over packages (R280: first block of a shard,
package). -/
structure Lookup where
  ward   : Fin 65536
  shards : List (Nat × Nat)
  deriving DecidableEq, Repr

/-- What a DMA read of host memory was for (15 R510): a descriptor of a queue, a prompt, the image in pass 1 or 2, a key
pair or token for the Padlock island, the adapter directory for a slot. -/
inductive DmaUse where
  | descriptor (fn : Fin 64) (q : Fin 64)
  | prompt (origin : Origin) (subseq : Nat)
  | image (second : Bool)
  | keys
  | adapter (slot : Fin 8192)
  deriving DecidableEq, Repr

/-- What a NAND read was for (11 Table 11-8): a parked page of a ward index, by its page-list index; a page of a
region; a weight shard in the stash, by destination and index; the map checkpoint. -/
inductive FlashUse where
  | parked (ward index : Nat)
  | page
  | shard (dest index : Nat)
  | checkpoint
  deriving DecidableEq, Repr

/-- A /T field (21 Table 21-2): of PDL_LIFE, PDL_SLOTS and PDL_DBG, and CUR_LO, CUR_MID, CUR_HI (0-2) of a site's record
in a cluster. -/
inductive TripleField where
  | life
  | svn
  | fused
  | debug
  | cur (cluster : Fin 512) (site : Fin 200) (point : Fin 3)
  deriving DecidableEq, Repr

/-- A sensor whose reading crosses a threshold (17 Table 17-8). -/
inductive SensorUnit where
  | gateway (die : Fin 4)
  | stack (n : Fin 24)
  | optical (n : Fin 16)
  deriving DecidableEq, Repr

/-- A claim (08 R314): source package and engine, its place in the source's order, the expert, the FP32 weight, and the
identity. -/
structure Claim where
  pkg    : Nat
  engine : Nat
  order  : Nat
  expert : Nat
  weight : Nat
  ward   : Nat
  pos    : Nat
  deriving DecidableEq, Repr

/-- A seal (08 R314): source package and engine, token count, claims sent to the receiving engine. -/
structure Seal where
  pkg    : Nat
  engine : Nat
  tokens : Nat
  claims : Nat
  deriving DecidableEq, Repr

end Sys2Proof
end

