-- ==== Sys2Proof/Syntax.lean ====
section
/-!
DEFINITION. The commands of the block, one constructor per row of spec/opcode_table.json. A unit is named by its
number within the range the spec gives it: a core by its global core id (01 R43), a cluster by die index * 32 +
cluster, a strand 0-3, a port 0-15, a function 0-63. Data that arrives from outside the package (an image, a
descriptor, a shard, a flit, a message) is a command's operand.
-/
namespace Sys2Proof

/-- A command. -/
inductive Instr where
  /-- REGISTER_WRITE (R21). A BAR0 write to a register that has no row of its own updates its fields by access type. -/
  | registerWrite (fn : Fin 64) (off : Fin 134217728) (value : Word)
  /-- BAD_WIDTH_ACCESS (R29). A BAR0 access of another width or alignment is discarded or reads zero and is recorded in GLB_ERR. -/
  | badWidthAccess (fn : Fin 64) (off : Fin 134217728) (write : Bool)
  /-- TRIPLE_FIELD_READ (R680). A read of a /T field votes the three copies and rewrites them if they differ, counting a correction. -/
  | tripleFieldRead (field : TripleField) (copy : Fin 3) (flip : Nat)
  /-- AGEING_RECALIBRATION (R577). Hourly, the PTC compares critical-path margins with CUR values and lowers any CUR that has aged. -/
  | ageingRecalibration (cluster : Fin 512) (site : Fin 200) (lo : Fin 1024) (mid : Fin 1024) (hi : Fin 1024)
  /-- SRAM_SCRUB_READ (R118). The SRAM scrubber reads a word in an unclaimed bank cycle, correcting or reporting poison. -/
  | sramScrubRead (core : Fin 98304) (store : Bool) (index : Nat) (error : Fin 3)
  /-- SRAM_SCRUB_OVERDUE (R118). A scrub read that has waited 4,096 cycles takes one bank cycle at top priority. -/
  | sramScrubOverdue (core : Fin 98304) (bank : Fin 16)
  /-- STREAM_LINE_WRITE (R121). A producer holding a credit writes one line into a Culet stream buffer. -/
  | streamLineWrite (core : Fin 98304) (buffer : Fin 4) (expander : Fin 32)
  /-- WAIT_TIMEOUT (R138). A strand in WAITING or STALLED for more than 10 ms raises a fatal WAIT_TIMEOUT. -/
  | waitTimeout (core : Fin 98304) (strand : Fin 4)
  /-- GIRDLE_FLIT_RECEIVE (R146). A Girdle receiver checks a flit's CRC and sequence and requests a replay on error. -/
  | girdleFlitReceive (link : Fin 24) (back good : Bool)
  /-- GIRDLE_LANE_REPAIR (R146). A lane that fails training or exceeds its error threshold is repaired onto a spare lane. -/
  | girdleLaneRepair (link : Fin 24) (back : Bool) (lanes : Fin 16)
  /-- GIRDLE_LINK_DOWN (R146). A flit failing three consecutive replays, or no spare lane left, takes the link down as an uncorrectable fault. -/
  | girdleLinkDown (link : Fin 24) (back : Bool)
  /-- EMPTY (R153). An EMPTY entry reaching issue faults with ENTRY_RESERVED. -/
  | tblEmpty (core : Fin 98304) (strand : Fin 4)
  /-- NOP (R162). NOP issues with no effect. -/
  | tblNop (core : Fin 98304) (strand : Fin 4)
  /-- JUMP (R162). JUMP moves the strand's program position to TARGET. -/
  | tblJump (core : Fin 98304) (strand : Fin 4)
  /-- BRANCH (R162). BRANCH goes to TARGET when its comparison holds. -/
  | tblBranch (core : Fin 98304) (strand : Fin 4)
  /-- LOOP (R175). LOOP loads a loop counter and skips to EXIT when the trip count is 0. -/
  | tblLoop (core : Fin 98304) (strand : Fin 4)
  /-- ENDLOOP (R175). ENDLOOP decrements its counter and repeats the body while nonzero. -/
  | tblEndloop (core : Fin 98304) (strand : Fin 4)
  /-- CALL (R175). CALL pushes the successor position on the return stack and goes to TARGET. -/
  | tblCall (core : Fin 98304) (strand : Fin 4)
  /-- RETURN (R175). RETURN pops the return stack and goes to that position. -/
  | tblReturn (core : Fin 98304) (strand : Fin 4)
  /-- WAIT (R167). WAIT holds the strand until its header window and CMASK latches read zero. -/
  | tblWait (core : Fin 98304) (strand : Fin 4)
  /-- END (R173). END makes the strand IDLE. -/
  | tblEnd (core : Fin 98304) (strand : Fin 4)
  /-- NOTIFY (R172). NOTIFY decrements one core or cluster latch by one in its issue cycle. -/
  | tblNotify (core : Fin 98304) (strand : Fin 4)
  /-- SIMM (R163). SIMM loads an immediate into an S register. -/
  | tblSimm (core : Fin 98304) (strand : Fin 4)
  /-- SALU (R163). SALU performs scalar arithmetic or logic into an S register. -/
  | tblSalu (core : Fin 98304) (strand : Fin 4)
  /-- SLOAD (R164). SLOAD loads an S register from memory at ADDR plus OFF. -/
  | tblSload (core : Fin 98304) (strand : Fin 4)
  /-- SSTORE (R164). SSTORE stores an S register to memory at ADDR plus OFF. -/
  | tblSstore (core : Fin 98304) (strand : Fin 4)
  /-- AMOV (R163). AMOV loads an address register from an S register or an immediate. -/
  | tblAmov (core : Fin 98304) (strand : Fin 4)
  /-- AADD (R164). AADD adds to an address register's ADDR modulo 2^57. -/
  | tblAadd (core : Fin 98304) (strand : Fin 4)
  /-- FLAGS (R174). FLAGS returns the sticky flags as at cycle start and clears the named ones. -/
  | tblFlags (core : Fin 98304) (strand : Fin 4)
  /-- DMA (R166). DMA issues a cluster DMA request after its alignment and space checks. -/
  | tblDma (core : Fin 98304) (strand : Fin 4)
  /-- MOVE (R122). MOVE pops stream-buffer lines and copies them to local SRAM. -/
  | tblMove (core : Fin 98304) (strand : Fin 4)
  /-- ATOMIC (R178). ATOMIC issues an 8-byte atomic to a device-virtual word. -/
  | tblAtomic (core : Fin 98304) (strand : Fin 4)
  /-- MATMUL (R181). MATMUL multiplies two operands block-exactly into an accumulator tile. -/
  | tblMatmul (core : Fin 98304) (strand : Fin 4)
  /-- EPILOGUE (R208). EPILOGUE converts a tile through scale, bias, activation and scale into local SRAM. -/
  | tblEpilogue (core : Fin 98304) (strand : Fin 4)
  /-- LUSTRE (R199). LUSTRE applies a function element by element to a vector in local SRAM. -/
  | tblLustre (core : Fin 98304) (strand : Fin 4)
  /-- WADD (R187). WADD converts addends at ANCHOR and adds them into wide-accumulator cells. -/
  | tblWadd (core : Fin 98304) (strand : Fin 4)
  /-- WMERGE (R93). WMERGE adds source cells into destination cells and ORs their flags. -/
  | tblWmerge (core : Fin 98304) (strand : Fin 4)
  /-- WREAD (R97). WREAD reads cells out raw or converted to a float format. -/
  | tblWread (core : Fin 98304) (strand : Fin 4)
  /-- WCLEAR (R187). WCLEAR clears wide-accumulator cells. -/
  | tblWclear (core : Fin 98304) (strand : Fin 4)
  /-- OPERATION_COMPLETE (R170). An issued operation completes and lowers its done latch. -/
  | operationComplete (core : Fin 98304) (op : Nat)
  /-- REMOTE_DATA_RETURN (R176). Data of a remote load or returning atomic arrives and its strand leaves REMOTE. -/
  | remoteDataReturn (core : Fin 98304) (op : Nat)
  /-- TRANSLATION_REFUSAL_RETURN (R179). A translation refusal of a remote access returns and faults the core with TRANSLATION. -/
  | translationRefusalReturn (core : Fin 98304) (op : Nat)
  /-- LAUNCH_COMPLETE (R173). The core reports its launch complete when all strands are IDLE and all operations complete. -/
  | launchComplete (core : Fin 98304)
  /-- CLUSTER_STORE_LINE_ARRIVAL (R154). A cluster-store line reaches a strand's line buffer so it may issue again. -/
  | clusterStoreLineArrival (core : Fin 98304) (strand : Fin 4)
  /-- CLU_TBL_SEL_WRITE (R194). A write to CLU_TBL_SEL sets CORE and BCAST and empties the staging register. -/
  | cluTblSelWrite (fn : Fin 64) (cluster : Fin 512) (value : Word)
  /-- STORE_ENTRY_LOW_WRITE (R194). A low-half write to a store entry loads the staging register. -/
  | storeEntryLowWrite (fn : Fin 64) (cluster : Fin 512) (clus : Bool) (index : Fin 1024) (value : Word)
  /-- STORE_ENTRY_HIGH_WRITE (R194). A high-half write stores the staged entry after load checks and empties the staging register. -/
  | storeEntryHighWrite (fn : Fin 64) (cluster : Fin 512) (clus : Bool) (index : Fin 1024) (value : Word)
  /-- CLU_LUS_PROG_WRITE (R220). A write to CLU_LUS_PROG updates every core's copy and invalidates the selected slot. -/
  | cluLusProgWrite (fn : Fin 64) (cluster : Fin 512) (index : Fin 64) (value : Word)
  /-- LUSTRE_SLOT_COMMIT (R220). COMMIT checks the selected micro-program slot and makes it valid or sets REFUSED. -/
  | lustreSlotCommit (fn : Fin 64) (cluster : Fin 512)
  /-- LUSTRE_SLOT_INVALIDATE (R220). INVALIDATE makes the selected micro-program slot invalid. -/
  | lustreSlotInvalidate (fn : Fin 64) (cluster : Fin 512)
  /-- ASTEP (R239). ASTEP turns a block's scores into probabilities and updates the row records online. -/
  | tblAstep (core : Fin 98304) (strand : Fin 4)
  /-- AFOLD (R240). AFOLD folds a block's P x V tiles into the output rows using ALPHA. -/
  | tblAfold (core : Fin 98304) (strand : Fin 4)
  /-- ANORM (R241). ANORM normalises output rows by L and converts them. -/
  | tblAnorm (core : Fin 98304) (strand : Fin 4)
  /-- ALMAX (R244). ALMAX computes the Loupe row maximum into the records. -/
  | tblAlmax (core : Fin 98304) (strand : Fin 4)
  /-- ALSUM (R245). ALSUM adds each probability under the final maximum into row cells. -/
  | tblAlsum (core : Fin 98304) (strand : Fin 4)
  /-- ALPROB (R246). ALPROB writes Loupe probabilities and optionally copies L into the records. -/
  | tblAlprob (core : Fin 98304) (strand : Fin 4)
  /-- AMERGE (R252). AMERGE merges partial row states or maxima into merged records and rows. -/
  | tblAmerge (core : Fin 98304) (strand : Fin 4)
  /-- XSELECT (R311). XSELECT ranks gate scores and writes the top-K selection records per token. -/
  | tblXselect (core : Fin 98304) (strand : Fin 4)
  /-- XDISPATCH (R314). XDISPATCH sends claims for selected slots and seals the source engine's share of a group. -/
  | tblXdispatch (core : Fin 98304) (strand : Fin 4)
  /-- XRETURN (R322). XRETURN sends expert output rows back to the source engines of their claims. -/
  | tblXreturn (core : Fin 98304) (strand : Fin 4)
  /-- XGATHER (R326). XGATHER copies indexed table rows to destinations, zeroing padding and out-of-range rows. -/
  | tblXgather (core : Fin 98304) (strand : Fin 4)
  /-- XBAG (R327). XBAG reduces bags of table rows by SUM, MEAN or MAX with status bytes. -/
  | tblXbag (core : Fin 98304) (strand : Fin 4)
  /-- CLAIM (R315). An owner engine records an arriving claim for one of its experts. -/
  | claim (engine : Fin 4) (step : Nat) (layer : Fin 256) (claim : Claim)
  /-- SEAL (R315). An owner engine records a source engine's seal of a group. -/
  | sealArrival (engine : Fin 4) (step : Nat) (layer : Fin 256) (share : Seal)
  /-- GROUP_DECIDE (R316). With every seal and claim held, the owner computes capacities and grants or drops claims. -/
  | groupDecide (engine : Fin 4) (step : Nat) (layer : Fin 256)
  /-- CLAIM_OUTCOME (R317). A source engine applies claim outcomes, marks drops and sends granted activation rows. -/
  | claimOutcome (engine : Fin 4) (order : Nat) (granted : Bool)
  /-- DISPATCHED_ROW (R319). The owner engine writes an arriving granted row into the expert buffer. -/
  | dispatchedRow (engine : Fin 4) (step : Nat) (layer : Fin 256) (pkg : Fin 65536) (src : Fin 4) (order : Nat) (data : List Byte)
  /-- RETURNED_ROW (R323). A source engine weights a returned row and adds it into the token's combine cells. -/
  | returnedRow (engine : Fin 4) (order : Nat) (data : List Byte)
  /-- KV_RECORD_APPLY (R268). After a launch completes, Bezel applies its KV records in ward, position, layer order. -/
  | kvRecordApply (core : Fin 98304)
  /-- PAGE_FREE (R285). A page with REF 0 is freed once INFLIGHT is 0, incrementing GEN. -/
  | pageFree (page : Fin 4294967296)
  /-- PAGE_ZEROING_COMPLETE (R287). Zeroing of a page completes and the page joins the global pool. -/
  | pageZeroingComplete (page : Fin 4294967296)
  /-- GENERATION_SWEEP (R290). The sweep visits page lists and Bitting entries every 50 ms, checking GEN and releasing expired caches. -/
  | generationSweep
  /-- PARK_COMPLETE (R293). A park completes, the pages are freed and PARKED is sent. -/
  | parkComplete (ward : Fin 65536)
  /-- RESUME_PAGE_RETURN (R294). A parked page copied back is checked by CRC-32C and made resident. -/
  | resumePageReturn (ward : Fin 65536) (index : Nat) (flips : List Nat)
  /-- BITTING_LOOKUP (R300). The home package walks a prompt's block hashes and shares matched pages. -/
  | bittingLookup (lookup : Lookup)
  /-- ADMIT_DESCRIPTOR (R333). The home package checks an admission descriptor and starts reading its prompt. -/
  | admitDescriptor (origin : Origin) (subseq : Nat) (desc : BitVec 512)
  /-- PROMPT_READ_COMPLETE (R333). The prompt is in its extent and the home package sends the ADMIT record. -/
  | promptReadComplete (origin : Origin) (subseq : Nat) (good : Bool) (tokens : List Nat)
  /-- PAUSE (R331). A PAUSE command at the home package is sent as a record to the ordering package. -/
  | pause (origin : Origin) (subseq : Nat) (desc : BitVec 512)
  /-- RESUME (R348). A RESUME command reads its appended prompt tokens and is sent as a record. -/
  | resume (origin : Origin) (subseq : Nat) (desc : BitVec 512)
  /-- CANCEL (R331). A CANCEL command at the home package is sent as a record. -/
  | cancel (origin : Origin) (subseq : Nat) (desc : BitVec 512)
  /-- ORDER_RECORD_ARRIVAL (R339). The ordering package queues an arriving record for the next batch. -/
  | orderRecordArrival (r : OrderRecord)
  /-- BATCH_CUT (R339). At each ORDER_PERIOD the ordering package cuts, numbers and sends a batch. -/
  | batchCut
  /-- BATCH_ARRIVAL (R340). A replica holds an arriving batch until its apply time and predecessors. -/
  | batchArrival (b : Batch)
  /-- BATCH_WAIT_TIMEOUT (R341). A due batch missing for more than 10 ms declares PEER_SILENT. -/
  | batchWaitTimeout
  /-- KEYRING_COPY_OUT (R351). The home package copies Keyring entries in sequence to the destination ring. -/
  | keyringCopyOut (ward : Fin 65536)
  /-- KEYRING_WRITE_COMPLETE (R352). A destination write completes and the entry is delivered when no acknowledgement is required. -/
  | keyringWriteComplete (ward : Fin 65536) (seq : Nat) (good : Bool)
  /-- KEYRING_ACK (R352). An acknowledgement delivers entries up to its sequence or is discarded. -/
  | keyringAck (origin : Origin) (value : Word)
  /-- KDRAIN_SEND (R353). Once per order period the home package sends a KDRAIN record of delivery progress. -/
  | kdrainSend
  /-- WRD_ENT_SEL_WRITE (R354). A write to WRD_ENT_SEL clears VALID and requests a copy of one ward entry. -/
  | wrdEntSelWrite (fn : Fin 64) (ward : Fin 65536)
  /-- STEP_SHARE_COMPLETE (R362). A package's share of a step completes and it sends its step exchange. -/
  | stepShareComplete (lane : Fin 3) (sampled : List Sampled)
  /-- STEP_EXCHANGE (R362). A package records an arriving step exchange. -/
  | stepExchange (x : StepExchange)
  /-- STEP_BOUNDARY (R363). With every exchange held, the package computes B and runs the boundary phases. -/
  | stepBoundary (lane : Fin 3) (proposed : List (Nat × Nat)) (disp : List (Nat × Nat × Nat))
  /-- EXCHANGE_WAIT_TIMEOUT (R367). An exchange missing for more than 10 ms declares PEER_SILENT. -/
  | exchangeWaitTimeout (lane : Fin 3)
  /-- CORE_LAUNCH (R385). The Warden launches an entry point on a core, loading registers and binding streams. -/
  | coreLaunch (core : Fin 98304) (spec : LaunchSpec)
  /-- BUCKET_REFILL (R381). A refilled bandwidth bucket releases a request held in its queue. -/
  | bucketRefill (bucket : Fin 640)
  /-- MAP (R404). MAP maps a range of pages with zero-filled backing, or none of them. -/
  | map (fn : Fin 64)
  /-- UNMAP (R404). UNMAP invalidates mapped leaves, cancels migrations and releases backing. -/
  | unmap (fn : Fin 64)
  /-- PROTECT (R404). PROTECT sets WRITE on every page of a fully mapped range. -/
  | protect (fn : Fin 64)
  /-- MAP_COMMAND_COMPLETE (R402). A mapping command completes when its effects hold at every die, clearing BUSY. -/
  | mapCommandComplete
  /-- HEAT_DECAY (R407). Once every DECAY period every heat counter is halved. -/
  | heatDecay
  /-- MIGRATION_START (R408). Demotion or promotion chooses a page, allocates a destination and sets MOVING. -/
  | migrationStart
  /-- MIGRATION_COPY_PASS (R409). A copy pass completes and another pass or the final hold follows. -/
  | migrationCopyPass (page : Nat) (badGranule : Option (Fin 128))
  /-- MIGRATION_SWITCH (R409). After in-flight writes drain, the final blocks are copied and the leaf switched. -/
  | migrationSwitch (page : Nat)
  /-- FRAME_ZEROING_COMPLETE (R399). A released frame finishes zeroing and returns to the free pool. -/
  | frameZeroingComplete (frame : Fin 1310720)
  /-- LOAN_REQ (R413). A lender answers LOAN_REQ with a grant of its lowest free unit or a denial. -/
  | loanReq (borrower : Fin 65536)
  /-- LOAN_GRANT (R413). A borrower receives a grant and installs its loan window. -/
  | loanGrant (lender : Fin 65536) (base : Fin 4503599627370496)
  /-- LOAN_DENY (R413). A borrower receiving a denial asks the next lender on its list. -/
  | loanDeny (lender : Fin 65536)
  /-- LOAN_IDLE_EXPIRY (R414). A loan unmapped for 1 s is returned after its last access completes. -/
  | loanIdleExpiry (slot : Fin 1024)
  /-- LOAN_RETURN (R414). A lender takes back a returned unit and zero-fills it. -/
  | loanReturn (borrower : Fin 65536) (base : Fin 4503599627370496)
  /-- EVACUATION_COMPLETE (R415). The evacuation of affected loans ends and the pending commit may proceed. -/
  | evacuationComplete (slots : List Nat)
  /-- FLASH_READ_COMPLETE (R417). A NAND read decodes with retries and soft decoding. -/
  | flashReadComplete (granule : Fin 4294967294) (level : Fin 9) (good : Bool) (use : FlashUse)
  /-- FLASH_WRITE (R422). A write enters the flash write buffer and ordinary writes complete there. -/
  | flashWrite (granule : Fin 4294967294) (offset : Fin 16384) (data : List Byte) (owner : Fin 4097) (durable : Bool)
  /-- FLASH_PROGRAM_COMPLETE (R422). A buffered granule is programmed to NAND and durable writes complete. -/
  | flashProgramComplete (block : Fin 536870912)
  /-- FLASH_PROGRAM_FAIL (R424). A failed program retires the block and rewrites the data elsewhere. -/
  | flashProgramFail (block : Fin 536870912)
  /-- FLASH_ERASE_FAIL (R424). A failed erase retires the block. -/
  | flashEraseFail (block : Fin 536870912)
  /-- GARBAGE_COLLECTION (R424). A channel short of free blocks relocates the victim block's data and erases it. -/
  | garbageCollection (channel : Fin 32) (dst : Fin 536870912)
  /-- WEAR_RELOCATION (R424). At an erase spread of 150 the least-erased block's data is relocated. -/
  | wearRelocation (dst : Fin 536870912)
  /-- READ_DISTURB_RELOCATION (R424). A block reaching RD_THRESH reads has its data relocated and is erased. -/
  | readDisturbRelocation (block : Fin 536870912) (dst : Fin 536870912)
  /-- RELOCATION_PRIORITY_RAISE (R425). A relocation waiting more than 1 s rises to priority level 2. -/
  | relocationPriorityRaise (block : Fin 536870912)
  /-- FTL_CHECKPOINT (R426). Every 10 s the FTL writes a map checkpoint. -/
  | ftlCheckpoint
  /-- SHARD_DELIVERY (R433). The loader checks a delivered shard's trailer, alive counter, CRC and hash. -/
  | shardDelivery (dest : Fin 8194) (source : Fin 3) (index : Fin 4294967296) (alive : Fin 65536) (crc : Word) (payload : List Byte)
  /-- SHARD_TIMEOUT (R435). A shard not arrived within 2 s fails with cause TIMEOUT. -/
  | shardTimeout (dest : Fin 8194) (source : Fin 3)
  /-- HINGE_HOST_DOORBELL (R437). The host's doorbell closes a host-source shard request or is discarded. -/
  | hingeHostDoorbell (fn : Fin 64) (index : Fin 4294967296) (alive : Fin 65536)
  /-- HINGE_PASSED (R448). A package records HINGE_PASSED(k) and may start committing layer k. -/
  | hingePassed (pkg : Fin 65536) (layer : Fin 256)
  /-- LAYER_COMMIT_COMPLETE (R449). A layer's staged bytes are copied over the live copy and HINGE_COMMITTED is sent. -/
  | layerCommitComplete (layer : Fin 256)
  /-- HINGE_COMMITTED (R448). A package records HINGE_COMMITTED(k), opening new-version launches of layer k. -/
  | hingeCommitted (pkg : Fin 65536) (layer : Fin 256)
  /-- ADAPTER_LOAD_COMPLETE (R456). A replica finishes loading an adapter slot and sends ADAPTER_READY or FAIL. -/
  | adapterLoadComplete (slot : Fin 8192) (manifest : Option Nat)
  /-- ASSAY_GO (R464). GO starts a scan on an idle engine, latching its parameters. -/
  | assayGo (fn : Fin 64) (engine : Fin 32) (ctl : Word)
  /-- ASSAY_ABORT (R474). ABORT ends a running scan with ABORTED. -/
  | assayAbort (fn : Fin 64) (engine : Fin 32) (ctl : Word)
  /-- SCAN_COMPLETE (R470). A scan ends, writing RESULT, MATCH and STATUS and setting DONE. -/
  | scanComplete (engine : Fin 32)
  /-- FABRIC_FLIT_RECEIVE (R482). A port accepts or discards an arriving flit and routes an accepted one. -/
  | fabricFlitReceive (port : Fin 16) (flit : BitVec 2048) (fecOk : Bool)
  /-- FABRIC_ACK_TIMER (R483). The receiver acknowledges at least every 16 flits or every 50 ns. -/
  | fabricAckTimer (port : Fin 16)
  /-- PORT_RETRAIN_START (R484). A flit resent 8 times without acknowledgement starts a retrain. -/
  | portRetrainStart (port : Fin 16)
  /-- RETRAIN_END (R484). A retrain completes and replay resumes, or three failures put the port DOWN. -/
  | retrainEnd (port : Fin 16) (good : Bool) (farAck : Fin 65536)
  /-- TRAINING_IDENTITY (R486). Training compares the far identity and moves the port to UP or HELD. -/
  | trainingIdentity (port : Fin 16) (farId : Fin 65536) (farPort : Fin 16) (farPart : Fin 256) (lanes : Fin 25)
  /-- RECALIBRATION_DUE (R487). A port's 15-minute recalibration falls due and runs or is deferred 1 s. -/
  | recalibrationDue (port : Fin 16)
  /-- RECALIBRATION_COMPLETE (R487). A full recalibration ends and the port returns to UP. -/
  | recalibrationComplete (port : Fin 16)
  /-- RECEIVE_OVERLOAD (R488). Receive power above the overload threshold attenuates receivers and forces replay. -/
  | receiveOverload (port : Fin 16)
  /-- OVERLOAD_PERSIST (R488). Overload lasting 10 µs puts the port in OVERLOAD and raises OPT_OVERLOAD. -/
  | overloadPersist (port : Fin 16)
  /-- OVERLOAD_CLEAR (R488). When the light falls the port retrains. -/
  | overloadClear (port : Fin 16)
  /-- OVERLOAD_TIMEOUT (R488). A port not UP within 1 ms of OVERLOAD goes DOWN. -/
  | overloadTimeout (port : Fin 16)
  /-- FABRIC_READ (R497). The destination performs a READ and returns READ_RSP. -/
  | fabricRead (header : BitVec 256)
  /-- FABRIC_WRITE (R498). The destination performs a WRITE, applies any NOTIFY decrement and returns WRITE_ACK. -/
  | fabricWrite (header : BitVec 256) (data : List Line)
  /-- FABRIC_WRITE_PART (R497). The destination performs a byte-masked WRITE_PART and returns WRITE_ACK. -/
  | fabricWritePart (header : BitVec 256) (data : List Line)
  /-- FABRIC_ATOMIC (R495). The destination applies an ATOMIC and returns the old value. -/
  | fabricAtomic (header : BitVec 256) (data : List Line)
  /-- FABRIC_RESPONSE (R497). A requester completes a request from its response status. -/
  | fabricResponse (tag : Fin 16777216) (status : Fin 5)
  /-- FABRIC_REQUEST_TIMEOUT (R499). A request without response for 2 ms completes with TIMEOUT as an uncorrectable fault. -/
  | fabricRequestTimeout (tag : Fin 16777216)
  /-- EGRESS_WRITE (R505). A write to an egress window gathers into a block buffer. -/
  | egressWrite (header : BitVec 256) (data : List Line)
  /-- EGRESS_READ (R505). A READ of an egress block flushes pending writes and starts or joins an RDMA READ. -/
  | egressRead (header : BitVec 256)
  /-- EGRESS_BLOCK_TIMEOUT (R505). A block open for 20 µs is sent as RDMA WRITEs. -/
  | egressBlockTimeout (ewin : Fin 256) (block : Nat)
  /-- EGRESS_RDMA_COMPLETE (R505). A completed or failed RDMA operation completes its block's pending operations. -/
  | egressRdmaComplete (ewin : Fin 256) (block : Nat) (fetch good : Bool) (data : List Byte)
  /-- RETRAIN (R506). RETRAIN trains a port in HELD, DOWN or RECABLE against its expectation. -/
  | retrain (fn : Fin 64) (port : Fin 16)
  /-- RECAL (R487). RECAL schedules a port recalibration under the deferral rules. -/
  | recal (fn : Fin 64) (port : Fin 16)
  /-- SQ_TAIL_DOORBELL (R516). An SQ tail doorbell sets the tail or is discarded for a disabled queue or range. -/
  | sqTailDoorbell (fn : Fin 64) (q : Fin 64) (value : Word) (whole : Bool)
  /-- CQ_HEAD_DOORBELL (R516). A CQ head doorbell records consumed completions. -/
  | cqHeadDoorbell (fn : Fin 64) (q : Fin 64) (value : Word) (whole : Bool)
  /-- EQ_HEAD_DOORBELL (R521). An EQ head doorbell records consumed events. -/
  | eqHeadDoorbell (fn : Fin 64) (value : Word) (whole : Bool)
  /-- DESCRIPTOR_FETCH (R517). The endpoint fetches the next descriptor while room allows and assigns SUBSEQ. -/
  | descriptorFetch (fn : Fin 64) (q : Fin 64) (data : Option (BitVec 512))
  /-- QUEUE_CFG_WRITE (R515). A GLB_Qq_CFG write sets EN and IEN and resets the queue on enable. -/
  | queueCfgWrite (fn : Fin 64) (q : Fin 64) (value : Word)
  /-- QUEUE_DEFERRED_RESET (R515). A queue re-enabled with completions owed resets when F reaches 0. -/
  | queueDeferredReset (fn : Fin 64) (q : Fin 64)
  /-- EQ_CFG_WRITE (R521). Enabling the event queue resets its tail, head and phase. -/
  | eqCfgWrite (fn : Fin 64) (value : Word)
  /-- HREQ_CFG_WRITE (R521). Enabling the Hinge request ring resets its tail, head and phase. -/
  | hreqCfgWrite (fn : Fin 64) (value : Word)
  /-- MSIX_MESSAGE (R520). A vector's MSI-X message is sent, at most once per 1 µs. -/
  | msixMessage (fn : Fin 64) (vector : Fin 66)
  /-- FUNCTION_LEVEL_RESET (R526). An FLR disables the function's queues and fails entries of its origin. -/
  | functionLevelReset (fn : Fin 64)
  /-- PERST (R561). PERST# resets the PCIe link, configuration spaces and every queue. -/
  | perst
  /-- BAR2_ACCESS (R512). A BAR2 access reaches device-physical memory in a HOST_VISIBLE carve-out or is refused. -/
  | bar2Access (offset : Fin 68719476736) (len : Nat) (data : Option (List Byte))
  /-- DMA_READ_TIMEOUT (R510). A function's DMA read not completed within 50 ms fails. -/
  | dmaReadTimeout (use : DmaUse)
  /-- INGRESS_WRITE (R531). The gateway takes an RDMA WRITE into the ingress area as descriptors, ACKs or head updates. -/
  | ingressWrite (qp : Fin 16384) (key : Fin 4294967296) (addr : Fin 18446744073709551616) (data : List Byte) (marked : Bool)
  /-- ROCE_OTHER_OPCODE (R530). A non-WRITE request or bad key or address is answered with a NAK. -/
  | roceOtherOpcode (qp : Fin 16384) (access : Bool)
  /-- ETHERNET_FRAME_DROP (R528). A frame that is neither RoCEv2 nor PTP is dropped and counted. -/
  | ethernetFrameDrop (port : Fin 4)
  /-- ROCE_ACK_TIMEOUT (R533). A local ACK timeout retransmits go-back-N or puts the QP in ERROR. -/
  | roceAckTimeout (qp : Fin 16384) (psn : Fin 16777216)
  /-- ROCE_NAK (R533). A received NAK retransmits or puts the QP in ERROR. -/
  | roceNak (qp : Fin 16384) (kind : Fin 3) (psn : Fin 16777216)
  /-- QP_RESET (R533). RESET returns a QP from ERROR to READY with PSNs at 0. -/
  | qpReset (fn : Fin 64) (value : Word)
  /-- CNP_RECEIVE (R534). A received congestion notification halves the QP's sending rate. -/
  | cnpReceive (qp : Fin 16384)
  /-- ROCE_RATE_INCREASE (R534). Each 55 µs without notification raises the QP rate by 5 % of port rate. -/
  | roceRateIncrease (qp : Fin 16384)
  /-- PTP_TX_GO (R540). GO sends the PTP frame ahead of queued RoCE packets. -/
  | ptpTxGo (fn : Fin 64) (port : Fin 4) (value : Word)
  /-- PTP_TX_DONE (R540). The sent frame's egress timestamp is written and DONE set. -/
  | ptpTxDone (port : Fin 4)
  /-- PTP_FRAME_RECEIVE (R540). A received PTP frame is timestamped into the FIFO or dropped if full. -/
  | ptpFrameReceive (port : Fin 4) (sub : Bool) (bytes : List Byte)
  /-- PTP_RX_POP (R540). POP removes the head PTP frame. -/
  | ptpRxPop (fn : Fin 64) (port : Fin 4) (value : Word)
  /-- SYNC_IN_EDGE (R536). An accepted SYNC_IN edge loads or slews the device time counter. -/
  | syncInEdge
  /-- SYNC_MISSED (R536). A second without an accepted edge increments MISSED. -/
  | syncMissed
  /-- TIME_ARM (R536). Setting ARM with a VALUE arms a time load at the next accepted edge. -/
  | timeArm (fn : Fin 64) (value : Word)
  /-- REFCLK_LOSS (R537). Loss of REFCLK switches to the internal oscillator as an uncorrectable fault. -/
  | refclkLoss
  /-- LOAD (R549). LOAD starts reading an image into the shadow set. -/
  | load (fn : Fin 64)
  /-- COMMIT (R554). COMMIT requests the commit of a READY shadow set. -/
  | commit (fn : Fin 64)
  /-- DISCARD (R552). DISCARD empties the shadow set and withdraws commit readiness. -/
  | discard (fn : Fin 64)
  /-- STOP (R558). STOP sends a STOP record while serving. -/
  | stop (fn : Fin 64)
  /-- IMAGE_PASS1_COMPLETE (R549). Pass 1 hashes the image and verifies its header and signatures. -/
  | imagePass1Complete (bytes : Option (List Byte))
  /-- IMAGE_PASS2_COMPLETE (R550). Pass 2 reads the image into the shadow half and runs the section checks. -/
  | imagePass2Complete (bytes : Option (List Byte))
  /-- COMMIT_READY_SEND (R554). When its conditions hold a package sends COMMIT_READY(GEN). -/
  | commitReadySend
  /-- COMMIT_RESUME_BOUNDARY (R555). At B_Q + 20 µs every lane takes a boundary under the new set. -/
  | commitResumeBoundary (proposed : List (Nat × Nat)) (disp : List (List (Nat × Nat × Nat)))
  /-- BATCH_APPLY_IDLE (R560). While not serving, a batch is applied at its apply time without boundaries. -/
  | batchApplyIdle (proposed : List (Nat × Nat)) (disp : List (List (Nat × Nat × Nat)))
  /-- WARM_RESET (R561). A warm reset loses serving state and restarts at stage RAILS. -/
  | warmReset
  /-- COLD_RESET (R561). A cold reset loses HBM, images and keys and restarts at ROM. -/
  | coldReset (badHeader : Bool)
  /-- POWER_ON_RESET (R561). AUX rising into range, or falling below 3.0 V, resets everything. -/
  | powerOnReset (badHeader : Bool)
  /-- FIRMWARE_ACCEPTED (R638). ROM accepts firmware copy A or B, or enters FAILED. -/
  | firmwareAccepted
  /-- RAILS_COMPLETE (R569). Rails come up in order once VIN48 is in range. -/
  | railsComplete (good : Bool)
  /-- HBM_TRAINING_COMPLETE (R563). HBM stacks finish training and pass 2 may run. -/
  | hbmTrainingComplete (good : Bool)
  /-- CLUSTER_RELOAD_COMPLETE (R557). A cluster's enable set, stores and micro-programs are reloaded and it leaves OFF. -/
  | clusterReloadComplete (cluster : Fin 512)
  /-- OPTICS_STAGE_COMPLETE (R563). Enabled ports finish calibration and training. -/
  | opticsStageComplete
  /-- FABRIC_STAGE_COMPLETE (R563). Routes and windows are installed with no port in TRAINING. -/
  | fabricStageComplete
  /-- TENANTS_STAGE_COMPLETE (R563). Keys, translation tables, regions and free lists are built. -/
  | tenantsStageComplete
  /-- WEIGHTS_STAGE_COMPLETE (R440). The live copy is loaded or re-verified and the package sends JOB_READY. -/
  | weightsStageComplete
  /-- VIN48_RESTORED (R571). VIN48 in range for 100 ms after a loss of power starts a cold reset. -/
  | vin48Restored
  /-- INPUT_UNDERVOLT (R570). VIN48 below 40 V for 10 µs raises INPUT_RANGE and caps at 3.0 kW. -/
  | inputUndervolt
  /-- UNDERVOLT_RECOVERY (R570). VIN48 in range for 1 s lifts the undervoltage cap. -/
  | undervoltRecovery
  /-- INPUT_POWER_LOSS (R570). VIN48 below 36 V for 50 µs shuts the rails down and asserts FAULT_N. -/
  | inputPowerLoss
  /-- INPUT_OVERVOLT (R570). VIN48 above 62 V for 10 µs shuts down and asserts PWR_KILL_N. -/
  | inputOvervolt
  /-- CONVERTER_FAILURE (R568). A failed stage 1 converter is isolated and the effective cap reduced. -/
  | converterFailure
  /-- INPUT_SAMPLE (R573). Every 1 µs the PTC samples VIN48 and current and accumulates energy. -/
  | inputSample (vin : Fin 65536) (iin : Fin 65536)
  /-- CAP_CONTROL (R588). Every 100 µs the PTC compares averaged power with the cap and steps one consumer. -/
  | capControl
  /-- VOLTAGE_TARGET_REACHED (R584). VDD reaches a raised target and the frequency rises. -/
  | voltageTargetReached (cluster : Fin 512)
  /-- FAST_LIMIT_ENTRY (R586). Input power above 6.6 kW for 20 µs halves every cluster clock. -/
  | fastLimitEntry
  /-- FAST_LIMIT_EXIT (R586). The fast input limit ends when averaged power is within the cap. -/
  | fastLimitExit
  /-- DROOP_DETECT (R585). VDD 30 mV below setting doubles the cluster clock period. -/
  | droopDetect (cluster : Fin 512)
  /-- DROOP_RECOVERY (R585). VDD within 10 mV for 100 ns restores the clock period. -/
  | droopRecovery (cluster : Fin 512)
  /-- THERMAL_LIMIT_STEP (R599). A die's thermal limit falls every 100 µs above THROTTLE_T or rises every 1 ms below. -/
  | thermalLimitStep (cluster : Fin 512) (reading : Int)
  /-- OVERTEMP_ENTRY (R599). A cluster sensor at 105 °C sets the die limit to 0.60 GHz. -/
  | overtempEntry (cluster : Fin 512) (reading : Int)
  /-- SENSOR_CALIBRATION (R598). Once per second sensors are calibrated and outliers discarded. -/
  | sensorCalibration (die : Fin 16) (reference : Int) (readings : List (Fin 32 × Int))
  /-- DEADBOLT_TRIP (R601). A watched sensor at 118 °C asserts trip signals and cuts the 48 V rails. -/
  | deadboltTrip (die : Fin 20) (sensor : Fin 2)
  /-- CAP_WRITE (R587). A PTC_CAP write replaces the cap or sets BAD_WRITE if out of range. -/
  | capWrite (fn : Fin 64) (value : Word)
  /-- CLUSTER_DOZE (R595). A cluster idle for 64 cycles gates its clock into DOZE. -/
  | clusterDoze (cluster : Fin 512)
  /-- CLUSTER_DEEP (R595). A cluster idle for DEEP_IDLE power-gates into DEEP. -/
  | clusterDeep (cluster : Fin 512)
  /-- CLUSTER_WAKE (R595). An arrival wakes a DOZE or DEEP cluster to RUN. -/
  | clusterWake (cluster : Fin 512)
  /-- HBM_SCRUB_READ (R610). The HBM scrubber reads a granule, correcting or poisoning it. -/
  | hbmScrubRead (stack : Fin 24) (error : Fin 3)
  /-- GATEWAY_LOSS (R46). A fault disabling G1, G2 or G3 removes its resources and is reported. -/
  | gatewayLoss (die : Fin 3)
  /-- JOB_FAULT (R616). A package adopting a newer episode records PEER_FAULT and stops. -/
  | jobFault (episode : Fin 4294967296) (pkg : Fin 65536)
  /-- CORE_STOP_GRACE_EXPIRY (R617). Operations still in flight 100 µs after the stop are abandoned. -/
  | coreStopGraceExpiry
  /-- DELIVERY_WINDOW_EXPIRY (R618). After 5 ms of JOB_RESTART copy-out, undelivered entries are lost. -/
  | deliveryWindowExpiry
  /-- DUMP_COMPLETE (R627). The dump engine finishes writing a slot and posts DUMP_DONE. -/
  | dumpComplete (slot : Fin 2) (bad : BitVec 16)
  /-- RECOVERY_WARM_RESET (R619). With dump and delivery window done, the package warm-resets to rejoin. -/
  | recoveryWarmReset
  /-- DUMP_RELEASE (R626). RELEASEn returns a READY dump slot to EMPTY. -/
  | dumpRelease (fn : Fin 64) (value : Word)
  /-- PROGRAM (R636). PROGRAM writes a key pair and blows its slot digest and PROG. -/
  | program (fn : Fin 64) (slot : Fin 4)
  /-- REVOKE (R636). REVOKE blows a slot's REVOKED fuse. -/
  | revoke (fn : Fin 64) (slot : Fin 4)
  /-- LOCK (R636). LOCK moves the lifecycle to DEPLOYED. -/
  | lock (fn : Fin 64)
  /-- ADVANCE_SVN (R636). ADVANCE_SVN blows SVN fuses up to the running firmware's SVN. -/
  | advanceSvn (fn : Fin 64)
  /-- RETIRE (R636). RETIRE destroys DUS and keys, erases state and opens debug permanently. -/
  | retire (fn : Fin 64) (key : Fin 65536)
  /-- NONCE (R645). NONCE draws 32 random bytes into PDL_NONCE. -/
  | nonce (fn : Fin 64)
  /-- OPEN_DEBUG (R646). OPEN_DEBUG checks a token and starts the transition to OPEN. -/
  | openDebug (fn : Fin 64)
  /-- CLOSE_DEBUG (R646). CLOSE_DEBUG starts the transition to CLOSED. -/
  | closeDebug (fn : Fin 64)
  /-- PADLOCK_COMMAND_COMPLETE (R631). A queued island operation finishes and sets DONE and STATUS. -/
  | padlockCommandComplete (data : Option (List Byte))
  /-- NONCE_EXPIRY (R645). A nonce older than 10 min becomes invalid. -/
  | nonceExpiry
  /-- DEBUG_TRANSITION_COMPLETE (R646). After HBM zeroing and FTL trim the debug state becomes OPEN or CLOSED. -/
  | debugTransitionComplete
  /-- GET_VERSION (R640). The island answers SPDM GET_VERSION. -/
  | getVersion
  /-- GET_CAPABILITIES (R640). The island answers SPDM GET_CAPABILITIES. -/
  | getCapabilities
  /-- NEGOTIATE_ALGORITHMS (R640). The island answers SPDM NEGOTIATE_ALGORITHMS with P-384 and SHA-384. -/
  | negotiateAlgorithms (p384 : Bool) (sha384 : Bool)
  /-- GET_DIGESTS (R641). The island returns the digest of its slot 0 chain. -/
  | getDigests
  /-- GET_CERTIFICATE (R641). The island returns its certificate chain. -/
  | getCertificate (slot : Fin 16) (offset : Fin 65536) (len : Fin 65536)
  /-- CHALLENGE (R640). The island signs a CHALLENGE response with the alias key. -/
  | challenge (slot : Fin 16) (nonce : BitVec 256)
  /-- GET_MEASUREMENTS (R642). The island returns signed measurements from one snapshot. -/
  | getMeasurements (index : Fin 256) (signed : Bool) (nonce : BitVec 256)
  /-- SPDM_UNSUPPORTED (R640). Any other SPDM request is answered with UnsupportedRequest. -/
  | spdmUnsupported (code : Fin 256)
  /-- EXTEST (R648). JTAG EXTEST drives boundary scan where allowed, else acts as BYPASS. -/
  | jtagExtest (drive : Nat)
  /-- IDCODE (R648). JTAG IDCODE shifts out 0x1960_0ABD. -/
  | jtagIdcode
  /-- SAMPLE_PRELOAD (R648). JTAG SAMPLE/PRELOAD samples the boundary register. -/
  | jtagSamplePreload (load : Nat)
  /-- DBG_STAT (R648). JTAG DBG_STAT shifts out debug, lifecycle and status bits. -/
  | jtagDbgStat
  /-- DBG_NONCE (R648). JTAG DBG_NONCE runs NONCE and shifts out the nonce. -/
  | jtagDbgNonce
  /-- DBG_TOKEN (R648). JTAG DBG_TOKEN loads a token and runs OPEN_DEBUG. -/
  | jtagDbgToken (token : BitVec 38400)
  /-- DBG_CLOSE (R648). JTAG DBG_CLOSE runs CLOSE_DEBUG. -/
  | jtagDbgClose
  /-- INTSCAN (R648). JTAG INTSCAN accesses internal scan only when OPEN. -/
  | jtagIntscan
  /-- INTEST (R648). JTAG INTEST runs internal test only when OPEN. -/
  | jtagIntest
  /-- BYPASS (R648). JTAG BYPASS selects the one-bit bypass register. -/
  | jtagBypass
  /-- SNAP_GO (R653). TEL_SNAP.GO requests a snapshot of every counter into set 0. -/
  | snapGo (fn : Fin 64)
  /-- SNAPSHOT_COMPLETE (R653). A holding set finishes filling and DONE sets. -/
  | snapshotComplete (set : Fin 2)
  /-- SAMPLER_TICK (R654). Every 1 ms the sampler snapshots set 2 and writes history and host ring records. -/
  | samplerTick (good : Bool)
  /-- TRACE_RECORD (R655). The funnel writes an arriving trace record to the buffer by mode. -/
  | traceRecord (type : Fin 256) (source : Fin 4096) (arg : Fin 1048576) (data : Word) (time : Nat) (fifoFull : Bool)
  /-- TIMESYNC (R658). The funnel writes a TIMESYNC at every multiple of 2^20 ns. -/
  | timesync
  /-- TRACE_HOST_COPY (R660). In HOST mode the funnel copies records to the PF ring while room allows. -/
  | traceHostCopy (good : Bool)
  /-- TRACE_MARK (R655). A TEL_TRACE_MARK write emits a MARK record. -/
  | traceMark (fn : Fin 64) (value : Word)
  /-- DYNAMIC_ADDRESS_ASSIGN (R661). The I3C target takes a dynamic address by SETDASA or ENTDAA. -/
  | dynamicAddressAssign (setdasa : Bool) (addr : Fin 128)
  /-- SET_ENDPOINT_ID (R662). MCTP Set Endpoint ID assigns the endpoint ID. -/
  | setEndpointId (dest eid : Fin 256)
  /-- GET_ENDPOINT_ID (R662). MCTP Get Endpoint ID returns the endpoint ID. -/
  | getEndpointId (dest : Fin 256)
  /-- GET_ENDPOINT_UUID (R662). MCTP Get Endpoint UUID returns the UUID derived from SERIAL. -/
  | getEndpointUuid (dest : Fin 256)
  /-- GET_MCTP_VERSION_SUPPORT (R662). MCTP Get MCTP Version Support returns supported versions. -/
  | getMctpVersionSupport (dest type : Fin 256)
  /-- GET_MESSAGE_TYPE_SUPPORT (R662). MCTP Get Message Type Support returns types 0, 1 and 5. -/
  | getMessageTypeSupport (dest : Fin 256)
  /-- MCTP_DISCARD (R662). A message of an unsupported MCTP type is discarded. -/
  | mctpDiscard (type : Fin 256)
  /-- PLDM_SENSOR_READ (R664). A PLDM sensor read returns the reading taken at acceptance. -/
  | pldmSensorRead (req : Fin 256) (id : Fin 65536)
  /-- CAP_EFFECTER (R664). PLDM effecter 20 sets PTC_CAP.CAP_W. -/
  | capEffecter (req : Fin 256) (watts : Fin 65536)
  /-- RESET_EFFECTER (R664). PLDM effecter 21 starts a warm or cold reset. -/
  | resetEffecter (req : Fin 256) (value : Fin 256)
  /-- FIRMWARE_UPDATE (R665). PLDM type 5 writes and checks the non-running copy before the running one. -/
  | firmwareUpdate (req : Fin 256) (image : List Byte)
  /-- READ_REG (R666). OEM READ_REG returns the 64-bit register value the PF would read. -/
  | readReg (req : Fin 256) (off : Fin 134217728)
  /-- SNAP (R666). OEM SNAP fills set 1 and returns its SEQ. -/
  | snap (req : Fin 256)
  /-- READ_DUMP (R666). OEM READ_DUMP returns bytes of a complete dump slot. -/
  | readDump (req : Fin 256) (slot : Fin 2) (offset : Nat) (len : Fin 1025)
  /-- RELEASE_DUMP (R666). OEM RELEASE_DUMP releases a READY dump slot. -/
  | releaseDump (req : Fin 256) (slot : Fin 2)
  /-- UART_BYTE_RECEIVE (R668). A UART frame is received into the FIFO or discarded for framing or overrun. -/
  | uartByteReceive (byte : Byte) (stop : Bool)
  /-- VER (R669). Console ver prints stepping, firmware, lifecycle and debug state. -/
  | conVer
  /-- STAT (R669). Console stat prints CFG_STAT, GLB_FAULT_STAT and PTC_STAT. -/
  | conStat
  /-- TIME (R669). Console time prints GLB_TIME and GLB_TIME_STAT. -/
  | conTime
  /-- TEMP (R669). Console temp prints PTC_TEMP and PTC_INPUT. -/
  | conTemp
  /-- BAUD (R669). Console baud sets DIV after the reply. -/
  | conBaud (d : Nat)
  /-- RD (R669). Console rd reads a register when debug is OPEN. -/
  | conRd (off : Fin 134217728)
  /-- WR (R669). Console wr performs a PF write when debug is OPEN. -/
  | conWr (off : Fin 134217728) (value : Word)
  /-- TRACE (R669). Console trace prints the latest trace records when OPEN. -/
  | conTrace (n : Nat)
  /-- CONSOLE_UNKNOWN (R669). Any other console line is answered ERR. -/
  | consoleUnknown
  /-- REFCLK_RESTORED (R704). REFCLK becomes present after being absent, letting stage ROM end and the time base leave its internal oscillator. -/
  | refclkRestored
  /-- PERST_DEASSERTION (R704). Deassertion of PERST# lets the endpoint begin link training once stage RAILS has ended. -/
  | perstDeassertion
  /-- CONFIGURATION_REQUEST (R564). A PCIe configuration request is answered with Request Retry Status until stage WAIT_IMAGE. -/
  | configurationRequest (fn : Fin 64)
  /-- MIRROR_REFRESH (R682). On each 25 MHz management clock edge every /M mirror copies its source value. -/
  | mirrorRefresh
  /-- SENSOR_THRESHOLD_CROSSING (R599). A Gateway die, HBM stack or optical engine reading crosses its threshold, cutting or restoring lanes, refresh rate or HBM bandwidth. -/
  | sensorThresholdCrossing (unit : SensorUnit) (reading : Int)
  /-- G0_LOSS (R615). A package that loses G0 stops at once, taking no dump and sending nothing. -/
  | g0Loss
  deriving DecidableEq, Repr

end Sys2Proof
end

