-- ==== Sys2Proof/Machine/Crc.lean ====
section
/-!
DEFINITION. The check values of spec 13 Table 13-1, byte by byte, as the internal register that a chained scan
continues from (R469).
-/
namespace Sys2Proof.Machine

open Sys2Proof

/-- A check-value algorithm: width, polynomial (bit-reversed where reflected), initial value, reflected, final XOR. -/
structure CrcAlg where
  width : Nat
  poly  : Nat
  init  : Nat
  refl  : Bool
  fin   : Nat
  deriving DecidableEq, Repr

/-- The algorithm of a POLY code. -/
def crcAlg (poly : Nat) : CrcAlg :=
  match poly % 4 with
  | 0 => ⟨64, 0x42F0E1EBA9EA3693, 0, false, 0⟩
  | 1 => ⟨32, 0x82F63B78, 0xFFFFFFFF, true, 0xFFFFFFFF⟩
  | 2 => ⟨32, 0xEDB88320, 0xFFFFFFFF, true, 0xFFFFFFFF⟩
  | _ => ⟨16, 0x1021, 0xFFFF, false, 0⟩

/-- One bit shifted out of the register. -/
def crcBit (a : CrcAlg) (c : Nat) : Nat :=
  if a.refl then (if c % 2 = 1 then (c / 2) ^^^ a.poly else c / 2)
  else if 2 ^ (a.width - 1) ≤ c then ((c * 2) % 2 ^ a.width) ^^^ a.poly else c * 2

/-- One byte fed into the register. -/
def crcByte (a : CrcAlg) (c b : Nat) : Nat :=
  (List.range 8).foldl (fun c _ => crcBit a c) (if a.refl then c ^^^ b else c ^^^ (b * 2 ^ (a.width - 8)))

/-- Bytes fed into the register, in order. -/
def crcFeed (a : CrcAlg) (c : Nat) (bs : List Byte) : Nat := bs.foldl (fun c b => crcByte a c b.toNat) c

/-- The check value that a register stands for. -/
def crcOut (a : CrcAlg) (c : Nat) : Nat := c ^^^ a.fin

/-- The check value of a byte string. -/
def crcOf (poly : Nat) (bs : List Byte) : Nat := crcOut (crcAlg poly) (crcFeed (crcAlg poly) (crcAlg poly).init bs)

/-- CRC-64/ECMA-182 (12 R433). -/
def crc64 (bs : List Byte) : Nat := crcOf 0 bs

/-- CRC-32C (10 R391, 14). -/
def crc32c (bs : List Byte) : Nat := crcOf 1 bs

end Sys2Proof.Machine
end

