-- ==== Sys2Proof/Config.lean ====
section
/-!
DEFINITION. What an implementation fixes and the spec does not: free values, opaque to every proof, and the
part-specific fuses. Nothing here has a body.
-/
namespace Sys2Proof.Config

/-- The n-th free value of a run: a value that the spec leaves open (log entry 1). -/
opaque freeNat : Nat → Nat

/-- The n-th string of random bits that the Padlock island draws (19 R645, nonces, keys; log entry 2). -/
opaque randomBits : Nat → Nat

/-- The fused record of a core site (01 R54, 03 CLU_SITE_REC): cluster, site to FUSE_LO [9:0], FUSE_MID [19:10],
FUSE_HI [29:20], GOOD [30]. -/
opaque siteFuse : Nat → Nat → Nat

/-- The fused serial number (19 PDL_ID). -/
opaque serial : Nat

/-- The fused digest of the firmware signing keys and the lifecycle and key fuses as shipped (19 R630). -/
opaque fwRoot : Nat

/-- SHA-384 (FIPS 180-4) of a byte string; the spec names the standard and does not restate it. -/
opaque sha384 : List Byte → Nat

/-- Whether both signatures of a message verify under a key pair and a context string (0 manifest, 1 image, 2 firmware,
3 debug; 12 R431, 16 R543, 19 R637, R644): context, message hash, the 4,723 bytes of the two signatures, key pair. -/
opaque verifies : Nat → Nat → List Byte → Nat → Bool

/-- A signature made by the island over a message with the alias key of a firmware digest and a debug code (19 R640,
Table 19-4). -/
opaque sign : Nat → Nat → List Byte → List Byte

/-- The digest of ROM and the fuse fields other than DUS (19 Table 19-5, measurement 1), of those fields. -/
opaque fuseDigest : List Nat → Nat

/-- The certificate chain of slot 0 (19 R641), whose alias certificate follows measurements 1, 2 and 5. -/
opaque certChain : Nat → Nat → Nat → List Byte

/-- Good blocks of a NAND channel and the granules per block, as the channel's geometry gives them (11 R416). -/
opaque nandBlocks : Nat → Nat
opaque nandGranules : Nat → Nat

/-- Whether the NAND parameters of a channel differ from the image's declaration (11 R416). -/
opaque nandMismatch : Nat → Bool

/-- The device-virtual page at which the adapter slots are mapped into SYS; the spec states no address (12 R453, log
entry 31). -/
opaque adapterVpn : Nat

/-- A firmware copy in boot NOR as the system provides it: 0 copy A, 1 copy B (19 R637). -/
opaque norCopy : Nat → List Byte

/-- Whether the first image loaded goes to the upper half of the configuration carve-out (16 R549, log entry 49). -/
opaque firstHalfUpper : Bool

/-- A token of a request that is homed on another package: home, ASEQ, position (log entry 13). -/
opaque remoteToken : Nat → Nat → Nat → Nat

/-- The unspecified content of bytes that overlapping input and output of a Lustre entry leave (05 R200). -/
opaque overlapByte : Nat → Byte

/-- The spare lanes of a Girdle module (03 R146): UCIe 2.0 fixes the number, the spec does not restate it. -/
opaque girdleSpares : Nat

/-- How the dump engine lays out the content of a dump section: its TYPE and its items in order (18 Table 18-6 names
the items and gives no layout, log entry 67). -/
opaque dumpBytes : Nat → List Nat → List Byte

/-- UNIT and NAME of a telemetry counter that the package describes in its catalogue (20 R650): by id. -/
opaque counterUnit : Nat → Nat
opaque counterName : Nat → Nat

/-- The MCTP endpoint UUID derived from SERIAL, and the version numbers answered by message type (20 R662). -/
opaque mctpUuid : Nat → Nat
opaque mctpVersions : Nat → List Nat

end Sys2Proof.Config
end

