-- ==== Sys2Proof/Machine/RegMap.lean ====
section
/-!
DEFINITION. The register map (spec 21, Table 21-3 and every register table): where each register and field lies,
its access type and its reset value. A register is named by its BAR0 offset; a function-relative register (R511)
adds 0x800_0000 times its function number, and a cluster-window register (R44) takes its global cluster number.
-/
namespace Sys2Proof.Machine

open Sys2Proof

/-- A field: the register's place, its least bit and its width. -/
structure Field where
  reg : Nat
  lo  : Nat
  w   : Nat
  deriving DecidableEq, Repr

/-- The access types of Table 00-3 (the suffixes /T and /M stand only on read-only fields in this part). -/
inductive Access where
  | rw | ro | wo | w1c | w1s | roT | roM
  deriving DecidableEq, Repr

/-- A field of a register table: least bit, width, access type, reset value. -/
structure FieldSpec where
  lo    : Nat
  w     : Nat
  acc   : Access
  reset : Nat
  deriving DecidableEq, Repr

/-- Where a register lies: in the common map, function-relative (R511), or in every cluster window (R44). -/
inductive RegSpace where
  | glob | fn | win
  deriving DecidableEq, Repr

/-- A row of the register map: `count` registers from `base` at `stride`. -/
structure RegSpec where
  space  : RegSpace
  base   : Nat
  stride : Nat
  count  : Nat
  fields : List FieldSpec
  deriving DecidableEq, Repr

/-- `GLB_ID` (21_registers GLB_ID, offset 0x0000_0000). -/
def rGLB_ID : Nat := 0x0

/-- `GLB_ID.PART`, RO, 16 bits. -/
def fGLB_ID_PART : Field := ⟨rGLB_ID, 0, 16⟩

/-- `GLB_ID.STEPPING`, RO, 8 bits. -/
def fGLB_ID_STEPPING : Field := ⟨rGLB_ID, 16, 8⟩

/-- `GLB_ID.GENERATION`, RO, 8 bits. -/
def fGLB_ID_GENERATION : Field := ⟨rGLB_ID, 24, 8⟩

/-- `GLB_ID.CONTRACT`, RO, 16 bits. -/
def fGLB_ID_CONTRACT : Field := ⟨rGLB_ID, 32, 16⟩

/-- `GLB_CAP0` (21_registers GLB_CAP0, offset 0x0000_0008). -/
def rGLB_CAP0 : Nat := 0x8

/-- `GLB_CAP0.CROWN`, RO, 5 bits. -/
def fGLB_CAP0_CROWN : Field := ⟨rGLB_CAP0, 0, 5⟩

/-- `GLB_CAP0.PAVILION`, RO, 5 bits. -/
def fGLB_CAP0_PAVILION : Field := ⟨rGLB_CAP0, 5, 5⟩

/-- `GLB_CAP0.GATEWAY`, RO, 3 bits. -/
def fGLB_CAP0_GATEWAY : Field := ⟨rGLB_CAP0, 10, 3⟩

/-- `GLB_CAP0.CLUSTERS`, RO, 6 bits. -/
def fGLB_CAP0_CLUSTERS : Field := ⟨rGLB_CAP0, 13, 6⟩

/-- `GLB_CAP0.CORES`, RO, 8 bits. -/
def fGLB_CAP0_CORES : Field := ⟨rGLB_CAP0, 19, 8⟩

/-- `GLB_CAP0.SITES`, RO, 8 bits. -/
def fGLB_CAP0_SITES : Field := ⟨rGLB_CAP0, 27, 8⟩

/-- `GLB_CAP0.HBM`, RO, 5 bits. -/
def fGLB_CAP0_HBM : Field := ⟨rGLB_CAP0, 35, 5⟩

/-- `GLB_CAP0.FPORTS`, RO, 5 bits. -/
def fGLB_CAP0_FPORTS : Field := ⟨rGLB_CAP0, 40, 5⟩

/-- `GLB_CAP0.ETH`, RO, 3 bits. -/
def fGLB_CAP0_ETH : Field := ⟨rGLB_CAP0, 45, 3⟩

/-- `GLB_CAP0.ONFI`, RO, 6 bits. -/
def fGLB_CAP0_ONFI : Field := ⟨rGLB_CAP0, 48, 6⟩

/-- `GLB_CAP1` (21_registers GLB_CAP1, offset 0x0000_0010). -/
def rGLB_CAP1 : Nat := 0x10

/-- `GLB_CAP1.WARD`, RO, 17 bits. -/
def fGLB_CAP1_WARD : Field := ⟨rGLB_CAP1, 0, 17⟩

/-- `GLB_CAP1.TENANTS`, RO, 13 bits. -/
def fGLB_CAP1_TENANTS : Field := ⟨rGLB_CAP1, 17, 13⟩

/-- `GLB_CAP1.ADAPTERS`, RO, 14 bits. -/
def fGLB_CAP1_ADAPTERS : Field := ⟨rGLB_CAP1, 30, 14⟩

/-- `GLB_CAP2` (21_registers GLB_CAP2, offset 0x0000_0018). -/
def rGLB_CAP2 : Nat := 0x18

/-- `GLB_CAP2.BITTING`, RO, 23 bits. -/
def fGLB_CAP2_BITTING : Field := ⟨rGLB_CAP2, 0, 23⟩

/-- `GLB_CAP2.MP_SLOTS`, RO, 5 bits. -/
def fGLB_CAP2_MP_SLOTS : Field := ⟨rGLB_CAP2, 23, 5⟩

/-- `GLB_CAP2.CORE_STORE`, RO, 11 bits. -/
def fGLB_CAP2_CORE_STORE : Field := ⟨rGLB_CAP2, 28, 11⟩

/-- `GLB_CAP2.CLUSTER_STORE`, RO, 11 bits. -/
def fGLB_CAP2_CLUSTER_STORE : Field := ⟨rGLB_CAP2, 39, 11⟩

/-- `GLB_CAP3` (21_registers GLB_CAP3, offset 0x0000_0020). -/
def rGLB_CAP3 : Nat := 0x20

/-- `GLB_CAP3.F_NOM`, RO, 10 bits. -/
def fGLB_CAP3_F_NOM : Field := ⟨rGLB_CAP3, 0, 10⟩

/-- `GLB_CAP3.F_BOOST`, RO, 10 bits. -/
def fGLB_CAP3_F_BOOST : Field := ⟨rGLB_CAP3, 10, 10⟩

/-- `GLB_CAP3.F_FIXED`, RO, 10 bits. -/
def fGLB_CAP3_F_FIXED : Field := ⟨rGLB_CAP3, 20, 10⟩

/-- `GLB_CAP3.F_FLOOR`, RO, 10 bits. -/
def fGLB_CAP3_F_FLOOR : Field := ⟨rGLB_CAP3, 30, 10⟩

/-- `GLB_CAP3.P_MAX`, RO, 13 bits. -/
def fGLB_CAP3_P_MAX : Field := ⟨rGLB_CAP3, 40, 13⟩

/-- `GLB_ERR` (21_registers GLB_ERR, offset 0x0000_0100). -/
def rGLB_ERR : Nat := 0x100

/-- `GLB_ERR.WIDTH`, W1C, 1 bit. -/
def fGLB_ERR_WIDTH : Field := ⟨rGLB_ERR, 0, 1⟩

/-- `GLB_ERR.VF_ACCESS`, W1C, 1 bit. -/
def fGLB_ERR_VF_ACCESS : Field := ⟨rGLB_ERR, 1, 1⟩

/-- `GLB_ERR.WINDOW_CLOSED`, W1C, 1 bit. -/
def fGLB_ERR_WINDOW_CLOSED : Field := ⟨rGLB_ERR, 2, 1⟩

/-- `GLB_ERR.LATCH_UNDERFLOW`, W1C, 1 bit. -/
def fGLB_ERR_LATCH_UNDERFLOW : Field := ⟨rGLB_ERR, 3, 1⟩

/-- `GLB_ERR.NOT_READY`, W1C, 1 bit. -/
def fGLB_ERR_NOT_READY : Field := ⟨rGLB_ERR, 4, 1⟩

/-- `GLB_ERR_INFO` (21_registers GLB_ERR_INFO, offset 0x0000_0108). -/
def rGLB_ERR_INFO : Nat := 0x108

/-- `GLB_ERR_INFO.OFFSET`, RO, 27 bits. -/
def fGLB_ERR_INFO_OFFSET : Field := ⟨rGLB_ERR_INFO, 0, 27⟩

/-- `GLB_ERR_INFO.WRITE`, RO, 1 bit. -/
def fGLB_ERR_INFO_WRITE : Field := ⟨rGLB_ERR_INFO, 27, 1⟩

/-- `GLB_ERR_INFO.FUNCTION`, RO, 6 bits. -/
def fGLB_ERR_INFO_FUNCTION : Field := ⟨rGLB_ERR_INFO, 28, 6⟩

/-- `GLB_ERR_INFO.KIND`, RO, 3 bits. -/
def fGLB_ERR_INFO_KIND : Field := ⟨rGLB_ERR_INFO, 34, 3⟩

/-- `GLB_ERR_INFO.VALID`, W1C, 1 bit. -/
def fGLB_ERR_INFO_VALID : Field := ⟨rGLB_ERR_INFO, 37, 1⟩

/-- `GLB_LATCH_ERR` (21_registers GLB_LATCH_ERR, offset 0x0000_0110). -/
def rGLB_LATCH_ERR : Nat := 0x110

/-- `GLB_LATCH_ERR.DIE`, RO, 4 bits. -/
def fGLB_LATCH_ERR_DIE : Field := ⟨rGLB_LATCH_ERR, 0, 4⟩

/-- `GLB_LATCH_ERR.CLUSTER`, RO, 5 bits. -/
def fGLB_LATCH_ERR_CLUSTER : Field := ⟨rGLB_LATCH_ERR, 4, 5⟩

/-- `GLB_LATCH_ERR.BANK`, RO, 1 bit. -/
def fGLB_LATCH_ERR_BANK : Field := ⟨rGLB_LATCH_ERR, 9, 1⟩

/-- `GLB_LATCH_ERR.LATCH`, RO, 6 bits. -/
def fGLB_LATCH_ERR_LATCH : Field := ⟨rGLB_LATCH_ERR, 10, 6⟩

/-- `GLB_LATCH_ERR.CORE`, RO, 8 bits. -/
def fGLB_LATCH_ERR_CORE : Field := ⟨rGLB_LATCH_ERR, 16, 8⟩

/-- `GLB_LATCH_ERR.TENANT`, RO, 12 bits. -/
def fGLB_LATCH_ERR_TENANT : Field := ⟨rGLB_LATCH_ERR, 24, 12⟩

/-- `GLB_LATCH_ERR.SYS`, RO, 1 bit. -/
def fGLB_LATCH_ERR_SYS : Field := ⟨rGLB_LATCH_ERR, 36, 1⟩

/-- `GLB_LATCH_ERR.VALID`, W1C, 1 bit. -/
def fGLB_LATCH_ERR_VALID : Field := ⟨rGLB_LATCH_ERR, 37, 1⟩

/-- `GLB_TIME` (15_host_ethernet_time GLB_TIME, offset 0x0000_9000). -/
def rGLB_TIME : Nat := 0x9000

/-- `GLB_TIME.TIME`, RO, 64 bits. -/
def fGLB_TIME_TIME : Field := ⟨rGLB_TIME, 0, 64⟩

/-- `GLB_TIME_NEXT` (15_host_ethernet_time GLB_TIME_NEXT, offset 0x0000_9008). -/
def rGLB_TIME_NEXT : Nat := 0x9008

/-- `GLB_TIME_NEXT.VALUE`, RW, 63 bits. -/
def fGLB_TIME_NEXT_VALUE : Field := ⟨rGLB_TIME_NEXT, 0, 63⟩

/-- `GLB_TIME_NEXT.ARM`, W1S, 1 bit. -/
def fGLB_TIME_NEXT_ARM : Field := ⟨rGLB_TIME_NEXT, 63, 1⟩

/-- `GLB_TIME_STAT` (15_host_ethernet_time GLB_TIME_STAT, offset 0x0000_9010). -/
def rGLB_TIME_STAT : Nat := 0x9010

/-- `GLB_TIME_STAT.LOCKED`, RO, 1 bit. -/
def fGLB_TIME_STAT_LOCKED : Field := ⟨rGLB_TIME_STAT, 0, 1⟩

/-- `GLB_TIME_STAT.SERVING`, RO, 1 bit. -/
def fGLB_TIME_STAT_SERVING : Field := ⟨rGLB_TIME_STAT, 1, 1⟩

/-- `GLB_TIME_STAT.SYNC_LOST`, W1C, 1 bit. -/
def fGLB_TIME_STAT_SYNC_LOST : Field := ⟨rGLB_TIME_STAT, 2, 1⟩

/-- `GLB_TIME_STAT.REF_LOST`, W1C, 1 bit. -/
def fGLB_TIME_STAT_REF_LOST : Field := ⟨rGLB_TIME_STAT, 3, 1⟩

/-- `GLB_TIME_STAT.MISSED`, RO, 16 bits. -/
def fGLB_TIME_STAT_MISSED : Field := ⟨rGLB_TIME_STAT, 16, 16⟩

/-- `GLB_TIME_STAT.ERR_NS`, RO, 32 bits. -/
def fGLB_TIME_STAT_ERR_NS : Field := ⟨rGLB_TIME_STAT, 32, 32⟩

/-- `GLB_FAULT_STAT` (18_faults_dump GLB_FAULT_STAT, offset 0x0000_A000). -/
def rGLB_FAULT_STAT : Nat := 0xA000

/-- `GLB_FAULT_STAT.PHASE`, RO, 3 bits. -/
def fGLB_FAULT_STAT_PHASE : Field := ⟨rGLB_FAULT_STAT, 0, 3⟩

/-- `GLB_FAULT_STAT.OWN`, RO, 2 bits. -/
def fGLB_FAULT_STAT_OWN : Field := ⟨rGLB_FAULT_STAT, 3, 2⟩

/-- `GLB_FAULT_STAT.SUSPECT`, W1C, 1 bit. -/
def fGLB_FAULT_STAT_SUSPECT : Field := ⟨rGLB_FAULT_STAT, 5, 1⟩

/-- `GLB_FAULT_STAT.FAULT_N`, RO, 1 bit. -/
def fGLB_FAULT_STAT_FAULT_N : Field := ⟨rGLB_FAULT_STAT, 6, 1⟩

/-- `GLB_FAULT_STAT.ORIGIN`, RO, 16 bits. -/
def fGLB_FAULT_STAT_ORIGIN : Field := ⟨rGLB_FAULT_STAT, 16, 16⟩

/-- `GLB_FAULT_STAT.EPISODE`, RO, 32 bits. -/
def fGLB_FAULT_STAT_EPISODE : Field := ⟨rGLB_FAULT_STAT, 32, 32⟩

/-- `GLB_FAULT_CAUSE` (18_faults_dump GLB_FAULT_CAUSE, offset 0x0000_A008). -/
def rGLB_FAULT_CAUSE : Nat := 0xA008

/-- `GLB_FAULT_CAUSE.CAUSE`, RO, 16 bits. -/
def fGLB_FAULT_CAUSE_CAUSE : Field := ⟨rGLB_FAULT_CAUSE, 0, 16⟩

/-- `GLB_FAULT_CAUSE.CAUSE2`, RO, 16 bits. -/
def fGLB_FAULT_CAUSE_CAUSE2 : Field := ⟨rGLB_FAULT_CAUSE, 16, 16⟩

/-- `GLB_FAULT_CAUSE.DIE`, RO, 5 bits. -/
def fGLB_FAULT_CAUSE_DIE : Field := ⟨rGLB_FAULT_CAUSE, 32, 5⟩

/-- `GLB_FAULT_CAUSE.CLUSTER`, RO, 5 bits. -/
def fGLB_FAULT_CAUSE_CLUSTER : Field := ⟨rGLB_FAULT_CAUSE, 37, 5⟩

/-- `GLB_FAULT_CAUSE.CORE`, RO, 8 bits. -/
def fGLB_FAULT_CAUSE_CORE : Field := ⟨rGLB_FAULT_CAUSE, 42, 8⟩

/-- `GLB_FAULT_CAUSE.STRAND`, RO, 2 bits. -/
def fGLB_FAULT_CAUSE_STRAND : Field := ⟨rGLB_FAULT_CAUSE, 50, 2⟩

/-- `GLB_FAULT_TIME` (18_faults_dump GLB_FAULT_TIME, offset 0x0000_A010). -/
def rGLB_FAULT_TIME : Nat := 0xA010

/-- `GLB_FAULT_TIME.TIME`, RO, 64 bits. -/
def fGLB_FAULT_TIME_TIME : Field := ⟨rGLB_FAULT_TIME, 0, 64⟩

/-- `GLB_DUMP_STAT` (18_faults_dump GLB_DUMP0_STAT, GLB_DUMP1_STAT, offsets 0x0000_A020, 0x0000_A028). -/
def rGLB_DUMP_STAT (n : Nat) : Nat := 0xA020 + 0x8 * n

/-- `GLB_DUMP_STAT.STATE`, RO, 3 bits. -/
def fGLB_DUMP_STAT_STATE (n : Nat) : Field := ⟨rGLB_DUMP_STAT n, 0, 3⟩

/-- `GLB_DUMP_STAT.TRUNC`, RO, 1 bit. -/
def fGLB_DUMP_STAT_TRUNC (n : Nat) : Field := ⟨rGLB_DUMP_STAT n, 3, 1⟩

/-- `GLB_DUMP_STAT.CAUSE`, RO, 16 bits. -/
def fGLB_DUMP_STAT_CAUSE (n : Nat) : Field := ⟨rGLB_DUMP_STAT n, 16, 16⟩

/-- `GLB_DUMP_STAT.EPISODE`, RO, 32 bits. -/
def fGLB_DUMP_STAT_EPISODE (n : Nat) : Field := ⟨rGLB_DUMP_STAT n, 32, 32⟩

/-- `GLB_DUMP_CTL` (18_faults_dump GLB_DUMP_CTL, offset 0x0000_A030). -/
def rGLB_DUMP_CTL : Nat := 0xA030

/-- `GLB_DUMP_CTL.RELEASE0`, WO, 1 bit. -/
def fGLB_DUMP_CTL_RELEASE0 : Field := ⟨rGLB_DUMP_CTL, 0, 1⟩

/-- `GLB_DUMP_CTL.RELEASE1`, WO, 1 bit. -/
def fGLB_DUMP_CTL_RELEASE1 : Field := ⟨rGLB_DUMP_CTL, 1, 1⟩

/-- `GLB_DUMP_CTL.KEEP0`, RW, 1 bit. -/
def fGLB_DUMP_CTL_KEEP0 : Field := ⟨rGLB_DUMP_CTL, 2, 1⟩

/-- `GLB_DUMP_CTL.KEEP1`, RW, 1 bit. -/
def fGLB_DUMP_CTL_KEEP1 : Field := ⟨rGLB_DUMP_CTL, 3, 1⟩

/-- `GLB_SCRUB` (18_faults_dump GLB_SCRUB, offset 0x0000_A038). -/
def rGLB_SCRUB : Nat := 0xA038

/-- `GLB_SCRUB.PASSES`, RO, 32 bits. -/
def fGLB_SCRUB_PASSES : Field := ⟨rGLB_SCRUB, 0, 32⟩

/-- `GLB_SCRUB.PROGRESS`, RO, 10 bits. -/
def fGLB_SCRUB_PROGRESS : Field := ⟨rGLB_SCRUB, 32, 10⟩

/-- `GLB_RETIRE` (18_faults_dump GLB_RETIRE, offset 0x0000_A040). -/
def rGLB_RETIRE : Nat := 0xA040

/-- `GLB_RETIRE.COUNT`, RO, 13 bits. -/
def fGLB_RETIRE_COUNT : Field := ⟨rGLB_RETIRE, 0, 13⟩

/-- `GLB_RETIRE.FULL`, RO, 1 bit. -/
def fGLB_RETIRE_FULL : Field := ⟨rGLB_RETIRE, 13, 1⟩

/-- `GLB_RETIRE.LAST`, RO, 20 bits. -/
def fGLB_RETIRE_LAST : Field := ⟨rGLB_RETIRE, 14, 20⟩

/-- `GLB_RETIRE.LAST_CARVE`, RO, 1 bit. -/
def fGLB_RETIRE_LAST_CARVE : Field := ⟨rGLB_RETIRE, 34, 1⟩

/-- `CFG_STAT` (16_configuration_startup CFG_STAT, offset 0x0010_0000). -/
def rCFG_STAT : Nat := 0x100000

/-- `CFG_STAT.STAGE`, RO, 4 bits. -/
def fCFG_STAT_STAGE : Field := ⟨rCFG_STAT, 0, 4⟩

/-- `CFG_STAT.SHADOW`, RO, 3 bits. -/
def fCFG_STAT_SHADOW : Field := ⟨rCFG_STAT, 4, 3⟩

/-- `CFG_STAT.STOPPING`, RO, 1 bit. -/
def fCFG_STAT_STOPPING : Field := ⟨rCFG_STAT, 7, 1⟩

/-- `CFG_STAT.LAST_RESET`, RO, 2 bits. -/
def fCFG_STAT_LAST_RESET : Field := ⟨rCFG_STAT, 8, 2⟩

/-- `CFG_STAT.REJECT`, RO, 8 bits. -/
def fCFG_STAT_REJECT : Field := ⟨rCFG_STAT, 16, 8⟩

/-- `CFG_STAT.REJECT_SECTION`, RO, 8 bits. -/
def fCFG_STAT_REJECT_SECTION : Field := ⟨rCFG_STAT, 24, 8⟩

/-- `CFG_STAT.FAIL`, RO, 3 bits. -/
def fCFG_STAT_FAIL : Field := ⟨rCFG_STAT, 32, 3⟩

/-- `CFG_GEN` (16_configuration_startup CFG_GEN, offset 0x0010_0008). -/
def rCFG_GEN : Nat := 0x100008

/-- `CFG_GEN.ACTIVE`, RO, 32 bits. -/
def fCFG_GEN_ACTIVE : Field := ⟨rCFG_GEN, 0, 32⟩

/-- `CFG_GEN.SHADOW`, RO, 32 bits. -/
def fCFG_GEN_SHADOW : Field := ⟨rCFG_GEN, 32, 32⟩

/-- `CFG_LOAD_ADDR` (16_configuration_startup CFG_LOAD_ADDR, offset 0x0010_0010). -/
def rCFG_LOAD_ADDR : Nat := 0x100010

/-- `CFG_LOAD_ADDR.ADDR`, RW, 52 bits. -/
def fCFG_LOAD_ADDR_ADDR : Field := ⟨rCFG_LOAD_ADDR, 12, 52⟩

/-- `CFG_LOAD_LEN` (16_configuration_startup CFG_LOAD_LEN, offset 0x0010_0018). -/
def rCFG_LOAD_LEN : Nat := 0x100018

/-- `CFG_LOAD_LEN.LENGTH`, RW, 32 bits. -/
def fCFG_LOAD_LEN_LENGTH : Field := ⟨rCFG_LOAD_LEN, 0, 32⟩

/-- `CFG_CMD` (16_configuration_startup CFG_CMD, offset 0x0010_0020). -/
def rCFG_CMD : Nat := 0x100020

/-- `CFG_CMD.LOAD`, WO, 1 bit. -/
def fCFG_CMD_LOAD : Field := ⟨rCFG_CMD, 0, 1⟩

/-- `CFG_CMD.COMMIT`, WO, 1 bit. -/
def fCFG_CMD_COMMIT : Field := ⟨rCFG_CMD, 1, 1⟩

/-- `CFG_CMD.DISCARD`, WO, 1 bit. -/
def fCFG_CMD_DISCARD : Field := ⟨rCFG_CMD, 2, 1⟩

/-- `CFG_CMD.STOP`, WO, 1 bit. -/
def fCFG_CMD_STOP : Field := ⟨rCFG_CMD, 3, 1⟩

/-- `CFG_RESET` (16_configuration_startup CFG_RESET, offset 0x0010_0028). -/
def rCFG_RESET : Nat := 0x100028

/-- `CFG_RESET.WARM`, WO, 1 bit. -/
def fCFG_RESET_WARM : Field := ⟨rCFG_RESET, 0, 1⟩

/-- `CFG_RESET.COLD`, WO, 1 bit. -/
def fCFG_RESET_COLD : Field := ⟨rCFG_RESET, 1, 1⟩

/-- `CFG_RESET.KEY`, WO, 16 bits. -/
def fCFG_RESET_KEY : Field := ⟨rCFG_RESET, 16, 16⟩

/-- `CFG_ERR` (16_configuration_startup CFG_ERR, offset 0x0010_0030). -/
def rCFG_ERR : Nat := 0x100030

/-- `CFG_ERR.REJECTED`, W1C, 1 bit. -/
def fCFG_ERR_REJECTED : Field := ⟨rCFG_ERR, 0, 1⟩

/-- `CFG_ERR.CMD_DISCARDED`, W1C, 1 bit. -/
def fCFG_ERR_CMD_DISCARDED : Field := ⟨rCFG_ERR, 1, 1⟩

/-- `CFG_ERR.WITHDRAWN`, W1C, 1 bit. -/
def fCFG_ERR_WITHDRAWN : Field := ⟨rCFG_ERR, 2, 1⟩

/-- `PDL_ID` (19_padlock PDL_ID, offset 0x0020_0000). -/
def rPDL_ID : Nat := 0x200000

/-- `PDL_ID.SERIAL`, RO, 64 bits. -/
def fPDL_ID_SERIAL : Field := ⟨rPDL_ID, 0, 64⟩

/-- `PDL_LIFE` (19_padlock PDL_LIFE, offset 0x0020_0008). -/
def rPDL_LIFE : Nat := 0x200008

/-- `PDL_LIFE.LIFE`, RO/T, 16 bits. -/
def fPDL_LIFE_LIFE : Field := ⟨rPDL_LIFE, 0, 16⟩

/-- `PDL_LIFE.COPY`, RO, 1 bit. -/
def fPDL_LIFE_COPY : Field := ⟨rPDL_LIFE, 16, 1⟩

/-- `PDL_LIFE.SVN_FUSED`, RO/T, 7 bits. -/
def fPDL_LIFE_SVN_FUSED : Field := ⟨rPDL_LIFE, 32, 7⟩

/-- `PDL_LIFE.FW_SVN`, RO, 8 bits. -/
def fPDL_LIFE_FW_SVN : Field := ⟨rPDL_LIFE, 48, 8⟩

/-- `PDL_SLOTS` (19_padlock PDL_SLOTS, offset 0x0020_0010). -/
def rPDL_SLOTS : Nat := 0x200010

/-- `PDL_SLOTS.FUSED`, RO/T, 8 bits. -/
def fPDL_SLOTS_FUSED : Field := ⟨rPDL_SLOTS, 0, 8⟩

/-- `PDL_SLOTS.USABLE`, RO, 4 bits. -/
def fPDL_SLOTS_USABLE : Field := ⟨rPDL_SLOTS, 8, 4⟩

/-- `PDL_DBG` (19_padlock PDL_DBG, offset 0x0020_0018). -/
def rPDL_DBG : Nat := 0x200018

/-- `PDL_DBG.DEBUG`, RO/T, 16 bits. -/
def fPDL_DBG_DEBUG : Field := ⟨rPDL_DBG, 0, 16⟩

/-- `PDL_DBG.NONCE_VALID`, RO, 1 bit. -/
def fPDL_DBG_NONCE_VALID : Field := ⟨rPDL_DBG, 16, 1⟩

/-- `PDL_NONCE` (19_padlock PDL_NONCEw, offset 0x0020_0020 + 8 × w, w = 0-3). -/
def rPDL_NONCE (n : Nat) : Nat := 0x200020 + 0x8 * n

/-- `PDL_NONCE.BYTES`, RO, 64 bits. -/
def fPDL_NONCE_BYTES (n : Nat) : Field := ⟨rPDL_NONCE n, 0, 64⟩

/-- `PDL_CMD` (19_padlock PDL_CMD, offset 0x0020_0040). -/
def rPDL_CMD : Nat := 0x200040

/-- `PDL_CMD.OP`, WO, 4 bits. -/
def fPDL_CMD_OP : Field := ⟨rPDL_CMD, 0, 4⟩

/-- `PDL_CMD.SLOT`, WO, 2 bits. -/
def fPDL_CMD_SLOT : Field := ⟨rPDL_CMD, 4, 2⟩

/-- `PDL_CMD.KEY`, WO, 16 bits. -/
def fPDL_CMD_KEY : Field := ⟨rPDL_CMD, 16, 16⟩

/-- `PDL_CMD_ADDR` (19_padlock PDL_CMD_ADDR, offset 0x0020_0048). -/
def rPDL_CMD_ADDR : Nat := 0x200048

/-- `PDL_CMD_ADDR.ADDR`, RW, 61 bits. -/
def fPDL_CMD_ADDR_ADDR : Field := ⟨rPDL_CMD_ADDR, 3, 61⟩

/-- `PDL_STAT` (19_padlock PDL_STAT, offset 0x0020_0050). -/
def rPDL_STAT : Nat := 0x200050

/-- `PDL_STAT.BUSY`, RO, 1 bit. -/
def fPDL_STAT_BUSY : Field := ⟨rPDL_STAT, 0, 1⟩

/-- `PDL_STAT.DONE`, W1C, 1 bit. -/
def fPDL_STAT_DONE : Field := ⟨rPDL_STAT, 1, 1⟩

/-- `PDL_STAT.STATUS`, RO, 4 bits. -/
def fPDL_STAT_STATUS : Field := ⟨rPDL_STAT, 2, 4⟩

/-- `PDL_STAT.TRIPLE_BAD`, W1C, 1 bit. -/
def fPDL_STAT_TRIPLE_BAD : Field := ⟨rPDL_STAT, 6, 1⟩

/-- `PDL_STAT.SLOT_MISMATCH`, W1C, 1 bit. -/
def fPDL_STAT_SLOT_MISMATCH : Field := ⟨rPDL_STAT, 7, 1⟩

/-- `PDL_STAT.DISCARDED`, W1C, 1 bit. -/
def fPDL_STAT_DISCARDED : Field := ⟨rPDL_STAT, 8, 1⟩

/-- `PTC_CFG` (17_power_thermal PTC_CFG, offset 0x0030_0000). -/
def rPTC_CFG : Nat := 0x300000

/-- `PTC_CFG.MODE`, RO, 2 bits. -/
def fPTC_CFG_MODE : Field := ⟨rPTC_CFG, 0, 2⟩

/-- `PTC_CFG.BOOST`, RO, 1 bit. -/
def fPTC_CFG_BOOST : Field := ⟨rPTC_CFG, 2, 1⟩

/-- `PTC_CFG.PRIO`, RO, 8 bits. -/
def fPTC_CFG_PRIO : Field := ⟨rPTC_CFG, 3, 8⟩

/-- `PTC_CFG.WINDOW`, RO, 8 bits. -/
def fPTC_CFG_WINDOW : Field := ⟨rPTC_CFG, 11, 8⟩

/-- `PTC_CFG.DEEP_IDLE`, RO, 16 bits. -/
def fPTC_CFG_DEEP_IDLE : Field := ⟨rPTC_CFG, 19, 16⟩

/-- `PTC_CFG.THROTTLE_T`, RO, 7 bits. -/
def fPTC_CFG_THROTTLE_T : Field := ⟨rPTC_CFG, 35, 7⟩

/-- `PTC_CAP` (17_power_thermal PTC_CAP, offset 0x0030_0008). -/
def rPTC_CAP : Nat := 0x300008

/-- `PTC_CAP.CAP_W`, RW, 16 bits. -/
def fPTC_CAP_CAP_W : Field := ⟨rPTC_CAP, 0, 16⟩

/-- `PTC_STAT` (17_power_thermal PTC_STAT, offset 0x0030_0010). -/
def rPTC_STAT : Nat := 0x300010

/-- `PTC_STAT.FIXED_HELD`, RO, 1 bit. -/
def fPTC_STAT_FIXED_HELD : Field := ⟨rPTC_STAT, 0, 1⟩

/-- `PTC_STAT.CAP_ACTIVE`, RO, 1 bit. -/
def fPTC_STAT_CAP_ACTIVE : Field := ⟨rPTC_STAT, 1, 1⟩

/-- `PTC_STAT.LIMITER`, RO, 2 bits. -/
def fPTC_STAT_LIMITER : Field := ⟨rPTC_STAT, 2, 2⟩

/-- `PTC_STAT.CAP_UNMET`, RO, 1 bit. -/
def fPTC_STAT_CAP_UNMET : Field := ⟨rPTC_STAT, 4, 1⟩

/-- `PTC_STAT.THROTTLE`, RO, 1 bit. -/
def fPTC_STAT_THROTTLE : Field := ⟨rPTC_STAT, 5, 1⟩

/-- `PTC_STAT.OVERTEMP`, RO, 1 bit. -/
def fPTC_STAT_OVERTEMP : Field := ⟨rPTC_STAT, 6, 1⟩

/-- `PTC_STAT.INPUT_OK`, RO, 1 bit. -/
def fPTC_STAT_INPUT_OK : Field := ⟨rPTC_STAT, 7, 1⟩

/-- `PTC_STAT.FAST`, RO, 1 bit. -/
def fPTC_STAT_FAST : Field := ⟨rPTC_STAT, 8, 1⟩

/-- `PTC_STAT.CONV_DOWN`, RO, 5 bits. -/
def fPTC_STAT_CONV_DOWN : Field := ⟨rPTC_STAT, 9, 5⟩

/-- `PTC_LIMITS` (17_power_thermal PTC_LIMITS, offset 0x0030_0018). -/
def rPTC_LIMITS : Nat := 0x300018

/-- `PTC_LIMITS.CROWN_FLIM`, RO, 10 bits. -/
def fPTC_LIMITS_CROWN_FLIM : Field := ⟨rPTC_LIMITS, 0, 10⟩

/-- `PTC_LIMITS.PAV_FLIM`, RO, 10 bits. -/
def fPTC_LIMITS_PAV_FLIM : Field := ⟨rPTC_LIMITS, 10, 10⟩

/-- `PTC_LIMITS.HBM_SHARE`, RO, 5 bits. -/
def fPTC_LIMITS_HBM_SHARE : Field := ⟨rPTC_LIMITS, 20, 5⟩

/-- `PTC_LIMITS.LANES`, RO, 5 bits. -/
def fPTC_LIMITS_LANES : Field := ⟨rPTC_LIMITS, 25, 5⟩

/-- `PTC_INPUT` (17_power_thermal PTC_INPUT, offset 0x0030_0020). -/
def rPTC_INPUT : Nat := 0x300020

/-- `PTC_INPUT.VIN`, RO/M, 16 bits. -/
def fPTC_INPUT_VIN : Field := ⟨rPTC_INPUT, 0, 16⟩

/-- `PTC_INPUT.IIN`, RO/M, 16 bits. -/
def fPTC_INPUT_IIN : Field := ⟨rPTC_INPUT, 16, 16⟩

/-- `PTC_INPUT.POWER`, RO/M, 16 bits. -/
def fPTC_INPUT_POWER : Field := ⟨rPTC_INPUT, 32, 16⟩

/-- `PTC_INPUT.CAP_EFF`, RO/M, 16 bits. -/
def fPTC_INPUT_CAP_EFF : Field := ⟨rPTC_INPUT, 48, 16⟩

/-- `PTC_ENERGY` (17_power_thermal PTC_ENERGY, offset 0x0030_0028). -/
def rPTC_ENERGY : Nat := 0x300028

/-- `PTC_ENERGY.ENERGY`, RO, 64 bits. -/
def fPTC_ENERGY_ENERGY : Field := ⟨rPTC_ENERGY, 0, 64⟩

/-- `PTC_TEMP` (17_power_thermal PTC_TEMP, offset 0x0030_0030). -/
def rPTC_TEMP : Nat := 0x300030

/-- `PTC_TEMP.TJ_MAX`, RO/M, 12 bits. -/
def fPTC_TEMP_TJ_MAX : Field := ⟨rPTC_TEMP, 0, 12⟩

/-- `PTC_TEMP.TJ_DIE`, RO/M, 5 bits. -/
def fPTC_TEMP_TJ_DIE : Field := ⟨rPTC_TEMP, 12, 5⟩

/-- `PTC_TEMP.HBM_MAX`, RO/M, 12 bits. -/
def fPTC_TEMP_HBM_MAX : Field := ⟨rPTC_TEMP, 20, 12⟩

/-- `PTC_TEMP.OPT_MAX`, RO/M, 12 bits. -/
def fPTC_TEMP_OPT_MAX : Field := ⟨rPTC_TEMP, 32, 12⟩

/-- `PTC_TRIP` (17_power_thermal PTC_TRIP, offset 0x0030_0038). -/
def rPTC_TRIP : Nat := 0x300038

/-- `PTC_TRIP.TRIPPED`, W1C, 1 bit. -/
def fPTC_TRIP_TRIPPED : Field := ⟨rPTC_TRIP, 0, 1⟩

/-- `PTC_TRIP.DIE`, RO, 5 bits. -/
def fPTC_TRIP_DIE : Field := ⟨rPTC_TRIP, 1, 5⟩

/-- `PTC_TRIP.SENSOR`, RO, 1 bit. -/
def fPTC_TRIP_SENSOR : Field := ⟨rPTC_TRIP, 6, 1⟩

/-- `PTC_ERR` (17_power_thermal PTC_ERR, offset 0x0030_0040). -/
def rPTC_ERR : Nat := 0x300040

/-- `PTC_ERR.BAD_WRITE`, W1C, 1 bit. -/
def fPTC_ERR_BAD_WRITE : Field := ⟨rPTC_ERR, 0, 1⟩

/-- `PTC_ERR.FIXED_BROKEN`, W1C, 1 bit. -/
def fPTC_ERR_FIXED_BROKEN : Field := ⟨rPTC_ERR, 1, 1⟩

/-- `PTC_ERR.CAP_UNMET`, W1C, 1 bit. -/
def fPTC_ERR_CAP_UNMET : Field := ⟨rPTC_ERR, 2, 1⟩

/-- `PTC_ERR.THROTTLED`, W1C, 1 bit. -/
def fPTC_ERR_THROTTLED : Field := ⟨rPTC_ERR, 3, 1⟩

/-- `PTC_ERR.UNDERVOLT`, W1C, 1 bit. -/
def fPTC_ERR_UNDERVOLT : Field := ⟨rPTC_ERR, 4, 1⟩

/-- `PTC_ERR.FAST_LIMIT`, W1C, 1 bit. -/
def fPTC_ERR_FAST_LIMIT : Field := ⟨rPTC_ERR, 5, 1⟩

/-- `PTC_ERR.CONVERTER`, W1C, 1 bit. -/
def fPTC_ERR_CONVERTER : Field := ⟨rPTC_ERR, 6, 1⟩

/-- `PTC_ERR.SENSOR`, W1C, 1 bit. -/
def fPTC_ERR_SENSOR : Field := ⟨rPTC_ERR, 7, 1⟩

/-- `PTC_CLU_SEL` (17_power_thermal PTC_CLU_SEL, offset 0x0030_0080). -/
def rPTC_CLU_SEL : Nat := 0x300080

/-- `PTC_CLU_SEL.DIE`, RW, 4 bits. -/
def fPTC_CLU_SEL_DIE : Field := ⟨rPTC_CLU_SEL, 0, 4⟩

/-- `PTC_CLU_SEL.CLUSTER`, RW, 5 bits. -/
def fPTC_CLU_SEL_CLUSTER : Field := ⟨rPTC_CLU_SEL, 4, 5⟩

/-- `PTC_CLU_STAT` (17_power_thermal PTC_CLU_STAT, offset 0x0030_0088). -/
def rPTC_CLU_STAT : Nat := 0x300088

/-- `PTC_CLU_STAT.VPRES`, RO, 6 bits. -/
def fPTC_CLU_STAT_VPRES : Field := ⟨rPTC_CLU_STAT, 0, 6⟩

/-- `PTC_CLU_STAT.VTARGET`, RO, 6 bits. -/
def fPTC_CLU_STAT_VTARGET : Field := ⟨rPTC_CLU_STAT, 6, 6⟩

/-- `PTC_CLU_STAT.FLIM`, RO, 10 bits. -/
def fPTC_CLU_STAT_FLIM : Field := ⟨rPTC_CLU_STAT, 12, 10⟩

/-- `PTC_CLU_STAT.TEMP`, RO, 12 bits. -/
def fPTC_CLU_STAT_TEMP : Field := ⟨rPTC_CLU_STAT, 22, 12⟩

/-- `PTC_CLU_STAT.THERMAL`, RO, 1 bit. -/
def fPTC_CLU_STAT_THERMAL : Field := ⟨rPTC_CLU_STAT, 34, 1⟩

/-- `WRD_CFG` (09_ward_keyrings WRD_CFG, offset 0x0040_0000). -/
def rWRD_CFG : Nat := 0x400000

/-- `WRD_CFG.ENTRIES`, RO, 17 bits. -/
def fWRD_CFG_ENTRIES : Field := ⟨rWRD_CFG, 0, 17⟩

/-- `WRD_CFG.RGROUP`, RO, 8 bits. -/
def fWRD_CFG_RGROUP : Field := ⟨rWRD_CFG, 24, 8⟩

/-- `WRD_CFG.ORDER_PKG`, RO, 16 bits. -/
def fWRD_CFG_ORDER_PKG : Field := ⟨rWRD_CFG, 32, 16⟩

/-- `WRD_CFG.ORDERER`, RO, 1 bit. -/
def fWRD_CFG_ORDERER : Field := ⟨rWRD_CFG, 48, 1⟩

/-- `WRD_KR_BASE` (09_ward_keyrings WRD_KR_BASE, offset 0x0040_0008). -/
def rWRD_KR_BASE : Nat := 0x400008

/-- `WRD_KR_BASE.BASE`, RO, 36 bits. -/
def fWRD_KR_BASE_BASE : Field := ⟨rWRD_KR_BASE, 16, 36⟩

/-- `WRD_KR_BASE.PERIOD`, RO, 8 bits. -/
def fWRD_KR_BASE_PERIOD : Field := ⟨rWRD_KR_BASE, 52, 8⟩

/-- `WRD_TS_BASE` (09_ward_keyrings WRD_TS_BASE, offset 0x0040_0010). -/
def rWRD_TS_BASE : Nat := 0x400010

/-- `WRD_TS_BASE.BASE`, RO, 40 bits. -/
def fWRD_TS_BASE_BASE : Field := ⟨rWRD_TS_BASE, 12, 40⟩

/-- `WRD_TS_BASE.DELAY`, RO, 8 bits. -/
def fWRD_TS_BASE_DELAY : Field := ⟨rWRD_TS_BASE, 52, 8⟩

/-- `WRD_TS_STAT` (09_ward_keyrings WRD_TS_STAT, offset 0x0040_0018). -/
def rWRD_TS_STAT : Nat := 0x400018

/-- `WRD_TS_STAT.SIZE`, RO, 32 bits. -/
def fWRD_TS_STAT_SIZE : Field := ⟨rWRD_TS_STAT, 0, 32⟩

/-- `WRD_TS_STAT.FREE`, RO, 32 bits. -/
def fWRD_TS_STAT_FREE : Field := ⟨rWRD_TS_STAT, 32, 32⟩

/-- `WRD_ORDER_STAT` (09_ward_keyrings WRD_ORDER_STAT, offset 0x0040_0020). -/
def rWRD_ORDER_STAT : Nat := 0x400020

/-- `WRD_ORDER_STAT.LAST_ASEQ`, RO, 32 bits. -/
def fWRD_ORDER_STAT_LAST_ASEQ : Field := ⟨rWRD_ORDER_STAT, 0, 32⟩

/-- `WRD_ORDER_STAT.LAST_BATCH`, RO, 32 bits. -/
def fWRD_ORDER_STAT_LAST_BATCH : Field := ⟨rWRD_ORDER_STAT, 32, 32⟩

/-- `WRD_COUNT` (09_ward_keyrings WRD_COUNT, offset 0x0040_0028). -/
def rWRD_COUNT : Nat := 0x400028

/-- `WRD_COUNT.IN_USE`, RO, 17 bits. -/
def fWRD_COUNT_IN_USE : Field := ⟨rWRD_COUNT, 0, 17⟩

/-- `WRD_COUNT.SUSPENDED`, RO, 17 bits. -/
def fWRD_COUNT_SUSPENDED : Field := ⟨rWRD_COUNT, 17, 17⟩

/-- `WRD_COUNT.ENDING`, RO, 17 bits. -/
def fWRD_COUNT_ENDING : Field := ⟨rWRD_COUNT, 34, 17⟩

/-- `WRD_ERR` (09_ward_keyrings WRD_ERR, offset 0x0040_0030). -/
def rWRD_ERR : Nat := 0x400030

/-- `WRD_ERR.ACK_DISCARDED`, W1C, 1 bit. -/
def fWRD_ERR_ACK_DISCARDED : Field := ⟨rWRD_ERR, 0, 1⟩

/-- `WRD_ERR.DELIVERY`, W1C, 1 bit. -/
def fWRD_ERR_DELIVERY : Field := ⟨rWRD_ERR, 1, 1⟩

/-- `WRD_ERR.BATCH_LATE`, W1C, 1 bit. -/
def fWRD_ERR_BATCH_LATE : Field := ⟨rWRD_ERR, 2, 1⟩

/-- `WRD_ERR.TS_FULL`, W1C, 1 bit. -/
def fWRD_ERR_TS_FULL : Field := ⟨rWRD_ERR, 3, 1⟩

/-- `WRD_ERR.LAST_WARD`, RO, 16 bits. -/
def fWRD_ERR_LAST_WARD : Field := ⟨rWRD_ERR, 16, 16⟩

/-- `WRD_ENT_SEL` (09_ward_keyrings WRD_ENT_SEL, offset 0x0040_0040). -/
def rWRD_ENT_SEL : Nat := 0x400040

/-- `WRD_ENT_SEL.WARD`, RW, 16 bits. -/
def fWRD_ENT_SEL_WARD : Field := ⟨rWRD_ENT_SEL, 0, 16⟩

/-- `WRD_ENT_SEL.VALID`, RO, 1 bit. -/
def fWRD_ENT_SEL_VALID : Field := ⟨rWRD_ENT_SEL, 16, 1⟩

/-- `WRD_ENT` (09_ward_keyrings WRD_ENTw, offset 0x0040_0080 + 8 × w, w = 0-7). -/
def rWRD_ENT (n : Nat) : Nat := 0x400080 + 0x8 * n

/-- `WRD_ENT.WORD`, RO, 64 bits. -/
def fWRD_ENT_WORD (n : Nat) : Field := ⟨rWRD_ENT n, 0, 64⟩

/-- `WDN_CFG` (10_warden WDN_CFG, offset 0x0050_0000). -/
def rWDN_CFG : Nat := 0x500000

/-- `WDN_CFG.MARGIN`, RO, 8 bits. -/
def fWDN_CFG_MARGIN : Field := ⟨rWDN_CFG, 0, 8⟩

/-- `WDN_CFG.LANES`, RO, 3 bits. -/
def fWDN_CFG_LANES : Field := ⟨rWDN_CFG, 8, 3⟩

/-- `WDN_CFG.CL_D`, RO, 10 bits. -/
def fWDN_CFG_CL_D : Field := ⟨rWDN_CFG, 16, 10⟩

/-- `WDN_CFG.CL_P`, RO, 10 bits. -/
def fWDN_CFG_CL_P : Field := ⟨rWDN_CFG, 26, 10⟩

/-- `WDN_CFG.CL_I`, RO, 10 bits. -/
def fWDN_CFG_CL_I : Field := ⟨rWDN_CFG, 36, 10⟩

/-- `WDN_CFG.CL_X`, RO, 10 bits. -/
def fWDN_CFG_CL_X : Field := ⟨rWDN_CFG, 46, 10⟩

/-- `WDN_STEP` (10_warden WDN_STEP, offset 0x0050_0008). -/
def rWDN_STEP : Nat := 0x500008

/-- `WDN_STEP.STEP`, RO, 64 bits. -/
def fWDN_STEP_STEP : Field := ⟨rWDN_STEP, 0, 64⟩

/-- `WDN_DIGEST` (10_warden WDN_DIGEST, offset 0x0050_0010). -/
def rWDN_DIGEST : Nat := 0x500010

/-- `WDN_DIGEST.DIGEST`, RO, 32 bits. -/
def fWDN_DIGEST_DIGEST : Field := ⟨rWDN_DIGEST, 0, 32⟩

/-- `WDN_DIGEST.STEP_LO`, RO, 32 bits. -/
def fWDN_DIGEST_STEP_LO : Field := ⟨rWDN_DIGEST, 32, 32⟩

/-- `WDN_ERR` (10_warden WDN_ERR, offset 0x0050_0018). -/
def rWDN_ERR : Nat := 0x500018

/-- `WDN_ERR.DIGEST_MISMATCH`, W1C, 1 bit. -/
def fWDN_ERR_DIGEST_MISMATCH : Field := ⟨rWDN_ERR, 0, 1⟩

/-- `WDN_ERR.EXCHANGE_LATE`, W1C, 1 bit. -/
def fWDN_ERR_EXCHANGE_LATE : Field := ⟨rWDN_ERR, 1, 1⟩

/-- `WDN_ERR.LAUNCH_FAULT`, W1C, 1 bit. -/
def fWDN_ERR_LAUNCH_FAULT : Field := ⟨rWDN_ERR, 2, 1⟩

/-- `WDN_ERR.SPILL`, W1C, 1 bit. -/
def fWDN_ERR_SPILL : Field := ⟨rWDN_ERR, 3, 1⟩

/-- `WDN_ERR.LAST_PKG`, RO, 16 bits. -/
def fWDN_ERR_LAST_PKG : Field := ⟨rWDN_ERR, 16, 16⟩

/-- `WDN_PRESSURE` (10_warden WDN_PRESSURE, offset 0x0050_0020). -/
def rWDN_PRESSURE : Nat := 0x500020

/-- `WDN_PRESSURE.PAGE_WAIT`, RO, 17 bits. -/
def fWDN_PRESSURE_PAGE_WAIT : Field := ⟨rWDN_PRESSURE, 0, 17⟩

/-- `WDN_PRESSURE.DOOMED`, RO, 17 bits. -/
def fWDN_PRESSURE_DOOMED : Field := ⟨rWDN_PRESSURE, 17, 17⟩

/-- `WDN_PRESSURE.ADAPTER_WAIT`, RO, 17 bits. -/
def fWDN_PRESSURE_ADAPTER_WAIT : Field := ⟨rWDN_PRESSURE, 34, 17⟩

/-- `WDN_LANE_BND` (10_warden WDN_LANEn_BND, offset 0x0050_0040 + 0x10 × n). -/
def rWDN_LANE_BND (n : Nat) : Nat := 0x500040 + 0x10 * n

/-- `WDN_LANE_BND.BOUNDARY`, RO, 64 bits. -/
def fWDN_LANE_BND_BOUNDARY (n : Nat) : Field := ⟨rWDN_LANE_BND n, 0, 64⟩

/-- `WDN_LANE_STAT` (10_warden WDN_LANEn_STAT, offset 0x0050_0048 + 0x10 × n). -/
def rWDN_LANE_STAT (n : Nat) : Nat := 0x500048 + 0x10 * n

/-- `WDN_LANE_STAT.ROWS`, RO, 16 bits. -/
def fWDN_LANE_STAT_ROWS (n : Nat) : Field := ⟨rWDN_LANE_STAT n, 0, 16⟩

/-- `WDN_LANE_STAT.TOKENS`, RO, 16 bits. -/
def fWDN_LANE_STAT_TOKENS (n : Nat) : Field := ⟨rWDN_LANE_STAT n, 16, 16⟩

/-- `WDN_LANE_STAT.EST`, RO, 20 bits. -/
def fWDN_LANE_STAT_EST (n : Nat) : Field := ⟨rWDN_LANE_STAT n, 32, 20⟩

/-- `WDN_BWC` (10_warden WDN_BWCn, offset 0x0050_0100 + 8 × n). -/
def rWDN_BWC (n : Nat) : Nat := 0x500100 + 0x8 * n

/-- `WDN_BWC.HBM_RATE`, RO, 16 bits. -/
def fWDN_BWC_HBM_RATE (n : Nat) : Field := ⟨rWDN_BWC n, 0, 16⟩

/-- `WDN_BWC.HBM_DEPTH`, RO, 16 bits. -/
def fWDN_BWC_HBM_DEPTH (n : Nat) : Field := ⟨rWDN_BWC n, 16, 16⟩

/-- `WDN_BWC.FAB_RATE`, RO, 16 bits. -/
def fWDN_BWC_FAB_RATE (n : Nat) : Field := ⟨rWDN_BWC n, 32, 16⟩

/-- `WDN_BWC.FAB_DEPTH`, RO, 16 bits. -/
def fWDN_BWC_FAB_DEPTH (n : Nat) : Field := ⟨rWDN_BWC n, 48, 16⟩

/-- `BZL_LAYOUT` (07_bezel_kv BZL_LAYOUT, offset 0x0060_0000). -/
def rBZL_LAYOUT : Nat := 0x600000

/-- `BZL_LAYOUT.LDIM`, RO, 12 bits. -/
def fBZL_LAYOUT_LDIM : Field := ⟨rBZL_LAYOUT, 0, 12⟩

/-- `BZL_LAYOUT.LFMT`, RO, 4 bits. -/
def fBZL_LAYOUT_LFMT : Field := ⟨rBZL_LAYOUT, 12, 4⟩

/-- `BZL_LAYOUT.RDIM`, RO, 9 bits. -/
def fBZL_LAYOUT_RDIM : Field := ⟨rBZL_LAYOUT, 16, 9⟩

/-- `BZL_LAYOUT.EFMT`, RO, 4 bits. -/
def fBZL_LAYOUT_EFMT : Field := ⟨rBZL_LAYOUT, 25, 4⟩

/-- `BZL_LAYOUT.LPG`, RO, 5 bits. -/
def fBZL_LAYOUT_LPG : Field := ⟨rBZL_LAYOUT, 29, 5⟩

/-- `BZL_LAYOUT.FPP`, RO, 4 bits. -/
def fBZL_LAYOUT_FPP : Field := ⟨rBZL_LAYOUT, 34, 4⟩

/-- `BZL_LAYOUT.G`, RO, 9 bits. -/
def fBZL_LAYOUT_G : Field := ⟨rBZL_LAYOUT, 38, 9⟩

/-- `BZL_LAYOUT.HEADROOM`, RO, 2 bits. -/
def fBZL_LAYOUT_HEADROOM : Field := ⟨rBZL_LAYOUT, 47, 2⟩

/-- `BZL_LAYOUT.RS`, RO, 6 bits. -/
def fBZL_LAYOUT_RS : Field := ⟨rBZL_LAYOUT, 49, 6⟩

/-- `BZL_POOL_BASE` (07_bezel_kv BZL_POOL_BASE, offset 0x0060_0008). -/
def rBZL_POOL_BASE : Nat := 0x600008

/-- `BZL_POOL_BASE.BASE`, RO, 37 bits. -/
def fBZL_POOL_BASE_BASE : Field := ⟨rBZL_POOL_BASE, 15, 37⟩

/-- `BZL_POOL_SIZE` (07_bezel_kv BZL_POOL_SIZE, offset 0x0060_0010). -/
def rBZL_POOL_SIZE : Nat := 0x600010

/-- `BZL_POOL_SIZE.PAGES`, RO, 32 bits. -/
def fBZL_POOL_SIZE_PAGES : Field := ⟨rBZL_POOL_SIZE, 0, 32⟩

/-- `BZL_POOL_SIZE.LEAVES`, RO, 32 bits. -/
def fBZL_POOL_SIZE_LEAVES : Field := ⟨rBZL_POOL_SIZE, 32, 32⟩

/-- `BZL_PL_BASE` (07_bezel_kv BZL_PL_BASE, offset 0x0060_0018). -/
def rBZL_PL_BASE : Nat := 0x600018

/-- `BZL_PL_BASE.BASE`, RO, 40 bits. -/
def fBZL_PL_BASE_BASE : Field := ⟨rBZL_PL_BASE, 12, 40⟩

/-- `BZL_POOL_STAT` (07_bezel_kv BZL_POOL_STAT, offset 0x0060_0020). -/
def rBZL_POOL_STAT : Nat := 0x600020

/-- `BZL_POOL_STAT.FREE_POOL`, RO, 32 bits. -/
def fBZL_POOL_STAT_FREE_POOL : Field := ⟨rBZL_POOL_STAT, 0, 32⟩

/-- `BZL_POOL_STAT.QUARANTINE`, RO, 16 bits. -/
def fBZL_POOL_STAT_QUARANTINE : Field := ⟨rBZL_POOL_STAT, 32, 16⟩

/-- `BZL_POOL_STAT.ZERO_BACKLOG`, RO, 16 bits. -/
def fBZL_POOL_STAT_ZERO_BACKLOG : Field := ⟨rBZL_POOL_STAT, 48, 16⟩

/-- `BZL_BIT_STAT` (07_bezel_kv BZL_BIT_STAT, offset 0x0060_0028). -/
def rBZL_BIT_STAT : Nat := 0x600028

/-- `BZL_BIT_STAT.VALID`, RO, 23 bits. -/
def fBZL_BIT_STAT_VALID : Field := ⟨rBZL_BIT_STAT, 0, 23⟩

/-- `BZL_BIT_STAT.PREFIX_PAGES`, RO, 32 bits. -/
def fBZL_BIT_STAT_PREFIX_PAGES : Field := ⟨rBZL_BIT_STAT, 32, 32⟩

/-- `BZL_BIT_REC_BASE` (07_bezel_kv BZL_BIT_REC_BASE, offset 0x0060_0030). -/
def rBZL_BIT_REC_BASE : Nat := 0x600030

/-- `BZL_BIT_REC_BASE.BASE`, RO, 43 bits. -/
def fBZL_BIT_REC_BASE_BASE : Field := ⟨rBZL_BIT_REC_BASE, 9, 43⟩

/-- `BZL_SWEEP` (07_bezel_kv BZL_SWEEP, offset 0x0060_0038). -/
def rBZL_SWEEP : Nat := 0x600038

/-- `BZL_SWEEP.COUNT`, RO, 32 bits. -/
def fBZL_SWEEP_COUNT : Field := ⟨rBZL_SWEEP, 0, 32⟩

/-- `BZL_SWEEP.ORPHANS`, RO, 16 bits. -/
def fBZL_SWEEP_ORPHANS : Field := ⟨rBZL_SWEEP, 32, 16⟩

/-- `BZL_SWEEP.EXPIRED`, RO, 16 bits. -/
def fBZL_SWEEP_EXPIRED : Field := ⟨rBZL_SWEEP, 48, 16⟩

/-- `BZL_ERR` (07_bezel_kv BZL_ERR, offset 0x0060_0040). -/
def rBZL_ERR : Nat := 0x600040

/-- `BZL_ERR.GEN_MISMATCH`, W1C, 1 bit. -/
def fBZL_ERR_GEN_MISMATCH : Field := ⟨rBZL_ERR, 0, 1⟩

/-- `BZL_ERR.SPEC_STALE`, W1C, 1 bit. -/
def fBZL_ERR_SPEC_STALE : Field := ⟨rBZL_ERR, 1, 1⟩

/-- `BZL_ERR.COMMITTED_WRITE`, W1C, 1 bit. -/
def fBZL_ERR_COMMITTED_WRITE : Field := ⟨rBZL_ERR, 2, 1⟩

/-- `BZL_ERR.RECORD_SHORT`, W1C, 1 bit. -/
def fBZL_ERR_RECORD_SHORT : Field := ⟨rBZL_ERR, 3, 1⟩

/-- `BZL_ERR.PARK_CHECK`, W1C, 1 bit. -/
def fBZL_ERR_PARK_CHECK : Field := ⟨rBZL_ERR, 4, 1⟩

/-- `BZL_ERR.LAST_WARD`, RO, 16 bits. -/
def fBZL_ERR_LAST_WARD : Field := ⟨rBZL_ERR, 16, 16⟩

/-- `BZL_BIT_BUDGET` (07_bezel_kv BZL_BIT_BUDGET, offset 0x0060_0048). -/
def rBZL_BIT_BUDGET : Nat := 0x600048

/-- `BZL_BIT_BUDGET.PAGES`, RO, 32 bits. -/
def fBZL_BIT_BUDGET_PAGES : Field := ⟨rBZL_BIT_BUDGET, 0, 32⟩

/-- `XRT_CFG` (08_expert_router XRT_CFG, offset 0x0070_0000). -/
def rXRT_CFG : Nat := 0x700000

/-- `XRT_CFG.LAYER_BASE`, RO, 48 bits. -/
def fXRT_CFG_LAYER_BASE : Field := ⟨rXRT_CFG, 4, 48⟩

/-- `XRT_CFG.ENGINES`, RO, 8 bits. -/
def fXRT_CFG_ENGINES : Field := ⟨rXRT_CFG, 52, 8⟩

/-- `XRT_ENG_STAT` (08_expert_router XRT_ENGn_STAT, offset 0x0070_0100 + 0x40 × n, n = 0-3). -/
def rXRT_ENG_STAT (n : Nat) : Nat := 0x700100 + 0x40 * n

/-- `XRT_ENG_STAT.OPEN`, RO, 4 bits. -/
def fXRT_ENG_STAT_OPEN (n : Nat) : Field := ⟨rXRT_ENG_STAT n, 0, 4⟩

/-- `XRT_ENG_STAT.LAST_LAYER`, RO, 8 bits. -/
def fXRT_ENG_STAT_LAST_LAYER (n : Nat) : Field := ⟨rXRT_ENG_STAT n, 4, 8⟩

/-- `XRT_ENG_STAT.LAST_STEP`, RO, 32 bits. -/
def fXRT_ENG_STAT_LAST_STEP (n : Nat) : Field := ⟨rXRT_ENG_STAT n, 32, 32⟩

/-- `XRT_ENG_FLAGS` (08_expert_router XRT_ENGn_FLAGS, offset 0x0070_0108 + 0x40 × n). -/
def rXRT_ENG_FLAGS (n : Nat) : Nat := 0x700108 + 0x40 * n

/-- `XRT_ENG_FLAGS.INVALID`, W1C, 1 bit. -/
def fXRT_ENG_FLAGS_INVALID (n : Nat) : Field := ⟨rXRT_ENG_FLAGS n, 0, 1⟩

/-- `XRT_ENG_FLAGS.OVERFLOW`, W1C, 1 bit. -/
def fXRT_ENG_FLAGS_OVERFLOW (n : Nat) : Field := ⟨rXRT_ENG_FLAGS n, 1, 1⟩

/-- `XRT_ENG_FLAGS.OVF_SAT`, W1C, 1 bit. -/
def fXRT_ENG_FLAGS_OVF_SAT (n : Nat) : Field := ⟨rXRT_ENG_FLAGS n, 2, 1⟩

/-- `XRT_ENG_FLAGS.UNDERFLOW`, W1C, 1 bit. -/
def fXRT_ENG_FLAGS_UNDERFLOW (n : Nat) : Field := ⟨rXRT_ENG_FLAGS n, 3, 1⟩

/-- `XRT_ENG_FLAGS.INEXACT`, W1C, 1 bit. -/
def fXRT_ENG_FLAGS_INEXACT (n : Nat) : Field := ⟨rXRT_ENG_FLAGS n, 4, 1⟩

/-- `XRT_ENG_ERR` (08_expert_router XRT_ENGn_ERR, offset 0x0070_0110 + 0x40 × n). -/
def rXRT_ENG_ERR (n : Nat) : Nat := 0x700110 + 0x40 * n

/-- `XRT_ENG_ERR.PROTO`, W1C, 1 bit. -/
def fXRT_ENG_ERR_PROTO (n : Nat) : Field := ⟨rXRT_ENG_ERR n, 0, 1⟩

/-- `XRT_ENG_ERR.RETURN_RANGE`, W1C, 1 bit. -/
def fXRT_ENG_ERR_RETURN_RANGE (n : Nat) : Field := ⟨rXRT_ENG_ERR n, 1, 1⟩

/-- `XRT_ENG_ERR.LAST_PKG`, RO, 16 bits. -/
def fXRT_ENG_ERR_LAST_PKG (n : Nat) : Field := ⟨rXRT_ENG_ERR n, 16, 16⟩

/-- `MEM_CFG` (11_memory_tiers MEM_CFG, offset 0x0080_0000). -/
def rMEM_CFG : Nat := 0x800000

/-- `MEM_CFG.FRAMES`, RO, 20 bits. -/
def fMEM_CFG_FRAMES : Field := ⟨rMEM_CFG, 0, 20⟩

/-- `MEM_CFG.LOW_WM`, RO, 20 bits. -/
def fMEM_CFG_LOW_WM : Field := ⟨rMEM_CFG, 20, 20⟩

/-- `MEM_CFG.HIGH_WM`, RO, 20 bits. -/
def fMEM_CFG_HIGH_WM : Field := ⟨rMEM_CFG, 40, 20⟩

/-- `MEM_FREE` (11_memory_tiers MEM_FREE, offset 0x0080_0008). -/
def rMEM_FREE : Nat := 0x800008

/-- `MEM_FREE.FREE`, RO, 20 bits. -/
def fMEM_FREE_FREE : Field := ⟨rMEM_FREE, 0, 20⟩

/-- `MEM_FREE.ZEROING`, RO, 20 bits. -/
def fMEM_FREE_ZEROING : Field := ⟨rMEM_FREE, 20, 20⟩

/-- `MEM_FREE.MOVING`, RO, 5 bits. -/
def fMEM_FREE_MOVING : Field := ⟨rMEM_FREE, 40, 5⟩

/-- `MEM_MIG` (11_memory_tiers MEM_MIG, offset 0x0080_0010). -/
def rMEM_MIG : Nat := 0x800010

/-- `MEM_MIG.MIG_RATE`, RO, 8 bits. -/
def fMEM_MIG_MIG_RATE : Field := ⟨rMEM_MIG, 0, 8⟩

/-- `MEM_MIG.PROMOTE_HEAT`, RO, 8 bits. -/
def fMEM_MIG_PROMOTE_HEAT : Field := ⟨rMEM_MIG, 8, 8⟩

/-- `MEM_MIG.DECAY`, RO, 8 bits. -/
def fMEM_MIG_DECAY : Field := ⟨rMEM_MIG, 16, 8⟩

/-- `MEM_MIG.MIN_RES`, RO, 16 bits. -/
def fMEM_MIG_MIN_RES : Field := ⟨rMEM_MIG, 24, 16⟩

/-- `MEM_LOAN` (11_memory_tiers MEM_LOAN, offset 0x0080_0018). -/
def rMEM_LOAN : Nat := 0x800018

/-- `MEM_LOAN.HELD`, RO, 11 bits. -/
def fMEM_LOAN_HELD : Field := ⟨rMEM_LOAN, 0, 11⟩

/-- `MEM_LOAN.LENT`, RO, 11 bits. -/
def fMEM_LOAN_LENT : Field := ⟨rMEM_LOAN, 11, 11⟩

/-- `MEM_LOAN.LEND_MAX`, RO, 10 bits. -/
def fMEM_LOAN_LEND_MAX : Field := ⟨rMEM_LOAN, 22, 10⟩

/-- `MEM_ERR` (11_memory_tiers MEM_ERR, offset 0x0080_0020). -/
def rMEM_ERR : Nat := 0x800020

/-- `MEM_ERR.LOST`, W1C, 1 bit. -/
def fMEM_ERR_LOST : Field := ⟨rMEM_ERR, 0, 1⟩

/-- `MEM_ERR.LOAN_LOST`, W1C, 1 bit. -/
def fMEM_ERR_LOAN_LOST : Field := ⟨rMEM_ERR, 1, 1⟩

/-- `MEM_ERR.CMD_BUSY`, W1C, 1 bit. -/
def fMEM_ERR_CMD_BUSY : Field := ⟨rMEM_ERR, 2, 1⟩

/-- `MEM_ERR.LAST_TENANT`, RO, 12 bits. -/
def fMEM_ERR_LAST_TENANT : Field := ⟨rMEM_ERR, 16, 12⟩

/-- `MEM_ERR.LAST_SYS`, RO, 1 bit. -/
def fMEM_ERR_LAST_SYS : Field := ⟨rMEM_ERR, 28, 1⟩

/-- `MEM_MAP_CMD0` (11_memory_tiers MEM_MAP_CMD0, offset 0x0080_0040). -/
def rMEM_MAP_CMD0 : Nat := 0x800040

/-- `MEM_MAP_CMD0.VPN`, RW, 36 bits. -/
def fMEM_MAP_CMD0_VPN : Field := ⟨rMEM_MAP_CMD0, 0, 36⟩

/-- `MEM_MAP_CMD1` (11_memory_tiers MEM_MAP_CMD1, offset 0x0080_0048). -/
def rMEM_MAP_CMD1 : Nat := 0x800048

/-- `MEM_MAP_CMD1.PAGES`, RW, 24 bits. -/
def fMEM_MAP_CMD1_PAGES : Field := ⟨rMEM_MAP_CMD1, 0, 24⟩

/-- `MEM_MAP_CMD1.OP`, RW, 4 bits. -/
def fMEM_MAP_CMD1_OP : Field := ⟨rMEM_MAP_CMD1, 24, 4⟩

/-- `MEM_MAP_CMD1.WRITE`, RW, 1 bit. -/
def fMEM_MAP_CMD1_WRITE : Field := ⟨rMEM_MAP_CMD1, 28, 1⟩

/-- `MEM_MAP_CMD1.PCLASS`, RW, 2 bits. -/
def fMEM_MAP_CMD1_PCLASS : Field := ⟨rMEM_MAP_CMD1, 29, 2⟩

/-- `MEM_MAP_CMD1.TENANT`, RW, 12 bits. -/
def fMEM_MAP_CMD1_TENANT : Field := ⟨rMEM_MAP_CMD1, 32, 12⟩

/-- `MEM_MAP_CMD1.SYS`, RW, 1 bit. -/
def fMEM_MAP_CMD1_SYS : Field := ⟨rMEM_MAP_CMD1, 44, 1⟩

/-- `MEM_MAP_CMD2` (11_memory_tiers MEM_MAP_CMD2, offset 0x0080_0050). -/
def rMEM_MAP_CMD2 : Nat := 0x800050

/-- `MEM_MAP_CMD2.STACKS`, RW, 24 bits. -/
def fMEM_MAP_CMD2_STACKS : Field := ⟨rMEM_MAP_CMD2, 0, 24⟩

/-- `MEM_MAP_GO` (11_memory_tiers MEM_MAP_GO, offset 0x0080_0058). -/
def rMEM_MAP_GO : Nat := 0x800058

/-- `MEM_MAP_GO.GO`, WO, 1 bit. -/
def fMEM_MAP_GO_GO : Field := ⟨rMEM_MAP_GO, 0, 1⟩

/-- `MEM_MAP_STAT` (11_memory_tiers MEM_MAP_STAT, offset 0x0080_0060). -/
def rMEM_MAP_STAT : Nat := 0x800060

/-- `MEM_MAP_STAT.BUSY`, RO, 1 bit. -/
def fMEM_MAP_STAT_BUSY : Field := ⟨rMEM_MAP_STAT, 0, 1⟩

/-- `MEM_MAP_STAT.STATUS`, RO, 8 bits. -/
def fMEM_MAP_STAT_STATUS : Field := ⟨rMEM_MAP_STAT, 8, 8⟩

/-- `MEM_MAP_STAT.DONE`, RO, 24 bits. -/
def fMEM_MAP_STAT_DONE : Field := ⟨rMEM_MAP_STAT, 16, 24⟩

/-- `FLS_CFG` (11_memory_tiers FLS_CFG, offset 0x0090_0000). -/
def rFLS_CFG : Nat := 0x900000

/-- `FLS_CFG.CHANNELS`, RO, 6 bits. -/
def fFLS_CFG_CHANNELS : Field := ⟨rFLS_CFG, 0, 6⟩

/-- `FLS_CFG.CE`, RO, 4 bits. -/
def fFLS_CFG_CE : Field := ⟨rFLS_CFG, 6, 4⟩

/-- `FLS_CFG.OP`, RO, 6 bits. -/
def fFLS_CFG_OP : Field := ⟨rFLS_CFG, 10, 6⟩

/-- `FLS_CFG.RD_THRESH`, RO, 10 bits. -/
def fFLS_CFG_RD_THRESH : Field := ⟨rFLS_CFG, 16, 10⟩

/-- `FLS_CFG.SPREAD`, RO, 8 bits. -/
def fFLS_CFG_SPREAD : Field := ⟨rFLS_CFG, 26, 8⟩

/-- `FLS_CAP` (11_memory_tiers FLS_CAP, offset 0x0090_0008). -/
def rFLS_CAP : Nat := 0x900008

/-- `FLS_CAP.LOGICAL`, RO, 32 bits. -/
def fFLS_CAP_LOGICAL : Field := ⟨rFLS_CAP, 0, 32⟩

/-- `FLS_CAP.GOOD_BLOCKS`, RO, 32 bits. -/
def fFLS_CAP_GOOD_BLOCKS : Field := ⟨rFLS_CAP, 32, 32⟩

/-- `FLS_STAT` (11_memory_tiers FLS_STAT, offset 0x0090_0010). -/
def rFLS_STAT : Nat := 0x900010

/-- `FLS_STAT.BACKLOG`, RO, 24 bits. -/
def fFLS_STAT_BACKLOG : Field := ⟨rFLS_STAT, 0, 24⟩

/-- `FLS_STAT.BUF_FILL`, RO, 8 bits. -/
def fFLS_STAT_BUF_FILL : Field := ⟨rFLS_STAT, 24, 8⟩

/-- `FLS_STAT.FREE_BLOCKS`, RO, 32 bits. -/
def fFLS_STAT_FREE_BLOCKS : Field := ⟨rFLS_STAT, 32, 32⟩

/-- `FLS_WEAR` (11_memory_tiers FLS_WEAR, offset 0x0090_0018). -/
def rFLS_WEAR : Nat := 0x900018

/-- `FLS_WEAR.ERASE_MIN`, RO, 32 bits. -/
def fFLS_WEAR_ERASE_MIN : Field := ⟨rFLS_WEAR, 0, 32⟩

/-- `FLS_WEAR.ERASE_MAX`, RO, 32 bits. -/
def fFLS_WEAR_ERASE_MAX : Field := ⟨rFLS_WEAR, 32, 32⟩

/-- `FLS_CH_DOWN` (11_memory_tiers FLS_CH_DOWN, offset 0x0090_0020). -/
def rFLS_CH_DOWN : Nat := 0x900020

/-- `FLS_CH_DOWN.DOWN`, RO, 32 bits. -/
def fFLS_CH_DOWN_DOWN : Field := ⟨rFLS_CH_DOWN, 0, 32⟩

/-- `FLS_ERR` (11_memory_tiers FLS_ERR, offset 0x0090_0028). -/
def rFLS_ERR : Nat := 0x900028

/-- `FLS_ERR.UNCORRECTABLE`, W1C, 1 bit. -/
def fFLS_ERR_UNCORRECTABLE : Field := ⟨rFLS_ERR, 0, 1⟩

/-- `FLS_ERR.GEOMETRY`, W1C, 1 bit. -/
def fFLS_ERR_GEOMETRY : Field := ⟨rFLS_ERR, 1, 1⟩

/-- `FLS_ERR.PROGRAM_FAIL`, W1C, 1 bit. -/
def fFLS_ERR_PROGRAM_FAIL : Field := ⟨rFLS_ERR, 2, 1⟩

/-- `FLS_ERR.ERASE_FAIL`, W1C, 1 bit. -/
def fFLS_ERR_ERASE_FAIL : Field := ⟨rFLS_ERR, 3, 1⟩

/-- `FLS_ERR.MAP_REBUILT`, W1C, 1 bit. -/
def fFLS_ERR_MAP_REBUILT : Field := ⟨rFLS_ERR, 4, 1⟩

/-- `FLS_ERR.LAST_CH`, RO, 5 bits. -/
def fFLS_ERR_LAST_CH : Field := ⟨rFLS_ERR, 16, 5⟩

/-- `HNG_CFG` (12_hinge_weights HNG_CFG, offset 0x00A0_0000). -/
def rHNG_CFG : Nat := 0xA00000

/-- `HNG_CFG.SLOTS`, RO, 14 bits. -/
def fHNG_CFG_SLOTS : Field := ⟨rHNG_CFG, 0, 14⟩

/-- `HNG_CFG.SLOT_BYTES`, RO, 16 bits. -/
def fHNG_CFG_SLOT_BYTES : Field := ⟨rHNG_CFG, 16, 16⟩

/-- `HNG_CFG.STASH`, RO, 1 bit. -/
def fHNG_CFG_STASH : Field := ⟨rHNG_CFG, 32, 1⟩

/-- `HNG_CFG.KEYS`, RO, 3 bits. -/
def fHNG_CFG_KEYS : Field := ⟨rHNG_CFG, 33, 3⟩

/-- `HNG_MODEL` (12_hinge_weights HNG_MODEL, offset 0x00A0_0008). -/
def rHNG_MODEL : Nat := 0xA00008

/-- `HNG_MODEL.ACTIVE`, RO, 16 bits. -/
def fHNG_MODEL_ACTIVE : Field := ⟨rHNG_MODEL, 0, 16⟩

/-- `HNG_MODEL.PENDING`, RO, 16 bits. -/
def fHNG_MODEL_PENDING : Field := ⟨rHNG_MODEL, 16, 16⟩

/-- `HNG_MODEL.SWAP`, RO, 3 bits. -/
def fHNG_MODEL_SWAP : Field := ⟨rHNG_MODEL, 32, 3⟩

/-- `HNG_MODEL.KV_COMPAT`, RO, 1 bit. -/
def fHNG_MODEL_KV_COMPAT : Field := ⟨rHNG_MODEL, 35, 1⟩

/-- `HNG_MODEL.LAST_ABORT`, RO, 4 bits. -/
def fHNG_MODEL_LAST_ABORT : Field := ⟨rHNG_MODEL, 36, 4⟩

/-- `HNG_STAGE` (12_hinge_weights HNG_STAGE, offset 0x00A0_0010). -/
def rHNG_STAGE : Nat := 0xA00010

/-- `HNG_STAGE.SHARDS`, RO, 21 bits. -/
def fHNG_STAGE_SHARDS : Field := ⟨rHNG_STAGE, 0, 21⟩

/-- `HNG_STAGE.VERIFIED`, RO, 21 bits. -/
def fHNG_STAGE_VERIFIED : Field := ⟨rHNG_STAGE, 21, 21⟩

/-- `HNG_STAGE.LAYERS`, RO, 9 bits. -/
def fHNG_STAGE_LAYERS : Field := ⟨rHNG_STAGE, 42, 9⟩

/-- `HNG_WAVE` (12_hinge_weights HNG_WAVE, offset 0x00A0_0018). -/
def rHNG_WAVE : Nat := 0xA00018

/-- `HNG_WAVE.PASSED`, RO, 9 bits. -/
def fHNG_WAVE_PASSED : Field := ⟨rHNG_WAVE, 0, 9⟩

/-- `HNG_WAVE.COMMITTED`, RO, 9 bits. -/
def fHNG_WAVE_COMMITTED : Field := ⟨rHNG_WAVE, 9, 9⟩

/-- `HNG_WAVE.OPEN`, RO, 9 bits. -/
def fHNG_WAVE_OPEN : Field := ⟨rHNG_WAVE, 18, 9⟩

/-- `HNG_WAVE.H_STEP`, RO, 32 bits. -/
def fHNG_WAVE_H_STEP : Field := ⟨rHNG_WAVE, 32, 32⟩

/-- `HNG_ERR` (12_hinge_weights HNG_ERR, offset 0x00A0_0020). -/
def rHNG_ERR : Nat := 0xA00020

/-- `HNG_ERR.REFETCH`, W1C, 1 bit. -/
def fHNG_ERR_REFETCH : Field := ⟨rHNG_ERR, 0, 1⟩

/-- `HNG_ERR.ABORT`, W1C, 1 bit. -/
def fHNG_ERR_ABORT : Field := ⟨rHNG_ERR, 1, 1⟩

/-- `HNG_ERR.LOAD_FAILED`, W1C, 1 bit. -/
def fHNG_ERR_LOAD_FAILED : Field := ⟨rHNG_ERR, 2, 1⟩

/-- `HNG_ERR.HOST_DISCARD`, W1C, 1 bit. -/
def fHNG_ERR_HOST_DISCARD : Field := ⟨rHNG_ERR, 3, 1⟩

/-- `HNG_ERR.ADAPTER_REFUSED`, W1C, 1 bit. -/
def fHNG_ERR_ADAPTER_REFUSED : Field := ⟨rHNG_ERR, 4, 1⟩

/-- `HNG_ERR.LAST_SHARD`, RO, 20 bits. -/
def fHNG_ERR_LAST_SHARD : Field := ⟨rHNG_ERR, 16, 20⟩

/-- `HNG_ERR.LAST_CAUSE`, RO, 3 bits. -/
def fHNG_ERR_LAST_CAUSE : Field := ⟨rHNG_ERR, 36, 3⟩

/-- `HNG_WEIGHT_VA` (12_hinge_weights HNG_WEIGHT_VA, offset 0x00A0_0028). -/
def rHNG_WEIGHT_VA : Nat := 0xA00028

/-- `HNG_WEIGHT_VA.VPN`, RO, 36 bits. -/
def fHNG_WEIGHT_VA_VPN : Field := ⟨rHNG_WEIGHT_VA, 21, 36⟩

/-- `HNG_STASH` (12_hinge_weights HNG_STASH, offset 0x00A0_0030). -/
def rHNG_STASH : Nat := 0xA00030

/-- `HNG_STASH.STASH_ID`, RO, 64 bits. -/
def fHNG_STASH_STASH_ID : Field := ⟨rHNG_STASH, 0, 64⟩

/-- `HNG_ADIR` (12_hinge_weights HNG_ADIR, offset 0x00A0_0038). -/
def rHNG_ADIR : Nat := 0xA00038

/-- `HNG_ADIR.ADDR`, RO, 60 bits. -/
def fHNG_ADIR_ADDR : Field := ⟨rHNG_ADIR, 4, 60⟩

/-- `HNG_SLOT_SEL` (12_hinge_weights HNG_SLOT_SEL, offset 0x00A0_0040). -/
def rHNG_SLOT_SEL : Nat := 0xA00040

/-- `HNG_SLOT_SEL.SLOT`, RW, 13 bits. -/
def fHNG_SLOT_SEL_SLOT : Field := ⟨rHNG_SLOT_SEL, 0, 13⟩

/-- `HNG_SLOT_STAT` (12_hinge_weights HNG_SLOT_STAT, offset 0x00A0_0048). -/
def rHNG_SLOT_STAT : Nat := 0xA00048

/-- `HNG_SLOT_STAT.ADAPTER_ID`, RO, 32 bits. -/
def fHNG_SLOT_STAT_ADAPTER_ID : Field := ⟨rHNG_SLOT_STAT, 0, 32⟩

/-- `HNG_SLOT_STAT.STATE`, RO, 2 bits. -/
def fHNG_SLOT_STAT_STATE : Field := ⟨rHNG_SLOT_STAT, 32, 2⟩

/-- `HNG_SLOT_STAT.PINNED`, RO, 1 bit. -/
def fHNG_SLOT_STAT_PINNED : Field := ⟨rHNG_SLOT_STAT, 34, 1⟩

/-- `HNG_SLOT_STAT.DOMAIN`, RO, 13 bits. -/
def fHNG_SLOT_STAT_DOMAIN : Field := ⟨rHNG_SLOT_STAT, 35, 13⟩

/-- `HNG_SLOT_STAT.PUBLIC`, RO, 1 bit. -/
def fHNG_SLOT_STAT_PUBLIC : Field := ⟨rHNG_SLOT_STAT, 48, 1⟩

/-- `HNG_SLOT_STAT.RANK_M1`, RO, 9 bits. -/
def fHNG_SLOT_STAT_RANK_M1 : Field := ⟨rHNG_SLOT_STAT, 49, 9⟩

/-- `HNG_SRC` (12_hinge_weights HNG_SRC, offset 0x00A0_0050). -/
def rHNG_SRC : Nat := 0xA00050

/-- `HNG_SRC.HOST`, RO, 1 bit. -/
def fHNG_SRC_HOST : Field := ⟨rHNG_SRC, 0, 1⟩

/-- `HNG_SRC.ADIR_ENTRIES`, RO, 24 bits. -/
def fHNG_SRC_ADIR_ENTRIES : Field := ⟨rHNG_SRC, 8, 24⟩

/-- `ASY_CFG` (13_assay ASY_CFG, offset 0x00B0_0000). -/
def rASY_CFG : Nat := 0xB00000

/-- `ASY_CFG.ENGINES`, RO, 6 bits. -/
def fASY_CFG_ENGINES : Field := ⟨rASY_CFG, 0, 6⟩

/-- `ASY_CFG.RATE_MAX`, RO, 8 bits. -/
def fASY_CFG_RATE_MAX : Field := ⟨rASY_CFG, 8, 8⟩

/-- `ASY_CFG.PRESENT`, RO, 32 bits. -/
def fASY_CFG_PRESENT : Field := ⟨rASY_CFG, 32, 32⟩

/-- `ASY_OWN` (13_assay ASY_OWN, offset 0x00B0_0008). -/
def rASY_OWN : Nat := 0xB00008

/-- `ASY_OWN.LOADER`, RO, 32 bits. -/
def fASY_OWN_LOADER : Field := ⟨rASY_OWN, 0, 32⟩

/-- `ASY_ENG_CTL` (13_assay ASY_ENGn_CTL, offset 0x00B0_0100 + 0x40 × n). -/
def rASY_ENG_CTL (n : Nat) : Nat := 0xB00100 + 0x40 * n

/-- `ASY_ENG_CTL.GO`, WO, 1 bit. -/
def fASY_ENG_CTL_GO (n : Nat) : Field := ⟨rASY_ENG_CTL n, 0, 1⟩

/-- `ASY_ENG_CTL.ABORT`, WO, 1 bit. -/
def fASY_ENG_CTL_ABORT (n : Nat) : Field := ⟨rASY_ENG_CTL n, 1, 1⟩

/-- `ASY_ENG_CTL.POLY`, RW, 2 bits. -/
def fASY_ENG_CTL_POLY (n : Nat) : Field := ⟨rASY_ENG_CTL n, 2, 2⟩

/-- `ASY_ENG_CTL.VIRT`, RW, 1 bit. -/
def fASY_ENG_CTL_VIRT (n : Nat) : Field := ⟨rASY_ENG_CTL n, 4, 1⟩

/-- `ASY_ENG_CTL.CONT`, RW, 1 bit. -/
def fASY_ENG_CTL_CONT (n : Nat) : Field := ⟨rASY_ENG_CTL n, 5, 1⟩

/-- `ASY_ENG_CTL.ALIVE_EN`, RW, 1 bit. -/
def fASY_ENG_CTL_ALIVE_EN (n : Nat) : Field := ⟨rASY_ENG_CTL n, 6, 1⟩

/-- `ASY_ENG_CTL.CMP`, RW, 1 bit. -/
def fASY_ENG_CTL_CMP (n : Nat) : Field := ⟨rASY_ENG_CTL n, 7, 1⟩

/-- `ASY_ENG_CTL.TENANT`, RW, 12 bits. -/
def fASY_ENG_CTL_TENANT (n : Nat) : Field := ⟨rASY_ENG_CTL n, 8, 12⟩

/-- `ASY_ENG_CTL.SYS`, RW, 1 bit. -/
def fASY_ENG_CTL_SYS (n : Nat) : Field := ⟨rASY_ENG_CTL n, 20, 1⟩

/-- `ASY_ENG_CTL.RATE`, RW, 7 bits. -/
def fASY_ENG_CTL_RATE (n : Nat) : Field := ⟨rASY_ENG_CTL n, 21, 7⟩

/-- `ASY_ENG_START` (13_assay ASY_ENGn_START, offset + 0x08). -/
def rASY_ENG_START (n : Nat) : Nat := 0xB00108 + 0x40 * n

/-- `ASY_ENG_START.ADDR`, RW, 57 bits. -/
def fASY_ENG_START_ADDR (n : Nat) : Field := ⟨rASY_ENG_START n, 0, 57⟩

/-- `ASY_ENG_LEN` (13_assay ASY_ENGn_LEN, offset + 0x10). -/
def rASY_ENG_LEN (n : Nat) : Nat := 0xB00110 + 0x40 * n

/-- `ASY_ENG_LEN.LENGTH`, RW, 40 bits. -/
def fASY_ENG_LEN_LENGTH (n : Nat) : Field := ⟨rASY_ENG_LEN n, 0, 40⟩

/-- `ASY_ENG_ALIVE` (13_assay ASY_ENGn_ALIVE, offset + 0x18). -/
def rASY_ENG_ALIVE (n : Nat) : Nat := 0xB00118 + 0x40 * n

/-- `ASY_ENG_ALIVE.START_VAL`, RW, 16 bits. -/
def fASY_ENG_ALIVE_START_VAL (n : Nat) : Field := ⟨rASY_ENG_ALIVE n, 0, 16⟩

/-- `ASY_ENG_ALIVE.LEARN`, RW, 1 bit. -/
def fASY_ENG_ALIVE_LEARN (n : Nat) : Field := ⟨rASY_ENG_ALIVE n, 16, 1⟩

/-- `ASY_ENG_ALIVE.RSIZE`, RW, 15 bits. -/
def fASY_ENG_ALIVE_RSIZE (n : Nat) : Field := ⟨rASY_ENG_ALIVE n, 17, 15⟩

/-- `ASY_ENG_ALIVE.OFF`, RW, 16 bits. -/
def fASY_ENG_ALIVE_OFF (n : Nat) : Field := ⟨rASY_ENG_ALIVE n, 32, 16⟩

/-- `ASY_ENG_EXPECT` (13_assay ASY_ENGn_EXPECT, offset + 0x20). -/
def rASY_ENG_EXPECT (n : Nat) : Nat := 0xB00120 + 0x40 * n

/-- `ASY_ENG_EXPECT.VALUE`, RW, 64 bits. -/
def fASY_ENG_EXPECT_VALUE (n : Nat) : Field := ⟨rASY_ENG_EXPECT n, 0, 64⟩

/-- `ASY_ENG_RESULT` (13_assay ASY_ENGn_RESULT, offset + 0x28). -/
def rASY_ENG_RESULT (n : Nat) : Nat := 0xB00128 + 0x40 * n

/-- `ASY_ENG_RESULT.VALUE`, RO, 64 bits. -/
def fASY_ENG_RESULT_VALUE (n : Nat) : Field := ⟨rASY_ENG_RESULT n, 0, 64⟩

/-- `ASY_ENG_STAT` (13_assay ASY_ENGn_STAT, offset + 0x30). -/
def rASY_ENG_STAT (n : Nat) : Nat := 0xB00130 + 0x40 * n

/-- `ASY_ENG_STAT.BUSY`, RO, 1 bit. -/
def fASY_ENG_STAT_BUSY (n : Nat) : Field := ⟨rASY_ENG_STAT n, 0, 1⟩

/-- `ASY_ENG_STAT.DONE`, W1C, 1 bit. -/
def fASY_ENG_STAT_DONE (n : Nat) : Field := ⟨rASY_ENG_STAT n, 1, 1⟩

/-- `ASY_ENG_STAT.MATCH`, RO, 1 bit. -/
def fASY_ENG_STAT_MATCH (n : Nat) : Field := ⟨rASY_ENG_STAT n, 2, 1⟩

/-- `ASY_ENG_STAT.LOADER`, RO, 1 bit. -/
def fASY_ENG_STAT_LOADER (n : Nat) : Field := ⟨rASY_ENG_STAT n, 3, 1⟩

/-- `ASY_ENG_STAT.STATUS`, RO, 4 bits. -/
def fASY_ENG_STAT_STATUS (n : Nat) : Field := ⟨rASY_ENG_STAT n, 4, 4⟩

/-- `ASY_ENG_STAT.DISCARDED`, W1C, 1 bit. -/
def fASY_ENG_STAT_DISCARDED (n : Nat) : Field := ⟨rASY_ENG_STAT n, 8, 1⟩

/-- `ASY_ENG_STAT.ALIVE_BAD`, RO, 1 bit. -/
def fASY_ENG_STAT_ALIVE_BAD (n : Nat) : Field := ⟨rASY_ENG_STAT n, 9, 1⟩

/-- `ASY_ENG_STAT.KIND`, RO, 1 bit. -/
def fASY_ENG_STAT_KIND (n : Nat) : Field := ⟨rASY_ENG_STAT n, 10, 1⟩

/-- `ASY_ENG_STAT.FAILS`, RO, 5 bits. -/
def fASY_ENG_STAT_FAILS (n : Nat) : Field := ⟨rASY_ENG_STAT n, 11, 5⟩

/-- `ASY_ENG_STAT.PROGRESS`, RO, 40 bits. -/
def fASY_ENG_STAT_PROGRESS (n : Nat) : Field := ⟨rASY_ENG_STAT n, 16, 40⟩

/-- `ASY_ENG_AFAIL` (13_assay ASY_ENGn_AFAIL, offset + 0x38). -/
def rASY_ENG_AFAIL (n : Nat) : Nat := 0xB00138 + 0x40 * n

/-- `ASY_ENG_AFAIL.RECORD`, RO, 32 bits. -/
def fASY_ENG_AFAIL_RECORD (n : Nat) : Field := ⟨rASY_ENG_AFAIL n, 0, 32⟩

/-- `ASY_ENG_AFAIL.FOUND`, RO, 16 bits. -/
def fASY_ENG_AFAIL_FOUND (n : Nat) : Field := ⟨rASY_ENG_AFAIL n, 32, 16⟩

/-- `ASY_ENG_AFAIL.EXPECTED`, RO, 16 bits. -/
def fASY_ENG_AFAIL_EXPECTED (n : Nat) : Field := ⟨rASY_ENG_AFAIL n, 48, 16⟩

/-- `ASY_ENG_AFAIL.LINE`, RO, 52 bits. -/
def fASY_ENG_AFAIL_LINE (n : Nat) : Field := ⟨rASY_ENG_AFAIL n, 0, 52⟩

/-- `FAB_CFG` (14_sunded_fabric FAB_CFG, offset 0x00C0_0000). -/
def rFAB_CFG : Nat := 0xC00000

/-- `FAB_CFG.PKG_ID`, RO, 16 bits. -/
def fFAB_CFG_PKG_ID : Field := ⟨rFAB_CFG, 0, 16⟩

/-- `FAB_CFG.PARTITION`, RO, 8 bits. -/
def fFAB_CFG_PARTITION : Field := ⟨rFAB_CFG, 16, 8⟩

/-- `FAB_CFG.RGROUP`, RO, 8 bits. -/
def fFAB_CFG_RGROUP : Field := ⟨rFAB_CFG, 24, 8⟩

/-- `FAB_CFG.ENABLED`, RO, 16 bits. -/
def fFAB_CFG_ENABLED : Field := ⟨rFAB_CFG, 32, 16⟩

/-- `FAB_ERR` (14_sunded_fabric FAB_ERR, offset 0x00C0_0008). -/
def rFAB_ERR : Nat := 0xC00008

/-- `FAB_ERR.BAD_FLIT`, W1C, 1 bit. -/
def fFAB_ERR_BAD_FLIT : Field := ⟨rFAB_ERR, 0, 1⟩

/-- `FAB_ERR.UNREACHABLE`, W1C, 1 bit. -/
def fFAB_ERR_UNREACHABLE : Field := ⟨rFAB_ERR, 1, 1⟩

/-- `FAB_ERR.WINDOW_REFUSED`, W1C, 1 bit. -/
def fFAB_ERR_WINDOW_REFUSED : Field := ⟨rFAB_ERR, 2, 1⟩

/-- `FAB_ERR.REQ_TIMEOUT`, W1C, 1 bit. -/
def fFAB_ERR_REQ_TIMEOUT : Field := ⟨rFAB_ERR, 3, 1⟩

/-- `FAB_ERR.ETH`, W1C, 1 bit. -/
def fFAB_ERR_ETH : Field := ⟨rFAB_ERR, 4, 1⟩

/-- `FAB_ERR.ADDR_ERROR`, W1C, 1 bit. -/
def fFAB_ERR_ADDR_ERROR : Field := ⟨rFAB_ERR, 5, 1⟩

/-- `FAB_ERR.LAST_PKG`, RO, 16 bits. -/
def fFAB_ERR_LAST_PKG : Field := ⟨rFAB_ERR, 16, 16⟩

/-- `FAB_ERR.LAST_PORT`, RO, 4 bits. -/
def fFAB_ERR_LAST_PORT : Field := ⟨rFAB_ERR, 32, 4⟩

/-- `FAB_ROUTE_SEL` (14_sunded_fabric FAB_ROUTE_SEL, offset 0x00C0_0010). -/
def rFAB_ROUTE_SEL : Nat := 0xC00010

/-- `FAB_ROUTE_SEL.DEST`, RW, 12 bits. -/
def fFAB_ROUTE_SEL_DEST : Field := ⟨rFAB_ROUTE_SEL, 0, 12⟩

/-- `FAB_ROUTE` (14_sunded_fabric FAB_ROUTE, offset 0x00C0_0018). -/
def rFAB_ROUTE : Nat := 0xC00018

/-- `FAB_ROUTE.ENTRY`, RO, 64 bits. -/
def fFAB_ROUTE_ENTRY : Field := ⟨rFAB_ROUTE, 0, 64⟩

/-- `FAB_WIN_SEL` (14_sunded_fabric FAB_WIN_SEL, offset 0x00C0_0020; FAB_EWIN_SEL, offset 0x00C0_0048). -/
def rFAB_WIN_SEL : Nat := 0xC00020

/-- `FAB_WIN_SEL.INDEX`, RW, 12 bits. -/
def fFAB_WIN_SEL_INDEX : Field := ⟨rFAB_WIN_SEL, 0, 12⟩

/-- `FAB_WIN` (14 Table 14-16). -/
def rFAB_WIN (n : Nat) : Nat := 0xC00028 + 0x8 * n

/-- `FAB_WIN.WORD`, RO, 64 bits. -/
def fFAB_WIN_WORD (n : Nat) : Field := ⟨rFAB_WIN n, 0, 64⟩

/-- `FAB_EWIN_SEL` (14_sunded_fabric FAB_WIN_SEL, offset 0x00C0_0020; FAB_EWIN_SEL, offset 0x00C0_0048). -/
def rFAB_EWIN_SEL : Nat := 0xC00048

/-- `FAB_EWIN_SEL.INDEX`, RW, 8 bits. -/
def fFAB_EWIN_SEL_INDEX : Field := ⟨rFAB_EWIN_SEL, 0, 8⟩

/-- `FAB_EWIN` (14 Table 14-16). -/
def rFAB_EWIN (n : Nat) : Nat := 0xC00050 + 0x8 * n

/-- `FAB_EWIN.WORD`, RO, 64 bits. -/
def fFAB_EWIN_WORD (n : Nat) : Field := ⟨rFAB_EWIN n, 0, 64⟩

/-- `FAB_PORT_CFG` (14_sunded_fabric FAB_PORTn_CFG, offset 0x00C0_0100 + 0x20 × n). -/
def rFAB_PORT_CFG (n : Nat) : Nat := 0xC00100 + 0x20 * n

/-- `FAB_PORT_CFG.EXP_ID`, RO, 16 bits. -/
def fFAB_PORT_CFG_EXP_ID (n : Nat) : Field := ⟨rFAB_PORT_CFG n, 0, 16⟩

/-- `FAB_PORT_CFG.EXP_PORT`, RO, 4 bits. -/
def fFAB_PORT_CFG_EXP_PORT (n : Nat) : Field := ⟨rFAB_PORT_CFG n, 16, 4⟩

/-- `FAB_PORT_CFG.DIM`, RO, 2 bits. -/
def fFAB_PORT_CFG_DIM (n : Nat) : Field := ⟨rFAB_PORT_CFG n, 20, 2⟩

/-- `FAB_PORT_CFG.DATELINE`, RO, 1 bit. -/
def fFAB_PORT_CFG_DATELINE (n : Nat) : Field := ⟨rFAB_PORT_CFG n, 22, 1⟩

/-- `FAB_PORT_CFG.ENABLED`, RO, 1 bit. -/
def fFAB_PORT_CFG_ENABLED (n : Nat) : Field := ⟨rFAB_PORT_CFG n, 23, 1⟩

/-- `FAB_PORT_STAT` (14_sunded_fabric FAB_PORTn_STAT, offset 0x00C0_0108 + 0x20 × n). -/
def rFAB_PORT_STAT (n : Nat) : Nat := 0xC00108 + 0x20 * n

/-- `FAB_PORT_STAT.STATE`, RO, 4 bits. -/
def fFAB_PORT_STAT_STATE (n : Nat) : Field := ⟨rFAB_PORT_STAT n, 0, 4⟩

/-- `FAB_PORT_STAT.HOLD`, RO, 1 bit. -/
def fFAB_PORT_STAT_HOLD (n : Nat) : Field := ⟨rFAB_PORT_STAT n, 4, 1⟩

/-- `FAB_PORT_STAT.REPLAY`, RO, 13 bits. -/
def fFAB_PORT_STAT_REPLAY (n : Nat) : Field := ⟨rFAB_PORT_STAT n, 5, 13⟩

/-- `FAB_PORT_STAT.OVL`, RO, 1 bit. -/
def fFAB_PORT_STAT_OVL (n : Nat) : Field := ⟨rFAB_PORT_STAT n, 18, 1⟩

/-- `FAB_PORT_STAT.LANES`, RO, 5 bits. -/
def fFAB_PORT_STAT_LANES (n : Nat) : Field := ⟨rFAB_PORT_STAT n, 19, 5⟩

/-- `FAB_PORT_STAT.FAR_ID`, RO, 16 bits. -/
def fFAB_PORT_STAT_FAR_ID (n : Nat) : Field := ⟨rFAB_PORT_STAT n, 24, 16⟩

/-- `FAB_PORT_STAT.FAR_PORT`, RO, 4 bits. -/
def fFAB_PORT_STAT_FAR_PORT (n : Nat) : Field := ⟨rFAB_PORT_STAT n, 40, 4⟩

/-- `FAB_PORT_STAT.FAR_PART`, RO, 8 bits. -/
def fFAB_PORT_STAT_FAR_PART (n : Nat) : Field := ⟨rFAB_PORT_STAT n, 44, 8⟩

/-- `FAB_PORT_CTL` (14_sunded_fabric FAB_PORTn_CTL, offset 0x00C0_0110 + 0x20 × n). -/
def rFAB_PORT_CTL (n : Nat) : Nat := 0xC00110 + 0x20 * n

/-- `FAB_PORT_CTL.RETRAIN`, WO, 1 bit. -/
def fFAB_PORT_CTL_RETRAIN (n : Nat) : Field := ⟨rFAB_PORT_CTL n, 0, 1⟩

/-- `FAB_PORT_CTL.RECAL`, WO, 1 bit. -/
def fFAB_PORT_CTL_RECAL (n : Nat) : Field := ⟨rFAB_PORT_CTL n, 1, 1⟩

/-- `ETH_PORT_CFG` (15_host_ethernet_time ETH_PORTn_CFG, offset 0x00E0_0000 + 0x40 × n). -/
def rETH_PORT_CFG (n : Nat) : Nat := 0xE00000 + 0x40 * n

/-- `ETH_PORT_CFG.ENABLED`, RO, 1 bit. -/
def fETH_PORT_CFG_ENABLED (n : Nat) : Field := ⟨rETH_PORT_CFG n, 0, 1⟩

/-- `ETH_PORT_CFG.BREAKOUT`, RO, 1 bit. -/
def fETH_PORT_CFG_BREAKOUT (n : Nat) : Field := ⟨rETH_PORT_CFG n, 1, 1⟩

/-- `ETH_PORT_CFG.VLAN`, RO, 12 bits. -/
def fETH_PORT_CFG_VLAN (n : Nat) : Field := ⟨rETH_PORT_CFG n, 2, 12⟩

/-- `ETH_PORT_CFG.DSCP`, RO, 6 bits. -/
def fETH_PORT_CFG_DSCP (n : Nat) : Field := ⟨rETH_PORT_CFG n, 14, 6⟩

/-- `ETH_PORT_CFG.TIMEOUT`, RO, 4 bits. -/
def fETH_PORT_CFG_TIMEOUT (n : Nat) : Field := ⟨rETH_PORT_CFG n, 20, 4⟩

/-- `ETH_PORT_STAT` (15_host_ethernet_time ETH_PORTn_STAT, offset + 0x08). -/
def rETH_PORT_STAT (n : Nat) : Nat := 0xE00008 + 0x40 * n

/-- `ETH_PORT_STAT.LINK0`, RO, 1 bit. -/
def fETH_PORT_STAT_LINK0 (n : Nat) : Field := ⟨rETH_PORT_STAT n, 0, 1⟩

/-- `ETH_PORT_STAT.LINK1`, RO, 1 bit. -/
def fETH_PORT_STAT_LINK1 (n : Nat) : Field := ⟨rETH_PORT_STAT n, 1, 1⟩

/-- `ETH_PORT_STAT.QPS`, RO, 15 bits. -/
def fETH_PORT_STAT_QPS (n : Nat) : Field := ⟨rETH_PORT_STAT n, 16, 15⟩

/-- `ETH_PTP_TXCTL` (15_host_ethernet_time ETH_PTPn_TXCTL, offset + 0x10). -/
def rETH_PTP_TXCTL (n : Nat) : Nat := 0xE00010 + 0x40 * n

/-- `ETH_PTP_TXCTL.LEN`, RW, 9 bits. -/
def fETH_PTP_TXCTL_LEN (n : Nat) : Field := ⟨rETH_PTP_TXCTL n, 0, 9⟩

/-- `ETH_PTP_TXCTL.TS`, RW, 1 bit. -/
def fETH_PTP_TXCTL_TS (n : Nat) : Field := ⟨rETH_PTP_TXCTL n, 9, 1⟩

/-- `ETH_PTP_TXCTL.GO`, WO, 1 bit. -/
def fETH_PTP_TXCTL_GO (n : Nat) : Field := ⟨rETH_PTP_TXCTL n, 10, 1⟩

/-- `ETH_PTP_TXCTL.BUSY`, RO, 1 bit. -/
def fETH_PTP_TXCTL_BUSY (n : Nat) : Field := ⟨rETH_PTP_TXCTL n, 11, 1⟩

/-- `ETH_PTP_TXCTL.DONE`, W1C, 1 bit. -/
def fETH_PTP_TXCTL_DONE (n : Nat) : Field := ⟨rETH_PTP_TXCTL n, 12, 1⟩

/-- `ETH_PTP_TXTS` (15_host_ethernet_time ETH_PTPn_TXTS, offset + 0x18; ETH_PTPn_RXTS, offset + 0x28). -/
def rETH_PTP_TXTS (n : Nat) : Nat := 0xE00018 + 0x40 * n

/-- `ETH_PTP_TXTS.TIME`, RO, 64 bits. -/
def fETH_PTP_TXTS_TIME (n : Nat) : Field := ⟨rETH_PTP_TXTS n, 0, 64⟩

/-- `ETH_PTP_RXSTAT` (15_host_ethernet_time ETH_PTPn_RXSTAT, offset + 0x20). -/
def rETH_PTP_RXSTAT (n : Nat) : Nat := 0xE00020 + 0x40 * n

/-- `ETH_PTP_RXSTAT.LEN`, RO, 9 bits. -/
def fETH_PTP_RXSTAT_LEN (n : Nat) : Field := ⟨rETH_PTP_RXSTAT n, 0, 9⟩

/-- `ETH_PTP_RXSTAT.COUNT`, RO, 5 bits. -/
def fETH_PTP_RXSTAT_COUNT (n : Nat) : Field := ⟨rETH_PTP_RXSTAT n, 9, 5⟩

/-- `ETH_PTP_RXSTAT.POP`, WO, 1 bit. -/
def fETH_PTP_RXSTAT_POP (n : Nat) : Field := ⟨rETH_PTP_RXSTAT n, 14, 1⟩

/-- `ETH_PTP_RXSTAT.DROP`, W1C, 1 bit. -/
def fETH_PTP_RXSTAT_DROP (n : Nat) : Field := ⟨rETH_PTP_RXSTAT n, 15, 1⟩

/-- `ETH_PTP_RXSTAT.SUB`, RO, 1 bit. -/
def fETH_PTP_RXSTAT_SUB (n : Nat) : Field := ⟨rETH_PTP_RXSTAT n, 16, 1⟩

/-- `ETH_PTP_RXTS` (15_host_ethernet_time ETH_PTPn_TXTS, offset + 0x18; ETH_PTPn_RXTS, offset + 0x28). -/
def rETH_PTP_RXTS (n : Nat) : Nat := 0xE00028 + 0x40 * n

/-- `ETH_PTP_RXTS.TIME`, RO, 64 bits. -/
def fETH_PTP_RXTS_TIME (n : Nat) : Field := ⟨rETH_PTP_RXTS n, 0, 64⟩

/-- `ETH_ERR` (15_host_ethernet_time ETH_ERR, offset 0x00E0_0100). -/
def rETH_ERR : Nat := 0xE00100

/-- `ETH_ERR.INGRESS_PARTIAL`, W1C, 1 bit. -/
def fETH_ERR_INGRESS_PARTIAL : Field := ⟨rETH_ERR, 0, 1⟩

/-- `ETH_ERR.INGRESS_OVER`, W1C, 1 bit. -/
def fETH_ERR_INGRESS_OVER : Field := ⟨rETH_ERR, 1, 1⟩

/-- `ETH_ERR.QP_ERROR`, W1C, 1 bit. -/
def fETH_ERR_QP_ERROR : Field := ⟨rETH_ERR, 2, 1⟩

/-- `ETH_ERR.LAST_QP`, RO, 14 bits. -/
def fETH_ERR_LAST_QP : Field := ⟨rETH_ERR, 16, 14⟩

/-- `ETH_QP_SEL` (15_host_ethernet_time ETH_QP_SEL, offset 0x00E0_0108). -/
def rETH_QP_SEL : Nat := 0xE00108

/-- `ETH_QP_SEL.INDEX`, RW, 14 bits. -/
def fETH_QP_SEL_INDEX : Field := ⟨rETH_QP_SEL, 0, 14⟩

/-- `ETH_QP_SEL.STATE`, RO, 2 bits. -/
def fETH_QP_SEL_STATE : Field := ⟨rETH_QP_SEL, 16, 2⟩

/-- `ETH_QP_CTL` (15_host_ethernet_time ETH_QP_CTL, offset 0x00E0_0110). -/
def rETH_QP_CTL : Nat := 0xE00110

/-- `ETH_QP_CTL.INDEX`, WO, 14 bits. -/
def fETH_QP_CTL_INDEX : Field := ⟨rETH_QP_CTL, 0, 14⟩

/-- `ETH_QP_CTL.RESET`, WO, 1 bit. -/
def fETH_QP_CTL_RESET : Field := ⟨rETH_QP_CTL, 14, 1⟩

/-- `ETH_QP` (15_host_ethernet_time ETH_QPw, offset 0x00E0_0140 + 8 × w, w = 0-7). -/
def rETH_QP (n : Nat) : Nat := 0xE00140 + 0x8 * n

/-- `ETH_QP.WORD`, RO, 64 bits. -/
def fETH_QP_WORD (n : Nat) : Field := ⟨rETH_QP n, 0, 64⟩

/-- `ETH_PTP_TXBUF` (15 Table 15-8). -/
def rETH_PTP_TXBUF (n : Nat) (w : Nat) : Nat := 0xE01000 + 0x800 * n + 0x8 * w

/-- `ETH_PTP_TXBUF.DATA`, WO, 64 bits. -/
def fETH_PTP_TXBUF_DATA (n : Nat) (w : Nat) : Field := ⟨rETH_PTP_TXBUF n w, 0, 64⟩

/-- `ETH_PTP_RXBUF` (15 Table 15-8). -/
def rETH_PTP_RXBUF (n : Nat) (w : Nat) : Nat := 0xE01400 + 0x800 * n + 0x8 * w

/-- `ETH_PTP_RXBUF.DATA`, RO, 64 bits. -/
def fETH_PTP_RXBUF_DATA (n : Nat) (w : Nat) : Field := ⟨rETH_PTP_RXBUF n w, 0, 64⟩

/-- `TEL_SNAP` (20_management_trace TEL_SNAP, offset 0x00F0_0000). -/
def rTEL_SNAP : Nat := 0xF00000

/-- `TEL_SNAP.GO`, WO, 1 bit. -/
def fTEL_SNAP_GO : Field := ⟨rTEL_SNAP, 0, 1⟩

/-- `TEL_SNAP_STAT` (20_management_trace TEL_SNAP_STAT, offset 0x00F0_0008). -/
def rTEL_SNAP_STAT : Nat := 0xF00008

/-- `TEL_SNAP_STAT.DONE`, W1C, 1 bit. -/
def fTEL_SNAP_STAT_DONE : Field := ⟨rTEL_SNAP_STAT, 0, 1⟩

/-- `TEL_SNAP_STAT.DISCARDED`, W1C, 1 bit. -/
def fTEL_SNAP_STAT_DISCARDED : Field := ⟨rTEL_SNAP_STAT, 1, 1⟩

/-- `TEL_SNAP_STAT.SEQ`, RO, 32 bits. -/
def fTEL_SNAP_STAT_SEQ : Field := ⟨rTEL_SNAP_STAT, 32, 32⟩

/-- `TEL_SRING_BASE` (20_management_trace TEL_SRING_BASE, offset 0x00F0_0010; TEL_TRACE_BASE, offset 0x00F0_0108). -/
def rTEL_SRING_BASE : Nat := 0xF00010

/-- `TEL_SRING_BASE.ADDR`, RW, 52 bits. -/
def fTEL_SRING_BASE_ADDR : Field := ⟨rTEL_SRING_BASE, 12, 52⟩

/-- `TEL_SRING_CFG` (20_management_trace TEL_SRING_CFG, offset 0x00F0_0018). -/
def rTEL_SRING_CFG : Nat := 0xF00018

/-- `TEL_SRING_CFG.LOG`, RW, 4 bits. -/
def fTEL_SRING_CFG_LOG : Field := ⟨rTEL_SRING_CFG, 0, 4⟩

/-- `TEL_SRING_CFG.EN`, RW, 1 bit. -/
def fTEL_SRING_CFG_EN : Field := ⟨rTEL_SRING_CFG, 4, 1⟩

/-- `TEL_SRING_CFG.COUNT`, RW, 6 bits. -/
def fTEL_SRING_CFG_COUNT : Field := ⟨rTEL_SRING_CFG, 5, 6⟩

/-- `TEL_SRING_STAT` (20_management_trace TEL_SRING_STAT, offset 0x00F0_0020). -/
def rTEL_SRING_STAT : Nat := 0xF00020

/-- `TEL_SRING_STAT.FAIL`, W1C, 1 bit. -/
def fTEL_SRING_STAT_FAIL : Field := ⟨rTEL_SRING_STAT, 0, 1⟩

/-- `TEL_SRING_STAT.SEQ`, RO, 32 bits. -/
def fTEL_SRING_STAT_SEQ : Field := ⟨rTEL_SRING_STAT, 32, 32⟩

/-- `TEL_SSEL` (20_management_trace TEL_SSELn, offset 0x00F0_0040 + 8 × n, n = 0-7). -/
def rTEL_SSEL (n : Nat) : Nat := 0xF00040 + 0x8 * n

/-- `TEL_SSEL.ID0`, RW, 16 bits. -/
def fTEL_SSEL_ID0 (n : Nat) : Field := ⟨rTEL_SSEL n, 0, 16⟩

/-- `TEL_SSEL.ID1`, RW, 16 bits. -/
def fTEL_SSEL_ID1 (n : Nat) : Field := ⟨rTEL_SSEL n, 16, 16⟩

/-- `TEL_SSEL.ID2`, RW, 16 bits. -/
def fTEL_SSEL_ID2 (n : Nat) : Field := ⟨rTEL_SSEL n, 32, 16⟩

/-- `TEL_SSEL.ID3`, RW, 16 bits. -/
def fTEL_SSEL_ID3 (n : Nat) : Field := ⟨rTEL_SSEL n, 48, 16⟩

/-- `TEL_TRACE_CTL` (20_management_trace TEL_TRACE_CTL, offset 0x00F0_0100). -/
def rTEL_TRACE_CTL : Nat := 0xF00100

/-- `TEL_TRACE_CTL.EN`, RW, 1 bit. -/
def fTEL_TRACE_CTL_EN : Field := ⟨rTEL_TRACE_CTL, 0, 1⟩

/-- `TEL_TRACE_CTL.MODE`, RW, 2 bits. -/
def fTEL_TRACE_CTL_MODE : Field := ⟨rTEL_TRACE_CTL, 1, 2⟩

/-- `TEL_TRACE_CTL.HLOG`, RW, 4 bits. -/
def fTEL_TRACE_CTL_HLOG : Field := ⟨rTEL_TRACE_CTL, 3, 4⟩

/-- `TEL_TRACE_CTL.GROUPS`, RW, 8 bits. -/
def fTEL_TRACE_CTL_GROUPS : Field := ⟨rTEL_TRACE_CTL, 8, 8⟩

/-- `TEL_TRACE_BASE` (20_management_trace TEL_SRING_BASE, offset 0x00F0_0010; TEL_TRACE_BASE, offset 0x00F0_0108). -/
def rTEL_TRACE_BASE : Nat := 0xF00108

/-- `TEL_TRACE_BASE.ADDR`, RW, 52 bits. -/
def fTEL_TRACE_BASE_ADDR : Field := ⟨rTEL_TRACE_BASE, 12, 52⟩

/-- `TEL_TRACE_STAT` (20_management_trace TEL_TRACE_STAT, offset 0x00F0_0110). -/
def rTEL_TRACE_STAT : Nat := 0xF00110

/-- `TEL_TRACE_STAT.FULL`, W1C, 1 bit. -/
def fTEL_TRACE_STAT_FULL : Field := ⟨rTEL_TRACE_STAT, 0, 1⟩

/-- `TEL_TRACE_STAT.FROZEN`, RO, 1 bit. -/
def fTEL_TRACE_STAT_FROZEN : Field := ⟨rTEL_TRACE_STAT, 1, 1⟩

/-- `TEL_TRACE_STAT.HOST_FAIL`, W1C, 1 bit. -/
def fTEL_TRACE_STAT_HOST_FAIL : Field := ⟨rTEL_TRACE_STAT, 2, 1⟩

/-- `TEL_TRACE_STAT.WPTR`, RO, 32 bits. -/
def fTEL_TRACE_STAT_WPTR : Field := ⟨rTEL_TRACE_STAT, 32, 32⟩

/-- `TEL_TRACE_RPTR` (20_management_trace TEL_TRACE_RPTR, offset 0x00F0_0118). -/
def rTEL_TRACE_RPTR : Nat := 0xF00118

/-- `TEL_TRACE_RPTR.RPTR`, RW, 32 bits. -/
def fTEL_TRACE_RPTR_RPTR : Field := ⟨rTEL_TRACE_RPTR, 0, 32⟩

/-- `TEL_TRACE_MARK` (20_management_trace TEL_TRACE_MARK, offset 0x00F0_0120). -/
def rTEL_TRACE_MARK : Nat := 0xF00120

/-- `TEL_TRACE_MARK.VALUE`, WO, 64 bits. -/
def fTEL_TRACE_MARK_VALUE : Field := ⟨rTEL_TRACE_MARK, 0, 64⟩

/-- `TEL_UART_CFG` (20_management_trace TEL_UART_CFG, offset 0x00F0_0200). -/
def rTEL_UART_CFG : Nat := 0xF00200

/-- `TEL_UART_CFG.DIV`, RW, 7 bits. -/
def fTEL_UART_CFG_DIV : Field := ⟨rTEL_UART_CFG, 0, 7⟩

/-- `TEL_UART_STAT` (20_management_trace TEL_UART_STAT, offset 0x00F0_0208). -/
def rTEL_UART_STAT : Nat := 0xF00208

/-- `TEL_UART_STAT.FRAMING`, W1C, 1 bit. -/
def fTEL_UART_STAT_FRAMING : Field := ⟨rTEL_UART_STAT, 0, 1⟩

/-- `TEL_UART_STAT.OVERRUN`, W1C, 1 bit. -/
def fTEL_UART_STAT_OVERRUN : Field := ⟨rTEL_UART_STAT, 1, 1⟩

/-- `TEL_UART_STAT.TX_DROP`, W1C, 1 bit. -/
def fTEL_UART_STAT_TX_DROP : Field := ⟨rTEL_UART_STAT, 2, 1⟩

/-- `TEL_CAT` (20 Table 20-11). -/
def rTEL_CAT (n : Nat) : Nat := 0xF40000 + 0x8 * n

/-- `TEL_CAT.WORD`, RO, 64 bits. -/
def fTEL_CAT_WORD (n : Nat) : Field := ⟨rTEL_CAT n, 0, 64⟩

/-- `TEL_HOLD` (20 Table 20-11). -/
def rTEL_HOLD (n : Nat) : Nat := 0xFC0000 + 0x8 * n

/-- `TEL_HOLD.WORD`, RO, 64 bits. -/
def fTEL_HOLD_WORD (n : Nat) : Field := ⟨rTEL_HOLD n, 0, 64⟩

/-- `GLB_SQ_BASE` (15 Table 15-9). -/
def rGLB_SQ_BASE (fn : Nat) (n : Nat) : Nat := fn * 0x8000000 + 0x8000 + 0x20 * n

/-- `GLB_SQ_BASE.ADDR`, RW, 52 bits. -/
def fGLB_SQ_BASE_ADDR (fn : Nat) (n : Nat) : Field := ⟨rGLB_SQ_BASE fn n, 12, 52⟩

/-- `GLB_CQ_BASE` (15 Table 15-9). -/
def rGLB_CQ_BASE (fn : Nat) (n : Nat) : Nat := fn * 0x8000000 + 0x8008 + 0x20 * n

/-- `GLB_CQ_BASE.ADDR`, RW, 52 bits. -/
def fGLB_CQ_BASE_ADDR (fn : Nat) (n : Nat) : Field := ⟨rGLB_CQ_BASE fn n, 12, 52⟩

/-- `GLB_Q_CFG` (15_host_ethernet_time GLB_Qq_CFG, offset 0x0000_8010 + 0x20 × q). -/
def rGLB_Q_CFG (fn : Nat) (n : Nat) : Nat := fn * 0x8000000 + 0x8010 + 0x20 * n

/-- `GLB_Q_CFG.SQ_LOG`, RW, 4 bits. -/
def fGLB_Q_CFG_SQ_LOG (fn : Nat) (n : Nat) : Field := ⟨rGLB_Q_CFG fn n, 0, 4⟩

/-- `GLB_Q_CFG.CQ_LOG`, RW, 4 bits. -/
def fGLB_Q_CFG_CQ_LOG (fn : Nat) (n : Nat) : Field := ⟨rGLB_Q_CFG fn n, 4, 4⟩

/-- `GLB_Q_CFG.EN`, RW, 1 bit. -/
def fGLB_Q_CFG_EN (fn : Nat) (n : Nat) : Field := ⟨rGLB_Q_CFG fn n, 8, 1⟩

/-- `GLB_Q_CFG.IEN`, RW, 1 bit. -/
def fGLB_Q_CFG_IEN (fn : Nat) (n : Nat) : Field := ⟨rGLB_Q_CFG fn n, 9, 1⟩

/-- `GLB_Q_STAT` (15_host_ethernet_time GLB_Qq_STAT, offset 0x0000_8018 + 0x20 × q). -/
def rGLB_Q_STAT (fn : Nat) (n : Nat) : Nat := fn * 0x8000000 + 0x8018 + 0x20 * n

/-- `GLB_Q_STAT.SQ_HEAD`, RO, 12 bits. -/
def fGLB_Q_STAT_SQ_HEAD (fn : Nat) (n : Nat) : Field := ⟨rGLB_Q_STAT fn n, 0, 12⟩

/-- `GLB_Q_STAT.CQ_TAIL`, RO, 12 bits. -/
def fGLB_Q_STAT_CQ_TAIL (fn : Nat) (n : Nat) : Field := ⟨rGLB_Q_STAT fn n, 12, 12⟩

/-- `GLB_Q_STAT.ACTIVE`, RO, 1 bit. -/
def fGLB_Q_STAT_ACTIVE (fn : Nat) (n : Nat) : Field := ⟨rGLB_Q_STAT fn n, 24, 1⟩

/-- `GLB_Q_STAT.ERR`, RO, 1 bit. -/
def fGLB_Q_STAT_ERR (fn : Nat) (n : Nat) : Field := ⟨rGLB_Q_STAT fn n, 25, 1⟩

/-- `GLB_Q_STAT.PHASE`, RO, 1 bit. -/
def fGLB_Q_STAT_PHASE (fn : Nat) (n : Nat) : Field := ⟨rGLB_Q_STAT fn n, 26, 1⟩

/-- `GLB_Q_STAT.SUBSEQ`, RO, 32 bits. -/
def fGLB_Q_STAT_SUBSEQ (fn : Nat) (n : Nat) : Field := ⟨rGLB_Q_STAT fn n, 32, 32⟩

/-- `GLB_EQ_BASE` (15 Table 15-9). -/
def rGLB_EQ_BASE (fn : Nat) : Nat := fn * 0x8000000 + 0x8800

/-- `GLB_EQ_BASE.ADDR`, RW, 52 bits. -/
def fGLB_EQ_BASE_ADDR (fn : Nat) : Field := ⟨rGLB_EQ_BASE fn, 12, 52⟩

/-- `GLB_EQ_CFG` (15_host_ethernet_time GLB_EQ_CFG, offset 0x0000_8808; GLB_HREQ_CFG, offset 0x0000_8828). -/
def rGLB_EQ_CFG (fn : Nat) : Nat := fn * 0x8000000 + 0x8808

/-- `GLB_EQ_CFG.LOG`, RW, 4 bits. -/
def fGLB_EQ_CFG_LOG (fn : Nat) : Field := ⟨rGLB_EQ_CFG fn, 0, 4⟩

/-- `GLB_EQ_CFG.EN`, RW, 1 bit. -/
def fGLB_EQ_CFG_EN (fn : Nat) : Field := ⟨rGLB_EQ_CFG fn, 4, 1⟩

/-- `GLB_EQ_CFG.IEN`, RW, 1 bit. -/
def fGLB_EQ_CFG_IEN (fn : Nat) : Field := ⟨rGLB_EQ_CFG fn, 5, 1⟩

/-- `GLB_EQ_STAT` (15_host_ethernet_time GLB_EQ_STAT, offset 0x0000_8810). -/
def rGLB_EQ_STAT (fn : Nat) : Nat := fn * 0x8000000 + 0x8810

/-- `GLB_EQ_STAT.TAIL`, RO, 12 bits. -/
def fGLB_EQ_STAT_TAIL (fn : Nat) : Field := ⟨rGLB_EQ_STAT fn, 0, 12⟩

/-- `GLB_EQ_STAT.OVERFLOW`, W1C, 1 bit. -/
def fGLB_EQ_STAT_OVERFLOW (fn : Nat) : Field := ⟨rGLB_EQ_STAT fn, 12, 1⟩

/-- `GLB_EQ_STAT.PHASE`, RO, 1 bit. -/
def fGLB_EQ_STAT_PHASE (fn : Nat) : Field := ⟨rGLB_EQ_STAT fn, 13, 1⟩

/-- `GLB_EQ_STAT.LOST`, RO, 32 bits. -/
def fGLB_EQ_STAT_LOST (fn : Nat) : Field := ⟨rGLB_EQ_STAT fn, 32, 32⟩

/-- `GLB_FN` (15_host_ethernet_time GLB_FN, offset 0x0000_8818). -/
def rGLB_FN (fn : Nat) : Nat := fn * 0x8000000 + 0x8818

/-- `GLB_FN.FUNCTION`, RO, 6 bits. -/
def fGLB_FN_FUNCTION (fn : Nat) : Field := ⟨rGLB_FN fn, 0, 6⟩

/-- `GLB_FN.PF`, RO, 1 bit. -/
def fGLB_FN_PF (fn : Nat) : Field := ⟨rGLB_FN fn, 6, 1⟩

/-- `GLB_FN.TENANTS`, RO, 13 bits. -/
def fGLB_FN_TENANTS (fn : Nat) : Field := ⟨rGLB_FN fn, 16, 13⟩

/-- `GLB_FN.CFG_GEN`, RO, 32 bits. -/
def fGLB_FN_CFG_GEN (fn : Nat) : Field := ⟨rGLB_FN fn, 32, 32⟩

/-- `GLB_HREQ_BASE` (15 Table 15-9). -/
def rGLB_HREQ_BASE (fn : Nat) : Nat := fn * 0x8000000 + 0x8820

/-- `GLB_HREQ_BASE.ADDR`, RW, 52 bits. -/
def fGLB_HREQ_BASE_ADDR (fn : Nat) : Field := ⟨rGLB_HREQ_BASE fn, 12, 52⟩

/-- `GLB_HREQ_CFG` (15_host_ethernet_time GLB_EQ_CFG, offset 0x0000_8808; GLB_HREQ_CFG, offset 0x0000_8828). -/
def rGLB_HREQ_CFG (fn : Nat) : Nat := fn * 0x8000000 + 0x8828

/-- `GLB_HREQ_CFG.LOG`, RW, 4 bits. -/
def fGLB_HREQ_CFG_LOG (fn : Nat) : Field := ⟨rGLB_HREQ_CFG fn, 0, 4⟩

/-- `GLB_HREQ_CFG.EN`, RW, 1 bit. -/
def fGLB_HREQ_CFG_EN (fn : Nat) : Field := ⟨rGLB_HREQ_CFG fn, 4, 1⟩

/-- `GLB_HREQ_CFG.IEN`, RW, 1 bit. -/
def fGLB_HREQ_CFG_IEN (fn : Nat) : Field := ⟨rGLB_HREQ_CFG fn, 5, 1⟩

/-- `GLB_BAR2_BASE` (15_host_ethernet_time GLB_BAR2_BASE, offset 0x0000_8830). -/
def rGLB_BAR2_BASE (fn : Nat) : Nat := fn * 0x8000000 + 0x8830

/-- `GLB_BAR2_BASE.BASE`, RW, 22 bits. -/
def fGLB_BAR2_BASE_BASE (fn : Nat) : Field := ⟨rGLB_BAR2_BASE fn, 30, 22⟩

/-- `GLB_HOST_ERR` (15_host_ethernet_time GLB_HOST_ERR, offset 0x0000_8838). -/
def rGLB_HOST_ERR (fn : Nat) : Nat := fn * 0x8000000 + 0x8838

/-- `GLB_HOST_ERR.DB_DISABLED`, W1C, 1 bit. -/
def fGLB_HOST_ERR_DB_DISABLED (fn : Nat) : Field := ⟨rGLB_HOST_ERR fn, 0, 1⟩

/-- `GLB_HOST_ERR.DB_RANGE`, W1C, 1 bit. -/
def fGLB_HOST_ERR_DB_RANGE (fn : Nat) : Field := ⟨rGLB_HOST_ERR fn, 1, 1⟩

/-- `GLB_HOST_ERR.FETCH_FAIL`, W1C, 1 bit. -/
def fGLB_HOST_ERR_FETCH_FAIL (fn : Nat) : Field := ⟨rGLB_HOST_ERR fn, 2, 1⟩

/-- `GLB_HOST_ERR.BAR2_REFUSED`, W1C, 1 bit. -/
def fGLB_HOST_ERR_BAR2_REFUSED (fn : Nat) : Field := ⟨rGLB_HOST_ERR fn, 3, 1⟩

/-- `GLB_HOST_ERR.CFG_BUSY`, W1C, 1 bit. -/
def fGLB_HOST_ERR_CFG_BUSY (fn : Nat) : Field := ⟨rGLB_HOST_ERR fn, 4, 1⟩

/-- `GLB_HOST_ERR.DB_WIDTH`, W1C, 1 bit. -/
def fGLB_HOST_ERR_DB_WIDTH (fn : Nat) : Field := ⟨rGLB_HOST_ERR fn, 5, 1⟩

/-- `GLB_HOST_ERR.LAST_Q`, RO, 6 bits. -/
def fGLB_HOST_ERR_LAST_Q (fn : Nat) : Field := ⟨rGLB_HOST_ERR fn, 16, 6⟩

/-- `CLU_ID` (03_cores CLU_ID, window offset 0x0000). -/
def rCLU_ID (cl : Nat) : Nat := 0x4000000 + cl * 0x10000 + 0x0

/-- `CLU_ID.CLUSTER`, RO, 5 bits. -/
def fCLU_ID_CLUSTER (cl : Nat) : Field := ⟨rCLU_ID cl, 0, 5⟩

/-- `CLU_ID.DIE`, RO, 4 bits. -/
def fCLU_ID_DIE (cl : Nat) : Field := ⟨rCLU_ID cl, 8, 4⟩

/-- `CLU_ID.KIND`, RO, 1 bit. -/
def fCLU_ID_KIND (cl : Nat) : Field := ⟨rCLU_ID cl, 12, 1⟩

/-- `CLU_ID.SITES`, RO, 8 bits. -/
def fCLU_ID_SITES (cl : Nat) : Field := ⟨rCLU_ID cl, 16, 8⟩

/-- `CLU_ID.ENABLED`, RO, 8 bits. -/
def fCLU_ID_ENABLED (cl : Nat) : Field := ⟨rCLU_ID cl, 24, 8⟩

/-- `CLU_ID.CORE_BASE`, RO, 17 bits. -/
def fCLU_ID_CORE_BASE (cl : Nat) : Field := ⟨rCLU_ID cl, 32, 17⟩

/-- `CLU_STATE` (03_cores CLU_STATE, window offset 0x0008). -/
def rCLU_STATE (cl : Nat) : Nat := 0x4000000 + cl * 0x10000 + 0x8

/-- `CLU_STATE.PSTATE`, RO, 2 bits. -/
def fCLU_STATE_PSTATE (cl : Nat) : Field := ⟨rCLU_STATE cl, 0, 2⟩

/-- `CLU_STATE.DRAINING`, RO, 1 bit. -/
def fCLU_STATE_DRAINING (cl : Nat) : Field := ⟨rCLU_STATE cl, 2, 1⟩

/-- `CLU_STATE.SCRUB_OVERDUE`, RO, 1 bit. -/
def fCLU_STATE_SCRUB_OVERDUE (cl : Nat) : Field := ⟨rCLU_STATE cl, 3, 1⟩

/-- `CLU_STATE.ENABLE_GEN`, RO, 32 bits. -/
def fCLU_STATE_ENABLE_GEN (cl : Nat) : Field := ⟨rCLU_STATE cl, 32, 32⟩

/-- `CLU_CEILING` (03_cores CLU_CEILING, window offset 0x0010). -/
def rCLU_CEILING (cl : Nat) : Nat := 0x4000000 + cl * 0x10000 + 0x10

/-- `CLU_CEILING.CEIL`, RO, 10 bits. -/
def fCLU_CEILING_CEIL (cl : Nat) : Field := ⟨rCLU_CEILING cl, 0, 10⟩

/-- `CLU_CEILING.FREQ`, RO, 10 bits. -/
def fCLU_CEILING_FREQ (cl : Nat) : Field := ⟨rCLU_CEILING cl, 10, 10⟩

/-- `CLU_CEILING.LIMIT_SITE`, RO, 8 bits. -/
def fCLU_CEILING_LIMIT_SITE (cl : Nat) : Field := ⟨rCLU_CEILING cl, 20, 8⟩

/-- `CLU_ENMASK` (03_cores CLU_ENMASK0-CLU_ENMASK3, window offsets 0x0020, 0x0028, 0x0030, 0x0038). -/
def rCLU_ENMASK (cl : Nat) (n : Nat) : Nat := 0x4000000 + cl * 0x10000 + 0x20 + 0x8 * n

/-- `CLU_ENMASK.SITES`, RO, 64 bits. -/
def fCLU_ENMASK_SITES (cl : Nat) (n : Nat) : Field := ⟨rCLU_ENMASK cl n, 0, 64⟩

/-- `CLU_SITE_REC` (03_cores CLU_SITE_RECn, window offset 0x0100 + 8 × n, n = site 0-199). -/
def rCLU_SITE_REC (cl : Nat) (n : Nat) : Nat := 0x4000000 + cl * 0x10000 + 0x100 + 0x8 * n

/-- `CLU_SITE_REC.FUSE_LO`, RO, 10 bits. -/
def fCLU_SITE_REC_FUSE_LO (cl : Nat) (n : Nat) : Field := ⟨rCLU_SITE_REC cl n, 0, 10⟩

/-- `CLU_SITE_REC.FUSE_MID`, RO, 10 bits. -/
def fCLU_SITE_REC_FUSE_MID (cl : Nat) (n : Nat) : Field := ⟨rCLU_SITE_REC cl n, 10, 10⟩

/-- `CLU_SITE_REC.FUSE_HI`, RO, 10 bits. -/
def fCLU_SITE_REC_FUSE_HI (cl : Nat) (n : Nat) : Field := ⟨rCLU_SITE_REC cl n, 20, 10⟩

/-- `CLU_SITE_REC.CUR_LO`, RO/T, 10 bits. -/
def fCLU_SITE_REC_CUR_LO (cl : Nat) (n : Nat) : Field := ⟨rCLU_SITE_REC cl n, 30, 10⟩

/-- `CLU_SITE_REC.CUR_MID`, RO/T, 10 bits. -/
def fCLU_SITE_REC_CUR_MID (cl : Nat) (n : Nat) : Field := ⟨rCLU_SITE_REC cl n, 40, 10⟩

/-- `CLU_SITE_REC.CUR_HI`, RO/T, 10 bits. -/
def fCLU_SITE_REC_CUR_HI (cl : Nat) (n : Nat) : Field := ⟨rCLU_SITE_REC cl n, 50, 10⟩

/-- `CLU_SITE_REC.GOOD`, RO, 1 bit. -/
def fCLU_SITE_REC_GOOD (cl : Nat) (n : Nat) : Field := ⟨rCLU_SITE_REC cl n, 60, 1⟩

/-- `CLU_SITE_REC.ENABLED`, RO, 1 bit. -/
def fCLU_SITE_REC_ENABLED (cl : Nat) (n : Nat) : Field := ⟨rCLU_SITE_REC cl n, 61, 1⟩

/-- `CLU_SITE_REC.AGED`, RO, 1 bit. -/
def fCLU_SITE_REC_AGED (cl : Nat) (n : Nat) : Field := ⟨rCLU_SITE_REC cl n, 62, 1⟩

/-- `CLU_CORE_STAT` (03_cores CLU_CORE_STATk, window offset 0x0800 + 8 × k, k = enabled core 0-191). -/
def rCLU_CORE_STAT (cl : Nat) (n : Nat) : Nat := 0x4000000 + cl * 0x10000 + 0x800 + 0x8 * n

/-- `CLU_CORE_STAT.INVALID`, W1C, 1 bit. -/
def fCLU_CORE_STAT_INVALID (cl : Nat) (n : Nat) : Field := ⟨rCLU_CORE_STAT cl n, 0, 1⟩

/-- `CLU_CORE_STAT.OVERFLOW`, W1C, 1 bit. -/
def fCLU_CORE_STAT_OVERFLOW (cl : Nat) (n : Nat) : Field := ⟨rCLU_CORE_STAT cl n, 1, 1⟩

/-- `CLU_CORE_STAT.OVF_SAT`, W1C, 1 bit. -/
def fCLU_CORE_STAT_OVF_SAT (cl : Nat) (n : Nat) : Field := ⟨rCLU_CORE_STAT cl n, 2, 1⟩

/-- `CLU_CORE_STAT.UNDERFLOW`, W1C, 1 bit. -/
def fCLU_CORE_STAT_UNDERFLOW (cl : Nat) (n : Nat) : Field := ⟨rCLU_CORE_STAT cl n, 3, 1⟩

/-- `CLU_CORE_STAT.INEXACT`, W1C, 1 bit. -/
def fCLU_CORE_STAT_INEXACT (cl : Nat) (n : Nat) : Field := ⟨rCLU_CORE_STAT cl n, 4, 1⟩

/-- `CLU_CORE_STAT.FAULT_CAUSE`, RO, 8 bits. -/
def fCLU_CORE_STAT_FAULT_CAUSE (cl : Nat) (n : Nat) : Field := ⟨rCLU_CORE_STAT cl n, 8, 8⟩

/-- `CLU_CORE_STAT.FAULT_STRAND`, RO, 2 bits. -/
def fCLU_CORE_STAT_FAULT_STRAND (cl : Nat) (n : Nat) : Field := ⟨rCLU_CORE_STAT cl n, 16, 2⟩

/-- `CLU_CORE_STAT.STRAND_ACTIVE`, RO, 4 bits. -/
def fCLU_CORE_STAT_STRAND_ACTIVE (cl : Nat) (n : Nat) : Field := ⟨rCLU_CORE_STAT cl n, 20, 4⟩

/-- `CLU_CORE_STAT.SRAM_CORR`, RO, 16 bits. -/
def fCLU_CORE_STAT_SRAM_CORR (cl : Nat) (n : Nat) : Field := ⟨rCLU_CORE_STAT cl n, 32, 16⟩

/-- `CLU_CLATCH` (03_cores CLU_CLATCHn, window offset 0x0E00 + 8 × n, n = cluster latch 0-31). -/
def rCLU_CLATCH (cl : Nat) (n : Nat) : Nat := 0x4000000 + cl * 0x10000 + 0xE00 + 0x8 * n

/-- `CLU_CLATCH.COUNT`, RO, 16 bits. -/
def fCLU_CLATCH_COUNT (cl : Nat) (n : Nat) : Field := ⟨rCLU_CLATCH cl n, 0, 16⟩

/-- `CLU_LUS_SEL` (05_lustre CLU_LUS_SEL, window offset 0x2000). -/
def rCLU_LUS_SEL (cl : Nat) : Nat := 0x4000000 + cl * 0x10000 + 0x2000

/-- `CLU_LUS_SEL.SLOT`, RW, 4 bits. -/
def fCLU_LUS_SEL_SLOT (cl : Nat) : Field := ⟨rCLU_LUS_SEL cl, 0, 4⟩

/-- `CLU_LUS_STAT` (05_lustre CLU_LUS_STAT, window offset 0x2008). -/
def rCLU_LUS_STAT (cl : Nat) : Nat := 0x4000000 + cl * 0x10000 + 0x2008

/-- `CLU_LUS_STAT.VALID`, RO, 16 bits. -/
def fCLU_LUS_STAT_VALID (cl : Nat) : Field := ⟨rCLU_LUS_STAT cl, 0, 16⟩

/-- `CLU_LUS_STAT.OPEN`, RO, 1 bit. -/
def fCLU_LUS_STAT_OPEN (cl : Nat) : Field := ⟨rCLU_LUS_STAT cl, 16, 1⟩

/-- `CLU_LUS_STAT.REFUSED`, W1C, 1 bit. -/
def fCLU_LUS_STAT_REFUSED (cl : Nat) : Field := ⟨rCLU_LUS_STAT cl, 17, 1⟩

/-- `CLU_LUS_STAT.REF_INDEX`, RO, 6 bits. -/
def fCLU_LUS_STAT_REF_INDEX (cl : Nat) : Field := ⟨rCLU_LUS_STAT cl, 18, 6⟩

/-- `CLU_LUS_STAT.REF_SLOT`, RO, 4 bits. -/
def fCLU_LUS_STAT_REF_SLOT (cl : Nat) : Field := ⟨rCLU_LUS_STAT cl, 24, 4⟩

/-- `CLU_LUS_STAT.DISCARDED`, W1C, 1 bit. -/
def fCLU_LUS_STAT_DISCARDED (cl : Nat) : Field := ⟨rCLU_LUS_STAT cl, 28, 1⟩

/-- `CLU_LUS_STAT.LOAD_GEN`, RO, 32 bits. -/
def fCLU_LUS_STAT_LOAD_GEN (cl : Nat) : Field := ⟨rCLU_LUS_STAT cl, 32, 32⟩

/-- `CLU_LUS_CMD` (05_lustre CLU_LUS_CMD, window offset 0x2010). -/
def rCLU_LUS_CMD (cl : Nat) : Nat := 0x4000000 + cl * 0x10000 + 0x2010

/-- `CLU_LUS_CMD.COMMIT`, WO, 1 bit. -/
def fCLU_LUS_CMD_COMMIT (cl : Nat) : Field := ⟨rCLU_LUS_CMD cl, 0, 1⟩

/-- `CLU_LUS_CMD.INVALIDATE`, WO, 1 bit. -/
def fCLU_LUS_CMD_INVALIDATE (cl : Nat) : Field := ⟨rCLU_LUS_CMD cl, 1, 1⟩

/-- `CLU_LUS_PROG` (05 Table 05-9). -/
def rCLU_LUS_PROG (cl : Nat) (n : Nat) : Nat := 0x4000000 + cl * 0x10000 + 0x2200 + 0x8 * n

/-- `CLU_LUS_PROG.OP`, RW, 64 bits. -/
def fCLU_LUS_PROG_OP (cl : Nat) (n : Nat) : Field := ⟨rCLU_LUS_PROG cl n, 0, 64⟩

/-- `CLU_TBL_SEL` (04_tumbler_tables CLU_TBL_SEL, window offset 0x4000). -/
def rCLU_TBL_SEL (cl : Nat) : Nat := 0x4000000 + cl * 0x10000 + 0x4000

/-- `CLU_TBL_SEL.CORE`, RW, 8 bits. -/
def fCLU_TBL_SEL_CORE (cl : Nat) : Field := ⟨rCLU_TBL_SEL cl, 0, 8⟩

/-- `CLU_TBL_SEL.BCAST`, RW, 1 bit. -/
def fCLU_TBL_SEL_BCAST (cl : Nat) : Field := ⟨rCLU_TBL_SEL cl, 8, 1⟩

/-- `CLU_TBL_STAT` (04_tumbler_tables CLU_TBL_STAT, window offset 0x4008). -/
def rCLU_TBL_STAT (cl : Nat) : Nat := 0x4000000 + cl * 0x10000 + 0x4008

/-- `CLU_TBL_STAT.OPEN`, RO, 1 bit. -/
def fCLU_TBL_STAT_OPEN (cl : Nat) : Field := ⟨rCLU_TBL_STAT cl, 0, 1⟩

/-- `CLU_TBL_STAT.REFUSED`, W1C, 1 bit. -/
def fCLU_TBL_STAT_REFUSED (cl : Nat) : Field := ⟨rCLU_TBL_STAT cl, 1, 1⟩

/-- `CLU_TBL_STAT.REF_POS`, RO, 11 bits. -/
def fCLU_TBL_STAT_REF_POS (cl : Nat) : Field := ⟨rCLU_TBL_STAT cl, 2, 11⟩

/-- `CLU_TBL_STAT.REF_CORE`, RO, 8 bits. -/
def fCLU_TBL_STAT_REF_CORE (cl : Nat) : Field := ⟨rCLU_TBL_STAT cl, 13, 8⟩

/-- `CLU_TBL_STAT.DISCARDED`, W1C, 1 bit. -/
def fCLU_TBL_STAT_DISCARDED (cl : Nat) : Field := ⟨rCLU_TBL_STAT cl, 21, 1⟩

/-- `CLU_TBL_STAT.TORN`, W1C, 1 bit. -/
def fCLU_TBL_STAT_TORN (cl : Nat) : Field := ⟨rCLU_TBL_STAT cl, 22, 1⟩

/-- `CLU_TBL_STAT.LOAD_GEN`, RO, 32 bits. -/
def fCLU_TBL_STAT_LOAD_GEN (cl : Nat) : Field := ⟨rCLU_TBL_STAT cl, 32, 32⟩

/-- `CLU_TBL_CORE` (04 Table 04-12). -/
def rCLU_TBL_CORE (cl : Nat) (n : Nat) : Nat := 0x4000000 + cl * 0x10000 + 0x8000 + 0x8 * n

/-- `CLU_TBL_CORE.WORD`, RW, 64 bits. -/
def fCLU_TBL_CORE_WORD (cl : Nat) (n : Nat) : Field := ⟨rCLU_TBL_CORE cl n, 0, 64⟩

/-- `CLU_TBL_CLUSTER` (04 Table 04-12). -/
def rCLU_TBL_CLUSTER (cl : Nat) (n : Nat) : Nat := 0x4000000 + cl * 0x10000 + 0xC000 + 0x8 * n

/-- `CLU_TBL_CLUSTER.WORD`, RW, 64 bits. -/
def fCLU_TBL_CLUSTER_WORD (cl : Nat) (n : Nat) : Field := ⟨rCLU_TBL_CLUSTER cl n, 0, 64⟩

/-- Rows of the register map, part 0. -/
def regTable0 : List RegSpec := [
  ⟨.glob, 0x0, 0x0, 1, [⟨0, 16, .ro, 0x9600⟩, ⟨16, 8, .ro, 0xB1⟩, ⟨24, 8, .ro, 0x3⟩, ⟨32, 16, .ro, 0x1⟩]⟩,
  ⟨.glob, 0x8, 0x0, 1, [⟨0, 5, .ro, 0xC⟩, ⟨5, 5, .ro, 0x4⟩, ⟨10, 3, .ro, 0x4⟩, ⟨13, 6, .ro, 0x20⟩, ⟨19, 8, .ro, 0xC0⟩, ⟨27, 8, .ro, 0xC8⟩, ⟨35, 5, .ro, 0x18⟩, ⟨40, 5, .ro, 0x10⟩, ⟨45, 3, .ro, 0x4⟩, ⟨48, 6, .ro, 0x20⟩]⟩,
  ⟨.glob, 0x10, 0x0, 1, [⟨0, 17, .ro, 0x10000⟩, ⟨17, 13, .ro, 0x1000⟩, ⟨30, 14, .ro, 0x2000⟩]⟩,
  ⟨.glob, 0x18, 0x0, 1, [⟨0, 23, .ro, 0x400000⟩, ⟨23, 5, .ro, 0x10⟩, ⟨28, 11, .ro, 0x400⟩, ⟨39, 11, .ro, 0x400⟩]⟩,
  ⟨.glob, 0x20, 0x0, 1, [⟨0, 10, .ro, 0x14A⟩, ⟨10, 10, .ro, 0x186⟩, ⟨20, 10, .ro, 0x12C⟩, ⟨30, 10, .ro, 0x78⟩, ⟨40, 13, .ro, 0x1770⟩]⟩,
  ⟨.glob, 0x100, 0x0, 1, [⟨0, 1, .w1c, 0x0⟩, ⟨1, 1, .w1c, 0x0⟩, ⟨2, 1, .w1c, 0x0⟩, ⟨3, 1, .w1c, 0x0⟩, ⟨4, 1, .w1c, 0x0⟩]⟩,
  ⟨.glob, 0x108, 0x0, 1, [⟨0, 27, .ro, 0x0⟩, ⟨27, 1, .ro, 0x0⟩, ⟨28, 6, .ro, 0x0⟩, ⟨34, 3, .ro, 0x0⟩, ⟨37, 1, .w1c, 0x0⟩]⟩,
  ⟨.glob, 0x110, 0x0, 1, [⟨0, 4, .ro, 0x0⟩, ⟨4, 5, .ro, 0x0⟩, ⟨9, 1, .ro, 0x0⟩, ⟨10, 6, .ro, 0x0⟩, ⟨16, 8, .ro, 0x0⟩, ⟨24, 12, .ro, 0x0⟩, ⟨36, 1, .ro, 0x0⟩, ⟨37, 1, .w1c, 0x0⟩]⟩,
  ⟨.glob, 0x9000, 0x0, 1, [⟨0, 64, .ro, 0x0⟩]⟩,
  ⟨.glob, 0x9008, 0x0, 1, [⟨0, 63, .rw, 0x0⟩, ⟨63, 1, .w1s, 0x0⟩]⟩,
  ⟨.glob, 0x9010, 0x0, 1, [⟨0, 1, .ro, 0x0⟩, ⟨1, 1, .ro, 0x0⟩, ⟨2, 1, .w1c, 0x0⟩, ⟨3, 1, .w1c, 0x0⟩, ⟨16, 16, .ro, 0x0⟩, ⟨32, 32, .ro, 0x0⟩]⟩,
  ⟨.glob, 0xA000, 0x0, 1, [⟨0, 3, .ro, 0x0⟩, ⟨3, 2, .ro, 0x0⟩, ⟨5, 1, .w1c, 0x0⟩, ⟨6, 1, .ro, 0x0⟩, ⟨16, 16, .ro, 0x0⟩, ⟨32, 32, .ro, 0x0⟩]⟩,
  ⟨.glob, 0xA008, 0x0, 1, [⟨0, 16, .ro, 0x0⟩, ⟨16, 16, .ro, 0x0⟩, ⟨32, 5, .ro, 0x0⟩, ⟨37, 5, .ro, 0x0⟩, ⟨42, 8, .ro, 0x0⟩, ⟨50, 2, .ro, 0x0⟩]⟩,
  ⟨.glob, 0xA010, 0x0, 1, [⟨0, 64, .ro, 0x0⟩]⟩,
  ⟨.glob, 0xA020, 0x8, 2, [⟨0, 3, .ro, 0x0⟩, ⟨3, 1, .ro, 0x0⟩, ⟨16, 16, .ro, 0x0⟩, ⟨32, 32, .ro, 0x0⟩]⟩,
  ⟨.glob, 0xA030, 0x0, 1, [⟨0, 1, .wo, 0x0⟩, ⟨1, 1, .wo, 0x0⟩, ⟨2, 1, .rw, 0x0⟩, ⟨3, 1, .rw, 0x0⟩]⟩,
  ⟨.glob, 0xA038, 0x0, 1, [⟨0, 32, .ro, 0x0⟩, ⟨32, 10, .ro, 0x0⟩]⟩,
  ⟨.glob, 0xA040, 0x0, 1, [⟨0, 13, .ro, 0x0⟩, ⟨13, 1, .ro, 0x0⟩, ⟨14, 20, .ro, 0x0⟩, ⟨34, 1, .ro, 0x0⟩]⟩,
  ⟨.glob, 0x100000, 0x0, 1, [⟨0, 4, .ro, 0x1⟩, ⟨4, 3, .ro, 0x0⟩, ⟨7, 1, .ro, 0x0⟩, ⟨8, 2, .ro, 0x0⟩, ⟨16, 8, .ro, 0x0⟩, ⟨24, 8, .ro, 0xFF⟩, ⟨32, 3, .ro, 0x0⟩]⟩,
  ⟨.glob, 0x100008, 0x0, 1, [⟨0, 32, .ro, 0x0⟩, ⟨32, 32, .ro, 0x0⟩]⟩,
  ⟨.glob, 0x100010, 0x0, 1, [⟨12, 52, .rw, 0x0⟩]⟩,
  ⟨.glob, 0x100018, 0x0, 1, [⟨0, 32, .rw, 0x0⟩]⟩,
  ⟨.glob, 0x100020, 0x0, 1, [⟨0, 1, .wo, 0x0⟩, ⟨1, 1, .wo, 0x0⟩, ⟨2, 1, .wo, 0x0⟩, ⟨3, 1, .wo, 0x0⟩]⟩,
  ⟨.glob, 0x100028, 0x0, 1, [⟨0, 1, .wo, 0x0⟩, ⟨1, 1, .wo, 0x0⟩, ⟨16, 16, .wo, 0x0⟩]⟩,
  ⟨.glob, 0x100030, 0x0, 1, [⟨0, 1, .w1c, 0x0⟩, ⟨1, 1, .w1c, 0x0⟩, ⟨2, 1, .w1c, 0x0⟩]⟩,
  ⟨.glob, 0x200000, 0x0, 1, [⟨0, 64, .ro, 0x0⟩]⟩,
  ⟨.glob, 0x200008, 0x0, 1, [⟨0, 16, .roT, 0x0⟩, ⟨16, 1, .ro, 0x0⟩, ⟨32, 7, .roT, 0x0⟩, ⟨48, 8, .ro, 0x0⟩]⟩,
  ⟨.glob, 0x200010, 0x0, 1, [⟨0, 8, .roT, 0x0⟩, ⟨8, 4, .ro, 0x0⟩]⟩,
  ⟨.glob, 0x200018, 0x0, 1, [⟨0, 16, .roT, 0x0⟩, ⟨16, 1, .ro, 0x0⟩]⟩,
  ⟨.glob, 0x200020, 0x8, 4, [⟨0, 64, .ro, 0x0⟩]⟩,
  ⟨.glob, 0x200040, 0x0, 1, [⟨0, 4, .wo, 0x0⟩, ⟨4, 2, .wo, 0x0⟩, ⟨16, 16, .wo, 0x0⟩]⟩,
  ⟨.glob, 0x200048, 0x0, 1, [⟨3, 61, .rw, 0x0⟩]⟩,
  ⟨.glob, 0x200050, 0x0, 1, [⟨0, 1, .ro, 0x0⟩, ⟨1, 1, .w1c, 0x0⟩, ⟨2, 4, .ro, 0x0⟩, ⟨6, 1, .w1c, 0x0⟩, ⟨7, 1, .w1c, 0x0⟩, ⟨8, 1, .w1c, 0x0⟩]⟩,
  ⟨.glob, 0x300000, 0x0, 1, [⟨0, 2, .ro, 0x0⟩, ⟨2, 1, .ro, 0x0⟩, ⟨3, 8, .ro, 0xE4⟩, ⟨11, 8, .ro, 0xA⟩, ⟨19, 16, .ro, 0x7D0⟩, ⟨35, 7, .ro, 0x64⟩]⟩,
  ⟨.glob, 0x300008, 0x0, 1, [⟨0, 16, .rw, 0x1770⟩]⟩,
  ⟨.glob, 0x300010, 0x0, 1, [⟨0, 1, .ro, 0x0⟩, ⟨1, 1, .ro, 0x0⟩, ⟨2, 2, .ro, 0x0⟩, ⟨4, 1, .ro, 0x0⟩, ⟨5, 1, .ro, 0x0⟩, ⟨6, 1, .ro, 0x0⟩, ⟨7, 1, .ro, 0x0⟩, ⟨8, 1, .ro, 0x0⟩, ⟨9, 5, .ro, 0x0⟩]⟩,
  ⟨.glob, 0x300018, 0x0, 1, [⟨0, 10, .ro, 0x14A⟩, ⟨10, 10, .ro, 0x14A⟩, ⟨20, 5, .ro, 0x10⟩, ⟨25, 5, .ro, 0x18⟩]⟩,
  ⟨.glob, 0x300020, 0x0, 1, [⟨0, 16, .roM, 0x0⟩, ⟨16, 16, .roM, 0x0⟩, ⟨32, 16, .roM, 0x0⟩, ⟨48, 16, .roM, 0x1770⟩]⟩,
  ⟨.glob, 0x300028, 0x0, 1, [⟨0, 64, .ro, 0x0⟩]⟩,
  ⟨.glob, 0x300030, 0x0, 1, [⟨0, 12, .roM, 0x0⟩, ⟨12, 5, .roM, 0x0⟩, ⟨20, 12, .roM, 0x0⟩, ⟨32, 12, .roM, 0x0⟩]⟩]

/-- Rows of the register map, part 1. -/
def regTable1 : List RegSpec := [
  ⟨.glob, 0x300038, 0x0, 1, [⟨0, 1, .w1c, 0x0⟩, ⟨1, 5, .ro, 0x0⟩, ⟨6, 1, .ro, 0x0⟩]⟩,
  ⟨.glob, 0x300040, 0x0, 1, [⟨0, 1, .w1c, 0x0⟩, ⟨1, 1, .w1c, 0x0⟩, ⟨2, 1, .w1c, 0x0⟩, ⟨3, 1, .w1c, 0x0⟩, ⟨4, 1, .w1c, 0x0⟩, ⟨5, 1, .w1c, 0x0⟩, ⟨6, 1, .w1c, 0x0⟩, ⟨7, 1, .w1c, 0x0⟩]⟩,
  ⟨.glob, 0x300080, 0x0, 1, [⟨0, 4, .rw, 0x0⟩, ⟨4, 5, .rw, 0x0⟩]⟩,
  ⟨.glob, 0x300088, 0x0, 1, [⟨0, 6, .ro, 0x0⟩, ⟨6, 6, .ro, 0x0⟩, ⟨12, 10, .ro, 0x0⟩, ⟨22, 12, .ro, 0x0⟩, ⟨34, 1, .ro, 0x0⟩]⟩,
  ⟨.glob, 0x400000, 0x0, 1, [⟨0, 17, .ro, 0x10000⟩, ⟨24, 8, .ro, 0x0⟩, ⟨32, 16, .ro, 0x0⟩, ⟨48, 1, .ro, 0x0⟩]⟩,
  ⟨.glob, 0x400008, 0x0, 1, [⟨16, 36, .ro, 0x0⟩, ⟨52, 8, .ro, 0x8⟩]⟩,
  ⟨.glob, 0x400010, 0x0, 1, [⟨12, 40, .ro, 0x0⟩, ⟨52, 8, .ro, 0x18⟩]⟩,
  ⟨.glob, 0x400018, 0x0, 1, [⟨0, 32, .ro, 0x0⟩, ⟨32, 32, .ro, 0x0⟩]⟩,
  ⟨.glob, 0x400020, 0x0, 1, [⟨0, 32, .ro, 0x0⟩, ⟨32, 32, .ro, 0x0⟩]⟩,
  ⟨.glob, 0x400028, 0x0, 1, [⟨0, 17, .ro, 0x0⟩, ⟨17, 17, .ro, 0x0⟩, ⟨34, 17, .ro, 0x0⟩]⟩,
  ⟨.glob, 0x400030, 0x0, 1, [⟨0, 1, .w1c, 0x0⟩, ⟨1, 1, .w1c, 0x0⟩, ⟨2, 1, .w1c, 0x0⟩, ⟨3, 1, .w1c, 0x0⟩, ⟨16, 16, .ro, 0x0⟩]⟩,
  ⟨.glob, 0x400040, 0x0, 1, [⟨0, 16, .rw, 0x0⟩, ⟨16, 1, .ro, 0x0⟩]⟩,
  ⟨.glob, 0x400080, 0x8, 8, [⟨0, 64, .ro, 0x0⟩]⟩,
  ⟨.glob, 0x500000, 0x0, 1, [⟨0, 8, .ro, 0x5⟩, ⟨8, 3, .ro, 0x0⟩, ⟨16, 10, .ro, 0x0⟩, ⟨26, 10, .ro, 0x0⟩, ⟨36, 10, .ro, 0x0⟩, ⟨46, 10, .ro, 0x0⟩]⟩,
  ⟨.glob, 0x500008, 0x0, 1, [⟨0, 64, .ro, 0x0⟩]⟩,
  ⟨.glob, 0x500010, 0x0, 1, [⟨0, 32, .ro, 0x0⟩, ⟨32, 32, .ro, 0x0⟩]⟩,
  ⟨.glob, 0x500018, 0x0, 1, [⟨0, 1, .w1c, 0x0⟩, ⟨1, 1, .w1c, 0x0⟩, ⟨2, 1, .w1c, 0x0⟩, ⟨3, 1, .w1c, 0x0⟩, ⟨16, 16, .ro, 0x0⟩]⟩,
  ⟨.glob, 0x500020, 0x0, 1, [⟨0, 17, .ro, 0x0⟩, ⟨17, 17, .ro, 0x0⟩, ⟨34, 17, .ro, 0x0⟩]⟩,
  ⟨.glob, 0x500040, 0x10, 3, [⟨0, 64, .ro, 0x0⟩]⟩,
  ⟨.glob, 0x500048, 0x10, 3, [⟨0, 16, .ro, 0x0⟩, ⟨16, 16, .ro, 0x0⟩, ⟨32, 20, .ro, 0x0⟩]⟩,
  ⟨.glob, 0x500100, 0x8, 16, [⟨0, 16, .ro, 0x0⟩, ⟨16, 16, .ro, 0x0⟩, ⟨32, 16, .ro, 0x0⟩, ⟨48, 16, .ro, 0x0⟩]⟩,
  ⟨.glob, 0x600000, 0x0, 1, [⟨0, 12, .ro, 0x0⟩, ⟨12, 4, .ro, 0x0⟩, ⟨16, 9, .ro, 0x0⟩, ⟨25, 4, .ro, 0x0⟩, ⟨29, 5, .ro, 0x0⟩, ⟨34, 4, .ro, 0x0⟩, ⟨38, 9, .ro, 0x0⟩, ⟨47, 2, .ro, 0x0⟩, ⟨49, 6, .ro, 0x0⟩]⟩,
  ⟨.glob, 0x600008, 0x0, 1, [⟨15, 37, .ro, 0x0⟩]⟩,
  ⟨.glob, 0x600010, 0x0, 1, [⟨0, 32, .ro, 0x0⟩, ⟨32, 32, .ro, 0x0⟩]⟩,
  ⟨.glob, 0x600018, 0x0, 1, [⟨12, 40, .ro, 0x0⟩]⟩,
  ⟨.glob, 0x600020, 0x0, 1, [⟨0, 32, .ro, 0x0⟩, ⟨32, 16, .ro, 0x0⟩, ⟨48, 16, .ro, 0x0⟩]⟩,
  ⟨.glob, 0x600028, 0x0, 1, [⟨0, 23, .ro, 0x0⟩, ⟨32, 32, .ro, 0x0⟩]⟩,
  ⟨.glob, 0x600030, 0x0, 1, [⟨9, 43, .ro, 0x0⟩]⟩,
  ⟨.glob, 0x600038, 0x0, 1, [⟨0, 32, .ro, 0x0⟩, ⟨32, 16, .ro, 0x0⟩, ⟨48, 16, .ro, 0x0⟩]⟩,
  ⟨.glob, 0x600040, 0x0, 1, [⟨0, 1, .w1c, 0x0⟩, ⟨1, 1, .w1c, 0x0⟩, ⟨2, 1, .w1c, 0x0⟩, ⟨3, 1, .w1c, 0x0⟩, ⟨4, 1, .w1c, 0x0⟩, ⟨16, 16, .ro, 0x0⟩]⟩,
  ⟨.glob, 0x600048, 0x0, 1, [⟨0, 32, .ro, 0x0⟩]⟩,
  ⟨.glob, 0x700000, 0x0, 1, [⟨4, 48, .ro, 0x0⟩, ⟨52, 8, .ro, 0x4⟩]⟩,
  ⟨.glob, 0x700100, 0x40, 4, [⟨0, 4, .ro, 0x0⟩, ⟨4, 8, .ro, 0x0⟩, ⟨32, 32, .ro, 0x0⟩]⟩,
  ⟨.glob, 0x700108, 0x40, 4, [⟨0, 1, .w1c, 0x0⟩, ⟨1, 1, .w1c, 0x0⟩, ⟨2, 1, .w1c, 0x0⟩, ⟨3, 1, .w1c, 0x0⟩, ⟨4, 1, .w1c, 0x0⟩]⟩,
  ⟨.glob, 0x700110, 0x40, 4, [⟨0, 1, .w1c, 0x0⟩, ⟨1, 1, .w1c, 0x0⟩, ⟨16, 16, .ro, 0x0⟩]⟩,
  ⟨.glob, 0x800000, 0x0, 1, [⟨0, 20, .ro, 0x0⟩, ⟨20, 20, .ro, 0x0⟩, ⟨40, 20, .ro, 0x0⟩]⟩,
  ⟨.glob, 0x800008, 0x0, 1, [⟨0, 20, .ro, 0x0⟩, ⟨20, 20, .ro, 0x0⟩, ⟨40, 5, .ro, 0x0⟩]⟩,
  ⟨.glob, 0x800010, 0x0, 1, [⟨0, 8, .ro, 0x14⟩, ⟨8, 8, .ro, 0x10⟩, ⟨16, 8, .ro, 0xA⟩, ⟨24, 16, .ro, 0x3E8⟩]⟩,
  ⟨.glob, 0x800018, 0x0, 1, [⟨0, 11, .ro, 0x0⟩, ⟨11, 11, .ro, 0x0⟩, ⟨22, 10, .ro, 0x0⟩]⟩,
  ⟨.glob, 0x800020, 0x0, 1, [⟨0, 1, .w1c, 0x0⟩, ⟨1, 1, .w1c, 0x0⟩, ⟨2, 1, .w1c, 0x0⟩, ⟨16, 12, .ro, 0x0⟩, ⟨28, 1, .ro, 0x0⟩]⟩]

/-- Rows of the register map, part 2. -/
def regTable2 : List RegSpec := [
  ⟨.glob, 0x800040, 0x0, 1, [⟨0, 36, .rw, 0x0⟩]⟩,
  ⟨.glob, 0x800048, 0x0, 1, [⟨0, 24, .rw, 0x0⟩, ⟨24, 4, .rw, 0x0⟩, ⟨28, 1, .rw, 0x0⟩, ⟨29, 2, .rw, 0x0⟩, ⟨32, 12, .rw, 0x0⟩, ⟨44, 1, .rw, 0x0⟩]⟩,
  ⟨.glob, 0x800050, 0x0, 1, [⟨0, 24, .rw, 0x0⟩]⟩,
  ⟨.glob, 0x800058, 0x0, 1, [⟨0, 1, .wo, 0x0⟩]⟩,
  ⟨.glob, 0x800060, 0x0, 1, [⟨0, 1, .ro, 0x0⟩, ⟨8, 8, .ro, 0x0⟩, ⟨16, 24, .ro, 0x0⟩]⟩,
  ⟨.glob, 0x900000, 0x0, 1, [⟨0, 6, .ro, 0x0⟩, ⟨6, 4, .ro, 0x0⟩, ⟨10, 6, .ro, 0x0⟩, ⟨16, 10, .ro, 0x32⟩, ⟨26, 8, .ro, 0xC8⟩]⟩,
  ⟨.glob, 0x900008, 0x0, 1, [⟨0, 32, .ro, 0x0⟩, ⟨32, 32, .ro, 0x0⟩]⟩,
  ⟨.glob, 0x900010, 0x0, 1, [⟨0, 24, .ro, 0x0⟩, ⟨24, 8, .ro, 0x0⟩, ⟨32, 32, .ro, 0x0⟩]⟩,
  ⟨.glob, 0x900018, 0x0, 1, [⟨0, 32, .ro, 0x0⟩, ⟨32, 32, .ro, 0x0⟩]⟩,
  ⟨.glob, 0x900020, 0x0, 1, [⟨0, 32, .ro, 0x0⟩]⟩,
  ⟨.glob, 0x900028, 0x0, 1, [⟨0, 1, .w1c, 0x0⟩, ⟨1, 1, .w1c, 0x0⟩, ⟨2, 1, .w1c, 0x0⟩, ⟨3, 1, .w1c, 0x0⟩, ⟨4, 1, .w1c, 0x0⟩, ⟨16, 5, .ro, 0x0⟩]⟩,
  ⟨.glob, 0xA00000, 0x0, 1, [⟨0, 14, .ro, 0x2000⟩, ⟨16, 16, .ro, 0x0⟩, ⟨32, 1, .ro, 0x0⟩, ⟨33, 3, .ro, 0x0⟩]⟩,
  ⟨.glob, 0xA00008, 0x0, 1, [⟨0, 16, .ro, 0x0⟩, ⟨16, 16, .ro, 0x0⟩, ⟨32, 3, .ro, 0x0⟩, ⟨35, 1, .ro, 0x0⟩, ⟨36, 4, .ro, 0x0⟩]⟩,
  ⟨.glob, 0xA00010, 0x0, 1, [⟨0, 21, .ro, 0x0⟩, ⟨21, 21, .ro, 0x0⟩, ⟨42, 9, .ro, 0x0⟩]⟩,
  ⟨.glob, 0xA00018, 0x0, 1, [⟨0, 9, .ro, 0x0⟩, ⟨9, 9, .ro, 0x0⟩, ⟨18, 9, .ro, 0x0⟩, ⟨32, 32, .ro, 0x0⟩]⟩,
  ⟨.glob, 0xA00020, 0x0, 1, [⟨0, 1, .w1c, 0x0⟩, ⟨1, 1, .w1c, 0x0⟩, ⟨2, 1, .w1c, 0x0⟩, ⟨3, 1, .w1c, 0x0⟩, ⟨4, 1, .w1c, 0x0⟩, ⟨16, 20, .ro, 0x0⟩, ⟨36, 3, .ro, 0x0⟩]⟩,
  ⟨.glob, 0xA00028, 0x0, 1, [⟨21, 36, .ro, 0x0⟩]⟩,
  ⟨.glob, 0xA00030, 0x0, 1, [⟨0, 64, .ro, 0x0⟩]⟩,
  ⟨.glob, 0xA00038, 0x0, 1, [⟨4, 60, .ro, 0x0⟩]⟩,
  ⟨.glob, 0xA00040, 0x0, 1, [⟨0, 13, .rw, 0x0⟩]⟩,
  ⟨.glob, 0xA00048, 0x0, 1, [⟨0, 32, .ro, 0x0⟩, ⟨32, 2, .ro, 0x0⟩, ⟨34, 1, .ro, 0x0⟩, ⟨35, 13, .ro, 0x0⟩, ⟨48, 1, .ro, 0x0⟩, ⟨49, 9, .ro, 0x0⟩]⟩,
  ⟨.glob, 0xA00050, 0x0, 1, [⟨0, 1, .ro, 0x0⟩, ⟨8, 24, .ro, 0x0⟩]⟩,
  ⟨.glob, 0xB00000, 0x0, 1, [⟨0, 6, .ro, 0x20⟩, ⟨8, 8, .ro, 0x32⟩, ⟨32, 32, .ro, 0x0⟩]⟩,
  ⟨.glob, 0xB00008, 0x0, 1, [⟨0, 32, .ro, 0x0⟩]⟩,
  ⟨.glob, 0xB00100, 0x40, 32, [⟨0, 1, .wo, 0x0⟩, ⟨1, 1, .wo, 0x0⟩, ⟨2, 2, .rw, 0x0⟩, ⟨4, 1, .rw, 0x0⟩, ⟨5, 1, .rw, 0x0⟩, ⟨6, 1, .rw, 0x0⟩, ⟨7, 1, .rw, 0x0⟩, ⟨8, 12, .rw, 0x0⟩, ⟨20, 1, .rw, 0x0⟩, ⟨21, 7, .rw, 0x0⟩]⟩,
  ⟨.glob, 0xB00108, 0x40, 32, [⟨0, 57, .rw, 0x0⟩]⟩,
  ⟨.glob, 0xB00110, 0x40, 32, [⟨0, 40, .rw, 0x0⟩]⟩,
  ⟨.glob, 0xB00118, 0x40, 32, [⟨0, 16, .rw, 0x0⟩, ⟨16, 1, .rw, 0x0⟩, ⟨17, 15, .rw, 0x0⟩, ⟨32, 16, .rw, 0x0⟩]⟩,
  ⟨.glob, 0xB00120, 0x40, 32, [⟨0, 64, .rw, 0x0⟩]⟩,
  ⟨.glob, 0xB00128, 0x40, 32, [⟨0, 64, .ro, 0x0⟩]⟩,
  ⟨.glob, 0xB00130, 0x40, 32, [⟨0, 1, .ro, 0x0⟩, ⟨1, 1, .w1c, 0x0⟩, ⟨2, 1, .ro, 0x0⟩, ⟨3, 1, .ro, 0x0⟩, ⟨4, 4, .ro, 0x0⟩, ⟨8, 1, .w1c, 0x0⟩, ⟨9, 1, .ro, 0x0⟩, ⟨10, 1, .ro, 0x0⟩, ⟨11, 5, .ro, 0x0⟩, ⟨16, 40, .ro, 0x0⟩]⟩,
  ⟨.glob, 0xB00138, 0x40, 32, [⟨0, 32, .ro, 0x0⟩, ⟨32, 16, .ro, 0x0⟩, ⟨48, 16, .ro, 0x0⟩]⟩,
  ⟨.glob, 0xC00000, 0x0, 1, [⟨0, 16, .ro, 0x0⟩, ⟨16, 8, .ro, 0x0⟩, ⟨24, 8, .ro, 0x0⟩, ⟨32, 16, .ro, 0x0⟩]⟩,
  ⟨.glob, 0xC00008, 0x0, 1, [⟨0, 1, .w1c, 0x0⟩, ⟨1, 1, .w1c, 0x0⟩, ⟨2, 1, .w1c, 0x0⟩, ⟨3, 1, .w1c, 0x0⟩, ⟨4, 1, .w1c, 0x0⟩, ⟨5, 1, .w1c, 0x0⟩, ⟨16, 16, .ro, 0x0⟩, ⟨32, 4, .ro, 0x0⟩]⟩,
  ⟨.glob, 0xC00010, 0x0, 1, [⟨0, 12, .rw, 0x0⟩]⟩,
  ⟨.glob, 0xC00018, 0x0, 1, [⟨0, 64, .ro, 0x0⟩]⟩,
  ⟨.glob, 0xC00020, 0x0, 1, [⟨0, 12, .rw, 0x0⟩]⟩,
  ⟨.glob, 0xC00028, 0x8, 4, [⟨0, 64, .ro, 0x0⟩]⟩,
  ⟨.glob, 0xC00048, 0x0, 1, [⟨0, 8, .rw, 0x0⟩]⟩,
  ⟨.glob, 0xC00050, 0x8, 4, [⟨0, 64, .ro, 0x0⟩]⟩]

/-- Rows of the register map, part 3. -/
def regTable3 : List RegSpec := [
  ⟨.glob, 0xC00100, 0x20, 16, [⟨0, 16, .ro, 0x0⟩, ⟨16, 4, .ro, 0x0⟩, ⟨20, 2, .ro, 0x3⟩, ⟨22, 1, .ro, 0x0⟩, ⟨23, 1, .ro, 0x0⟩]⟩,
  ⟨.glob, 0xC00108, 0x20, 16, [⟨0, 4, .ro, 0x0⟩, ⟨4, 1, .ro, 0x0⟩, ⟨5, 13, .ro, 0x0⟩, ⟨18, 1, .ro, 0x0⟩, ⟨19, 5, .ro, 0x0⟩, ⟨24, 16, .ro, 0x0⟩, ⟨40, 4, .ro, 0x0⟩, ⟨44, 8, .ro, 0x0⟩]⟩,
  ⟨.glob, 0xC00110, 0x20, 16, [⟨0, 1, .wo, 0x0⟩, ⟨1, 1, .wo, 0x0⟩]⟩,
  ⟨.glob, 0xE00000, 0x40, 4, [⟨0, 1, .ro, 0x0⟩, ⟨1, 1, .ro, 0x0⟩, ⟨2, 12, .ro, 0x0⟩, ⟨14, 6, .ro, 0x0⟩, ⟨20, 4, .ro, 0x8⟩]⟩,
  ⟨.glob, 0xE00008, 0x40, 4, [⟨0, 1, .ro, 0x0⟩, ⟨1, 1, .ro, 0x0⟩, ⟨16, 15, .ro, 0x0⟩]⟩,
  ⟨.glob, 0xE00010, 0x40, 4, [⟨0, 9, .rw, 0x0⟩, ⟨9, 1, .rw, 0x0⟩, ⟨10, 1, .wo, 0x0⟩, ⟨11, 1, .ro, 0x0⟩, ⟨12, 1, .w1c, 0x0⟩]⟩,
  ⟨.glob, 0xE00018, 0x40, 4, [⟨0, 64, .ro, 0x0⟩]⟩,
  ⟨.glob, 0xE00020, 0x40, 4, [⟨0, 9, .ro, 0x0⟩, ⟨9, 5, .ro, 0x0⟩, ⟨14, 1, .wo, 0x0⟩, ⟨15, 1, .w1c, 0x0⟩, ⟨16, 1, .ro, 0x0⟩]⟩,
  ⟨.glob, 0xE00028, 0x40, 4, [⟨0, 64, .ro, 0x0⟩]⟩,
  ⟨.glob, 0xE00100, 0x0, 1, [⟨0, 1, .w1c, 0x0⟩, ⟨1, 1, .w1c, 0x0⟩, ⟨2, 1, .w1c, 0x0⟩, ⟨16, 14, .ro, 0x0⟩]⟩,
  ⟨.glob, 0xE00108, 0x0, 1, [⟨0, 14, .rw, 0x0⟩, ⟨16, 2, .ro, 0x0⟩]⟩,
  ⟨.glob, 0xE00110, 0x0, 1, [⟨0, 14, .wo, 0x0⟩, ⟨14, 1, .wo, 0x0⟩]⟩,
  ⟨.glob, 0xE00140, 0x8, 8, [⟨0, 64, .ro, 0x0⟩]⟩,
  ⟨.glob, 0xE01000, 8, 32, [⟨0, 64, .wo, 0x0⟩]⟩,
  ⟨.glob, 0xE01800, 8, 32, [⟨0, 64, .wo, 0x0⟩]⟩,
  ⟨.glob, 0xE02000, 8, 32, [⟨0, 64, .wo, 0x0⟩]⟩,
  ⟨.glob, 0xE02800, 8, 32, [⟨0, 64, .wo, 0x0⟩]⟩,
  ⟨.glob, 0xE01400, 8, 32, [⟨0, 64, .ro, 0x0⟩]⟩,
  ⟨.glob, 0xE01C00, 8, 32, [⟨0, 64, .ro, 0x0⟩]⟩,
  ⟨.glob, 0xE02400, 8, 32, [⟨0, 64, .ro, 0x0⟩]⟩,
  ⟨.glob, 0xE02C00, 8, 32, [⟨0, 64, .ro, 0x0⟩]⟩,
  ⟨.glob, 0xF00000, 0x0, 1, [⟨0, 1, .wo, 0x0⟩]⟩,
  ⟨.glob, 0xF00008, 0x0, 1, [⟨0, 1, .w1c, 0x0⟩, ⟨1, 1, .w1c, 0x0⟩, ⟨32, 32, .ro, 0x0⟩]⟩,
  ⟨.glob, 0xF00010, 0x0, 1, [⟨12, 52, .rw, 0x0⟩]⟩,
  ⟨.glob, 0xF00018, 0x0, 1, [⟨0, 4, .rw, 0x0⟩, ⟨4, 1, .rw, 0x0⟩, ⟨5, 6, .rw, 0x0⟩]⟩,
  ⟨.glob, 0xF00020, 0x0, 1, [⟨0, 1, .w1c, 0x0⟩, ⟨32, 32, .ro, 0x0⟩]⟩,
  ⟨.glob, 0xF00040, 0x8, 8, [⟨0, 16, .rw, 0x0⟩, ⟨16, 16, .rw, 0x0⟩, ⟨32, 16, .rw, 0x0⟩, ⟨48, 16, .rw, 0x0⟩]⟩,
  ⟨.glob, 0xF00100, 0x0, 1, [⟨0, 1, .rw, 0x1⟩, ⟨1, 2, .rw, 0x0⟩, ⟨3, 4, .rw, 0x0⟩, ⟨8, 8, .rw, 0xFF⟩]⟩,
  ⟨.glob, 0xF00108, 0x0, 1, [⟨12, 52, .rw, 0x0⟩]⟩,
  ⟨.glob, 0xF00110, 0x0, 1, [⟨0, 1, .w1c, 0x0⟩, ⟨1, 1, .ro, 0x0⟩, ⟨2, 1, .w1c, 0x0⟩, ⟨32, 32, .ro, 0x0⟩]⟩,
  ⟨.glob, 0xF00118, 0x0, 1, [⟨0, 32, .rw, 0x0⟩]⟩,
  ⟨.glob, 0xF00120, 0x0, 1, [⟨0, 64, .wo, 0x0⟩]⟩,
  ⟨.glob, 0xF00200, 0x0, 1, [⟨0, 7, .rw, 0x68⟩]⟩,
  ⟨.glob, 0xF00208, 0x0, 1, [⟨0, 1, .w1c, 0x0⟩, ⟨1, 1, .w1c, 0x0⟩, ⟨2, 1, .w1c, 0x0⟩]⟩,
  ⟨.glob, 0xF40000, 0x8, 65536, [⟨0, 64, .ro, 0x0⟩]⟩,
  ⟨.glob, 0xFC0000, 0x8, 32768, [⟨0, 64, .ro, 0x0⟩]⟩,
  ⟨.fn, 0x8000, 0x20, 64, [⟨12, 52, .rw, 0x0⟩]⟩,
  ⟨.fn, 0x8008, 0x20, 64, [⟨12, 52, .rw, 0x0⟩]⟩,
  ⟨.fn, 0x8010, 0x20, 64, [⟨0, 4, .rw, 0x0⟩, ⟨4, 4, .rw, 0x0⟩, ⟨8, 1, .rw, 0x0⟩, ⟨9, 1, .rw, 0x0⟩]⟩,
  ⟨.fn, 0x8018, 0x20, 64, [⟨0, 12, .ro, 0x0⟩, ⟨12, 12, .ro, 0x0⟩, ⟨24, 1, .ro, 0x0⟩, ⟨25, 1, .ro, 0x0⟩, ⟨26, 1, .ro, 0x1⟩, ⟨32, 32, .ro, 0x0⟩]⟩]

/-- Rows of the register map, part 4. -/
def regTable4 : List RegSpec := [
  ⟨.fn, 0x8800, 0x0, 1, [⟨12, 52, .rw, 0x0⟩]⟩,
  ⟨.fn, 0x8808, 0x0, 1, [⟨0, 4, .rw, 0x0⟩, ⟨4, 1, .rw, 0x0⟩, ⟨5, 1, .rw, 0x0⟩]⟩,
  ⟨.fn, 0x8810, 0x0, 1, [⟨0, 12, .ro, 0x0⟩, ⟨12, 1, .w1c, 0x0⟩, ⟨13, 1, .ro, 0x1⟩, ⟨32, 32, .ro, 0x0⟩]⟩,
  ⟨.fn, 0x8818, 0x0, 1, [⟨0, 6, .ro, 0x0⟩, ⟨6, 1, .ro, 0x0⟩, ⟨16, 13, .ro, 0x0⟩, ⟨32, 32, .ro, 0x0⟩]⟩,
  ⟨.fn, 0x8820, 0x0, 1, [⟨12, 52, .rw, 0x0⟩]⟩,
  ⟨.fn, 0x8828, 0x0, 1, [⟨0, 4, .rw, 0x0⟩, ⟨4, 1, .rw, 0x0⟩, ⟨5, 1, .rw, 0x0⟩]⟩,
  ⟨.fn, 0x8830, 0x0, 1, [⟨30, 22, .rw, 0x0⟩]⟩,
  ⟨.fn, 0x8838, 0x0, 1, [⟨0, 1, .w1c, 0x0⟩, ⟨1, 1, .w1c, 0x0⟩, ⟨2, 1, .w1c, 0x0⟩, ⟨3, 1, .w1c, 0x0⟩, ⟨4, 1, .w1c, 0x0⟩, ⟨5, 1, .w1c, 0x0⟩, ⟨16, 6, .ro, 0x0⟩]⟩,
  ⟨.win, 0x0, 0x0, 1, [⟨0, 5, .ro, 0x0⟩, ⟨8, 4, .ro, 0x0⟩, ⟨12, 1, .ro, 0x0⟩, ⟨16, 8, .ro, 0xC8⟩, ⟨24, 8, .ro, 0xC0⟩, ⟨32, 17, .ro, 0x0⟩]⟩,
  ⟨.win, 0x8, 0x0, 1, [⟨0, 2, .ro, 0x3⟩, ⟨2, 1, .ro, 0x0⟩, ⟨3, 1, .ro, 0x0⟩, ⟨32, 32, .ro, 0x0⟩]⟩,
  ⟨.win, 0x10, 0x0, 1, [⟨0, 10, .ro, 0x0⟩, ⟨10, 10, .ro, 0x0⟩, ⟨20, 8, .ro, 0x0⟩]⟩,
  ⟨.win, 0x20, 0x8, 4, [⟨0, 64, .ro, 0x0⟩]⟩,
  ⟨.win, 0x100, 0x8, 200, [⟨0, 10, .ro, 0x0⟩, ⟨10, 10, .ro, 0x0⟩, ⟨20, 10, .ro, 0x0⟩, ⟨30, 10, .roT, 0x0⟩, ⟨40, 10, .roT, 0x0⟩, ⟨50, 10, .roT, 0x0⟩, ⟨60, 1, .ro, 0x0⟩, ⟨61, 1, .ro, 0x0⟩, ⟨62, 1, .ro, 0x0⟩]⟩,
  ⟨.win, 0x800, 0x8, 192, [⟨0, 1, .w1c, 0x0⟩, ⟨1, 1, .w1c, 0x0⟩, ⟨2, 1, .w1c, 0x0⟩, ⟨3, 1, .w1c, 0x0⟩, ⟨4, 1, .w1c, 0x0⟩, ⟨8, 8, .ro, 0x0⟩, ⟨16, 2, .ro, 0x0⟩, ⟨20, 4, .ro, 0x0⟩, ⟨32, 16, .ro, 0x0⟩]⟩,
  ⟨.win, 0xE00, 0x8, 32, [⟨0, 16, .ro, 0x0⟩]⟩,
  ⟨.win, 0x2000, 0x0, 1, [⟨0, 4, .rw, 0x0⟩]⟩,
  ⟨.win, 0x2008, 0x0, 1, [⟨0, 16, .ro, 0x0⟩, ⟨16, 1, .ro, 0x0⟩, ⟨17, 1, .w1c, 0x0⟩, ⟨18, 6, .ro, 0x0⟩, ⟨24, 4, .ro, 0x0⟩, ⟨28, 1, .w1c, 0x0⟩, ⟨32, 32, .ro, 0x0⟩]⟩,
  ⟨.win, 0x2010, 0x0, 1, [⟨0, 1, .wo, 0x0⟩, ⟨1, 1, .wo, 0x0⟩]⟩,
  ⟨.win, 0x2200, 0x8, 64, [⟨0, 64, .rw, 0x0⟩]⟩,
  ⟨.win, 0x4000, 0x0, 1, [⟨0, 8, .rw, 0x0⟩, ⟨8, 1, .rw, 0x0⟩]⟩,
  ⟨.win, 0x4008, 0x0, 1, [⟨0, 1, .ro, 0x0⟩, ⟨1, 1, .w1c, 0x0⟩, ⟨2, 11, .ro, 0x0⟩, ⟨13, 8, .ro, 0x0⟩, ⟨21, 1, .w1c, 0x0⟩, ⟨22, 1, .w1c, 0x0⟩, ⟨32, 32, .ro, 0x0⟩]⟩,
  ⟨.win, 0x8000, 0x8, 2048, [⟨0, 64, .rw, 0x0⟩]⟩,
  ⟨.win, 0xC000, 0x8, 2048, [⟨0, 64, .rw, 0x0⟩]⟩]

/-- The whole register map. -/
def regTable : List RegSpec :=
  regTable0 ++ regTable1 ++ regTable2 ++ regTable3 ++ regTable4

/-- The register of a row at an offset (within the row's own space). -/
def RegSpec.covers (r : RegSpec) (off : Nat) : Bool :=
  decide (r.base ≤ off) &&
    (if r.count = 1 then off == r.base
     else (off - r.base) % r.stride == 0 && decide ((off - r.base) / r.stride < r.count))

/-- The row of a register key: a BAR0 offset plus 0x800_0000 times the function. -/
def regSpecOf (key : Nat) : Option RegSpec :=
  let off := key % 0x8000000
  if off ≥ 0x4000000 ∧ off < 0x6000000 then
    regTable.find? (fun r => r.space == .win && r.covers (off % 0x10000))
  else if off ≥ 0x8000 ∧ off < 0x8840 then
    regTable.find? (fun r => r.space == .fn && r.covers off)
  else if key < 0x8000000 then
    regTable.find? (fun r => r.space == .glob && r.covers off)
  else none

/-- The reset value of a register, from the Reset column of its table. -/
def regReset (key : Nat) : Word :=
  match regSpecOf key with
  | none => 0
  | some r => BitVec.ofNat 64 (r.fields.foldl (fun v f => natSetBits v f.lo f.w f.reset) 0)

end Sys2Proof.Machine
end

