-- ==== Sys2Proof/Machine/State.lean ====
section
/-!
DEFINITION. The state of the block: every register, buffer, table and queue that the spec gives it, as plain data,
and the queue of commands that wait. Every register field that software reads lives in `State.regs` under its BAR0
offset unless a table or queue below holds it (then `readReg` derives it).
-/
namespace Sys2Proof.Machine

open Sys2Proof

/-- Byte-addressed memory: a list of (address, byte) pairs, addresses strictly rising, no zero byte listed
(an unlisted address reads as zero, log entries 3 and 4). -/
abbrev Mem := List Host.Cell

/-- Strand states (03 Table 03-6). -/
inductive StrandPhase where
  | idle | ready | waiting | remote | stalled | faulted
  deriving DecidableEq, Repr

/-- The registers of one strand (03 R125, Table 03-4; 04 R151, R154, R175). A program position is
`1024 * STORE + INDEX`; `none` is the successor of index 1,023 (R152). -/
structure Strand where
  phase   : StrandPhase
  sreg    : List Word
  areg    : List Word
  lreg    : List Nat
  pc      : Option Nat
  stack   : List (Option Nat)
  context : Nat
  line    : Option Nat
  deriving DecidableEq, Repr

/-- A strand before any launch. -/
def Strand.idle : Strand where
  phase := .idle
  sreg := List.replicate 16 0
  areg := List.replicate 8 0
  lreg := List.replicate 4 0
  pc := some 0
  stack := []
  context := 0
  line := none

/-- What an issued operation still waits for before it completes (04 R170). -/
inductive OpPhase where
  /-- its effect has taken place -/
  | done
  /-- this many fabric responses are outstanding (14 R497), or parts waiting in bandwidth buckets (10 R381) -/
  | fabric (left : Nat)
  /-- translation refused it; the refusal has not returned yet (04 R179) -/
  | refused
  /-- a router engine completes it (08 R324) -/
  | engine
  /-- an XRETURN whose rows are applied at their cells (08 R322): those of this package's own claims (engine, order) -/
  | returns (own : List (Nat × Nat))
  deriving DecidableEq, Repr

/-- An operation that a core has issued and that has not completed; `sram` is the core whose SRAM it reads (03 R117). -/
structure OutOp where
  id     : Nat
  strand : Nat
  op     : Nat
  latch  : Option (Bool × Nat)
  dest   : Option Nat
  value  : Word
  remote : Bool
  phase  : OpPhase
  sram   : Option Nat
  deriving DecidableEq, Repr

/-- An accumulator tile: FP32 or INT32 cells in row-major order of the last shape received (03 R111). -/
structure Tile where
  isInt : Bool
  cells : List Nat
  deriving DecidableEq, Repr

/-- A Culet stream buffer (03 R120, R121): its producer stream when bound, its lines oldest first, the
credits that its producer holds, the lines sent so far, and how many of the oldest lines the entry that waits for more
has already taken up, so that their credits are back at the producer (R122). -/
structure StreamBuf where
  bound   : Option StreamSpec
  lines   : List Line
  credits : Nat
  sent    : Nat
  paid    : Nat
  deriving DecidableEq, Repr

/-- An unbound buffer. -/
def StreamBuf.empty : StreamBuf := ⟨none, [], 64, 0, 0⟩

/-- A row of a running launch with the ASEQ, the committed length and the speculation epoch of its request at launch (07
R269). -/
structure LaunchRow where
  ward      : Nat
  aseq      : Nat
  first     : Nat
  count     : Nat
  committed : Nat
  epoch     : Nat
  deriving DecidableEq, Repr

/-- The launch that a core runs (10 R385): its entry point, lane, step and context, the layers it covers, the
model version it reads, whether a fault has ended it, whether it is complete and its records applied, whether a strand of
it has issued an entry, the attention heads that it works (06 R254: the first and their number), the XDISPATCH entries of
each layer that it has still to issue (R389), its rows, and what the launch maps for it (R386): the KV write aperture with its record slots, bytes and lines written, and each
strand's row list (strand, base, bytes). -/
structure Launch where
  tset    : Nat
  ep      : Nat
  lane    : Nat
  step    : Nat
  context : Nat
  first   : Nat
  last    : Nat
  newVer  : Bool
  faulted : Bool
  done    : Bool
  applied : Bool
  issued  : Bool
  heads   : Nat × Nat
  disp    : List (Nat × Nat)
  rows    : List LaunchRow
  apBase  : Nat
  slots   : List (Nat × Nat × Nat)
  apMem   : Mem
  apLines : List Nat
  lists   : List (Nat × Nat × List Byte)
  deriving DecidableEq, Repr

/-- One enabled core (03): its strands, the strand that issued most recently (R131), core latches, issued operations,
accumulator tiles and stream buffers. -/
structure Core where
  strands : List Strand
  last    : Nat
  latches : List (Nat × Nat)
  ops     : List OutOp
  nextOp  : Nat
  tiles   : List (Nat × Tile)
  bufs    : List StreamBuf
  launch  : Option Launch
  deriving DecidableEq, Repr

/-- A core before any launch. -/
def Core.empty : Core where
  strands := List.replicate 4 Strand.idle
  last := 3
  latches := []
  ops := []
  nextOp := 0
  tiles := []
  bufs := List.replicate 4 StreamBuf.empty
  launch := none

/-- The staging register of a cluster window (04 R194). -/
structure Staging where
  low     : Word
  cluster : Bool
  index   : Nat
  core    : Nat
  bcast   : Bool
  deriving DecidableEq, Repr

/-- One cluster (03, 04, 05): cluster latches, the staging register, the micro-program slots, the site records
lowered by ageing (03 R148: the three copies of CUR_LO, CUR_MID, CUR_HI, one triple per site), and what the image
fixed for it; `scrub` lists the banks whose scrub read is overdue, by enabled index and bank. -/
structure Cluster where
  clatch  : List (Nat × Nat)
  staging : Option Staging
  slots   : List (Nat × List Nat)
  cur     : List (Nat × List Nat)
  enmask  : Option Nat
  tset    : Nat
  scrub   : List (Nat × Nat)
  poisonedStore : List Nat
  deriving DecidableEq, Repr

/-- A cluster whose stores are empty and whose enable set is the default one (01 R57). -/
def Cluster.empty : Cluster where
  clatch := []
  staging := none
  slots := []
  cur := []
  enmask := none
  tset := 0
  scrub := []
  poisonedStore := []

/-- One direction of a Girdle link (03 R146) at its receiver: flits accepted, replays that the awaited flit has failed,
whether a replay has been asked for, lanes repaired by module, and whether the link is down. -/
structure Girdle where
  seq     : Nat
  fails   : Nat
  replay  : Bool
  repairs : List (Nat × Nat)
  down    : Bool
  deriving DecidableEq, Repr

def Girdle.fresh : Girdle := ⟨0, 0, false, [], false⟩

/-- The compute dies: cores and clusters by number, their stores, and local SRAM (03, 04). SRAM byte `a` of core
`c` lies at `c * 2^18 + a`; a word mark names the byte address divided by 8. Store slot `i` of core `c` lies at
`c * 1024 + i`, and of cluster `k` at `k * 1024 + i`. `girdle` is keyed by twice the Girdle link, plus one for the
direction towards the die that Table 01-3 names first. -/
structure Compute where
  cores        : List (Nat × Core)
  clusters     : List (Nat × Cluster)
  coreStore    : List (Nat × Entry)
  clusterStore : List (Nat × Entry)
  sram         : Mem
  sramPoison   : List Nat
  girdle       : List (Nat × Girdle)
  deriving DecidableEq, Repr

def Compute.empty : Compute := ⟨[], [], [], [], [], [], []⟩

/-- Page states (07 Table 07-2). -/
inductive PagePhase where
  | free | held | quarantine | zeroing
  deriving DecidableEq, Repr

/-- A page record (07 Table 07-2). `owner` is the CONTEXT-style owner: a tenant id, or 4,096 for SYS. `pooled` marks a
page of the global pool; `since` is the count of sweeps begun when the page entered QUARANTINE. -/
structure PageRec where
  gen      : Nat
  owner    : Nat
  phase    : PagePhase
  refs     : Nat
  scaleset : Nat
  inflight : Nat
  pooled   : Bool
  since    : Nat
  deriving DecidableEq, Repr

/-- A page of the global pool: zero-filled, GEN 1. -/
def PageRec.fresh : PageRec := ⟨1, 0, .free, 0, 0, 0, true, 0⟩

/-- Where a page-list entry's page is (07 Table 07-4). -/
inductive PageWhere where
  | resident | neighbour | flash | none
  deriving DecidableEq, Repr

/-- A page-list entry (07 Table 07-4). -/
structure PageRef where
  page  : Nat
  loc   : PageWhere
  gen   : Nat
  shard : Nat
  pub   : Bool
  deriving DecidableEq, Repr

/-- A page list (07 Tables 07-3, 07-4): root header fields, entries by index `b * G + g`, and the leaves allocated
(leaf index, leaf of the pool). `moving` lists the entries that a park under way moves (R292); `shards` the position shards
of the request, by first block and package (R280; none: the request is not sharded); `chainHash` the hash of the last
block in the chain (R298). -/
structure PageList where
  ttl         : Nat
  chainEntry  : Nat
  chainStamp  : Nat
  chainValid  : Bool
  parking     : Bool
  chainBlocks : Nat
  ents        : List (Nat × PageRef)
  leaves      : List (Nat × Nat)
  moving      : Option (List Nat)
  shards      : List (Nat × Nat)
  chainHash   : Nat
  deriving DecidableEq, Repr

def PageList.empty : PageList := ⟨0, 0, 0, false, false, 0, [], [], none, [], 0⟩

/-- A valid Bitting entry (07 Table 07-8) with its block record (R299). -/
structure BitEnt where
  hash    : Nat
  domain  : Nat
  model   : Nat
  adapter : Nat
  root    : Bool
  parent  : Nat
  pstamp  : Nat
  stamp   : Nat
  last    : Nat
  tokens  : List Nat
  refs    : List PageRef
  deriving DecidableEq, Repr

/-- A parked copy of a page (07 R292): its bytes by offset, its scale record, SCALESET, its tier, the loan frames that it
takes there, the CRC-32C over page and scale record, and how many page-list entries name it. -/
structure ParkedCopy where
  loc      : PageWhere
  bytes    : Mem
  scales   : List (Nat × Nat)
  scaleset : Nat
  frames   : List Nat
  crc      : Nat
  refs     : Nat
  deriving DecidableEq, Repr

/-- Bezel and the Bitting table (07). Scale bytes are keyed `(page * 16 + layer) * 64 + k`; `stamps` holds the last
STAMP of every slot that has been filled; `resv` the pages reserved per ward index; the pages of an owner's free list
are those FREE and not pooled; `matched` holds the match facts for the next exchange, `lookups` the requests whose
lookup is due, `expired` the caches expired since the latest sweep, `expFlags` the sticky arithmetic flags of the
expanders by number (02 R79). -/
structure Bezel where
  pages    : List (Nat × PageRec)
  scales   : List (Nat × Nat)
  lists    : List (Nat × PageList)
  leafUsed : List Nat
  bitting  : List (Nat × BitEnt)
  stamps   : List (Nat × Nat)
  setsUsed : List Nat
  domains  : List (Nat × Nat)
  parked   : List (Nat × ParkedCopy)
  nextPark : Nat
  resv     : List (Nat × Nat)
  sweeps   : Nat
  matched  : List (Nat × Nat × Nat)
  lookups  : List Nat
  expired  : Nat
  expFlags : List (Nat × BitVec 5)
  deriving DecidableEq, Repr

def Bezel.empty : Bezel := ⟨[], [], [], [], [], [], [], [], [], 0, [], 0, [], [], 0, []⟩

/-- A slot that an XDISPATCH has claimed (08 R317): the claim's number at this engine, token, slot, expert, identity;
whether its outcome has come and whether its row has been applied. -/
structure SlotState where
  order   : Nat
  token   : Nat
  slot    : Nat
  expert  : Nat
  weight  : Nat
  ward    : Nat
  pos     : Nat
  decided : Bool
  dropped : Bool
  applied : Bool
  deriving DecidableEq, Repr

/-- An XDISPATCH in progress at its source engine (08 R314-R324): the issuing core and operation, the strand and its
CONTEXT, the token count, the register values that locate its data, whether it has completed, and its slots. -/
structure Dispatch where
  core    : Nat
  op      : Nat
  strand  : Nat
  ctx     : Nat
  tokens  : Nat
  k       : Nat
  sel     : Word
  act     : Word
  cells   : Word
  drop    : Word
  cstride : Nat
  anchor  : Int
  ended   : Bool
  slots   : List SlotState
  deriving DecidableEq, Repr

/-- A source engine's open group of a step's layer: its XDISPATCH entries, and whether it is sealed. -/
structure SrcGroup where
  step     : Nat
  layer    : Nat
  closed   : Bool
  disps    : List Dispatch
  deriving DecidableEq, Repr

/-- A granted expert of a decided group: the claims in buffer order and the rows written so far. -/
structure Granted where
  expert : Nat
  claims : List Claim
  rows   : List Nat
  ready  : Bool
  deriving DecidableEq, Repr

/-- An owner engine's group of a step's layer (08 R315-R320); `total` is T. -/
structure OwnGroup where
  step    : Nat
  layer   : Nat
  claims  : List Claim
  seals   : List Seal
  decided : Bool
  total   : Nat
  grants  : List Granted
  deriving DecidableEq, Repr

/-- A router engine (08 Table 08-3): XDISPATCH entries still expected by step * 256 + layer, its open groups as source and
as owner, the order number of its next claim, and the latest closed group of each layer (a row returned twice is added
twice, R322). -/
structure Engine where
  expected : List (Nat × Nat)
  src      : List SrcGroup
  own      : List OwnGroup
  order    : Nat
  past     : List SrcGroup
  deriving DecidableEq, Repr

def Engine.empty : Engine := ⟨[], [], [], 0, []⟩

/-- The router engines (08), by number 0-3, and the dropped slots counted per ward index (R317). -/
structure Router where
  engines : List (Nat × Engine)
  drops   : List (Nat × Nat)
  deriving DecidableEq, Repr

def Router.empty : Router := ⟨[], []⟩

/-- Ward states (09 Table 09-1). -/
inductive WardPhase where
  | free | admitted | prefill | decode | verify | paused | parked | adapterWait | pageWait | held | done | failed
  deriving DecidableEq, Repr

/-- A ward entry (09 Table 09-1). `adapterId` and `held` are the Warden's own: the manifest id of the adapter, and
the state that HELD returns to. -/
structure WardEntry where
  phase       : WardPhase
  tenant      : Nat
  sys         : Bool
  cls         : Nat
  level       : Nat
  doomed      : Bool
  forked      : Bool
  specEn      : Bool
  adpEn       : Bool
  spill       : Bool
  rebuild     : Bool
  keep        : Bool
  ackReq      : Bool
  deadline    : Nat
  committed   : Nat
  speclen     : Nat
  epoch       : Nat
  adapter     : Nat
  plist       : Nat
  model       : Nat
  keepTtl     : Nat
  tlen        : Nat
  limit       : Nat
  interval    : Nat
  admitTime   : Nat
  home        : Nat
  krSize      : Nat
  outstanding : Nat
  aseq        : Nat
  nextSeq     : Nat
  transcript  : Nat
  origin      : Origin
  adapterId   : Nat
  held        : WardPhase
  deriving DecidableEq, Repr

/-- A FREE entry. -/
def WardEntry.freed : WardEntry :=
  ⟨.free, 0, false, 0, 0, false, false, false, false, false, false, false, false, 0, 0, 0, 0, 0, 0, 0, 0, 0, 0, 0, 0, 0,
   0, 0, 0, 0, 0, .pcie 0 0, 0, .free⟩

/-- The home package's delivery of one Keyring (09 R349-R353): the ASEQ that it serves, the sequences written, copied out,
completed, acknowledged and reported by KDRAIN, the sequence of the END or ERROR entry (0: none), whether delivery
has failed and whether RELEASE has been sent; DEST_ADDR, DEST_KEY and DEST_QP. -/
structure Delivery where
  aseq      : Nat
  written   : Nat
  copied    : Nat
  completed : Nat
  delivered : Nat
  drained   : Nat
  endSeq    : Nat
  failed    : Bool
  released  : Bool
  destAddr  : Nat
  destKey   : Nat
  destQp    : Nat
  deriving DecidableEq, Repr

def Delivery.none : Delivery := ⟨0, 0, 0, 0, 0, 0, 0, false, false, 0, 0, 0⟩

/-- An admission or RESUME whose prompt is being read at the home package (09 R333, R348). -/
structure PromptRead where
  desc   : Nat
  origin : Origin
  subseq : Nat
  extent : Nat
  deriving DecidableEq, Repr

/-- A descriptor whose completion the home package still owes: its origin, SUBSEQ, OP and words, the tokens that a RESUME
appends (09 R348); `lost` says that a function-level reset has met its origin since (15 R526). -/
structure Owed where
  origin : Origin
  subseq : Nat
  op     : Nat
  desc   : Nat
  tokens : List Nat
  lost   : Bool
  deriving DecidableEq, Repr

/-- The ward table, the order stream and the Keyrings (09). `extents` lists the transcript extents in use (start and
length in 4 KiB units); `queue` the records that have reached the ordering package since the last cut; `batches`
the batches that wait to be applied; `lastApply` the apply time of the latest applied batch; `counted` the PARKED,
READY and ADAPTER_READY records by (kind code, ward index or slot, package); `entCopy` the eight WRD_ENT words; `failing`
the failed entries (ward index, cause) whose ERROR entry follows the tokens of a step still in flight (R343). -/
structure Ward where
  entries   : List (Nat × WardEntry)
  extents   : List (Nat × Nat)
  reads     : List PromptRead
  owed      : List Owed
  queue     : List OrderRecord
  nextBatch : Nat
  nextAseq  : Nat
  lastCut   : Nat
  batches   : List Batch
  lastApply : Option Nat
  counted   : List (Nat × Nat × Nat)
  deliv     : List (Nat × Delivery)
  entWanted : Bool
  entCopy   : Nat
  failing   : List (Nat × Nat)
  deriving DecidableEq, Repr

def Ward.empty : Ward := ⟨[], [], [], [], [], 1, 1, 0, [], none, [], [], false, 0, []⟩

/-- A decision of a step (10 R390): ward index, ASEQ, kind (0 chunk, 1 decode row, 2 verification row, 3 park,
4 spill, 5 expiry, 6 spilled resume), DOOMED, taken in pass 1, FIRST, COUNT, EPOCH, and the drafts of the row. -/
structure Decision where
  ward   : Nat
  aseq   : Nat
  kind   : Nat
  doomed : Bool
  pass1  : Bool
  first  : Nat
  count  : Nat
  epoch  : Nat
  drafts : Nat
  deriving DecidableEq, Repr

/-- A lane (10 Table 10-1): the step in flight (0: none), its decisions and digest, whether this package has sent its
exchange, the exchanges received, the local facts that the next boundary of the lane applies (R365), and the slots dropped
per ward index that were recorded with the step's results (08 R317). -/
structure Lane where
  step      : Nat
  decisions : List Decision
  digest    : Nat
  sent      : Bool
  exch      : List StepExchange
  facts     : List (Nat × Nat × Nat)
  reports   : List (Nat × Nat × Nat)
  drops     : List (Nat × Nat)
  deriving DecidableEq, Repr

def Lane.empty : Lane := ⟨0, [], 0, false, [], [], [], []⟩

/-- What the Warden remembers of a request: whether its match count has been applied (R369), whether a restore is
under way, the cause of the latest step that left it out (R376), whether pass 1 took it in the latest step of its
lane (R383), whether a park has been ordered, whether its adapter slot is pinned, and whether its next step is the
hinge step's. -/
structure WardInfo where
  matched    : Bool
  restoring  : Bool
  leftOut    : Option Nat
  pass1      : Bool
  parkWanted : Bool
  pinned     : Bool
  deriving DecidableEq, Repr

def WardInfo.fresh : WardInfo := ⟨false, false, none, false, false, false⟩

/-- Where the data of a read or an old value goes (14 Table 14-9): nowhere, a register, local SRAM (core, address), or a
device-virtual range (context, address). -/
inductive Sink where
  | none
  | reg
  | sram (core addr : Nat)
  | virt (ctx va : Nat)
  deriving DecidableEq, Repr

/-- Who issued a fabric request (14 Table 14-10 USERS). -/
inductive Agent where
  /-- a strand or cluster DMA operation of a core -/
  | coreOp (core : Nat) (op : Nat)
  | router
  | bezel
  | hinge
  | tiers
  deriving DecidableEq, Repr

/-- A fabric request of an access to a loan frame (14 R495): the frame, the sink of its data, the offset in the frame, OP,
granules, mask and payload. -/
structure LoanReq where
  frame : Nat
  sink  : Sink
  off   : Nat
  op    : Nat
  ng    : Nat
  mask  : Nat
  data  : List Line
  deriving DecidableEq, Repr

/-- A request that waits in a bandwidth bucket (10 R381): who made it, the counter and bytes of its charge, ordering, and
its fabric requests. -/
structure HeldReq where
  agent   : Agent
  counter : Nat
  bytes   : Nat
  ord     : Bool
  reqs    : List LoanReq
  deriving DecidableEq, Repr

/-- A bandwidth bucket (10 R381): bytes left, and the requests held. -/
structure Bucket where
  left : Nat
  held : List HeldReq
  deriving DecidableEq, Repr

/-- The Warden (10): its three lanes, what it remembers of each request, the headroom reports applied (package,
HEADROOM, REPORT_STEP), the pages reserved by step (step, package, pages), the pages of every request on each
package, and the buckets keyed by controller or port * 16 + class (fabric ports from 24). -/
structure Warden where
  lanes    : List (Nat × Lane)
  info     : List (Nat × WardInfo)
  headroom : List (Nat × Nat × Nat)
  reserved : List (Nat × Nat × Nat)
  buckets  : List (Nat × Bucket)
  deriving DecidableEq, Repr

def Warden.empty : Warden := ⟨[], [], [], [], []⟩

/-- The tiers of a translation leaf (11 Table 11-3). -/
inductive Tier where
  | hbm | neighbour | flash
  deriving DecidableEq, Repr

/-- A valid translation leaf (11 Table 11-3) with its heat, the bytes of traffic not yet counted as heat (R407) and
the device time since which the page has been in its tier (R408). FRAME of a NEIGHBOUR leaf is `512 * slot + frame`. -/
structure Leaf where
  write    : Bool
  tier     : Tier
  pclass   : Nat
  moving   : Bool
  lost     : Bool
  roShared : Bool
  frame    : Nat
  heat     : Nat
  traffic  : Nat
  since    : Nat
  deriving DecidableEq, Repr

/-- A migration under way (11 R409): the page, its destination, the blocks written since the last pass began, the passes
completed, whether accesses are held for the final copy, and the blocks that the pass under way copies (none: every one). -/
structure Migration where
  page    : Nat
  tier    : Tier
  frame   : Nat
  dirty   : List Nat
  pass    : Nat
  held    : Bool
  copying : Option (List Nat)
  deriving DecidableEq, Repr

/-- A loan held as borrower (11 R413): the lender, the unit's device-physical base there. -/
structure Loan where
  lender : Nat
  base   : Nat
  deriving DecidableEq, Repr

/-- A mapping command under way (11 R404): the status that it completes with, the pages it affected, and whether it
still waits for a loan. -/
structure MapCmd where
  status  : Nat
  pages   : Nat
  waiting : Bool
  deriving DecidableEq, Repr

/-- The memory tiers (11): HBM bytes by device-physical address with poisoned granules (R608), the
correctable errors seen (frame; granule, device time), the translation leaves of every context (key: context * 2^36 + VPN), the allocated frames of
the general pool, the frames awaiting zeroing (loan frames from 786,432), migrations, loans held and units lent.
`loanMem` is what this package has written to the loans it holds (slot * 2^30 + offset, log entry 12); `asked` is
the index of the lender asked, `denied` says that every lender has denied, `demoting` that demotion runs (R408);
`scrubPos` counts the granules that each stack's scrubber has read. -/
structure Tiers where
  hbm        : Mem
  hbmPoison  : List Nat
  corrLog    : List (Nat × List (Nat × Nat))
  leaves     : List (Nat × Leaf)
  used       : List Nat
  zeroing    : List Nat
  migs       : List Migration
  loans      : List (Nat × Loan)
  asked      : Option Nat
  denied     : Bool
  demoting   : Bool
  lent       : List (Nat × Nat)
  loanMem    : Mem
  loanPoison : List Nat
  mapCmd     : Option MapCmd
  evacuating : Bool
  scrubPos   : List (Nat × Nat)
  sharedHeat : List (Nat × Nat × Nat)
  deriving DecidableEq, Repr

def Tiers.empty : Tiers := ⟨[], [], [], [], [], [], [], [], none, false, false, [], [], [], none, false, [], []⟩

/-- A NAND block (11 R424): whether it is good, its erase count, reads since erase, the logical granules whose valid
copy it holds, and the granules programmed since its erase (0: a free block). -/
structure FlashBlock where
  good    : Bool
  erases  : Nat
  reads   : Nat
  valid   : List Nat
  written : Nat
  deriving DecidableEq, Repr

/-- A block that has never been written. -/
def FlashBlock.fresh : FlashBlock := ⟨true, 0, 0, [], 0⟩

/-- A granule in the write buffer (11 R422): logical granule, owner, write sequence, and whether its writer waits for
it to be programmed. -/
structure BufGranule where
  granule : Nat
  owner   : Nat
  seq     : Nat
  durable : Bool
  deriving DecidableEq, Repr

/-- A relocation waiting to run (11 R424, R425): the block, and whether it has risen to level 2. -/
structure Relocation where
  block  : Nat
  urgent : Bool
  deriving DecidableEq, Repr

/-- The flash controller and translation layer (11): blocks by channel * 2^24 + number, the map from logical granule
to block (absent: unwritten), lost granules, the bytes of every written granule (granule * 16384 + offset) with
poisoned 64-byte units, owners and sequences of programmed granules, the write buffer in order of acceptance, logical
units in use, relocations, the latest map checkpoint and the one before it (map and sequence), the channel that
takes the next granule, and the bytes and poison as the NAND holds them (what a loss of the write buffer leaves). -/
structure Flash where
  blocks   : List (Nat × FlashBlock)
  map      : List (Nat × Nat)
  lost     : List Nat
  data     : Mem
  poison   : List Nat
  owner    : List (Nat × Nat)
  seqOf    : List (Nat × Nat)
  seq      : Nat
  buffer   : List BufGranule
  units    : List Nat
  reloc    : List Relocation
  ckptMap  : List (Nat × Nat)
  ckptSeq  : Nat
  prevMap  : List (Nat × Nat)
  prevSeq  : Nat
  nextChan : Nat
  media    : Mem
  mediaBad : List Nat
  deriving DecidableEq, Repr

def Flash.empty : Flash := ⟨[], [], [], [], [], [], [], 0, [], [], [], [], 0, [], 0, 0, [], []⟩

/-- Adapter slot states (12 R453). -/
inductive SlotPhase where
  | empty | loading | ready
  deriving DecidableEq, Repr

/-- An adapter slot (12 R453-R457): the adapter id, its state, the DOMAIN, PUBLIC, RANK and VERSION of the loaded
manifest, and the step number of its last pin release. -/
structure AdapterSlot where
  id       : Nat
  phase    : SlotPhase
  domain   : Nat
  pub      : Bool
  rank     : Nat
  version  : Nat
  released : Nat
  deriving DecidableEq, Repr

def AdapterSlot.empty : AdapterSlot := ⟨0, .empty, 0, false, 0, 0, 0⟩

/-- An open shard request (12 R434-R437): the destination (0 the live copy, 1 staging, 2 + n adapter slot n), the shard
index, the source (0 a package, 1 the stash, 2 the host), the ALIVE expected, whether it is the first of its request,
whether it has been sent (the host's ring may be full), whether the host has rung its doorbell, and the sources tried
since it failed (`refetch` says that it has failed). -/
structure Fetch where
  dest    : Nat
  index   : Nat
  source  : Nat
  alive   : Nat
  first   : Bool
  sent    : Bool
  rung    : Bool
  refetch : Bool
  tried   : List Nat
  deriving DecidableEq, Repr

/-- The Hinge loader (12): adapter slots, verified shards (dest * 2^20 + index), open requests, the next start value
of ALIVE, the gates held (layer, package) and sent, the hinge step (lane, step), the stash (SHA-384 values), the
adapter manifests read by slot, and whether new-version launches are gated (R448). -/
structure Hinge where
  slots     : List (Nat × AdapterSlot)
  verified  : List Nat
  fetches   : List Fetch
  nextAlive : Nat
  passed    : List (Nat × Nat)
  committed : List (Nat × Nat)
  passSent  : List Nat
  hingeStep : Option (Nat × Nat)
  stash     : List Nat
  manifests : List (Nat × Nat)
  gating    : Bool
  deriving DecidableEq, Repr

def Hinge.empty : Hinge := ⟨[], [], [], 0, [], [], [], none, [], [], false⟩

/-- A running Assay scan (13 R464): the CTL, START, LEN, ALIVE and EXPECT values latched at GO, and the shard that the
loader scans with it, if the loader holds the engine. -/
structure Scan where
  ctl    : Nat
  start  : Nat
  len    : Nat
  alive  : Nat
  expect : Nat
  shard  : Option Nat
  deriving DecidableEq, Repr

/-- The Assay engines (13): running scans, what CONT continues from (POLY and register, of scans that ended with
DONE_OK), the engines that the loader holds, and the shards that it has still to verify (R477). -/
structure Assay where
  scans : List (Nat × Scan)
  chain : List (Nat × Nat × Nat)
  held  : List Nat
  queue : List Nat
  deriving DecidableEq, Repr

def Assay.empty : Assay := ⟨[], [], [], []⟩

/-- Fabric port states (14 Table 14-4). -/
inductive PortPhase where
  | disabled | training | up | held | retrain | recal | overload | down | recable
  deriving DecidableEq, Repr

/-- A flit held for replay or waiting to be sent (14 Table 14-2): its sequence when sent, virtual channel and
packet, with the transit fields; while it waits, `vc` is its channel's class A and the transit fields are as it came,
and `slot` names the receive slot that it holds (input port, channel, shared); `resent` counts its resends without
acknowledgement (R484). -/
structure Flit where
  seq     : Nat
  vc      : Nat
  shared  : Bool
  header  : BitVec 256
  payload : List Line
  hops    : Nat
  curDim  : Nat
  crossed : Bool
  slot    : Option (Nat × Nat × Bool)
  resent  : Nat
  deriving DecidableEq, Repr

/-- One fabric port (14): link state of both directions, replay buffer, credits held per virtual channel and for
shared slots, receive slots in use and the six credit returns owed, waiting flits, and the calibration and overload marks. -/
structure Port where
  phase     : PortPhase
  nextSeq   : Nat
  acked     : Nat
  replay    : List Flit
  expSeq    : Nat
  nak       : Bool
  sinceAck  : Nat
  credits   : List Nat
  sharedCr  : Nat
  rxUsed    : List Nat
  rxShared  : Nat
  owed      : List Nat
  waiting   : List Flit
  fails     : Nat
  overlit   : Bool
  recalDue  : Bool
  farId     : Nat
  farPort   : Nat
  farPart   : Nat
  lanes     : Nat
  lost      : Nat
  deriving DecidableEq, Repr

/-- A port after reset: dark, with a full set of credits (32 reserved slots of each channel, 2,912 shared). -/
def Port.reset : Port where
  phase := .disabled
  nextSeq := 0
  acked := 65535
  replay := []
  expSeq := 0
  nak := false
  sinceAck := 0
  credits := List.replicate 5 32
  sharedCr := 2912
  rxUsed := List.replicate 5 0
  rxShared := 0
  owed := List.replicate 6 0
  waiting := []
  fails := 0
  overlit := false
  recalDue := false
  farId := 0
  farPort := 0
  farPart := 0
  lanes := 0
  lost := 0

/-- An outstanding fabric request (14 R497, R499). -/
structure FabReq where
  tag   : Nat
  dest  : Nat
  op    : Nat
  addr  : Nat
  len   : Nat
  agent : Agent
  sink  : Sink
  deriving DecidableEq, Repr

/-- An egress block (14 R505): its window and block number, the bytes written by offset in the block (of a fetch: bytes
of neighbouring blocks that a read across their border has fetched, by offset in the window), the acknowledgements owed
(source package, tag), the reads waiting for its fetch (source package, tag, offset, length), whether it has been sent,
whether it is a fetch, and its RDMA operations in flight. -/
structure EgressBlock where
  ewin    : Nat
  block   : Nat
  bytes   : Mem
  acks    : List (Nat × Nat)
  reads   : List (Nat × Nat × Nat × Nat)
  sent    : Bool
  fetch   : Bool
  ops     : Nat
  deriving DecidableEq, Repr

/-- The Sunded fabric (14): ports, route entries, window entries (0-1,023 loans, the rest from the image), egress
windows, outstanding requests, and open egress blocks, oldest first. -/
structure Fabric where
  ports   : List (Nat × Port)
  routes  : List (Nat × Nat)
  windows : List (Nat × Nat)
  ewins   : List (Nat × Nat)
  reqs    : List FabReq
  nextTag : Nat
  egress  : List EgressBlock
  deriving DecidableEq, Repr

def Fabric.empty : Fabric := ⟨[], [], [], [], [], 0, []⟩

/-- One submission and completion queue pair of a function (15 R515-R518). -/
structure HostQueue where
  head    : Nat
  tail    : Nat
  cqTail  : Nat
  cqHead  : Nat
  phase   : Bool
  subseq  : Nat
  owed    : Nat
  unread  : Nat
  stopped : Bool
  resetAt : Bool
  deriving DecidableEq, Repr

def HostQueue.reset : HostQueue := ⟨0, 0, 0, 0, true, 0, 0, 0, false, false⟩

/-- An event queue or the Hinge request ring (15 R521): tail, head and phase; entries in use. -/
structure Ring where
  tail  : Nat
  head  : Nat
  phase : Bool
  deriving DecidableEq, Repr

def Ring.reset : Ring := ⟨0, 0, true⟩

/-- The dynamic state of a RoCE queue pair (15 R531-R534): `err` is ERROR; the PSNs; retries used; the sending rate
in Mb/s; completions owed and unread; ring positions; the device time of the latest notification sent. -/
structure QPair where
  err     : Bool
  sendPsn : Nat
  recvPsn : Nat
  ackPsn  : Nat
  retries : Nat
  rate    : Nat
  subseq  : Nat
  owed    : Nat
  written : Nat
  cqHead  : Nat
  events  : Nat
  eqHead  : Nat
  lastCnp : Option Nat
  deriving DecidableEq, Repr

def QPair.reset : QPair := ⟨false, 0, 0, 0, 0, 1600000, 0, 0, 0, 0, 0, 0, none⟩

/-- A received PTP frame (15 R540). -/
structure PtpFrame where
  bytes : List Byte
  time  : Nat
  sub   : Bool
  deriving DecidableEq, Repr

/-- The host interface, Ethernet gateway and time base (15). Queues are keyed `64 * function + q`; queue-pair
entries are the records of Table 15-6. `perst` says that PERST# is asserted; `ptpTx` holds the transmit buffers and
`ptpSend` the frames being sent. -/
structure HostIf where
  queues   : List (Nat × HostQueue)
  events   : List (Nat × Ring)
  hreq     : Ring
  msixPend : List Nat
  linkUp   : Bool
  perst    : Bool
  qpEntry  : List (Nat × Nat)
  qps      : List (Nat × QPair)
  ptpTx    : List (Nat × List Byte)
  ptpSend  : List (Nat × List Byte)
  ptpRx    : List (Nat × List PtpFrame)
  portRec  : List (Nat × Nat)
  deriving DecidableEq, Repr

def HostIf.empty : HostIf := ⟨[], [], Ring.reset, [], false, true, [], [], [], [], [], []⟩

/-- The time base (15 R535-R537): 0.4 ns ticks since AUX came up as the time loads have left them, whether the next
edge is accepted wherever it falls, the error being removed (ns, signed) and the ticks of its 100 ms that have passed,
whether an edge was accepted in the present second, and REFCLK present. -/
structure TimeBase where
  ticks     : Nat
  firstEdge : Bool
  slew      : Int
  slewPos   : Nat
  refclk    : Bool
  seenEdge  : Bool
  deriving DecidableEq, Repr

def TimeBase.reset : TimeBase := ⟨0, true, 0, 0, true, false⟩

/-- A record array of an image section (16 R545): its kind, the image offset of its first record, and its records as
little-endian numbers. -/
structure CfgArray where
  kind    : Nat
  pos     : Nat
  recs    : List Nat
  deriving DecidableEq, Repr

/-- An image section (16 R545). -/
structure CfgSection where
  type   : Nat
  items  : List (Nat × Nat)
  arrays : List CfgArray
  deriving DecidableEq, Repr

/-- A parsed configuration image (16 R542): header and sections in directory order, the SHA-384 of the whole
image (R549), and the device-physical address at which the configuration carve-out holds it. -/
structure CfgImage where
  header   : Nat
  sections : List CfgSection
  hash     : Nat
  base     : Nat
  deriving DecidableEq, Repr

/-- A load under way (16 R549): the base and length at LOAD, and what pass 1 keeps: the header and the hash. -/
structure Loading where
  addr   : Nat
  len    : Nat
  header : Nat
  hash   : Nat
  deriving DecidableEq, Repr

/-- Configuration and start-up (16): the active and shadow sets, the load under way, which half of the configuration
carve-out holds the active set, the commits announced by packages (package, GEN), the packages that sent JOB_READY
(package, GEN), whether a commit is due, the time of the boundaries that resume after its swap, a commit that software has asked for,
the clusters still to be reloaded, whether the HBM stacks are trained, and whether start-up follows a warm reset. -/
structure Cfg where
  active   : Option CfgImage
  shadow   : Option CfgImage
  loading  : Option Loading
  upper    : Bool
  ready    : List (Nat × Nat)
  jobReady : List (Nat × Nat)
  due      : Bool
  resume   : Option Nat
  wanted   : Bool
  reloads  : List Nat
  trained  : Bool
  warm     : Bool
  deriving DecidableEq, Repr

def Cfg.empty : Cfg := ⟨none, none, none, false, [], [], false, none, false, [], false, false⟩

/-- The operating point of a cluster (17 R579-R585): present VDD and regulator target in 10 mV, the frequency of R579
present clock in 5 MHz, whether a droop has doubled the clock period, and the device time at which it entered DOZE or
DEEP. -/
structure ClusterPower where
  vdd    : Nat
  target : Nat
  flim   : Nat
  freq   : Nat
  droop  : Bool
  since  : Nat
  deriving DecidableEq, Repr

/-- A cluster regulator that is off. -/
def ClusterPower.off : ClusterPower := ⟨0, 0, 0, 0, false, 0⟩

/-- The power and thermal controller (17): operating points by cluster, thermal limits by die (5 MHz units; absent:
none) and the dies held by overtemperature, sensor readings in quarter degrees (clusters by number, Gateway dies from
512, stacks from 516, optical engines from 540), the sensors discarded, Gateway dies, stacks and engines that a
threshold holds (same numbers), stacks at the doubled refresh rate, the input samples of the window (newest first,
in 10 uW), the energy not yet a whole uJ, the periods counted for R589 and R592, the undervoltage cap, a loss of
power, a Deadbolt trip, and the mirrors of the /M registers by offset (21 R682). -/
structure Power where
  clusters  : List (Nat × ClusterPower)
  limits    : List (Nat × Nat)
  hot       : List Nat
  temps     : List (Nat × Int)
  discarded : List Nat
  throttled : List Nat
  refresh2  : List Nat
  samples   : List Nat
  energyRem : Nat
  under     : Nat
  above     : Nat
  undervolt : Bool
  lost      : Bool
  tripped   : Bool
  broken    : Bool
  mirror    : List (Nat × Word)
  deriving DecidableEq, Repr

def Power.empty : Power := ⟨[], [], [], [], [], [], [], [], 0, 0, 0, false, false, false, false, []⟩

/-- A FAULT record of a dump (18 Table 18-6): cause, device time, die, cluster, core, strand, detail. -/
structure FaultRec where
  cause   : Nat
  time    : Nat
  die     : Nat
  cluster : Nat
  core    : Nat
  strand  : Nat
  detail  : Nat
  deriving DecidableEq, Repr

/-- A dump slot's content (18 Table 18-4): OWN, cause, episode, the time of the fault and its records. -/
structure DumpSlot where
  own     : Nat
  cause   : Nat
  episode : Nat
  time    : Nat
  bytes   : List Byte
  deriving DecidableEq, Repr

/-- Faults and recovery (18): the fault records of the episode, the dump still to start once the cores have stopped
(its OWN), the dumps being written (slot, OWN), whether the delivery window and the grace of R617 have ended, whether
a dump has been finished or skipped, the slots' contents, the frame retirement list, the Gateway dies lost (01 R46),
and what a dump reads: the digest records of the latest 64 steps of each lane and the latest 256 batches applied. -/
structure FaultSt where
  recs      : List FaultRec
  want      : Option Nat
  dumping   : List (Nat × Nat)
  windowEnd : Bool
  graceEnd  : Bool
  dumped    : Bool
  slots     : List (Nat × DumpSlot)
  retired   : List Nat
  lostGw    : List Nat
  digests   : List (Nat × List Byte)
  batches   : List Batch
  deriving DecidableEq, Repr

def FaultSt.empty : FaultSt := ⟨[], none, [], true, true, true, [], [], [], [], []⟩

/-- An operation that waits for the Padlock island (19 R631): PDL_CMD's OP, SLOT and KEY, its source (0 the PF, 1 JTAG),
and the token that JTAG has shifted in. -/
structure PdlOp where
  op    : Nat
  slot  : Nat
  key   : Nat
  src   : Nat
  token : List Byte
  deriving DecidableEq, Repr

/-- The Padlock island (19): the /T fields in three copies (LIFE, the SVN count, FUSED bits of PDL_SLOTS, DEBUG); the
fused digests of the key slots and the pairs in the key block; the tenant flash keys (context, number of the random
draw), the SYS flash key (STASH_ID and debug code it derives from), the debug code that the derived keys were made
under, and measurements 1, 2 and 5 as the alias certificate of the latest reset has them (R641); the nonce; the random draws made; the operations waiting, first in first out; the firmware: the copies in
boot NOR, the copy that runs and its digest; and the JTAG instruction register, data register and boundary
latches. -/
structure Padlock where
  life      : List Nat
  svn       : List Nat
  fused     : List Nat
  debug     : List Nat
  digests   : List (Nat × Nat)
  pairs     : List (Nat × List Byte)
  flashKeys : List (Nat × Nat)
  sysKey    : Option (Nat × Nat)
  derived   : Option Nat
  cert      : List Nat
  nonce     : Option Nat
  draws     : Nat
  queue     : List PdlOp
  nor       : List (Nat × List Byte)
  running   : Nat
  fwDigest  : Nat
  jtagIr    : Nat
  jtagDr    : Nat
  boundary  : Nat
  deriving DecidableEq, Repr

/-- The island of a part as shipped (19 R634): PROVISION, no slot programmed, debug CLOSED. -/
def Padlock.empty : Padlock where
  life := [0x5A5A, 0x5A5A, 0x5A5A]
  svn := [0, 0, 0]
  fused := [0, 0, 0]
  debug := [0x0F0F, 0x0F0F, 0x0F0F]
  digests := []
  pairs := []
  flashKeys := []
  sysKey := none
  derived := none
  cert := []
  nonce := none
  draws := 0
  queue := []
  nor := []
  running := 0
  fwDigest := 0
  jtagIr := 1
  jtagDr := 0
  boundary := 0

/-- Telemetry, trace and management (20): the counters by id, the four holding sets (R652), the sets that are still
filling with what they have latched, SEQ of set 1 and the requester that waits for it, samples taken and the sampler's
history of power and Tj (oldest first, R654); the trace buffer (oldest first), the time of the latest TIMESYNC written,
the records lost per source since its last LOSS (R659); the dynamic address and endpoint id of the management endpoint
(0: none assigned, R661, R662); and the console's receive FIFO (R668). -/
structure Tel where
  counters : List (Nat × Nat)
  hold     : List (Nat × List (Nat × Nat))
  filling  : List (Nat × List (Nat × Nat))
  seq1     : Nat
  snapReq  : Option Nat
  samples  : Nat
  history  : List (Nat × Nat)
  trace    : List Nat
  lastSync : Option Nat
  lossy    : List (Nat × Nat)
  i3cAddr  : Option Nat
  eid      : Nat
  rxFifo   : List Byte
  deriving DecidableEq, Repr

def Tel.empty : Tel := ⟨[], [], [], 0, none, 0, [], [], none, [], none, 0, []⟩

/-- Messages on the MGMT virtual channel and the order stream, by name (the spec gives no codes for them). -/
inductive Msg where
  | loanReq | loanGrant | loanDeny | loanReturn
  | jobFault | orderRecord | batch | stepExchange
  | hingePassed | hingeCommitted
  | claim | shareSeal | outcome | row | returnRow
  deriving DecidableEq, Repr

/-- What the package sends to the outside world; `State.out` records it in order (the model's own field). -/
inductive OutKind where
  /-- a management message: destination package, then the message's items -/
  | mgmt (m : Msg)
  /-- a fabric flit sent on a port -/
  | flit
  /-- a fabric response: destination package, tag, status, data -/
  | response
  /-- a fabric request: destination package, tag, OP, address, data -/
  | request
  /-- a write to host memory by DMA: function, address, bytes -/
  | hostWrite
  /-- a DMA read request: function, address, length -/
  | hostRead
  /-- a PCIe completion: data or status -/
  | pcie
  /-- an MSI-X message: function, vector -/
  | msix
  /-- an RDMA WRITE or READ: queue pair, remote address, key, bytes -/
  | rdmaWrite
  | rdmaRead
  /-- a RoCE acknowledgement, NAK or congestion notification: queue pair, kind -/
  | roce
  /-- a PTP frame sent: port, bytes -/
  | ptp
  /-- a management answer on I3C (MCTP, PLDM, SPDM): message type, bytes -/
  | i3c
  /-- a console answer -/
  | console
  /-- bits shifted out of the JTAG port -/
  | jtag
  /-- a pin changes level: 0 FAULT_N, 1 THERMTRIP_N, 2 PWR_KILL_N, 3 REFRESH or other -/
  | pin
  /-- the value that a register read returned -/
  | readData
  /-- a core's report to the Warden -/
  | report
  /-- a request to a shard source (12 R434): source kind, package, destination, shard, start value of ALIVE -/
  | shardRequest
  deriving DecidableEq, Repr

/-- One output. -/
structure Out where
  kind : OutKind
  args : List Nat
  deriving DecidableEq, Repr

/-- Why the model stops with a fault: it has no reason to, every command of the spec has an effect or none. -/
inductive Fault where
  deriving DecidableEq, Repr

/-- Why the model refuses a command. -/
inductive Refusal where
  /-- The command has no meaning yet. Raised only by the dispatch. Safe: nothing is claimed of it. -/
  | notModelled (mnemonic : String)
  deriving DecidableEq, Repr

/-- The whole state. -/
structure State where
  /-- the commands that wait, first in, first out -/
  pending : List Instr
  /-- the model's own: free values taken so far -/
  fresh   : Nat
  /-- the model's own: what the package has sent out, oldest first -/
  out     : List Out
  /-- registers as they are held, by BAR0 offset (function-relative ones add 0x800_0000 times the function) -/
  regs    : List (Nat × Word)
  comp    : Compute
  tiers   : Tiers
  flash   : Flash
  fab     : Fabric
  host    : HostIf
  time    : TimeBase
  cfg     : Cfg
  fault   : FaultSt
  bezel   : Bezel
  router  : Router
  ward    : Ward
  warden  : Warden
  hinge   : Hinge
  assay   : Assay
  power   : Power
  padlock : Padlock
  tel     : Tel
  deriving DecidableEq, Repr

/-- The block right after power-on reset: every register at its Reset column, every table empty. -/
def State.reset : State where
  pending := []
  fresh := 0
  out := []
  regs := []
  comp := Compute.empty
  tiers := Tiers.empty
  flash := Flash.empty
  fab := Fabric.empty
  host := HostIf.empty
  time := TimeBase.reset
  cfg := Cfg.empty
  fault := FaultSt.empty
  bezel := Bezel.empty
  router := Router.empty
  ward := Ward.empty
  warden := Warden.empty
  hinge := Hinge.empty
  assay := Assay.empty
  power := Power.empty
  padlock := Padlock.empty
  tel := Tel.empty

end Sys2Proof.Machine
end

