-- ==== Sys2Proof/Machine/Ops.lean ====
section
/-!
DEFINITION. The named operations that every family shares: tables, sorted sets, byte memory in canonical form,
registers and their fields, outputs, free values, device time, telemetry counters, global error captures.
-/
namespace Sys2Proof.Machine

open Sys2Proof

/-! ### Tables and sorted sets -/

/-- The value of a key in a sparse table, `d` where none is listed. -/
def tabGet {α : Type} (d : α) : List (Nat × α) → Nat → α
  | [], _ => d
  | (k, v) :: t, i => if k = i then v else tabGet d t i

/-- Set a key of a sparse table, keeping keys in rising order. -/
def tabSet {α : Type} : List (Nat × α) → Nat → α → List (Nat × α)
  | [], i, v => [(i, v)]
  | (k, w) :: t, i, v =>
    if i < k then (i, v) :: (k, w) :: t
    else if i = k then (i, v) :: t
    else (k, w) :: tabSet t i v

/-- Remove a key. -/
def tabDel {α : Type} (t : List (Nat × α)) (i : Nat) : List (Nat × α) := t.filter (fun p => p.1 != i)

/-- Whether a key is listed. -/
def tabHas {α : Type} (t : List (Nat × α)) (i : Nat) : Bool := t.any (fun p => p.1 == i)

/-- The value of a listed key. -/
def tabFind {α : Type} (t : List (Nat × α)) (i : Nat) : Option α := (t.find? (fun p => p.1 == i)).map Prod.snd

/-- Change the value of a key, from the default where none is listed. -/
def tabMod {α : Type} (d : α) (t : List (Nat × α)) (i : Nat) (f : α → α) : List (Nat × α) :=
  tabSet t i (f (tabGet d t i))

/-- Change every value of a table. -/
def tabMap {α : Type} (t : List (Nat × α)) (f : α → α) : List (Nat × α) :=
  t.map (fun (p : Nat × α) => (p.1, f p.2))

/-- Insert before the first element that does not come before it. -/
def insertBy {α : Type} (lt : α → α → Bool) (x : α) : List α → List α
  | [] => [x]
  | y :: ys => if lt x y then x :: y :: ys else y :: insertBy lt x ys

/-- Stable insertion sort. -/
def sortBy {α : Type} (lt : α → α → Bool) : List α → List α
  | [] => []
  | x :: xs => insertBy (fun a b => !lt b a) x (sortBy lt xs)

/-- Insert into a sorted list of numbers. -/
def nsInsert : List Nat → Nat → List Nat
  | [], x => [x]
  | y :: ys, x => if x < y then x :: y :: ys else if x = y then y :: ys else y :: nsInsert ys x

/-- Remove from a list of numbers. -/
def nsErase (l : List Nat) (x : Nat) : List Nat := l.filter (fun y => y != x)

/-- Remove a half-open range from a list of numbers. -/
def nsEraseRange (l : List Nat) (lo hi : Nat) : List Nat := l.filter (fun y => !(decide (lo ≤ y) && decide (y < hi)))

/-- Replace an element of a list by a function of it. -/
def listMod {α : Type} (l : List α) (i : Nat) (f : α → α) : List α := l.modify i f

/-! ### Memory -/

/-- The byte at an address: zero where none is listed. -/
def memGet (m : Mem) (a : Nat) : Byte := tabGet 0#8 m a

/-- Write one byte, keeping the canonical form: a zero byte is not listed. -/
def memSet : Mem → Nat → Byte → Mem
  | [], a, b => if b = 0#8 then [] else [(a, b)]
  | (k, w) :: t, a, b =>
    if a < k then (if b = 0#8 then (k, w) :: t else (a, b) :: (k, w) :: t)
    else if a = k then (if b = 0#8 then t else (a, b) :: t)
    else (k, w) :: memSet t a b

/-- Write consecutive bytes. -/
def memSetBytes (m : Mem) (a : Nat) : List Byte → Mem
  | [] => m
  | b :: bs => memSetBytes (memSet m a b) (a + 1) bs

/-- Read `n` consecutive bytes. -/
def memBytes (m : Mem) (a : Nat) : Nat → List Byte
  | 0 => []
  | n + 1 => memGet m a :: memBytes m (a + 1) n

/-- A little-endian number (R16). -/
def leNat : List Byte → Nat
  | [] => 0
  | b :: bs => b.toNat + 256 * leNat bs

/-- The little-endian bytes of a number. -/
def leBytes : Nat → Nat → List Byte
  | 0, _ => []
  | n + 1, v => BitVec.ofNat 8 v :: leBytes n (v / 256)

/-- Load `n` bytes as a little-endian number. -/
def memLoad (m : Mem) (a n : Nat) : Nat := leNat (memBytes m a n)

/-- Store the low `n` bytes of a number. -/
def memStore (m : Mem) (a n v : Nat) : Mem := memSetBytes m a (leBytes n v)

/-- Set a range to zero. -/
def memZero (m : Mem) (a n : Nat) : Mem := m.filter (fun c => !(decide (a ≤ c.1) && decide (c.1 < a + n)))

/-- The listed bytes of a range, by offset. -/
def memSlice (m : Mem) (a n : Nat) : Mem :=
  (m.filter (fun c => decide (a ≤ c.1) && decide (c.1 < a + n))).map (fun c => (c.1 - a, c.2))

/-- Write a slice at an address over a range set to zero first. -/
def memPaste (m : Mem) (a n : Nat) (sl : Mem) : Mem :=
  sl.foldl (fun m c => memSet m (a + c.1) c.2) (memZero m a n)

/-- The canonical form: addresses strictly rising, no zero byte listed. -/
def Memory.wf : Mem → Bool
  | [] => true
  | [(_, b)] => b != 0#8
  | (a, b) :: (c, d) :: t => b != 0#8 && decide (a < c) && Memory.wf ((c, d) :: t)

/-! ### Free values and outputs -/

/-- A fresh free value: nothing constrains it (log entry 1). -/
def State.takeFree (s : State) : Nat × State := (Config.freeNat s.fresh, { s with fresh := s.fresh + 1 })

/-- Record an output. -/
def State.emit (s : State) (k : OutKind) (args : List Nat) : State := { s with out := s.out ++ [⟨k, args⟩] }

/-! ### Device time -/

/-- Whole nanoseconds of the device time counter (15 R535). -/
def State.now (s : State) : Nat := s.time.ticks * 2 / 5

/-! ### Registers -/

/-- A register as it is held: the listed value, or its reset value. -/
def getReg (s : State) (key : Nat) : Word :=
  match tabFind s.regs key with
  | some v => v
  | none => regReset key

/-- Set a register as it is held. -/
def setReg (s : State) (key : Nat) (v : Word) : State := { s with regs := tabSet s.regs key v }

/-- A field as it is held. -/
def getF (s : State) (f : Field) : Nat := natBits (getReg s f.reg).toNat f.lo f.w

/-- Set a field; the register's other bits stay. -/
def setF (s : State) (f : Field) (v : Nat) : State :=
  setReg s f.reg (BitVec.ofNat 64 (natSetBits (getReg s f.reg).toNat f.lo f.w v))

/-- A one-bit field is set. -/
def bitF (s : State) (f : Field) : Bool := getF s f == 1

/-- Set a one-bit field. -/
def raiseF (s : State) (f : Field) : State := setF s f 1

/-- Add to a counting field that saturates at its width. -/
def bumpF (s : State) (f : Field) (n : Nat) : State := setF s f (min (getF s f + n) (2 ^ f.w - 1))

/-- Add to a counting field that wraps. -/
def bumpWrapF (s : State) (f : Field) (n : Nat) : State := setF s f ((getF s f + n) % 2 ^ f.w)

/-- Return a register to its reset value. -/
def resetReg (s : State) (key : Nat) : State := { s with regs := tabDel s.regs key }

/-! ### Numbers of units -/

/-- Enabled cores of a cluster, clusters of a die (01 R42, R43). -/
def coresPerCluster : Nat := 192
def clustersPerDie : Nat := 32

/-- The cluster of a global core id. -/
def clusterOfCore (c : Nat) : Nat := c / coresPerCluster

/-- The enabled index of a global core id within its cluster. -/
def indexOfCore (c : Nat) : Nat := c % coresPerCluster

/-- The die index of a global cluster number. -/
def dieOfCluster (k : Nat) : Nat := k / clustersPerDie

/-- A Culet core: Pavilion dies are 12-15 (01 R43). -/
def isCulet (c : Nat) : Bool := decide (73728 ≤ c)

/-- A cluster of a Pavilion die. -/
def isPavilion (k : Nat) : Bool := decide (12 ≤ dieOfCluster k)

/-- Local SRAM bytes of a core (03 Table 03-1). -/
def sramSize (c : Nat) : Nat := if isCulet c then 0x18000 else 0x30000

/-- The router engine that serves a die (08 Table 08-3). -/
def engineOfDie (d : Nat) : Nat :=
  if d = 12 ∨ d ≤ 2 then 0
  else if d = 14 ∨ (6 ≤ d ∧ d ≤ 8) then 1
  else if d = 13 ∨ (3 ≤ d ∧ d ≤ 5) then 2
  else 3

/-! ### Compute units -/

def getCore (s : State) (c : Nat) : Core := tabGet Core.empty s.comp.cores c

def setCore (s : State) (c : Nat) (v : Core) : State :=
  { s with comp := { s.comp with cores := tabSet s.comp.cores c v } }

def modCore (s : State) (c : Nat) (f : Core → Core) : State := setCore s c (f (getCore s c))

def getCluster (s : State) (k : Nat) : Cluster := tabGet Cluster.empty s.comp.clusters k

def setCluster (s : State) (k : Nat) (v : Cluster) : State :=
  { s with comp := { s.comp with clusters := tabSet s.comp.clusters k v } }

def modCluster (s : State) (k : Nat) (f : Cluster → Cluster) : State := setCluster s k (f (getCluster s k))

def getStrand (s : State) (c i : Nat) : Strand := (getCore s c).strands.getD i Strand.idle

def modStrand (s : State) (c i : Nat) (f : Strand → Strand) : State :=
  modCore s c (fun k => { k with strands := listMod k.strands i f })

/-- Every strand of a core is IDLE. -/
def Core.allIdle (k : Core) : Bool := k.strands.all (fun t => t.phase == .idle)

/-- Every strand of a cluster's cores is IDLE. -/
def clusterIdle (s : State) (k : Nat) : Bool :=
  s.comp.cores.all (fun p => clusterOfCore p.1 != k || p.2.allIdle)

/-- The sticky flags of a core (03 R133). -/
def coreFlags (s : State) (c : Nat) : Nat :=
  natBits (getReg s (rCLU_CORE_STAT (clusterOfCore c) (indexOfCore c))).toNat 0 5

/-- Set sticky flags of a core. -/
def raiseCoreFlags (s : State) (c : Nat) (f : BitVec 5) : State :=
  if f = 0#5 then s
  else
    let r := rCLU_CORE_STAT (clusterOfCore c) (indexOfCore c)
    setReg s r (getReg s r ||| BitVec.ofNat 64 f.toNat)

/-! ### Local SRAM -/

/-- The key of a local address of a core. -/
def sramKey (c a : Nat) : Nat := c * 262144 + a

def sramLoad (s : State) (c a n : Nat) : Nat := memLoad s.comp.sram (sramKey c a) n

/-- The words that a range of bytes touches. -/
def wordsOf (key n : Nat) : List Nat := (List.range ((key + n + 7) / 8 - key / 8)).map (fun i => key / 8 + i)

/-- Some word of a range is poisoned (03 R117). -/
def sramPoisoned (s : State) (c a n : Nat) : Bool :=
  (wordsOf (sramKey c a) n).any (fun w => s.comp.sramPoison.contains w)

/-- Poison every word that a range touches. -/
def sramPoisonRange (s : State) (c a n : Nat) : State :=
  { s with comp := { s.comp with
      sramPoison := (wordsOf (sramKey c a) n).foldl nsInsert s.comp.sramPoison } }

/-- Store bytes: a full word loses its poison; a word written in part keeps it, its bytes with it (03 R117). -/
def sramStoreBytes (s : State) (c a : Nat) (bs : List Byte) : State :=
  let key := sramKey c a
  let n := bs.length
  let full := (wordsOf key n).filter (fun w => decide (key ≤ w * 8) && decide (w * 8 + 8 ≤ key + n))
  { s with comp := { s.comp with
      sram := memSetBytes s.comp.sram key bs
      sramPoison := s.comp.sramPoison.filter (fun w => !full.contains w) } }

def sramStore (s : State) (c a n v : Nat) : State := sramStoreBytes s c a (leBytes n v)

/-! ### HBM -/

/-- An address lies in H0-H23 (11 Table 11-2). -/
def hbmExists (a : Nat) : Bool := decide (a < 0x18000000000)

def granulesOf (a n : Nat) : List Nat := (List.range ((a + n + 63) / 64 - a / 64)).map (fun i => a / 64 + i)

/-- Some granule of a range is poisoned (18 R608). -/
def hbmPoisoned (s : State) (a n : Nat) : Bool := (granulesOf a n).any (fun g => s.tiers.hbmPoison.contains g)

def hbmLoad (s : State) (a n : Nat) : Nat := memLoad s.tiers.hbm a n

/-- Write bytes to HBM: a granule written whole loses its poison marker, a granule written in part keeps it. -/
def hbmStoreBytes (s : State) (a : Nat) (bs : List Byte) : State :=
  let n := bs.length
  let full := (granulesOf a n).filter (fun g => decide (a ≤ g * 64) && decide (g * 64 + 64 ≤ a + n))
  { s with tiers := { s.tiers with
      hbm := memSetBytes s.tiers.hbm a bs
      hbmPoison := s.tiers.hbmPoison.filter (fun g => !full.contains g) } }

def hbmStore (s : State) (a n v : Nat) : State := hbmStoreBytes s a (leBytes n v)

/-- Mark a granule poisoned. -/
def hbmPoison (s : State) (g : Nat) : State :=
  { s with tiers := { s.tiers with hbmPoison := nsInsert s.tiers.hbmPoison g } }

/-- Zero-fill a range: the zeroing engine overwrites whatever is there (07 R289, 18 R609). -/
def hbmZero (s : State) (a n : Nat) : State :=
  { s with tiers := { s.tiers with
      hbm := memZero s.tiers.hbm a n
      hbmPoison := nsEraseRange s.tiers.hbmPoison (a / 64) ((a + n) / 64) } }

/-! ### Telemetry counters (20 R650) -/

/-- Add to a telemetry counter, modulo 2^64. -/
def count (s : State) (id n : Nat) : State :=
  { s with tel := { s.tel with
      counters := tabMod 0 s.tel.counters id (fun v => (v + n) % 2 ^ 64) } }

/-- The clusters in RUN: PSTATE is OFF at reset, so a cluster that runs has its CLU_STATE listed. -/
def runningClusters (s : State) : List Nat :=
  s.regs.filterMap (fun p =>
    if 0x4000000 ≤ p.1 ∧ p.1 < 0x6000000 ∧ p.1 % 0x10000 = 8 ∧ natBits p.2.toNat 0 2 = 0 then
      some ((p.1 - 0x4000000) / 0x10000)
    else none)

/-- A counter of cycles has moved on by a free value since it was last looked at (log entry 9). -/
def advanceCounter (s : State) (id width : Nat) : State :=
  let (n, s) := s.takeFree
  { s with tel := { s.tel with counters := tabMod 0 s.tel.counters id (fun v => (v + n) % 2 ^ width) } }

/-- The cycle counter of a cluster that runs, and its cycles of matrix and of Lustre work, have moved on since they were
last looked at (20 R656, Table 20-3). -/
def advanceCycles (s : State) (k : Nat) : State :=
  let s := advanceCounter s (0x1000 + 8 * k) 48
  advanceCounter (advanceCounter s (0x1000 + 8 * k + 1) 64) (0x1000 + 8 * k + 2) 64

/-- The value of every counter, and counter 0x0003 risen by the snapshot (20 R653, Table 20-2). -/
def snapshotCounters (s : State) : List (Nat × Nat) × State :=
  let s := (runningClusters s).foldl advanceCycles s
  let c := tabSet s.tel.counters 0 s.now
  let c := tabSet c 1 (getF s fPTC_ENERGY_ENERGY)
  (c, count s 3 1)

/-! ### Global error status (21 R684, R685) -/

/-- Set a condition of GLB_ERR and capture the access while no capture is held (R684). -/
def globalError (s : State) (kind : Nat) (f : Field) (off fn : Nat) (write : Bool) : State :=
  let s := raiseF s f
  if bitF s fGLB_ERR_INFO_VALID then s
  else
    let v := off % 2 ^ 27 + (if write then 2 ^ 27 else 0) + (fn % 64) * 2 ^ 28 + kind * 2 ^ 34 + 2 ^ 37
    setReg s rGLB_ERR_INFO (BitVec.ofNat 64 v)

def errWidth (s : State) (off fn : Nat) (write : Bool) : State := globalError s 0 fGLB_ERR_WIDTH off fn write
def errVfAccess (s : State) (off fn : Nat) : State := globalError s 1 fGLB_ERR_VF_ACCESS off fn true
def errWindowClosed (s : State) (off fn : Nat) : State := globalError s 2 fGLB_ERR_WINDOW_CLOSED off fn true
def errNotReady (s : State) (off fn : Nat) : State := globalError s 4 fGLB_ERR_NOT_READY off fn true

/-- Record a latch underflow (03 R137, 21 R685). -/
def latchUnderflow (s : State) (cl : Nat) (bank : Bool) (latch core context : Nat) : State :=
  let s := raiseF s fGLB_ERR_LATCH_UNDERFLOW
  if bitF s fGLB_LATCH_ERR_VALID then s
  else
    let sys := natBits context 12 1
    let v := dieOfCluster cl + (cl % 32) * 2 ^ 4 + (if bank then 2 ^ 9 else 0) + latch * 2 ^ 10 + core * 2 ^ 16
      + (if sys = 1 then 0 else natBits context 0 12) * 2 ^ 24 + sys * 2 ^ 36 + 2 ^ 37
    setReg s rGLB_LATCH_ERR (BitVec.ofNat 64 v)

/-! ### Latches (03 R134-R137) -/

/-- The value of a latch as a core names it: its own, or its cluster's. -/
def latchGet (s : State) (c : Nat) (bank : Bool) (n : Nat) : Nat :=
  if bank then tabGet 0 (getCluster s (clusterOfCore c)).clatch n else tabGet 0 (getCore s c).latches n

/-- The largest value of a latch (03 R136). -/
def latchMax (bank : Bool) : Nat := if bank then 65535 else 255

/-- Set a latch. -/
def latchSet (s : State) (c : Nat) (bank : Bool) (n v : Nat) : State :=
  if bank then modCluster s (clusterOfCore c) (fun k => { k with clatch := tabSet k.clatch n v })
  else modCore s c (fun k => { k with latches := tabSet k.latches n v })

/-- Raise a latch by one (03 R169). -/
def latchRaise (s : State) (c : Nat) (bank : Bool) (n : Nat) : State :=
  latchSet s c bank n (latchGet s c bank n + 1)

/-- Lower a latch by one; at zero it stays at zero and the underflow is recorded (03 R137). -/
def latchLower (s : State) (c : Nat) (bank : Bool) (n context : Nat) : State :=
  if latchGet s c bank n = 0 then latchUnderflow s (clusterOfCore c) bank n (indexOfCore c) context
  else latchSet s c bank n (latchGet s c bank n - 1)

/-! ### Signature blocks (12 R431) -/

/-- A 4,736-byte signature block whose two signatures verify and whose rest is zero; the context is that of
`Config.verifies`. -/
def signedBy (ctx hash : Nat) (sig : List Byte) (key : Nat) : Bool :=
  sig.length == 4736 && (sig.drop 4723).all (fun b => b == 0#8) && Config.verifies ctx hash (sig.take 4723) key

/-! ### Wrapping an effect -/

/-- A meaning that always completes. -/
def done (s : State) : Host.Outcome State Fault Refusal := .next s

end Sys2Proof.Machine
end

