-- ==== Sys2Proof/Machine/HostOps.lean ====
section
/-!
DEFINITION. The active configuration set as other units read it (16), the packages of the partition, and the host
queues: completions (15 R515-R520), events (15 R521-R523) and MSI-X requests.
-/
namespace Sys2Proof.Machine

open Sys2Proof

/-! ### Image accessors (16 Tables 16-1, 16-2) -/

def CfgImage.gen (i : CfgImage) : Nat := natBits i.header 64 32
def CfgImage.pkg (i : CfgImage) : Nat := natBits i.header 96 16
def CfgImage.partition (i : CfgImage) : Nat := natBits i.header 112 8
def CfgImage.rgroup (i : CfgImage) : Nat := natBits i.header 120 8
def CfgImage.orderPkg (i : CfgImage) : Nat := natBits i.header 128 16
def CfgImage.keyIndex (i : CfgImage) : Nat := natBits i.header 144 8

/-- The records of an array of a section. -/
def CfgImage.recs (i : CfgImage) (type kind : Nat) : List Nat :=
  match i.sections.find? (fun x => x.type == type) with
  | none => []
  | some sec =>
    match sec.arrays.find? (fun a => a.kind == kind) with
    | none => []
    | some a => a.recs

/-- The value of a parameter item of a section. -/
def CfgImage.item (i : CfgImage) (type key : Nat) : Option Nat :=
  match i.sections.find? (fun x => x.type == type) with
  | none => none
  | some sec => tabFind sec.items key

/-- The records of an array of the active set. -/
def activeRecs (s : State) (type kind : Nat) : List Nat :=
  match s.cfg.active with
  | none => []
  | some i => i.recs type kind

/-- This package's id, 0 with no active set. -/
def ownPkg (s : State) : Nat := match s.cfg.active with | some i => i.pkg | none => 0

/-- The ordering package. -/
def orderPkg (s : State) : Nat := match s.cfg.active with | some i => i.orderPkg | none => 0

/-- The active generation. -/
def activeGen (s : State) : Nat := match s.cfg.active with | some i => i.gen | none => 0

/-- The packages of the partition: this one and every package that the route table reaches (14 R493, log entry
30). -/
def members (s : State) : List Nat :=
  ((s.fab.routes.filter (fun p => natBits p.2 33 1 == 1)).map Prod.fst).foldl nsInsert [ownPkg s]

/-- The carve-out record of a kind in the active set (16 Table 16-3): first frame and frames. -/
def carveOut (s : State) (kind : Nat) : Option (Nat × Nat) :=
  ((activeRecs s 0x0001 1).find? (fun r => natBits r 0 8 == kind)).map (fun r => (natBits r 32 20, natBits r 64 32))

/-! ### Tenants (16 Table 16-5); a context is a tenant id, or 4,096 for SYS (03 R126) -/

def ctxSYS : Nat := 4096

/-- The tenant-table entry of a context. -/
def tenantRec (s : State) (ctx : Nat) : Option Nat :=
  if ctx = ctxSYS then (activeRecs s 0x0005 2).head?
  else (activeRecs s 0x0005 1).find? (fun r => natBits r 0 12 == ctx)

/-- A field of a context's tenant entry, 0 where the context has none. -/
def tenantField (s : State) (ctx lo w : Nat) : Nat :=
  match tenantRec s ctx with
  | some r => natBits r lo w
  | none => 0

/-- The contexts of the active tenant table, SYS last. -/
def contexts (s : State) : List Nat :=
  (activeRecs s 0x0005 1).map (fun r => natBits r 0 12) ++ (if (activeRecs s 0x0005 2) = [] then [] else [ctxSYS])

/-- The bandwidth class of a tenant context (10 R381): SYS traffic is not charged. -/
def bwClass (s : State) (ctx : Nat) : Option Nat :=
  if ctx = ctxSYS then none else (tenantRec s ctx).map (fun r => natBits r 36 4)

/-! ### Job state -/

def serving (s : State) : Bool := bitF s fGLB_TIME_STAT_SERVING

/-- An episode is under way and this package has stopped (18 R617). -/
def stopped (s : State) : Bool := getF s fGLB_FAULT_STAT_PHASE != 0

/-! ### BAR0 writes (R511, R677, R678) -/

/-- A warm reset is under way: stage CLUSTERS has not begun. -/
def inWarm (s : State) : Bool := s.cfg.warm && decide (getF s fCFG_STAT_STAGE < 8)

/-- The blocks that a warm reset closes: WRD_ to ETH_, and every cluster window. -/
def warmBlock (off : Nat) : Bool :=
  (decide (0x400000 ≤ off) && decide (off < 0xF00000)) || (decide (0x4000000 ≤ off) && decide (off < 0x6000000))

/-- A write to a register of the PF: discarded and recorded when it comes from a VF, or meets a closed block. -/
def pfWrite (s : State) (off fn : Nat) (f : State → State) : State :=
  if fn ≠ 0 then errVfAccess s off fn
  else if inWarm s && warmBlock off then errNotReady s off fn
  else f s

/-! ### Completions -/

def getHQ (s : State) (fn q : Nat) : HostQueue := tabGet HostQueue.reset s.host.queues (64 * fn + q)

def setHQ (s : State) (fn q : Nat) (v : HostQueue) : State :=
  { s with host := { s.host with queues := tabSet s.host.queues (64 * fn + q) v } }

def getQP (s : State) (i : Nat) : QPair := tabGet QPair.reset s.host.qps i

def setQP (s : State) (i : Nat) (v : QPair) : State :=
  { s with host := { s.host with qps := tabSet s.host.qps i v } }

/-- The entry of a queue pair (15 Table 15-6), 0 where none is configured. -/
def qpEntry (s : State) (i : Nat) : Nat := tabGet 0 s.host.qpEntry i

/-- The Ethernet port of a queue pair. -/
def qpPort (s : State) (i : Nat) : Nat := natBits (qpEntry s i) 1 2

/-- An Ethernet port has gone with its Gateway die (01 R45, R46: ETHn is Gn's). -/
def ethLost (s : State) (n : Nat) : Bool := s.fault.lostGw.contains n

/-- A queue pair that the image configures and whose port the package still has. -/
def qpValid (s : State) (i : Nat) : Bool := natBits (qpEntry s i) 0 1 == 1 && !ethLost s (qpPort s i)

/-- The context that a queue pair is bound to. -/
def qpContext (s : State) (i : Nat) : Nat :=
  if natBits (qpEntry s i) 4 1 = 1 then ctxSYS else natBits (qpEntry s i) 5 12

/-- An RDMA WRITE of `n` bytes on a queue pair: its packets, of 4,096 B at most, take the next PSNs (R530, R533). Nothing
leaves by a port that is gone. -/
def rdmaPut (s : State) (i addr key n v : Nat) : State :=
  if ethLost s (qpPort s i) then s
  else
    let s := s.emit .rdmaWrite [i, addr, key, n, v]
    let p := getQP s i
    setQP s i { p with sendPsn := (p.sendPsn + max 1 ((n + 4095) / 4096)) % 2 ^ 24 }

/-- Request a vector's MSI-X message (15 R520). -/
def msixRequest (s : State) (fn vec : Nat) (ien : Bool) : State :=
  if ien then { s with host := { s.host with msixPend := nsInsert s.host.msixPend (fn * 128 + vec) } } else s

/-- The entries of a ring. -/
def ringSize (log : Nat) : Nat := 2 ^ (log + 4)

/-- The reset of a queue pair at EN (15 R515). -/
def HostQueue.enable : HostQueue := HostQueue.reset

/-- Write a completion on a PCIe queue (15 R518, Table 15-2); the last completion owed lets a deferred reset take
place (R515). -/
def completePcie (s : State) (fn q subseq op status ward aseq : Nat) : State :=
  let h := getHQ s fn q
  let n := ringSize (getF s (fGLB_Q_CFG_CQ_LOG fn q))
  let v := status + op * 2 ^ 8 + q * 2 ^ 16 + (if h.phase then 2 ^ 22 else 0) + subseq * 2 ^ 32 + ward * 2 ^ 64
    + h.head * 2 ^ 80 + aseq * 2 ^ 96
  let s := s.emit .hostWrite [fn, getF s (fGLB_CQ_BASE_ADDR fn q) * 4096 + 16 * h.cqTail, 16, v]
  let t := (h.cqTail + 1) % n
  let h := { h with
    cqTail := t
    phase := if t = 0 then !h.phase else h.phase
    owed := h.owed - 1
    unread := h.unread + 1 }
  let s := setHQ s fn q (if h.owed = 0 ∧ h.resetAt then HostQueue.enable else h)
  count (msixRequest s fn q (bitF s (fGLB_Q_CFG_IEN fn q))) 0x0801 1

/-- Write a completion to a front-end's ring (15 R532). -/
def completeQp (s : State) (i subseq op status ward aseq : Nat) : State :=
  let e := qpEntry s i
  let p := getQP s i
  let n := ringSize (natBits e 320 4)
  let slot := p.written % n
  let ph := p.written / n % 2 = 0
  let v := status + op * 2 ^ 8 + (if ph then 2 ^ 22 else 0) + subseq * 2 ^ 32 + ward * 2 ^ 64 + aseq * 2 ^ 96
  let s := rdmaPut s i (natBits e 256 64 + 16 * slot) (natBits e 224 32) 16 v
  let p := getQP s i
  count (setQP s i { p with written := p.written + 1, owed := p.owed - 1 }) 0x0801 1

/-- Complete a descriptor (15 R518). -/
def complete (s : State) (o : Origin) (subseq op status ward aseq : Nat) : State :=
  match o with
  | .pcie fn q => completePcie s fn q subseq op status ward aseq
  | .qp i _ => completeQp s i subseq op status ward aseq

/-! ### Events -/

def getRing (s : State) (fn : Nat) : Ring := tabGet Ring.reset s.host.events fn

def setRing (s : State) (fn : Nat) (r : Ring) : State :=
  { s with host := { s.host with events := tabSet s.host.events fn r } }

/-- Entries in use of a ring of `n`. -/
def Ring.used (r : Ring) (n : Nat) : Nat := (r.tail + n - r.head % n) % n

/-- The event entry (15 Table 15-4). -/
def eventWord (s : State) (phase : Bool) (code cause argA argC argB : Nat) : Nat :=
  code % 2 ^ 8 + (if phase then 2 ^ 8 else 0) + (cause % 2 ^ 8) * 2 ^ 16 + (argA % 2 ^ 16) * 2 ^ 32
    + (argC % 2 ^ 16) * 2 ^ 48 + (argB % 2 ^ 64) * 2 ^ 64 + (s.now % 2 ^ 64) * 2 ^ 128

/-- Post an event to a function's event queue (R521, R523). -/
def postFn (s : State) (fn code cause argA argC argB : Nat) : State :=
  let r := getRing s fn
  let n := ringSize (getF s (fGLB_EQ_CFG_LOG fn))
  if !(bitF s (fGLB_EQ_CFG_EN fn)) || decide (n ≤ r.used n + 1) then
    let s := raiseF s (fGLB_EQ_STAT_OVERFLOW fn)
    count (bumpF s (fGLB_EQ_STAT_LOST fn) 1) 0x0007 1
  else
    let s := s.emit .hostWrite
      [fn, getF s (fGLB_EQ_BASE_ADDR fn) * 4096 + 32 * r.tail, 32, eventWord s r.phase code cause argA argC argB]
    let t := (r.tail + 1) % n
    let s := setRing s fn { r with tail := t, phase := if t = 0 then !r.phase else r.phase }
    count (msixRequest s fn 64 (bitF s (fGLB_EQ_CFG_IEN fn))) 0x0006 1

/-- Post an event to a front-end's event ring (R521, R532). -/
def postQp (s : State) (i code cause argA argC argB : Nat) : State :=
  let e := qpEntry s i
  let p := getQP s i
  let n := ringSize (natBits e 324 4)
  if decide (n ≤ (p.events + n - p.eqHead % n) % n + 1) then count s 0x0007 1
  else
    let ph := p.events / n % 2 = 0
    let s := rdmaPut s i (natBits e 384 64 + 32 * (p.events % n)) (natBits e 224 32) 32
      (eventWord s ph code cause argA argC argB)
    count (setQP s i { getQP s i with events := p.events + 1 }) 0x0006 1

/-- Post an event of a request to its origin; events of SYS requests go to the PF (R521). -/
def postOrigin (s : State) (o : Origin) (sys : Bool) (code cause argA argC argB : Nat) : State :=
  if sys then postFn s 0 code cause argA argC argB
  else
    match o with
    | .pcie fn _ => postFn s fn code cause argA argC argB
    | .qp i _ => postQp s i code cause argA argC argB

/-- Post an event that concerns no request. -/
def postPF (s : State) (code cause argA argC argB : Nat) : State := postFn s 0 code cause argA argC argB

/-! ### Platform events of the management endpoint (20 R661, R664) -/

/-- The management endpoint answers from the end of stage FIRMWARE on (20 R661). -/
def endpointUp (s : State) : Bool := !(getF s fCFG_STAT_STAGE == 1 || getF s fCFG_STAT_STAGE == 2)

/-- A PlatformEventMessage; no command names its receiver (log entry 106). -/
def platformEvent (s : State) (args : List Nat) : State :=
  if endpointUp s then s.emit .i3c (1 :: 0x0A :: args) else s

/-- Set GLB_FAULT_STAT.PHASE, sensor 10. -/
def setFaultPhase (s : State) (v : Nat) : State :=
  let t := setF s fGLB_FAULT_STAT_PHASE v
  if getF s fGLB_FAULT_STAT_PHASE = v then t else platformEvent t [10, v]

/-- Set CFG_STAT.STAGE, sensor 11. -/
def setStage (s : State) (v : Nat) : State :=
  let t := setF s fCFG_STAT_STAGE v
  if getF s fCFG_STAT_STAGE = v then t else platformEvent t [11, v]

/-- Assert FAULT_N. -/
def assertFaultN (s : State) : State :=
  let t := setF s fGLB_FAULT_STAT_FAULT_N 1
  if bitF s fGLB_FAULT_STAT_FAULT_N then t else platformEvent t [0x6F]

/-! ### Messages to other packages -/

/-- Send a management message to one package. -/
def sendMsg (s : State) (m : Msg) (dest : Nat) (args : List Nat) : State := s.emit (.mgmt m) (dest :: args)

/-- Send a management message to every package of the partition, this one included. -/
def sendAll (s : State) (m : Msg) (args : List Nat) : State :=
  (members s).foldl (fun s d => sendMsg s m d args) s

/-- The code under which a record kind is written in `State.out`. -/
def recCode : RecKind → Nat
  | .admission => 1
  | .pause => 2
  | .resume => 3
  | .cancel => 4
  | .kdrain => 5
  | .release => 6
  | .parked => 7
  | .ready => 8
  | .adapterReady => 9
  | .fail => 10
  | .expire => 11
  | .commitReady => 12
  | .commitWithdraw => 13
  | .stop => 14
  | .jobReady => 15
  | .start => 16

/-- ORIGIN (09 Table 09-2). -/
def originWord : Origin → Nat
  | .pcie fn q => fn % 64 + (q % 64) * 2 ^ 6
  | .qp i port => port % 4 + i % 2 ^ 20 * 2 ^ 2 + 2 ^ 23

/-- The items of a record in a message (09 Table 09-6): kind, source (HOME of an ADMIT), ward index, ASEQ, argument,
descriptor, ORIGIN, extent, and KDRAIN's list with its length. -/
def recordArgs (r : OrderRecord) : List Nat :=
  [recCode r.kind, r.src, r.ward, r.aseq, r.arg, r.desc, originWord r.origin, r.extent, r.list.length] ++
    r.list.flatMap (fun x => [x.1, x.2.1, x.2.2])

/-- Send an order-stream record to the ordering package (09 R338). -/
def sendRecord (s : State) (r : OrderRecord) : State := sendMsg s .orderRecord (orderPkg s) (recordArgs r)

/-- Send a record with no descriptor. -/
def sendPlain (s : State) (k : RecKind) (ward aseq arg : Nat) : State :=
  sendRecord s (OrderRecord.plain k (ownPkg s) ward aseq arg)

end Sys2Proof.Machine
end

