-- ==== Sys2Proof/Machine/WardOps.lean ====
section
/-!
DEFINITION. The ward entry and its word (09 Table 09-1), deadlines (R345), transcript extents, the Keyring of the
home package (R349-R353), and the failure of an entry (R343).
-/
namespace Sys2Proof.Machine

open Sys2Proof

/-! ### Entries -/

def getWard (s : State) (i : Nat) : WardEntry := tabGet WardEntry.freed s.ward.entries i

/-- Set an entry; a FREE entry is not listed. -/
def setWard (s : State) (i : Nat) (e : WardEntry) : State :=
  { s with ward := { s.ward with
      entries := if e.phase = .free then tabDel s.ward.entries i else tabSet s.ward.entries i e } }

def modWard (s : State) (i : Nat) (f : WardEntry → WardEntry) : State := setWard s i (f (getWard s i))

def getInfo (s : State) (i : Nat) : WardInfo := tabGet WardInfo.fresh s.warden.info i

def setInfo (s : State) (i : Nat) (v : WardInfo) : State :=
  { s with warden := { s.warden with info := tabSet s.warden.info i v } }

def modInfo (s : State) (i : Nat) (f : WardInfo → WardInfo) : State := setInfo s i (f (getInfo s i))

/-- The context of an entry. -/
def WardEntry.ctx (e : WardEntry) : Nat := if e.sys then ctxSYS else e.tenant

def WardPhase.num : WardPhase → Nat
  | .free => 0
  | .admitted => 1
  | .prefill => 2
  | .decode => 3
  | .verify => 4
  | .paused => 5
  | .parked => 6
  | .adapterWait => 7
  | .pageWait => 8
  | .held => 9
  | .done => 10
  | .failed => 11

/-- The entry is not FREE, DONE or FAILED. -/
def WardPhase.live : WardPhase → Bool
  | .free => false
  | .done => false
  | .failed => false
  | _ => true

def bit (b : Bool) : Nat := if b then 1 else 0

/-- The 512-bit word of an entry (Table 09-1). -/
def WardEntry.pack (e : WardEntry) : Nat :=
  e.phase.num + (e.tenant % 2 ^ 12) * 2 ^ 4 + bit e.sys * 2 ^ 16 + (e.cls % 4) * 2 ^ 17 + (e.level % 16) * 2 ^ 19
  + bit e.doomed * 2 ^ 23 + bit e.forked * 2 ^ 24 + bit e.specEn * 2 ^ 25 + bit e.adpEn * 2 ^ 26
  + bit e.spill * 2 ^ 27 + bit e.rebuild * 2 ^ 28 + bit e.keep * 2 ^ 29 + bit e.ackReq * 2 ^ 30
  + (e.deadline % 2 ^ 32) * 2 ^ 32 + (e.committed % 2 ^ 24) * 2 ^ 64 + (e.speclen % 2 ^ 8) * 2 ^ 88
  + (e.epoch % 2 ^ 8) * 2 ^ 96 + (e.adapter % 2 ^ 13) * 2 ^ 104 + (e.plist % 2 ^ 40) * 2 ^ 128
  + (e.model % 2 ^ 16) * 2 ^ 168 + (e.keepTtl % 2 ^ 8) * 2 ^ 184 + (e.tlen % 2 ^ 24) * 2 ^ 192
  + (e.limit % 2 ^ 24) * 2 ^ 216 + (e.interval % 2 ^ 16) * 2 ^ 240 + (e.admitTime % 2 ^ 64) * 2 ^ 256
  + (e.home % 2 ^ 16) * 2 ^ 320 + (e.krSize % 8) * 2 ^ 336 + (e.outstanding % 2 ^ 13) * 2 ^ 340
  + (e.aseq % 2 ^ 32) * 2 ^ 384 + (e.nextSeq % 2 ^ 32) * 2 ^ 416 + (e.transcript % 2 ^ 32) * 2 ^ 448
  + originWord e.origin * 2 ^ 480

/-- Ward entries with their indices, in ascending index. -/
def wards (s : State) : List (Nat × WardEntry) := s.ward.entries

/-- The lowest FREE ward index (R335). -/
def lowestFree (s : State) : Option Nat :=
  (List.range (s.ward.entries.length + 1)).find? (fun i => decide (i < 65536) && !tabHas s.ward.entries i)

/-- Two numbers' order by serial arithmetic modulo 2^32: `a` is older than `b`. -/
def serialLt (a b : Nat) : Bool := let d := (b + 2 ^ 32 - a % 2 ^ 32) % 2 ^ 32; decide (0 < d) && decide (d < 2 ^ 31)

/-! ### Deadlines (R345) -/

/-- Rack time in microseconds modulo 2^32. -/
def usOf (ns : Nat) : Nat := ns / 1000 % 2 ^ 32

/-- The distance from now to a deadline. -/
def ahead (ns deadline : Nat) : Nat := (deadline + 2 ^ 32 - usOf ns) % 2 ^ 32

def deadlinePassed (ns deadline : Nat) : Bool := ahead ns deadline == 0 || decide (2 ^ 31 ≤ ahead ns deadline)

def deadlineFar (ns deadline : Nat) : Bool :=
  decide (1800000000 < ahead ns deadline) && decide (ahead ns deadline < 2 ^ 31)

/-- LIMIT (R347), `g` layer groups. -/
def limitOf (maxLen g : Nat) : Nat :=
  let a := min (258048 / g * 64) (2 ^ 24 - 1)
  if maxLen = 0 then a else min maxLen a

/-- Layer groups of the active layout, at least one. -/
def layerGroups (s : State) : Nat := max 1 (getF s fBZL_LAYOUT_G)

/-! ### Transcript extents (Table 09-1 TRANSCRIPT; R333) -/

/-- 4 KiB units of an extent for a limit. -/
def extentUnits (limit : Nat) : Nat := (4 * limit + 4095) / 4096

/-- The lowest gap of `n` units between the extents in use, in a store of `size` units. -/
def findExtent (n size : Nat) : Nat → List (Nat × Nat) → Option Nat
  | at_, [] => if at_ + n ≤ size then some at_ else none
  | at_, (st, len) :: t => if at_ + n ≤ st then some at_ else findExtent n size (max at_ (st + len)) t

def allocExtent (s : State) (limit : Nat) : Option (Nat × State) :=
  let n := extentUnits limit
  match findExtent n (getF s fWRD_TS_STAT_SIZE) 0 s.ward.extents with
  | none => none
  | some st => some (st, { s with ward := { s.ward with extents := tabSet s.ward.extents st n } })

def freeExtent (s : State) (st : Nat) : State :=
  { s with ward := { s.ward with extents := tabDel s.ward.extents st } }

/-- The address of transcript token `p` of an extent. -/
def transcriptAddr (s : State) (extent p : Nat) : Nat :=
  getF s fWRD_TS_BASE_BASE * 4096 + extent * 4096 + 4 * p

/-- Transcript token `p`. -/
def transcriptToken (s : State) (extent p : Nat) : Nat := hbmLoad s (transcriptAddr s extent p) 4

/-- Append tokens from position `p`. -/
def transcriptPut (s : State) (extent : Nat) : Nat → List Nat → State
  | _, [] => s
  | p, t :: ts => transcriptPut (hbmStore s (transcriptAddr s extent p) 4 t) extent (p + 1) ts

/-! ### Keyrings (R349-R351) -/

/-- The ring size of an entry. -/
def ringEntries (krSize : Nat) : Nat := 64 * 2 ^ krSize

def keyringAddr (s : State) (ward krSize seq : Nat) : Nat :=
  getF s fWRD_KR_BASE_BASE * 65536 + 65536 * ward + 16 * (seq % ringEntries krSize)

/-- A Keyring entry (Table 09-9). -/
def keyringWord (token seq logp : Nat) (fin rejected trunc err : Bool) (toff : Nat) : Nat :=
  token % 2 ^ 32 + (seq % 2 ^ 32) * 2 ^ 32 + (logp % 2 ^ 16) * 2 ^ 64 + bit fin * 2 ^ 80 + bit rejected * 2 ^ 81
    + bit trunc * 2 ^ 82 + bit err * 2 ^ 83 + min toff (2 ^ 40 - 1) * 2 ^ 88

/-- Write a Keyring entry at the home package now. -/
def keyringPut (s : State) (ward : Nat) (e : WardEntry) (token seq logp : Nat) (fin rejected trunc err : Bool) :
    State :=
  hbmStore s (keyringAddr s ward e.krSize seq) 16
    (keyringWord token seq logp fin rejected trunc err (s.now - e.admitTime))

def getDeliv (s : State) (i : Nat) : Delivery := tabGet Delivery.none s.ward.deliv i

def setDeliv (s : State) (i : Nat) (d : Delivery) : State :=
  { s with ward := { s.ward with deliv := tabSet s.ward.deliv i d } }

def modDeliv (s : State) (i : Nat) (f : Delivery → Delivery) : State := setDeliv s i (f (getDeliv s i))

/-- The home package notes how far a Keyring has been written. -/
def noteWritten (s : State) (ward q : Nat) : State := modDeliv s ward (fun d => { d with written := max d.written q })

/-- The ERROR entry of a failure (Table 09-10), written by the home package after every token already written (R343); every
replica counts it. -/
def errorEntry (s : State) (ward cause : Nat) : State :=
  let e := getWard s ward
  let q := if e.home = ownPkg s then max e.nextSeq ((getDeliv s ward).written + 1) else e.nextSeq
  let s := if e.home = ownPkg s then
      modDeliv (keyringPut s ward e cause q 0 true false false true) ward (fun d => { d with endSeq := q, written := q })
    else s
  setWard s ward { e with nextSeq := (q + 1) % 2 ^ 32, outstanding := e.outstanding + 1 }

/-- RELEASE is sent once the END or ERROR entry is delivered, or at once after a failed delivery (R353). -/
def releaseIfDelivered (s : State) (ward : Nat) : State :=
  let e := getWard s ward
  let d := getDeliv s ward
  if e.phase.live || e.phase == .free || d.released || decide (e.home ≠ ownPkg s) then s
  else if d.failed || (decide (d.endSeq ≠ 0) && decide (d.endSeq ≤ d.delivered)) then
    sendPlain (setDeliv s ward { d with released := true }) .release ward e.aseq 0
  else s

/-! ### Lanes -/

def getLane (s : State) (n : Nat) : Lane := tabGet Lane.empty s.warden.lanes n

def setLane (s : State) (n : Nat) (l : Lane) : State :=
  { s with warden := { s.warden with lanes := tabSet s.warden.lanes n l } }

/-- A FAIL record for an entry (Table 09-6). -/
def sendFail (s : State) (ward cause : Nat) : State := sendPlain s .fail ward (getWard s ward).aseq cause

/-- A delivery failure (R352): FAIL with cause DELIVERY; what is undelivered is lost. -/
def deliveryFailure (s : State) (ward : Nat) : State :=
  let s := raiseF s fWRD_ERR_DELIVERY
  let s := setF s fWRD_ERR_LAST_WARD ward
  releaseIfDelivered (sendFail (modDeliv s ward (fun d => { d with failed := true })) ward 3) ward

end Sys2Proof.Machine
end

