-- ==== Sys2Proof/Machine/HingeOps.lean ====
section
/-!
DEFINITION. Manifests (12 Tables 12-1, 12-2), adapter slots as the Warden sees them (R455, R457), the gates of a swap
(R448), and what the swap point does to the active version (R447).
-/
namespace Sys2Proof.Machine

open Sys2Proof

/-! ### Manifests: the bytes of a manifest as one little-endian number -/

def manByte (m at_ n : Nat) : Nat := natBits m (8 * at_) (8 * n)

def manVersion (m : Nat) : Nat := manByte m 8 2
def manPrev (m : Nat) : Nat := manByte m 10 2
def manKvCompat (m : Nat) : Bool := natBits m 56 1 == 1
def manPublic (m : Nat) : Bool := natBits m 57 1 == 1
def manAdapterId (m : Nat) : Nat := manByte m 12 4
def manDomain (m : Nat) : Nat := natBits m 128 13
def manShards (m : Nat) : Nat := manByte m 28 4
def manRank (m : Nat) : Nat := manByte m 32 2
def manLayers (m : Nat) : Nat := manByte m 26 2
/-- The KV layout bytes 18-27. -/
def manLayout (m : Nat) : Nat := manByte m 18 10

/-- A shard-table entry (Table 12-2). -/
def manShard (m i : Nat) : Nat := manByte m (256 + 96 * i) 96
def shardSha (e : Nat) : Nat := natBits e 0 384
def shardCrc (e : Nat) : Nat := natBits e 384 64
def shardLayer (e : Nat) : Nat := natBits e 480 16
def shardGroup (e : Nat) : Nat := natBits e 496 16
def shardOffset (e : Nat) : Nat := natBits e 512 64
def shardLength (e : Nat) : Nat := natBits e 576 32

/-- The layer that a shard commits with: head weights with layer 0, tail weights with the last (R443). -/
def commitLayer (m e : Nat) : Nat :=
  if shardLayer e = 0xFFFE then 0 else if shardLayer e = 0xFFFF then manLayers m - 1 else shardLayer e

/-- Bytes of a manifest before its signature block (R431). -/
def manMessageLen (m : Nat) : Nat := 256 + 96 * manShards m

/-- The entries of the shard table. -/
def manEntries (m : Nat) : List Nat := (List.range (manShards m)).map (manShard m)

/-- A KV layout that R259 allows, from bytes 18-27. -/
def layoutOk (y : Nat) : Bool :=
  let ldim := natBits y 0 16
  let lfmt := natBits y 16 8
  let efmt := natBits y 24 8
  let rdim := natBits y 32 16
  let lpg := natBits y 48 8
  let head := natBits y 56 8
  let nl := natBits y 64 16
  let pb := ldim * (if lfmt = 9 then 4 else 8) / 8 + rdim
  decide (128 ≤ ldim) && decide (ldim ≤ 2048) && decide (ldim % 128 = 0) && (lfmt == 5 || lfmt == 9)
    && (efmt == 2 || efmt == 3) && decide (rdim ≤ 256) && decide (rdim % 64 = 0) && decide (1 ≤ lpg)
    && decide (lpg ≤ 16) && decide (head ≤ 3) && decide (1 ≤ nl) && decide (nl ≤ 256) && decide (nl % lpg = 0)
    && decide (lpg * pb ≤ 4096)

/-- Two shards of one group overlap. -/
def shardsOverlap (a b : Nat) : Bool :=
  shardGroup a == shardGroup b && decide (shardOffset a < shardOffset b + shardLength b)
    && decide (shardOffset b < shardOffset a + shardLength a)

/-- No two of a list of shards overlap. -/
def shardsDisjoint : List Nat → Bool
  | [] => true
  | e :: es => es.all (fun x => !shardsOverlap e x) && shardsDisjoint es

/-- A shard-table entry that R430 allows at position `i`, under a model of `nl` layers. -/
def shardOk (nl i e : Nat) : Bool :=
  natBits e 448 32 == i && natBits e 608 160 == 0
    && (decide (shardLayer e < nl) || shardLayer e == 0xFFFE || shardLayer e == 0xFFFF)
    && decide (shardOffset e % 64 = 0) && decide (shardLength e % 64 = 0) && decide (64 ≤ shardLength e)
    && decide (shardLength e ≤ 268435456)

/-- The header and table of a manifest of a kind (0 model, 1 adapter) pass R430; `nl` is the base model's layers for
an adapter. -/
def manifestOk (m kind nl : Nat) : Bool :=
  let layers := if kind = 0 then manLayers m else nl
  let es := manEntries m
  manByte m 0 4 == 0x464D5A41 && manByte m 4 2 == 1 && manByte m 6 1 == kind && natBits m 58 6 == 0
    && (if kind = 0 then
        !manPublic m && manAdapterId m == 0 && manByte m 16 2 == 0 && manRank m == 0 && layoutOk (manLayout m)
      else
        !manKvCompat m && manAdapterId m != 0 && natBits m 141 3 == 0 && manLayout m == 0
          && decide (1 ≤ manRank m) && decide (manRank m ≤ 256))
    && decide (manByte m 34 1 ≤ 7) && manByte m 35 5 == 0 && manByte m 48 208 == 0
    && decide (1 ≤ manShards m) && decide (manShards m ≤ 1048576)
    && (es.zipIdx.all (fun (p : Nat × Nat) => shardOk layers p.2 p.1)) && shardsDisjoint es
    && (es.map shardLength).sum == manByte m 40 8

/-- Both signatures of a manifest verify under the publisher pair KEY_INDEX (R431). -/
def manifestSigned (m : Nat) (keys : List Nat) : Bool :=
  match keys[manByte m 34 1]? with
  | none => false
  | some k =>
    signedBy 0 (Config.sha384 (leBytes (manMessageLen m) m)) (leBytes 4736 (m >>> (8 * manMessageLen m))) k

/-- The pending manifest of the active set. -/
def pendingManifest (s : State) : Option Nat := (activeRecs s 0x000A 2).head?

/-- The manifest of the active version: the image's active manifest, or its pending one once the swap point has made
that version active (R447). -/
def activeManifest (s : State) : Option Nat :=
  match pendingManifest s with
  | some m => if manVersion m = getF s fHNG_MODEL_ACTIVE then some m else (activeRecs s 0x000A 1).head?
  | none => (activeRecs s 0x000A 1).head?

/-- The region base that the placement plan gives a group in the live copy, where it gives one. -/
def groupBase (img : CfgImage) (g : Nat) : Option Nat :=
  ((img.recs 0x0004 4).find? (fun r => natBits r 0 16 == g)).map (fun r => natBits r 16 48)

/-! ### Adapter slots -/

def getSlot (s : State) (n : Nat) : AdapterSlot := tabGet AdapterSlot.empty s.hinge.slots n

def setSlot (s : State) (n : Nat) (v : AdapterSlot) : State :=
  { s with hinge := { s.hinge with slots := tabSet s.hinge.slots n v } }

/-- A slot begins to load an adapter: its previous adapter is gone, and the loader reads the directory (R455, R456). -/
def loadSlot (s : State) (n id : Nat) : State :=
  let s := setSlot s n { AdapterSlot.empty with id := id, phase := .loading }
  let s := { s with hinge := { s.hinge with
    verified := s.hinge.verified.filter (fun v => v / 2 ^ 20 != n + 2)
    fetches := s.hinge.fetches.filter (fun f => f.dest != n + 2)
    manifests := tabDel s.hinge.manifests n } }
  s.emit .hostRead [0, getF s fHNG_ADIR_ADDR * 16, 16 * getF s fHNG_SRC_ADIR_ENTRIES]

/-- States in which an entry pins its slot (R455). -/
def pins (p : WardPhase) : Bool :=
  match p with
  | .prefill => true
  | .decode => true
  | .verify => true
  | .pageWait => true
  | .held => true
  | _ => false

def slotPinned (s : State) (n : Nat) : Bool :=
  (wards s).any (fun p => p.2.adpEn && pins p.2.phase && p.2.adapter == n)

/-- A slot's manifest admits a context: its DOMAIN, or PUBLIC (R455). -/
def slotAdmits (s : State) (v : AdapterSlot) (ctx : Nat) : Bool := v.pub || v.domain == tenantField s ctx 16 13

/-- The READY slot that holds an adapter. -/
def readySlot (s : State) (id : Nat) : Option (Nat × AdapterSlot) :=
  s.hinge.slots.find? (fun p => p.2.phase == .ready && p.2.id == id)

/-- Not every slot is pinned (R334 check 6): a slot is pinned only by the entries that name it (R455). -/
def slotAvailable (s : State) : Bool :=
  decide (s.hinge.slots.length < 8192) || s.hinge.slots.any (fun p => !slotPinned s p.1)

/-- The slot that R455 chooses for an adapter. -/
def chooseAdapterSlot (s : State) (id : Nat) : Option Nat :=
  match s.hinge.slots.find? (fun p => p.2.phase == .loading && p.2.id == id) with
  | some p => some p.1
  | none =>
    match (List.range (min 8192 (s.hinge.slots.length + 1))).find? (fun n => (getSlot s n).phase == .empty) with
    | some n => some n
    | none =>
      (s.hinge.slots.filter (fun p => p.2.phase == .ready && !slotPinned s p.1)).foldl (fun a p =>
        match a with
        | none => some p.1
        | some n => if p.2.released < (getSlot s n).released then some p.1 else some n) none

/-- The release of an entry's pin (R455): the slot remembers the step. -/
def releasePin (s : State) (e : WardEntry) : State :=
  if e.adpEn && pins e.phase then
    setSlot s e.adapter { getSlot s e.adapter with released := getF s fWDN_STEP_STEP }
  else s

/-! ### Swap -/

def swapPhase (s : State) : Nat := getF s fHNG_MODEL_SWAP

def activeVersion (s : State) : Nat := getF s fHNG_MODEL_ACTIVE

/-- The active version is draining for a swap that is not KV_COMPATIBLE (R446). -/
def draining (s : State) : Bool := swapPhase s == 3 && !bitF s fHNG_MODEL_KV_COMPAT

/-- An entry of the active version keeps the drain open (R446). -/
def drainOpen (s : State) : Bool :=
  (wards s).any (fun p => p.2.model == activeVersion s &&
    (match p.2.phase with
      | .admitted => true
      | .adapterWait => true
      | q => pins q))

/-- Packages whose gate for a layer is held. -/
def gateHeld (s : State) (gates : List (Nat × Nat)) (layer : Nat) : Bool :=
  (members s).all (fun p => gates.contains (layer, p))

/-- Layers 0 to `n - 1` of an unbroken run whose gate is held from every package. -/
def gateRun (s : State) (gates : List (Nat × Nat)) (layers : Nat) : Nat :=
  ((List.range layers).takeWhile (gateHeld s gates)).length

/-- Layers of the model whose layout is active. -/
def modelLayers (s : State) : Nat := match activeManifest s with | some m => manLayers m | none => 0

/-- The step in flight is the hinge step's, or older: other lanes' candidates are HELD (R450). -/
def hingeHolding (s : State) : Option Nat := s.hinge.hingeStep.map Prod.fst

end Sys2Proof.Machine
end

