-- ==== Sys2Proof/Machine/Flags.lean ====
section
/-!
DEFINITION. The sticky arithmetic flags (02 R79, R80) as a set.
-/
namespace Sys2Proof.Machine

/-- The sticky arithmetic flags of R79: [0] INVALID, [1] OVERFLOW, [2] OVF_SAT, [3] UNDERFLOW, [4] INEXACT. -/
abbrev FlagSet := BitVec 5

def flNone : FlagSet := 0#5
def flInvalid : FlagSet := 1#5
def flOverflow : FlagSet := 2#5
def flOvfSat : FlagSet := 4#5
def flUnderflow : FlagSet := 8#5
def flInexact : FlagSet := 16#5

/-- A flag set when a condition holds. -/
def flIf (b : Bool) (f : FlagSet) : FlagSet := if b then f else flNone

end Sys2Proof.Machine
end

