-- ==== Sys2Proof/Machine/Num.lean ====
section
/-!
DEFINITION. Number formats and exact-sum arithmetic (spec 02): decoding and encoding of every float format,
round-to-nearest-even, the narrowing conversion of Table 02-4, integer conversions (R75, R76), FP32 addition,
multiplication and fused multiply-add, MX quantisation (R77, R78), the block-exact product (R82, R83, R87) and
the wide accumulator (R89-R97).

Every value is an exact dyadic number until the one rounding that the spec names.
-/
namespace Sys2Proof.Machine

open Sys2Proof

/-- A decoded number: NaN, an infinity, or the finite value `(-1)^neg * m * 2^e` (a zero keeps its sign). -/
inductive FVal where
  | nan
  | inf (neg : Bool)
  | fin (neg : Bool) (m : Nat) (e : Int)
  deriving DecidableEq, Repr

/-- How a format spends its all-ones exponent (Table 02-2). -/
inductive SpecialKind where
  /-- infinity and NaN as IEEE 754 has them -/
  | ieee
  /-- no infinity; NaN is the all-ones exponent with an all-ones significand (E4M3) -/
  | e4m3
  /-- neither infinity nor NaN -/
  | plain
  deriving DecidableEq, Repr

/-- The parameters of a float format (Table 02-2). -/
structure FloatFmt where
  expBits : Nat
  sigBits : Nat
  bias    : Nat
  special : SpecialKind
  deriving DecidableEq, Repr

def fmtFP32 : FloatFmt := ⟨8, 23, 127, .ieee⟩
def fmtFP16 : FloatFmt := ⟨5, 10, 15, .ieee⟩
def fmtBF16 : FloatFmt := ⟨8, 7, 127, .ieee⟩
def fmtE4M3 : FloatFmt := ⟨4, 3, 7, .e4m3⟩
def fmtE5M2 : FloatFmt := ⟨5, 2, 15, .ieee⟩
def fmtE3M2 : FloatFmt := ⟨3, 2, 3, .plain⟩
def fmtE2M3 : FloatFmt := ⟨2, 3, 1, .plain⟩
def fmtE2M1 : FloatFmt := ⟨2, 1, 1, .plain⟩

/-- The element format of a scalar or block float code (Table 02-1); the integer and wide codes have none. -/
def fmtOfCode (c : Nat) : Option FloatFmt :=
  match c with
  | 0 => some fmtFP32
  | 1 => some fmtFP16
  | 2 => some fmtBF16
  | 3 => some fmtE4M3
  | 4 => some fmtE5M2
  | 5 => some fmtE4M3
  | 6 => some fmtE5M2
  | 7 => some fmtE3M2
  | 8 => some fmtE2M3
  | 9 => some fmtE2M1
  | _ => none

/-- The element width in bits of a format code (Table 02-1). -/
def widthOfCode (c : Nat) : Nat :=
  match c with
  | 0 => 32
  | 1 => 16
  | 2 => 16
  | 3 => 8
  | 4 => 8
  | 5 => 8
  | 6 => 8
  | 7 => 6
  | 8 => 6
  | 9 => 4
  | 10 => 8
  | 11 => 4
  | 12 => 32
  | 13 => 128
  | _ => 0

/-- A format code with a shared scale (0x5-0x9, Table 02-1). -/
def isMxCode (c : Nat) : Bool := decide (5 ≤ c ∧ c ≤ 9)

/-- An integer format code (0xA-0xC). -/
def isIntCode (c : Nat) : Bool := decide (10 ≤ c ∧ c ≤ 12)

/-- The largest significand (with its implicit bit) and its exponent: the max finite of Table 02-2. -/
def FloatFmt.maxMant (f : FloatFmt) : Nat :=
  match f.special with
  | .ieee => 2 ^ (f.sigBits + 1) - 1
  | .e4m3 => 2 ^ (f.sigBits + 1) - 2
  | .plain => 2 ^ (f.sigBits + 1) - 1

def FloatFmt.maxField (f : FloatFmt) : Nat :=
  match f.special with
  | .ieee => 2 ^ f.expBits - 2
  | .e4m3 => 2 ^ f.expBits - 1
  | .plain => 2 ^ f.expBits - 1

/-- The exponent of the max finite's last place. -/
def FloatFmt.maxExp (f : FloatFmt) : Int := (f.maxField : Int) - f.bias - f.sigBits

/-- The exponent of the smallest subnormal. -/
def FloatFmt.minExp (f : FloatFmt) : Int := 1 - (f.bias : Int) - f.sigBits

def FloatFmt.width (f : FloatFmt) : Nat := f.expBits + f.sigBits + 1

/-- The max finite as a value. -/
def FloatFmt.maxVal (f : FloatFmt) (neg : Bool) : FVal := .fin neg f.maxMant f.maxExp

/-- The canonical NaN of a format that has one (Table 02-2, R65). -/
def FloatFmt.nanBits (f : FloatFmt) : Nat :=
  match f.special with
  | .ieee => (2 ^ f.expBits - 1) * 2 ^ f.sigBits + 2 ^ (f.sigBits - 1)
  | .e4m3 => 2 ^ (f.expBits + f.sigBits) - 1
  | .plain => 0

def signBit (f : FloatFmt) (neg : Bool) : Nat := if neg then 2 ^ (f.expBits + f.sigBits) else 0

/-- Decode the bits of a format (R64; subnormals are kept). -/
def decodeF (f : FloatFmt) (b : Nat) : FVal :=
  let neg := natBits b (f.expBits + f.sigBits) 1 == 1
  let ex := natBits b f.sigBits f.expBits
  let sg := natBits b 0 f.sigBits
  let ones := 2 ^ f.expBits - 1
  let val := if ex = 0 then FVal.fin neg sg f.minExp
             else .fin neg (sg + 2 ^ f.sigBits) (f.minExp + (ex : Int) - 1)
  match f.special with
  | .ieee => if ex = ones then (if sg = 0 then .inf neg else .nan) else val
  | .e4m3 => if ex = ones ∧ sg = 2 ^ f.sigBits - 1 then .nan else val
  | .plain => val

/-- `m / 2^k`, rounded to nearest, ties to even. -/
def rneShr (m k : Nat) : Nat :=
  let q := m >>> k
  let r := m % 2 ^ k
  if 2 * r > 2 ^ k ∨ (2 * r = 2 ^ k ∧ q % 2 = 1) then q + 1 else q

/-- `m * 2^e` rounded to nearest even in a format with unbounded upper exponent: significand, exponent, exact. -/
def rneDyadic (f : FloatFmt) (m : Nat) (e : Int) : Nat × Int × Bool :=
  if m = 0 then (0, f.minExp, true)
  else
    let top : Int := (m.log2 : Int) + e
    let q : Int := max (top - f.sigBits) f.minExp
    if q ≤ e then (m * 2 ^ (e - q).toNat, q, true)
    else
      let k := (q - e).toNat
      (rneShr m k, q, m % 2 ^ k == 0)

/-- The bits of a finite `m * 2^q` that is a value of the format (`q` at least the format's least exponent). -/
def encodeFin (f : FloatFmt) (neg : Bool) (m : Nat) (q : Int) : Nat :=
  let (m, q) := if m ≥ 2 ^ (f.sigBits + 1) then (m / 2, q + 1) else (m, q)
  let body := if m < 2 ^ f.sigBits then m
    else ((q - f.minExp + 1).toNat) * 2 ^ f.sigBits + (m - 2 ^ f.sigBits)
  signBit f neg + body

def encodeInf (f : FloatFmt) (neg : Bool) : Nat :=
  signBit f neg + (2 ^ f.expBits - 1) * 2 ^ f.sigBits

def encodeMax (f : FloatFmt) (neg : Bool) : Nat := encodeFin f neg f.maxMant f.maxExp

/-- `m * 2^q` exceeds the format's max finite. -/
def exceedsMax (f : FloatFmt) (m : Nat) (q : Int) : Bool :=
  let d := q - f.maxExp
  if d ≥ 0 then decide (m * 2 ^ d.toNat > f.maxMant) else decide (m > f.maxMant * 2 ^ (-d).toNat)

/-- Conversion of a value to a float format under SAT (Table 02-4). -/
def narrow (f : FloatFmt) (sat : Bool) (v : FVal) : Nat × FlagSet :=
  match v with
  | .nan => (f.nanBits, flNone)
  | .inf neg =>
    match f.special with
    | .ieee => if sat then (encodeMax f neg, flOvfSat) else (encodeInf f neg, flNone)
    | .e4m3 => if sat then (encodeMax f neg, flOvfSat) else (f.nanBits, flInvalid)
    | .plain => (encodeMax f neg, flOvfSat)
  | .fin neg m e =>
    let (r, q, ex) := rneDyadic f m e
    if exceedsMax f r q then
      match f.special with
      | .ieee => if sat then (encodeMax f neg, flOvfSat ||| flInexact)
                 else (encodeInf f neg, flOverflow ||| flInexact)
      | .e4m3 => if sat then (encodeMax f neg, flOvfSat ||| flInexact)
                 else (f.nanBits, flOverflow ||| flInexact)
      | .plain => (encodeMax f neg, flOvfSat ||| flInexact)
    else
      (encodeFin f neg r q, flIf (m ≠ 0 && r == 0) flUnderflow ||| flIf (!ex) flInexact)

/-- One RNE rounding of an exact value to FP32, to infinity on overflow (R73, R83). -/
def round32 (v : FVal) : Nat × FlagSet := narrow fmtFP32 false v

/-- The FP32 reading of 32 bits. -/
def dec32 (b : Nat) : FVal := decodeF fmtFP32 b

/-- Widening of any scalar float code to FP32 bits: exact, NaN to the canonical NaN (R76). -/
def widen32 (code b : Nat) : Nat :=
  match fmtOfCode code with
  | some f => (round32 (decodeF f b)).1
  | none => 0

/-- Conversion of FP32 bits to a float code, the identity for FP32 (R713, Table 02-4). -/
def convertOut (code : Nat) (sat : Bool) (b : Nat) : Nat × FlagSet :=
  match code with
  | 0 => (match dec32 b with | .nan => fmtFP32.nanBits | _ => b, flNone)
  | c =>
    match fmtOfCode c with
    | some f => narrow f sat (dec32 b)
    | none => (b, flNone)

/-- A value is NaN. -/
def FVal.isNan : FVal → Bool
  | .nan => true
  | _ => false

def FVal.isInf : FVal → Bool
  | .inf _ => true
  | _ => false

def FVal.isZero : FVal → Bool
  | .fin _ m _ => m == 0
  | _ => false

def FVal.neg : FVal → FVal
  | .nan => .nan
  | .inf s => .inf (!s)
  | .fin s m e => .fin (!s) m e

def FVal.signNeg : FVal → Bool
  | .nan => false
  | .inf s => s
  | .fin s _ _ => s

/-- A signed mantissa. -/
def signedMant (neg : Bool) (m : Nat) : Int := if neg then -(m : Int) else (m : Int)

/-- The exact product (an infinity times zero is a NaN with INVALID, R80). -/
def mulExact (a b : FVal) : FVal × FlagSet :=
  match a, b with
  | .nan, _ => (.nan, flNone)
  | _, .nan => (.nan, flNone)
  | .inf s, .inf t => (.inf (s != t), flNone)
  | .inf s, .fin t m _ => if m = 0 then (.nan, flInvalid) else (.inf (s != t), flNone)
  | .fin s m _, .inf t => if m = 0 then (.nan, flInvalid) else (.inf (s != t), flNone)
  | .fin s m e, .fin t n f => (.fin (s != t) (m * n) (e + f), flNone)

/-- The exact sum (opposite infinities give NaN with INVALID; an exact zero of opposite signs is +0, R67). -/
def addExact (a b : FVal) : FVal × FlagSet :=
  match a, b with
  | .nan, _ => (.nan, flNone)
  | _, .nan => (.nan, flNone)
  | .inf s, .inf t => if s = t then (.inf s, flNone) else (.nan, flInvalid)
  | .inf s, .fin _ _ _ => (.inf s, flNone)
  | .fin _ _ _, .inf t => (.inf t, flNone)
  | .fin s m e, .fin t n f =>
    if m = 0 ∧ n = 0 then (.fin (s && t) 0 0, flNone)
    else
      let q := min e f
      let z := signedMant s (m * 2 ^ (e - q).toNat) + signedMant t (n * 2 ^ (f - q).toNat)
      if z = 0 then (.fin false 0 0, flNone) else (.fin (decide (z < 0)) z.natAbs q, flNone)

/-- FP32 addition, one rounding. -/
def add32 (a b : Nat) : Nat × FlagSet :=
  let (v, f) := addExact (dec32 a) (dec32 b)
  let (r, g) := round32 v
  (r, f ||| g)

/-- FP32 multiplication, one rounding. -/
def mul32 (a b : Nat) : Nat × FlagSet :=
  let (v, f) := mulExact (dec32 a) (dec32 b)
  let (r, g) := round32 v
  (r, f ||| g)

/-- FP32 fused multiply-add, one rounding. -/
def fma32 (a b c : Nat) : Nat × FlagSet :=
  let (p, f) := mulExact (dec32 a) (dec32 b)
  let (v, g) := addExact p (dec32 c)
  let (r, h) := round32 v
  (r, f ||| g ||| h)

/-- `m * 2^e` rounded RNE to an integer: the integer and whether it is exact. -/
def rneInt (m : Nat) (e : Int) : Nat × Bool :=
  if e ≥ 0 then (m * 2 ^ e.toNat, true)
  else (rneShr m (-e).toNat, m % 2 ^ (-e).toNat == 0)

/-- Conversion to a `w`-bit two's complement integer (R75). -/
def toInt (w : Nat) (v : FVal) : Nat × FlagSet :=
  let hi : Int := (2 ^ (w - 1) : Nat) - 1
  let lo : Int := -((2 ^ (w - 1) : Nat) : Int)
  match v with
  | .nan => (0, flInvalid)
  | .inf neg => (intToNat w (if neg then lo else hi), flOvfSat)
  | .fin neg m e =>
    let (n, ex) := rneInt m e
    let i := signedMant neg n
    if i > hi then (intToNat w hi, flOvfSat ||| flInexact)
    else if i < lo then (intToNat w lo, flOvfSat ||| flInexact)
    else (intToNat w i, flIf (!ex) flInexact)

/-- An integer as an exact value. -/
def FVal.ofInt (i : Int) : FVal := .fin (decide (i < 0)) i.natAbs 0

/-- The value of an element code: floats decoded, INT8, INT4 and INT32 as integers. -/
def elemVal (code b : Nat) : FVal :=
  match fmtOfCode code with
  | some f => decodeF f b
  | none => FVal.ofInt (natToInt (widthOfCode code) b)

/-- Numeric comparison of non-NaN values: the value of `a - b` is negative. -/
def ltVal (a b : FVal) : Bool :=
  match a, b with
  | .nan, _ => false
  | _, .nan => false
  | .inf s, .inf t => s && !t
  | .inf s, .fin _ _ _ => s
  | .fin _ _ _, .inf t => !t
  | .fin s m e, .fin t n f =>
    let q := min e f
    decide (signedMant s (m * 2 ^ (e - q).toNat) < signedMant t (n * 2 ^ (f - q).toNat))

/-- The larger of two FP32 values that are not NaN; of two zeros, +0 (log entry 152). -/
def max32 (a b : Nat) : Nat :=
  let x := decodeF fmtFP32 a
  let y := decodeF fmtFP32 b
  if ltVal x y then b else if ltVal y x then a else if x.signNeg then b else a

/-- Equality of non-NaN values (-0 equals +0). -/
def eqVal (a b : FVal) : Bool :=
  !a.isNan && !b.isNan && !ltVal a b && !ltVal b a

/-! ### MX quantisation (R77, R78) -/

/-- `floor(log2 |v|)` of a nonzero finite value. -/
def floorLog2 (m : Nat) (e : Int) : Int := (m.log2 : Int) + e

/-- The element format's largest normal exponent (R77). -/
def emaxOf (code : Nat) : Int :=
  match code with
  | 5 => 8
  | 6 => 15
  | 7 => 4
  | 8 => 2
  | 9 => 2
  | _ => 0

/-- The magnitude that an input contributes to amax: infinities count as the FP32 max finite (R78). -/
def amaxPart (v : FVal) : FVal :=
  match v with
  | .nan => .fin false 0 0
  | .inf _ => fmtFP32.maxVal false
  | .fin _ m e => .fin false m e

def maxVal (a b : FVal) : FVal := if ltVal a b then b else a

def clampInt (lo hi i : Int) : Int := max lo (min hi i)

/-- Quantise one element by `2^-X`, clamping to the element's max finite. -/
def quantElem (f : FloatFmt) (x : Int) (v : FVal) : Nat × FlagSet :=
  match v with
  | .nan => (0, flNone)
  | .inf neg => (encodeMax f neg, flOvfSat)
  | .fin neg m e => narrow f true (.fin neg m (e - x))

/-- Quantise a block: scale byte, element codes and flags (R77, R78). -/
def mxQuantise (code : Nat) (sat : Bool) (xs : List FVal) : Nat × List Nat × FlagSet :=
  match fmtOfCode code with
  | none => (0, [], flNone)
  | some f =>
    if xs.any FVal.isNan then (255, xs.map (fun _ => 0), flInvalid)
    else if !sat && xs.any FVal.isInf then (255, xs.map (fun _ => 0), flInvalid)
    else
      let amax := xs.foldl (fun a v => maxVal a (amaxPart v)) (.fin false 0 0)
      match amax with
      | .fin _ 0 _ => (0, xs.map (fun v => signBit f v.signNeg), flNone)
      | .fin _ m e =>
        let x := clampInt (-127) 127 (floorLog2 m e - emaxOf code)
        let qs := xs.map (quantElem f x)
        ((x + 127).toNat, qs.map Prod.fst, qs.foldl (fun a q => a ||| q.2) flNone)
      | _ => (0, [], flNone)

/-! ### Block-exact products (R82-R87) -/

/-- An operand element with its MX scale applied exactly (R72). -/
def scaledElem (code scale b : Nat) : FVal :=
  if isMxCode code then
    if scale = 255 then .nan
    else
      match elemVal code b with
      | .fin s m e => .fin s m (e + (scale : Int) - 127)
      | v => v
  else elemVal code b

/-- The running block sum: the exact finite sum, and what special products have been met (R83). -/
structure BlockAcc where
  sum    : Int
  exp    : Int
  anyNan : Bool
  inv    : Bool
  posInf : Bool
  negInf : Bool
  zeroNeg : Bool
  deriving DecidableEq, Repr

def BlockAcc.start : BlockAcc := ⟨0, 0, false, false, false, false, true⟩

/-- Add one product to the block. -/
def BlockAcc.add (s : BlockAcc) (a b : FVal) : BlockAcc :=
  let (p, f) := mulExact a b
  let s := if f = flInvalid then { s with inv := true, anyNan := true } else s
  match p with
  | .nan => { s with anyNan := true }
  | .inf true => { s with negInf := true }
  | .inf false => { s with posInf := true }
  | .fin neg m e =>
    let q := min s.exp e
    { s with
      sum := s.sum * (2 ^ (s.exp - q).toNat : Nat) + signedMant neg (m * 2 ^ (e - q).toNat)
      exp := q
      zeroNeg := s.zeroNeg && neg && m == 0 }

/-- The new accumulator value after a float block (R82, R83); the second item of R83 sets INVALID beside the first (log
entry 136). -/
def BlockAcc.finish (s : BlockAcc) (c : Nat) : Nat × FlagSet :=
  let cv := dec32 c
  let fInv := flIf s.inv flInvalid
  if s.anyNan || cv.isNan then
    let opposed := match cv with
      | .inf neg => if neg then s.posInf else s.negInf
      | _ => false
    (fmtFP32.nanBits, fInv ||| flIf (s.posInf && s.negInf || opposed) flInvalid)
  else if s.posInf && s.negInf then (fmtFP32.nanBits, flInvalid)
  else if s.posInf || s.negInf then
    match cv with
    | .inf neg => if neg = s.negInf then (c, flNone) else (fmtFP32.nanBits, flInvalid)
    | _ => (encodeInf fmtFP32 s.negInf, flNone)
  else
    let sv : FVal := if s.sum = 0 then .fin s.zeroNeg 0 0 else .fin (decide (s.sum < 0)) s.sum.natAbs s.exp
    let (v, f) := addExact cv sv
    let (r, g) := round32 v
    (r, f ||| g)

/-- One float block: pairs of scaled elements, the old accumulator, the new one (R82). -/
def floatBlock (ps : List (FVal × FVal)) (c : Nat) : Nat × FlagSet :=
  (ps.foldl (fun s p => s.add p.1 p.2) BlockAcc.start).finish c

/-- Cut a list into blocks. -/
def blocksOf {α : Type} (n : Nat) (l : List α) : List (List α) :=
  (List.range ((l.length + n - 1) / n)).map (fun b => (l.drop (b * n)).take n)

/-- A cell of a float product: blocks in ascending K, one rounding each (R82, R105). -/
def floatCell (len : Nat) (a b : List FVal) (c : Nat) : Nat × FlagSet :=
  (blocksOf len (a.zip b)).foldl (fun (x : Nat × FlagSet) ps =>
    let (v, f) := floatBlock ps x.1
    (v, x.2 ||| f)) (c, flNone)

/-- One integer block, clamped to INT32 (R87). -/
def intBlock (ps : List (Int × Int)) (c : Nat) : Nat × FlagSet :=
  let z := natToInt 32 c + ps.foldl (fun s p => s + p.1 * p.2) 0
  let hi : Int := 2 ^ 31 - 1
  let lo : Int := -(2 ^ 31)
  if z > hi then (intToNat 32 hi, flOvfSat)
  else if z < lo then (intToNat 32 lo, flOvfSat)
  else (intToNat 32 z, flNone)

/-- The block length of an operand combination (Table 02-5), `none` for a reserved combination. -/
def blockLen (a b : Nat) : Option Nat :=
  if isIntCode a || isIntCode b then
    if (a = 10 ∨ a = 11) ∧ (b = 10 ∨ b = 11) then some 32 else none
  else if a = 0 ∨ b = 0 ∨ a > 9 ∨ b > 9 then none
  else if a = 1 ∨ a = 2 ∨ b = 1 ∨ b = 2 then some 8
  else some 32

/-! ### Wide accumulators (R88-R97) -/

def cellUNF : Nat := 121
def cellOVF : Nat := 120
def cellINEXACT : Nat := 122
def cellNAN : Nat := 123
def cellPINF : Nat := 124
def cellNINF : Nat := 125
def cellWRAP : Nat := 126

/-- Set a flag bit of a cell when a condition holds. -/
def cellFlag (cell bit : Nat) (b : Bool) : Nat := if b then cell ||| 2 ^ bit else cell

/-- The 120-bit running sum of a cell. -/
def cellSum (cell : Nat) : Int := natToInt 120 cell

/-- A cell with a new running sum: it wraps to 120 bits, setting WRAP (R92). -/
def cellWithSum (cell : Nat) (z : Int) : Nat :=
  let c := natSetBits cell 0 120 (intToNat 120 z)
  cellFlag c cellWRAP (decide (natToInt 120 (intToNat 120 z) ≠ z))

/-- The largest and least values of the architected 96-bit range. -/
def wideMax : Int := 2 ^ 95 - 1
def wideMin : Int := -(2 ^ 95)

/-- Add one addend to a cell at an anchor (R90, R91). -/
def cellAdd (anchor : Int) (cell : Nat) (x : FVal) : Nat :=
  match x with
  | .nan => cellFlag cell cellNAN true
  | .inf false => cellFlag cell cellPINF true
  | .inf true => cellFlag cell cellNINF true
  | .fin neg m e =>
    let (n, ex) := rneInt m (e - anchor)
    let i := signedMant neg n
    let i' := clampInt wideMin wideMax i
    let c := cellFlag cell cellOVF (decide (i' ≠ i))
    let c := cellFlag c cellUNF (m ≠ 0 && n == 0)
    let c := cellFlag c cellINEXACT (!ex)
    cellWithSum c (cellSum cell + i')

/-- Merge two cells that share an anchor (R93). -/
def cellMerge (a b : Nat) : Nat :=
  let flags := natBits a 120 7 ||| natBits b 120 7
  cellWithSum (flags <<< 120) (cellSum a + cellSum b)

/-- Converted read-out of a cell (Table 02-7). DESIGN CHOICE: a cell with both PINF and NINF set reads out as NaN without
a flag (log entry 141). -/
def cellRead (code : Nat) (sat : Bool) (anchor : Int) (cell : Nat) : Nat × FlagSet :=
  match fmtOfCode code with
  | none => (0, flNone)
  | some f =>
    let nanF := natBits cell cellNAN 1 == 1
    let p := natBits cell cellPINF 1 == 1
    let n := natBits cell cellNINF 1 == 1
    if nanF || (p && n) then (f.nanBits, flNone)
    else if p || n then
      match f.special with
      | .e4m3 => narrow f sat (.inf n)
      | _ => (encodeInf f n, flNone)
    else
      let z := cellSum cell
      let z' := clampInt wideMin wideMax z
      let (r, g) := narrow f sat (.fin (decide (z' < 0)) z'.natAbs anchor)
      (r, flIf (decide (z' ≠ z)) flOvfSat ||| g)

end Sys2Proof.Machine
end

