-- ==== Sys2Proof/Machine/LustreFn.lean ====
section
/-!
DEFINITION. The Lustre function values (spec 05): native results correctly rounded (R202), special values
(Table 05-3), flags (R205), the G2-exact algorithm (R222-R225) and the micro-operations (R213, R214).

A native value is computed as a fixed-point number with `lusP` fractional bits, truncated with a sticky bit, and
rounded once. DEDUCED: 512 fractional bits settle the rounding of every FP32 input (log entry 20).
-/
namespace Sys2Proof.Machine

open Sys2Proof

/-! ### Fixed-point series -/

/-- Fractional bits of the fixed-point evaluation. -/
def lusP : Nat := 512

/-- One, as a fixed-point number. -/
def fxOne : Int := (2 ^ lusP : Nat)

def fxMul (a b : Int) : Int := (a * b) / fxOne

def fxDiv (a b : Int) : Int := a * fxOne / b

/-- Integer square root by bisection from the top bit down. -/
def isqrtGo (n : Nat) : Nat → Nat → Nat
  | 0, r => r
  | k + 1, r =>
    let c := r + 2 ^ k
    isqrtGo n k (if c * c ≤ n then c else r)

/-- The integer square root. -/
def isqrt (n : Nat) : Nat := isqrtGo n (n.log2 / 2 + 1) 0

/-- `2 * atanh z` by its series, for small `z`. -/
def fxAtanh2Go (z2 : Int) : Nat → Nat → Int → Int → Int
  | 0, _, _, acc => acc
  | fuel + 1, k, zp, acc =>
    if zp = 0 then acc else fxAtanh2Go z2 fuel (k + 2) (fxMul zp z2) (acc + 2 * zp / (k : Int))

def fxAtanh2 (z : Int) : Int := fxAtanh2Go (fxMul z z) 400 1 z 0

/-- ln 2. -/
def fxLn2 : Int := fxAtanh2 (fxOne / 3)

/-- The natural logarithm of a fixed-point number in [1, 2]. -/
def fxLn (x : Int) : Int := fxAtanh2 (fxDiv (x - fxOne) (x + fxOne))

def fxExpGo (y : Int) : Nat → Nat → Int → Int → Int
  | 0, _, _, acc => acc
  | fuel + 1, k, t, acc =>
    if t = 0 ∨ t = -1 then acc else fxExpGo y fuel (k + 1) (fxMul t y / (k : Int)) (acc + t)

/-- `e^y` for `y` in [0, 1). -/
def fxExpSmall (y : Int) : Int := fxExpGo y 200 1 fxOne 0

/-- `e^y` for a fixed-point `y`, reduced by ln 2. -/
def fxExp (y : Int) : Int :=
  let n := y / fxLn2
  let r := fxExpSmall (y - n * fxLn2)
  if n ≥ 0 then r * (2 ^ n.toNat : Nat) else r / (2 ^ (-n).toNat : Nat)

/-- arctan(1/q). -/
def fxAtanInvGo (q2 : Int) : Nat → Nat → Int → Bool → Int → Int
  | 0, _, _, _, acc => acc
  | fuel + 1, k, p, s, acc =>
    fxAtanInvGo q2 fuel (k + 2) (p / q2) (!s) (if s then acc - p / (k : Int) else acc + p / (k : Int))

def fxAtanInv (q : Int) : Int := fxAtanInvGo (q * q) 260 1 (fxOne / q) false 0

/-- pi, by Machin's formula. -/
def fxPi : Int := 4 * (4 * fxAtanInv 5 - fxAtanInv 239)

/-- The square root of a fixed-point number. -/
def fxSqrt (x : Int) : Int := (isqrt (x.toNat * 2 ^ lusP) : Int)

/-- sqrt(2 / pi). -/
def fxSqrt2OverPi : Int := fxSqrt (fxDiv (2 * fxOne) fxPi)

def fxErfGo (h : Int) : Nat → Nat → Int → Int → Int
  | 0, _, _, acc => acc
  | fuel + 1, k, t, acc =>
    if t = 0 ∨ t = -1 then acc
    else fxErfGo h fuel (k + 1) (-(fxMul t h) / ((k : Int) + 1)) (acc + t / (2 * (k : Int) + 1))

/-- `erf(x / sqrt 2)` of a fixed-point `x`: sqrt(2/pi) * sum (-1)^k x^(2k+1) / (2^k k! (2k+1)). -/
def fxErfSqrt2 (x : Int) : Int := fxMul fxSqrt2OverPi (fxErfGo (fxMul x x / 2) 700 0 x 0)

/-- `erf x` = `erf((x * sqrt 2) / sqrt 2)`. -/
def fxErf (x : Int) : Int :=
  fxMul (2 * fxSqrt (fxDiv fxOne fxPi)) (fxErfGo (fxMul x x) 700 0 x 0)

/-- A finite FP32 value as a fixed-point number (exact: no FP32 value is finer than 2^-149). -/
def fxOfVal (neg : Bool) (m : Nat) (e : Int) : Int :=
  signedMant neg (m * 2 ^ (e + (lusP : Int)).toNat)

/-- An inexact fixed-point value as an exact dyadic with a sticky low bit, so that one rounding is right. -/
def fxSticky (neg : Bool) (a : Int) : FVal := .fin neg (4 * a.natAbs + 1) (-(lusP : Int) - 2)

/-! ### Native functions (R202-R205) -/

/-- An evaluation: FP32 bits and flags. -/
abbrev Eval := Nat × FlagSet

def evInvalid : Eval := (fmtFP32.nanBits, flInvalid)

def f32Inf (neg : Bool) : Nat := encodeInf fmtFP32 neg
def f32Zero (neg : Bool) : Nat := signBit fmtFP32 neg
def f32One (neg : Bool) : Nat := signBit fmtFP32 neg + 127 * 2 ^ 23

/-- Round an exact value known to differ from every FP32 value: INEXACT always, OVERFLOW and UNDERFLOW by R205. -/
def evInexact (v : FVal) : Eval :=
  let (b, f) := round32 v
  (b, f ||| flInexact)

/-- Round an exact value. -/
def evExact (v : FVal) : Eval := round32 v

/-- The quotient `n / d` with a sticky bit, to 64 bits beyond the binary point of the leading digit. -/
def quotVal (neg : Bool) (n d : Nat) (e : Int) : FVal :=
  let k := d.log2 + 64
  let q := n * 2 ^ k / d
  let r := n * 2 ^ k % d
  .fin neg (2 * q + (if r = 0 then 0 else 1)) (e - k - 1)

/-- 1 / sqrt(m * 2^e), with a sticky bit: sqrt(2^(2K) / (m 2^e)). -/
def rsqrtVal (m : Nat) (e : Int) : FVal :=
  let (m, e) := if e % 2 = 0 then (m, e) else (2 * m, e - 1)
  let k : Nat := 100
  let n := 2 ^ (2 * k) / m
  let r := isqrt n
  let exact := r * r * m == 2 ^ (2 * k)
  .fin false (2 * r + (if exact then 0 else 1)) (-(e / 2) - k - 1)

/-- The largest exponent magnitude that the exponential functions need to tell apart. -/
def fxClamp (lim : Nat) (x : Int) : Int := clampInt (-((lim : Int) * fxOne)) ((lim : Int) * fxOne) x

/-- 2^t of a finite value: exact for an integer t, otherwise rounded (EXP2). -/
def exp2Val (neg : Bool) (m : Nat) (e : Int) : FVal :=
  let x := fxClamp 400 (fxOfVal neg m e)
  let n := x / fxOne
  let f := x - n * fxOne
  if f = 0 then .fin false 1 n
  else .fin false (4 * (fxExpSmall (fxMul f fxLn2)).natAbs + 1) (n - lusP - 2)

/-- log2 of a positive finite value: exact for a power of two. -/
def log2Val (m : Nat) (e : Int) : FVal :=
  let top := m.log2
  let ex := (top : Int) + e
  if m = 2 ^ top then FVal.ofInt ex
  else
    let x : Int := ((m * 2 ^ (lusP - top) : Nat) : Int)
    let r := ex * fxOne + fxDiv (fxLn x) fxLn2
    fxSticky (decide (r < 0)) (if r < 0 then r + 1 else r)

/-- 1 / (1 + e^-x), fixed point. -/
def fxLogistic (x : Int) : Int :=
  if x ≥ 0 then fxDiv fxOne (fxOne + fxExp (-x))
  else let w := fxExp x; fxDiv w (fxOne + w)

/-- The number of extra places a product with a small logistic needs is covered by the fixed point. -/
def mulFx (neg : Bool) (m : Nat) (e : Int) (a : Int) : FVal :=
  .fin neg (4 * (m * a.natAbs) + 1) (e - lusP - 2)

/-- A built-in function at a finite nonzero value that Table 05-3 does not govern. -/
def nativeFin (fn : Nat) (neg : Bool) (m : Nat) (e : Int) : Eval :=
  let x := fxOfVal neg m e
  match fn with
  | 0x00 => evExact (.fin neg m e)
  | 0x01 => evExact (quotVal neg 1 m (-e))
  | 0x02 => evExact (rsqrtVal m e)
  | 0x03 => evExact (exp2Val neg m e)
  | 0x04 => evExact (log2Val m e)
  | 0x05 =>
    let w := fxExp (2 * fxClamp 100 (if neg then -x else x))
    evInexact (fxSticky neg (fxDiv (w - fxOne) (w + fxOne)))
  | 0x06 => evInexact (fxSticky false (fxLogistic (fxClamp 300 x)))
  | 0x07 => evInexact (fxSticky neg (fxErf (fxClamp 8 (if neg then -x else x))))
  | 0x08 => evInexact (mulFx neg m e (if x < -(16 * fxOne) then 0 else (fxOne + fxErfSqrt2 (fxClamp 16 x)) / 2))
  | 0x09 =>
    let y := fxClamp 40 x
    let c := y + fxMul (fxMul y y) y * 44715 / 1000000
    evInexact (mulFx neg m e (fxLogistic (fxClamp 300 (2 * fxMul fxSqrt2OverPi c))))
  | 0x0A => evInexact (mulFx neg m e (fxLogistic (fxClamp 300 x)))
  | 0x0B =>
    let y := fxClamp 300 x
    let w := fxExp (if y ≥ 0 then -y else y)
    let l := fxAtanh2 (fxDiv w (2 * fxOne + w))
    if neg then evInexact (fxSticky false l) else evInexact (fxSticky false (x + l))
  | 0x0C => if neg then (f32Zero false, flNone) else evExact (.fin neg m e)
  | _ => (fmtFP32.nanBits, flNone)

/-- A built-in function in native mode at FP32 bits, Table 05-3 first (R202, R204, R205). -/
def nativeFn (fn b : Nat) : Eval :=
  match dec32 b with
  | .nan => (fmtFP32.nanBits, flNone)
  | .inf neg =>
    match fn with
    | 0x00 => (f32Inf neg, flNone)
    | 0x01 => (f32Zero neg, flNone)
    | 0x02 => if neg then evInvalid else (f32Zero false, flNone)
    | 0x03 => (if neg then f32Zero false else f32Inf false, flNone)
    | 0x04 => if neg then evInvalid else (f32Inf false, flNone)
    | 0x05 => (f32One neg, flNone)
    | 0x06 => (if neg then f32Zero false else f32One false, flNone)
    | 0x07 => (f32One neg, flNone)
    | 0x08 => (if neg then f32Zero true else f32Inf false, flNone)
    | 0x09 => (if neg then f32Zero true else f32Inf false, flNone)
    | 0x0A => (if neg then f32Zero true else f32Inf false, flNone)
    | 0x0B => (if neg then f32Zero false else f32Inf false, flNone)
    | 0x0C => (if neg then f32Zero false else f32Inf false, flNone)
    | _ => (fmtFP32.nanBits, flNone)
  | .fin neg m e =>
    if m = 0 then
      match fn with
      | 0x00 => (f32Zero neg, flNone)
      | 0x01 => (f32Inf neg, flOverflow)
      | 0x02 => (f32Inf neg, flOverflow)
      | 0x03 => (f32One false, flNone)
      | 0x04 => (f32Inf true, flOverflow)
      | 0x05 => (f32Zero neg, flNone)
      | 0x06 => (0x3F000000, flNone)
      | 0x07 => (f32Zero neg, flNone)
      | 0x08 => (f32Zero neg, flNone)
      | 0x09 => (f32Zero neg, flNone)
      | 0x0A => (f32Zero neg, flNone)
      | 0x0B => evInexact (fxSticky false fxLn2)
      | 0x0C => (f32Zero false, flNone)
      | _ => (fmtFP32.nanBits, flNone)
    else if neg ∧ (fn = 0x02 ∨ fn = 0x04) then evInvalid
    else if fn = 0x03 ∧ neg = false ∧ decide (floorLog2 m e ≥ 7) then (f32Inf false, flOverflow ||| flInexact)
    else nativeFin fn neg m e

/-! ### G2-exact mode (R222-R225) -/

/-- A subnormal becomes zero of the same sign (R222). -/
def flush32 (b : Nat) : Nat :=
  if natBits b 23 8 = 0 then f32Zero (natBits b 31 1 == 1) else b

def g2Add (a b : Nat) : Nat := flush32 (add32 a b).1
def g2Mul (a b : Nat) : Nat := flush32 (mul32 a b).1
def g2Fma (a b c : Nat) : Nat := flush32 (fma32 a b c).1
def g2Neg (a : Nat) : Nat := if natBits a 31 1 = 1 then a - 2 ^ 31 else a + 2 ^ 31
def g2Abs (a : Nat) : Nat := natBits a 0 31
def g2CopySign (a x : Nat) : Nat := natBits a 0 31 + natBits x 31 1 * 2 ^ 31

/-- Scaling by 2^k: one rounding and a flush (R223). -/
def g2Scale (a : Nat) (k : Int) : Nat :=
  match dec32 a with
  | .fin s m e => flush32 (round32 (.fin s m (e + k))).1
  | _ => a

/-- `ilogb` of a finite nonzero normal value. -/
def g2Ilogb (x : Nat) : Int := (natBits x 23 8 : Int) - 127

/-- The significand as an FP32 value in [1, 2). -/
def g2Mant (x : Nat) : Nat := 127 * 2 ^ 23 + natBits x 0 23

/-- A rational rounded RNE to `sig + 1` significant bits, held in FP32. -/
def roundSig (sig : Nat) (n d : Nat) : Nat :=
  match quotVal false n d 0 with
  | .fin _ m e =>
    let (r, q, _) := rneDyadic ⟨12, sig, 2047, .ieee⟩ m e
    (round32 (.fin false r q)).1
  | _ => 0

def g2RcpSeed (i : Nat) : Nat := roundSig 7 256 (256 + 2 * i + 1)

def g2RsqrtSeed (o j : Nat) : Nat :=
  match rsqrtVal ((128 + 2 * j + 1) * 2 ^ o) (-7) with
  | .fin _ m e =>
    let (r, q, _) := rneDyadic ⟨12, 7, 2047, .ieee⟩ m e
    (round32 (.fin false r q)).1
  | _ => 0

def g2Const (a : Int) : Nat := (round32 (fxSticky (decide (a < 0)) a)).1

/-- A decimal constant `n / 10^k`. -/
def g2Dec (neg : Bool) (n k : Nat) : Nat := (round32 (quotVal neg n (10 ^ k) 0)).1

def factorial : Nat → Nat
  | 0 => 1
  | n + 1 => (n + 1) * factorial n

def fxPow (a : Int) : Nat → Int
  | 0 => fxOne
  | n + 1 => fxMul a (fxPow a n)

def g2CE (k : Nat) : Nat := if k = 0 then f32One false else g2Const (fxPow fxLn2 k / (factorial k : Int))
def g2CL (k : Nat) : Nat := g2Const (fxDiv (2 * fxOne) ((2 * (k : Int) + 1) * fxLn2))
def g2Log2e : Nat := g2Const (fxDiv fxOne fxLn2)
def g22Log2e : Nat := g2Const (fxDiv (2 * fxOne) fxLn2)
def g2Ln2 : Nat := g2Const fxLn2
def g2Sqrt2 : Nat := g2Const (fxSqrt (2 * fxOne))
def g2Rsqrt2 : Nat := g2Const (fxSqrt (fxOne / 2))
def g2S2pi : Nat := g2Const fxSqrt2OverPi
def g2GT : Nat := g2Dec false 44715 6
def g2CP : Nat := g2Dec false 3275911 7
def g2CA (k : Nat) : Nat :=
  match k with
  | 1 => g2Dec false 254829592 9
  | 2 => g2Dec true 284496736 9
  | 3 => g2Dec false 1421413741 9
  | 4 => g2Dec true 1453152027 9
  | _ => g2Dec false 1061405429 9

def g2OneB : Nat := f32One false
def g2HalfB : Nat := 0x3F000000

/-- The special results of Table 05-3 apply to every call that one G2 function makes of another (R222). -/
def g2Special (fn b : Nat) : Option Nat :=
  match dec32 b with
  | .nan => some fmtFP32.nanBits
  | .inf _ => some (nativeFn fn b).1
  | .fin neg m e =>
    if m = 0 then some (nativeFn fn b).1
    else if neg ∧ (fn = 0x02 ∨ fn = 0x04) then some fmtFP32.nanBits
    else if fn = 0x03 ∧ neg = false ∧ decide (floorLog2 m e ≥ 7) then some (f32Inf false)
    else if fn = 0x04 ∧ b = 127 * 2 ^ 23 then some (f32Zero false)
    else none

def g2Rcp (x0 : Nat) : Nat :=
  let x := flush32 x0
  match g2Special 0x01 x with
  | some r => r
  | none =>
    let e := g2Ilogb x
    let m := g2Mant x
    let y := g2RcpSeed (natBits x 16 7)
    let y := g2Fma y (g2Fma (g2Neg m) y g2OneB) y
    let y := g2Fma y (g2Fma (g2Neg m) y g2OneB) y
    g2CopySign (g2Scale y (-e)) x

def g2Rsqrt (x0 : Nat) : Nat :=
  let x := flush32 x0
  match g2Special 0x02 x with
  | some r => r
  | none =>
    let e := g2Ilogb x
    let m := g2Mant x
    let o := (e % 2).toNat
    let y := g2RsqrtSeed o (natBits x 17 6)
    let (m, e) := if o = 1 then (g2Scale m 1, e - 1) else (m, e)
    let h := g2Mul g2HalfB m
    let y := g2Fma y (g2Fma (g2Neg h) (g2Mul y y) g2HalfB) y
    let y := g2Fma y (g2Fma (g2Neg h) (g2Mul y y) g2HalfB) y
    g2Scale y (-(e / 2))

/-- `rint` of FP32 bits, exact, as bits and as an integer. -/
def rint32 (x : Nat) : Nat × Int :=
  match dec32 x with
  | .fin s m e =>
    let (n, _) := rneInt m e
    ((round32 (.fin s n 0)).1, signedMant s n)
  | _ => (x, 0)

def g2Horner (c : Nat → Nat) (t : Nat) : Nat → Nat → Nat
  | 0, p => p
  | k + 1, p => g2Horner c t k (g2Fma p t (c k))

def g2Exp2 (x0 : Nat) : Nat :=
  let x := flush32 x0
  match g2Special 0x03 x with
  | some r => r
  | none =>
    let (nb, n) := rint32 x
    let f := g2Add x (g2Neg nb)
    g2Scale (g2Horner g2CE f 7 (g2CE 7)) n

def ge32 (a b : Nat) : Bool := !(ltVal (dec32 a) (dec32 b)) && !(dec32 a).isNan && !(dec32 b).isNan

def intF32 (i : Int) : Nat := (round32 (FVal.ofInt i)).1

def g2Log2 (x0 : Nat) : Nat :=
  let x := flush32 x0
  match g2Special 0x04 x with
  | some r => r
  | none =>
    let e := g2Ilogb x
    let m := g2Mant x
    let (m, e) := if ge32 m g2Sqrt2 then (g2Mul g2HalfB m, e + 1) else (m, e)
    let s := g2Mul (g2Add m (g2Neg g2OneB)) (g2Rcp (g2Add m g2OneB))
    let z := g2Mul s s
    let q := g2Horner g2CL z 4 (g2CL 4)
    g2Add (intF32 e) (g2Mul s q)

def g2Logistic (x0 : Nat) : Nat :=
  let x := flush32 x0
  match g2Special 0x06 x with
  | some r => r
  | none => g2Rcp (g2Add g2OneB (g2Exp2 (g2Neg (g2Mul x g2Log2e))))

def f32MinusTwo : Nat := 0xC0000000

def g2Tanh (x0 : Nat) : Nat :=
  let x := flush32 x0
  match g2Special 0x05 x with
  | some r => r
  | none =>
    let e := g2Exp2 (g2Mul x g22Log2e)
    g2Fma f32MinusTwo (g2Rcp (g2Add e g2OneB)) g2OneB

def g2Erf (x0 : Nat) : Nat :=
  let x := flush32 x0
  match g2Special 0x07 x with
  | some r => r
  | none =>
    let a := g2Abs x
    let t := g2Rcp (g2Fma g2CP a g2OneB)
    let p := g2CA 5
    let p := g2Fma p t (g2CA 4)
    let p := g2Fma p t (g2CA 3)
    let p := g2Fma p t (g2CA 2)
    let p := g2Fma p t (g2CA 1)
    let p := g2Mul p t
    let g := g2Exp2 (g2Neg (g2Mul (g2Mul a a) g2Log2e))
    g2CopySign (g2Fma (g2Neg p) g g2OneB) x

def g2GeluErf (x : Nat) : Nat :=
  g2Mul (g2Mul g2HalfB x) (g2Add g2OneB (g2Erf (g2Mul x g2Rsqrt2)))

def g2GeluTanh (x : Nat) : Nat :=
  let c := g2Fma g2GT (g2Mul (g2Mul x x) x) x
  g2Mul (g2Mul g2HalfB x) (g2Add g2OneB (g2Tanh (g2Mul g2S2pi c)))

def g2Softplus (x : Nat) : Nat :=
  if ltVal (FVal.ofInt 20) (dec32 x) then x
  else g2Mul (g2Log2 (g2Add g2OneB (g2Exp2 (g2Mul x g2Log2e)))) g2Ln2

/-- The G2 value of a function at a flushed input not governed by Table 05-3. -/
def g2Value (fn x : Nat) : Nat :=
  match fn with
  | 0x01 => g2Rcp x
  | 0x02 => g2Rsqrt x
  | 0x03 => g2Exp2 x
  | 0x04 => g2Log2 x
  | 0x05 => g2Tanh x
  | 0x06 => g2Logistic x
  | 0x07 => g2Erf x
  | 0x08 => g2GeluErf x
  | 0x09 => g2GeluTanh x
  | 0x0A => g2Mul x (g2Logistic x)
  | 0x0B => g2Softplus x
  | _ => x

/-- A built-in function in G2-exact mode (R222-R225). -/
def g2Fn (fn b : Nat) : Eval :=
  let x := flush32 b
  if fn = 0x00 ∨ fn = 0x0C then
    let (r, _) := nativeFn fn x
    (flush32 r, flNone)
  else
    match g2Special fn x with
    | some _ =>
      let (r, f) := nativeFn fn x
      (flush32 r, f)
    | none =>
      let r := g2Value fn x
      (r, flInexact ||| flIf (dec32 r).isInf flOverflow ||| flIf (dec32 r).isZero flUnderflow
        ||| flIf (dec32 r).isNan flInvalid)

/-- A built-in function in the mode G2 selects (R221). -/
def builtinFn (g2 : Bool) (fn b : Nat) : Eval := if g2 then g2Fn fn b else nativeFn fn b

/-! ### Micro-programs (R211-R214) -/

structure MicroOp where
  mop : Nat
  vd : Nat
  va : Nat
  vb : Nat
  vc : Nat
  bi : Bool
  ci : Bool
  fn : Nat
  cc : Nat
  rsv : Nat
  imm : Nat
  deriving DecidableEq, Repr

/-- The fields of a micro-op (Table 05-7). -/
def MicroOp.ofBits (w : Nat) : MicroOp where
  mop := natBits w 0 6
  vd := natBits w 6 3
  va := natBits w 9 3
  vb := natBits w 12 3
  vc := natBits w 15 3
  bi := natBits w 18 1 == 1
  ci := natBits w 19 1 == 1
  fn := natBits w 20 5
  cc := natBits w 25 3
  rsv := natBits w 28 4
  imm := natBits w 32 32

/-- A micro-op holds no reserved encoding and no nonzero reserved bit (R218). -/
def MicroOp.ok (o : MicroOp) : Bool :=
  decide (1 ≤ o.mop) && decide (o.mop ≤ 0x0E) && o.rsv == 0 && !(o.bi && o.ci) &&
  (o.mop != 0x07 || decide (o.fn ≤ 0x0C)) && (o.mop != 0x08 || decide (o.cc ≤ 5))

/-- The index of the first micro-op at which a slot fails its checks, `none` when it is valid; 63 with no END. -/
def slotFault (ops : List Nat) : Option Nat :=
  let rec go (i : Nat) : List Nat → Option Nat
    | [] => some 63
    | w :: ws =>
      let o := MicroOp.ofBits w
      if !o.ok then some i
      else if o.mop = 0x01 then none
      else go (i + 1) ws
  if (ops.take 64).any (fun w => natBits w 0 6 == 1) then go 0 (ops.take 64) else some 63

/-- SEL's condition (Table 05-7, R214). -/
def selHolds (cc : Nat) (a b : FVal) : Bool :=
  match cc with
  | 0 => eqVal a b
  | 1 => !eqVal a b
  | 2 => ltVal a b
  | 3 => ltVal a b || eqVal a b
  | 4 => a.isNan || b.isNan
  | 5 => a.isInf
  | _ => false

/-- GETEXP of FP32 bits. -/
def getExp32 (x : Nat) : Nat :=
  match dec32 x with
  | .nan => fmtFP32.nanBits
  | .inf _ => f32Inf false
  | .fin _ m e => if m = 0 then f32Inf true else intF32 (floorLog2 m e)

/-- GETMANT of FP32 bits. -/
def getMant32 (x : Nat) : Eval :=
  match dec32 x with
  | .nan => (fmtFP32.nanBits, flNone)
  | .inf _ => evInvalid
  | .fin s m _ => if m = 0 then (x, flNone) else ((round32 (.fin s m (-(m.log2 : Int)))).1, flNone)

/-- FLOOR of FP32 bits, exact. -/
def floor32 (x : Nat) : Nat :=
  match dec32 x with
  | .fin s m e =>
    if m = 0 ∨ e ≥ 0 then x
    else
      let q := signedMant s m / (2 ^ (-e).toNat : Nat)
      if q = 0 then f32Zero s else intF32 q
  | .nan => fmtFP32.nanBits
  | .inf _ => x

/-- The effect of one micro-op other than END on the lane registers (Table 05-8). -/
def microStep (o : MicroOp) (v : List Nat) : List Nat × FlagSet :=
  let a := v.getD o.va 0
  let b := if o.bi then o.imm else v.getD o.vb 0
  let c := if o.ci then o.imm else v.getD o.vc 0
  let fa := dec32 a
  let fb := dec32 b
  let put (r : Nat) (f : FlagSet) : List Nat × FlagSet := (v.set o.vd r, f)
  let nan2 := fa.isNan || fb.isNan
  match o.mop with
  | 0x02 => let (r, f) := add32 a b; put r f
  | 0x03 => let (r, f) := mul32 a b; put r f
  | 0x04 => let (r, f) := fma32 a b c; put r f
  | 0x05 => if nan2 then put fmtFP32.nanBits flNone
            else if eqVal fa fb then put (if fa.signNeg then a else b) flNone
            else put (if ltVal fa fb then a else b) flNone
  | 0x06 => if nan2 then put fmtFP32.nanBits flNone
            else if eqVal fa fb then put (if fa.signNeg then b else a) flNone
            else put (if ltVal fa fb then b else a) flNone
  | 0x07 => let (r, f) := nativeFn o.fn a; put r f
  | 0x08 => if selHolds o.cc fa fb then put c flNone else (v, flNone)
  | 0x09 =>
    if nan2 then put fmtFP32.nanBits flNone
    else
      let n : Int := match fb with
        | .fin s m e =>
          if floorLog2 m e ≥ 12 ∧ m ≠ 0 then (if s then -512 else 511)
          else clampInt (-512) 511 (signedMant s (rneInt m e).1)
        | .inf s => if s then -512 else 511
        | .nan => 0
      match fa with
      | .fin s m e => let (r, f) := round32 (.fin s m (e + n)); put r f
      | _ => put a flNone
  | 0x0A => put (floor32 a) flNone
  | 0x0B =>
    match fa with
    | .nan => put fmtFP32.nanBits flNone
    | .inf _ => put a flNone
    | .fin _ _ _ => put (rint32 a).1 flNone
  | 0x0C => put (getExp32 a) flNone
  | 0x0D => let (r, f) := getMant32 a; put r f
  | 0x0E => put (if fa.isNan then fmtFP32.nanBits else g2Abs a) flNone
  | _ => (v, flNone)

def microRun : List Nat → List Nat → FlagSet → Eval
  | [], v, f => (v.getD 0 0, f)
  | w :: ws, v, f =>
    let o := MicroOp.ofBits w
    if o.mop = 0x01 then (v.getD o.va 0, f)
    else
      let (v', g) := microStep o v
      microRun ws v' (f ||| g)

/-- A micro-program at one element: V0 holds the element, V1-V7 hold +0 (R214). -/
def microProgram (ops : List Nat) (t : Nat) : Eval :=
  microRun ops (t :: List.replicate 7 0) flNone

end Sys2Proof.Machine
end

