-- ==== Sys2Proof/Machine/Operands.lean ====
section
/-!
DEFINITION. The fields of Tumbler entries (04 Tables 04-2 to 04-10, 05 Tables 05-2 and 05-6, 06 and 08), the load
checks of R189, the registers that an entry touches, and the address checks of 03 R127, R128 and 04 R715 in the
order of R714.
-/
namespace Sys2Proof.Machine

open Sys2Proof

/-- Field `[lo + w - 1 : lo]` of an entry. -/
def fld (e : Entry) (lo w : Nat) : Nat := natBits e.toNat lo w

/-- One bit of an entry. -/
def flag (e : Entry) (i : Nat) : Bool := fld e i 1 == 1

/-- A signed field. -/
def sfld (e : Entry) (lo w : Nat) : Int := natToInt w (fld e lo w)

/-! ### Header (Table 04-2) -/

def eOP (e : Entry) : Nat := fld e 0 8
def eWSEL (e : Entry) : Nat := fld e 8 3
def eWMASK (e : Entry) : Nat := fld e 11 16
def eDEN (e : Entry) : Bool := flag e 27
def eDCL (e : Entry) : Bool := flag e 28
def eDLATCH (e : Entry) : Nat := fld e 29 6

/-- The latches that the header window selects, as (bank, number) (R160). -/
def windowLatches (e : Entry) : List (Bool × Nat) :=
  let w := eWSEL e
  ((List.range 16).filter (fun j => natBits (eWMASK e) j 1 == 1)).map
    (fun j => if w < 4 then (false, 16 * w + j) else (true, 16 * (w - 4) + j))

/-- The core latches that WAIT's CMASK selects. -/
def cmaskLatches (e : Entry) : List (Bool × Nat) :=
  if eOP e = 0x08 then
    ((List.range 64).filter (fun j => fld e (36 + j) 1 == 1)).map (fun j => (false, j))
  else []

/-- The done latch that an entry names. -/
def doneLatch (e : Entry) : Option (Bool × Nat) := if eDEN e then some (eDCL e, eDLATCH e) else none

/-- Opcodes that Table 04-3 marks "no done latch". -/
def noDoneLatch (op : Nat) : Bool :=
  decide (op ≤ 0x0A) || op == 0x10 || op == 0x11 || op == 0x14 || op == 0x15 || op == 0x16

/-- The opcodes that the tables define (04 Table 04-3, 06, 08). -/
def opDefined (op : Nat) : Bool :=
  decide (1 ≤ op ∧ op ≤ 0x0A) || decide (0x10 ≤ op ∧ op ≤ 0x16) || decide (0x20 ≤ op ∧ op ≤ 0x22) ||
  op == 0x30 || op == 0x40 || op == 0x41 || decide (0x50 ≤ op ∧ op ≤ 0x53) || decide (0x60 ≤ op ∧ op ≤ 0x66) ||
  decide (0x70 ≤ op ∧ op ≤ 0x74)

/-- The header breaks no rule of R160 and R161. -/
def headerOk (e : Entry) : Bool :=
  decide (eWSEL e ≤ 5) && fld e 35 1 == 0 &&
  (if noDoneLatch (eOP e) then fld e 27 8 == 0
   else if eDEN e then !(eDCL e) || decide (eDLATCH e < 32)
   else fld e 27 8 == 0)

/-- A function code of Table 05-1 that is not reserved, with its mode (05 Tables 05-2, 05-6). -/
def fnOk (fn : Nat) (g2 : Bool) : Bool :=
  (decide (fn ≤ 0x0C) || decide (0x10 ≤ fn)) && !(g2 && decide (0x10 ≤ fn))

/-- Rows and columns of a tile shape code (Table 04-8). -/
def shapeOf (code : Nat) : Nat × Nat :=
  match code with
  | 0 => (4, 4)
  | 1 => (1, 4)
  | 2 => (2, 2)
  | _ => (4, 1)

/-- The shape suits the core kind. -/
def shapeOk (pav : Bool) (code : Nat) : Bool := if pav then code != 0 else code == 0

/-- The highest assigned payload bit plus one, for opcodes whose payload is assigned without holes. -/
def payloadEnd (op : Nat) : Nat :=
  match op with
  | 0x02 => 47
  | 0x03 => 91
  | 0x04 => 78
  | 0x05 => 49
  | 0x06 => 47
  | 0x08 => 100
  | 0x0A => 43
  | 0x10 => 73
  | 0x11 => 85
  | 0x12 => 77
  | 0x13 => 77
  | 0x14 => 104
  | 0x15 => 76
  | 0x16 => 45
  | 0x20 => 71
  | 0x21 => 48
  | 0x22 => 56
  | 0x30 => 107
  | 0x40 => 88
  | 0x41 => 82
  | 0x50 => 70
  | 0x51 => 80
  | 0x52 => 71
  | 0x53 => 56
  | 0x60 => 103
  | 0x61 => 71
  | 0x62 => 99
  | 0x63 => 80
  | 0x64 => 97
  | 0x65 => 107
  | 0x66 => 93
  | 0x70 => 75
  | 0x71 => 89
  | 0x72 => 67
  | 0x73 => 66
  | 0x74 => 126
  | _ => 36

/-- The score fields of Table 06-5 break no rule of R236. -/
def scoreOk (pav : Bool) (e : Entry) : Bool :=
  decide (fld e 36 6 + fld e 42 4 ≤ 63) && shapeOk pav (fld e 46 2) && decide (fld e 68 3 ≤ 5)

/-- A probability format code (Table 06-6). -/
def pfmtOk (p : Nat) : Bool := decide (1 ≤ p) && decide (p ≤ 3)

/-- The payload breaks no rule that the package checks at load (R162-R188, R198, R207, R236, R251, 08). -/
def payloadOk (pav : Bool) (e : Entry) : Bool :=
  fld e (payloadEnd (eOP e)) (128 - payloadEnd (eOP e)) == 0 &&
  match eOP e with
  | 0x03 => decide (fld e 44 3 ≤ 5)
  | 0x0A => !(flag e 36) || decide (fld e 37 6 < 32)
  | 0x11 => decide (fld e 81 4 ≤ 0xC)
  | 0x12 => fld e 75 2 != 3
  | 0x13 => decide (fld e 75 2 ≤ 1)
  | 0x14 => !(flag e 39) || decide (fld e 101 3 ≤ 3)
  | 0x21 => pav && decide (1 ≤ fld e 41 7) && decide (fld e 41 7 ≤ 64)
  | 0x22 => decide (fld e 52 3 ≤ 5)
  | 0x30 =>
    let a := fld e 62 4
    let b := fld e 66 4
    let k := fld e 46 16
    fld e 42 2 != 3 && shapeOk pav (fld e 44 2) && k != 0 && (blockLen a b).isSome &&
      (!(isMxCode a || isMxCode b) || k % 32 == 0)
  | 0x40 =>
    let o := fld e 63 4
    shapeOk pav (fld e 42 2) && (decide (o ≤ 4) || o == 10 || o == 11) && fld e 72 2 != 3 &&
      fnOk (fld e 77 5) (flag e 82)
  | 0x41 =>
    fld e 42 16 != 0 && decide (fld e 58 4 ≤ 4) && decide (fld e 62 4 ≤ 4) && fnOk (fld e 66 5) (flag e 71)
  | 0x50 => fld e 42 14 != 0 && decide (fld e 56 4 ≤ 4)
  | 0x51 => fld e 42 14 != 0 && fld e 56 4 == 0 && fld e 60 10 == fld e 70 10
  | 0x52 => fld e 42 14 != 0 && (decide (fld e 56 4 ≤ 4) || fld e 56 4 == 0xD)
  | 0x53 => fld e 42 14 != 0 && fld e 36 3 == 0
  | 0x60 => scoreOk pav e && pfmtOk (fld e 83 4)
  | 0x61 => decide (fld e 36 6 + fld e 42 4 ≤ 63) && shapeOk pav (fld e 46 2)
  | 0x62 => fld e 45 13 != 0 && decide (fld e 94 4 ≤ 4)
  | 0x63 => scoreOk pav e && fld e 79 1 == 0
  | 0x64 => scoreOk pav e && fld e 78 1 == 0 && pfmtOk (fld e 93 4)
  | 0x65 => scoreOk pav e && fld e 78 1 == 0 && pfmtOk (fld e 83 4)
  | 0x66 =>
    if flag e 87 then
      fld e 39 3 == 0 && fld e 45 3 == 0 && fld e 58 13 == 0 && fld e 71 16 == 0 && fld e 89 1 == 0 &&
        fld e 90 3 == 0
    else fld e 58 13 != 0
  | 0x73 => fld e 56 10 != 0
  | 0x74 => decide (fld e 70 4 ≤ 3) && decide (fld e 74 4 ≤ 4) && fld e 79 2 != 3
  | _ => true

/-! ### Address registers (03 Table 03-5) -/

def aADDR (a : Word) : Nat := natBits a.toNat 0 57
def aSPACE (a : Word) : Nat := natBits a.toNat 57 3

def spLOCAL : Nat := 0
def spPEER : Nat := 1
def spDV : Nat := 2
def spSTREAM : Nat := 3

/-- An address register value with ADDR advanced modulo 2^57; SPACE and [63:60] stay (04 R164). -/
def aAdvance (a : Word) (n : Int) : Word :=
  BitVec.ofNat 64 (natSetBits a.toNat 0 57 (intToNat 57 ((aADDR a : Int) + n)))

/-- Core fault causes (03 Table 03-7). -/
inductive CoreFault where
  | localRange | spaceReserved | peerIndex | align | translation | streamInvalid | entryReserved
  | sramUncorrectable
  deriving DecidableEq, Repr

def CoreFault.code : CoreFault → Nat
  | .localRange => 1
  | .spaceReserved => 2
  | .peerIndex => 3
  | .align => 4
  | .translation => 5
  | .streamInvalid => 6
  | .entryReserved => 7
  | .sramUncorrectable => 8

/-- The rank of a cause in the order of R714. -/
def CoreFault.rank : CoreFault → Nat
  | .entryReserved => 0
  | .spaceReserved => 1
  | .streamInvalid => 2
  | .peerIndex => 3
  | .localRange => 4
  | .align => 5
  | .translation => 6
  | .sramUncorrectable => 7

/-- The cause recorded of several: the first in the order of R714. -/
def firstCause : List CoreFault → Option CoreFault
  | [] => none
  | f :: fs =>
    match firstCause fs with
    | none => some f
    | some g => if f.rank ≤ g.rank then some f else some g

/-- Where an access of `n` bytes from a local address on lies beyond SRAM: its address does, or a later byte does.
A single access (`n ≤ al`) that is misaligned counts by its address alone, and has ALIGN as its cause (R128, log
entry 138). -/
def beyondSram (size ad n al : Nat) : Bool :=
  decide (size ≤ ad) || decide (size < ad + n) && !(decide (n ≤ al) && ad % al != 0)

/-- The faults of one access of `n` bytes aligned to `al` at an address register value, in the spaces allowed
(R128, R715). -/
def accessFaults (size : Nat) (spaces : List Nat) (a : Word) (n al : Nat) : List CoreFault :=
  let sp := aSPACE a
  let ad := aADDR a
  let bad := natBits a.toNat 60 4 != 0 || !spaces.contains sp ||
    (sp == spPEER && natBits ad 26 31 != 0)
  (if bad then [.spaceReserved] else []) ++
  (if sp = spPEER ∧ natBits ad 18 8 > 191 then [.peerIndex] else []) ++
  (if sp = spLOCAL ∧ beyondSram size ad n al then [.localRange] else []) ++
  (if sp = spPEER ∧ beyondSram size (natBits ad 0 18) n al then [.localRange] else []) ++
  (if al ≠ 0 ∧ ad % al ≠ 0 then [.align] else [])

/-- The core that a LOCAL or PEER address names. -/
def targetCore (c : Nat) (a : Word) : Nat :=
  if aSPACE a = spPEER then c / 192 * 192 + natBits (aADDR a) 18 8 else c

/-- The local address that a LOCAL or PEER address names. -/
def targetAddr (a : Word) : Nat := if aSPACE a = spPEER then natBits (aADDR a) 0 18 else aADDR a

end Sys2Proof.Machine
end

