-- ==== Sys2Proof/Machine/FaultOps.lean ====
section
/-!
DEFINITION. Uncorrectable faults (18 R613-R618, R623, R626) and core faults (03 R132, 10 R389), as shared operations.
-/
namespace Sys2Proof.Machine

open Sys2Proof

/-- Where a fault was detected (18 Table 18-6, record FAULT): die code, cluster, enabled core index, strand, and a
detail: CONTEXT, address or port. -/
structure FaultAt where
  die     : Nat
  cluster : Nat
  core    : Nat
  strand  : Nat
  detail  : Nat
  deriving DecidableEq, Repr

/-- Detected on a die, by its code: 0-15 the compute dies, 16-19 the Gateways G0-G3. -/
def FaultAt.onDie (die detail : Nat) : FaultAt := ⟨die, 0, 0, 0, detail⟩

/-- Detected on G0, where the package's own controllers are (01 Table 01-4). -/
def FaultAt.package (detail : Nat) : FaultAt := FaultAt.onDie 16 detail

def FaultAt.ofCore (c strand detail : Nat) : FaultAt :=
  ⟨dieOfCluster (clusterOfCore c), clusterOfCore c % 32, indexOfCore c, strand, detail⟩

/-- Causes that Table 18-2 does not mark own. -/
def ownCause (cause : Nat) : Bool := cause != 0x0007 && cause != 0x0100

/-! ### Dump slots (R626) -/

def dumpState (s : State) (n : Nat) : Nat := getF s (fGLB_DUMP_STAT_STATE n)

def dumpKeep (s : State) (n : Nat) : Bool :=
  if n = 0 then bitF s fGLB_DUMP_CTL_KEEP0 else bitF s fGLB_DUMP_CTL_KEEP1

def dumpTime (s : State) (n : Nat) : Nat := ((tabFind s.fault.slots n).map DumpSlot.time).getD 0

/-- The slot that R626 yields; a package without an active set has no slots. -/
def chooseSlot (s : State) : Option Nat :=
  if s.cfg.active.isNone then none
  else if dumpState s 0 = 0 then some 0
  else if dumpState s 1 = 0 then some 1
  else
    let ok0 := decide (dumpState s 0 = 3) && !dumpKeep s 0
    let ok1 := decide (dumpState s 1 = 3) && !dumpKeep s 1
    if ok0 && ok1 then some (if dumpTime s 1 < dumpTime s 0 then 1 else 0)
    else if ok0 then some 0
    else if ok1 then some 1
    else none

/-- SUSPECT and HALTED (R623). -/
def escalate (s : State) : State :=
  let s := raiseF s fGLB_FAULT_STAT_SUSPECT
  let s := platformEvent (setFaultPhase s 5) [0x73]
  postPF s 0x73 0 (getF s fGLB_FAULT_CAUSE_CAUSE2) 0 (getF s fGLB_FAULT_STAT_EPISODE)

/-- Begin a dump: take a slot, or skip it (R626). A fault of a package that was already recovering puts it back into
phase DUMPING, from where it recovers again or halts (R623, log entry 172). -/
def beginDump (s : State) (own : Nat) : State :=
  let s := if getF s fGLB_FAULT_STAT_PHASE = 5 then s else setFaultPhase s 2
  let ep := getF s fGLB_FAULT_STAT_EPISODE
  match chooseSlot s with
  | none =>
    let s := postPF s 0x74 2 0 0 ep
    let s := { s with fault := { s.fault with dumped := true, want := none } }
    if own = 2 then escalate s else s
  | some n =>
    let cause := if own = 2 then getF s fGLB_FAULT_CAUSE_CAUSE2 else getF s fGLB_FAULT_CAUSE_CAUSE
    let s := setF s (fGLB_DUMP_STAT_STATE n) 1
    let s := setF (setF s (fGLB_DUMP_STAT_CAUSE n) cause) (fGLB_DUMP_STAT_EPISODE n) ep
    let s := setF s (fGLB_DUMP_STAT_TRUNC n) 0
    { s with fault := { s.fault with
        dumping := s.fault.dumping ++ [(n, own)]
        want := none
        dumped := false
        slots := tabSet s.fault.slots n ⟨own, cause, ep, s.now, []⟩ } }

/-- The counter snapshot of set 3 that a dump takes when the package stops (R627). -/
def dumpSnapshot (s : State) : State :=
  let c := (snapshotCounters s).1
  let s := (snapshotCounters s).2
  { s with tel := { s.tel with hold := tabSet s.tel.hold 3 c } }

/-- A dump of kind `own` is due, with its counter snapshot taken now (R627): it begins at once when the cores have stopped,
else at the end of the grace (R617). -/
def wantDump (s : State) (own : Nat) : State :=
  let s := dumpSnapshot s
  if s.fault.graceEnd then beginDump s own
  else { s with fault := { s.fault with want := some (max own (s.fault.want.getD 0)), dumped := false } }

/-! ### Stopping (R617, R618) -/

/-- Stop every strand of a core as R132 does. -/
def stopStrands (k : Core) : Core :=
  { k with strands := k.strands.map (fun t => if t.phase = .idle then t else { t with phase := .faulted }) }

/-- The package stops: FAULT_N, no steps, every core stopped, descriptors dropped, JOB_RESTART entries, JOB_FAULT
events. -/
def enterEpisode (s : State) (own cause origin : Nat) : State :=
  let s := assertFaultN (setFaultPhase s 1)
  let s := s.emit .pin [0, 0]
  let s := { s with comp := { s.comp with cores := tabMap s.comp.cores stopStrands } }
  let s := { s with
    ward := { s.ward with owed := [] }
    host := { s.host with queues := tabMap s.host.queues (fun q => { q with owed := 0 }) }
    fault := { s.fault with windowEnd := false, graceEnd := false, dumped := false } }
  let s := (wards s).foldl (fun s p =>
    if p.2.phase.live && p.2.home == ownPkg s then errorEntry s p.1 5 else s) s
  let s := (List.range 64).foldl (fun s fn =>
    postFn s fn 0x71 0 cause origin (getF s fGLB_FAULT_STAT_EPISODE)) s
  wantDump s own

/-- Record an own fault's place and details (Table 18-6). -/
def recordFault (s : State) (cause : Nat) (loc : FaultAt) : State :=
  { s with fault := { s.fault with
      recs := s.fault.recs ++ [⟨cause, s.now, loc.die, loc.cluster, loc.core, loc.strand, loc.detail⟩] } }

/-- The cause and place of the first own fault. -/
def latchCause (s : State) (cause : Nat) (loc : FaultAt) : State :=
  let v := cause % 2 ^ 16 + (loc.die % 32) * 2 ^ 32 + (loc.cluster % 32) * 2 ^ 37 + (loc.core % 256) * 2 ^ 42
    + (loc.strand % 4) * 2 ^ 50
  setReg s rGLB_FAULT_CAUSE (BitVec.ofNat 64 v)

/-- Declare an uncorrectable fault (R616, R623). -/
def declareFault (s : State) (cause : Nat) (loc : FaultAt) : State :=
  let s := recordFault s cause loc
  let own := ownCause cause
  if stopped s then
    if !own then s
    else if getF s fGLB_FAULT_STAT_OWN = 0 then
      wantDump (setF (latchCause s cause loc) fGLB_FAULT_STAT_OWN 1) 1
    else if getF s fGLB_FAULT_STAT_OWN = 1 then
      wantDump (setF (setF s fGLB_FAULT_STAT_OWN 2) fGLB_FAULT_CAUSE_CAUSE2 cause) 2
    else s
  else
    let s := { s with fault := { s.fault with recs := [] } }
    let s := recordFault s cause loc
    let ep := (getF s fGLB_FAULT_STAT_EPISODE + 1) % 2 ^ 32
    let s := setF s fGLB_FAULT_STAT_EPISODE ep
    let s := setF s fGLB_FAULT_STAT_OWN (bit own)
    let s := setF s fGLB_FAULT_STAT_ORIGIN (ownPkg s)
    let s := latchCause s cause (if own then loc else ⟨0, 0, 0, 0, 0⟩)
    let s := setReg s rGLB_FAULT_TIME (BitVec.ofNat 64 s.now)
    let s := sendAll s .jobFault [ep, cause, ownPkg s]
    enterEpisode (count s 0x0A00 1) (bit own) cause (ownPkg s)

/-- A read of poisoned HBM by a consuming agent (R609). -/
def hbmFault (s : State) (addr : Nat) : State := declareFault s 0x0002 (FaultAt.package addr)

/-- A read of a poisoned SRAM word by a consuming agent (R609): the package that holds the memory declares it. -/
def sramFault (s : State) (c strand addr : Nat) : State := declareFault s 0x0001 (FaultAt.ofCore c strand addr)

/-- A start-up stage fails (16 R564): the package is in FAILED. DEDUCED (log entry 170): during recovery the failure is an
own fault in place of FAILED (18 R624), so that a first one dumps and recovers and a second one halts. -/
def stageFailed (s : State) (code : Nat) : State :=
  if stopped s then declareFault (setF s fCFG_STAT_FAIL code) 0x0011 (FaultAt.package code)
  else setF (setStage s 0xF) fCFG_STAT_FAIL code

/-- Start-up waits: the package is HALTED (R623), or it has stopped and has its dump and warm reset before it (R617,
R619). DEDUCED (log entry 171). -/
def startHeld (s : State) : Bool :=
  let ph := getF s fGLB_FAULT_STAT_PHASE
  ph == 5 || ((ph == 1 || ph == 2) && s.cfg.active.isSome)

/-! ### Core faults -/

/-! ### Seals (08 R314) -/

def getEngine (s : State) (n : Nat) : Engine := tabGet Engine.empty s.router.engines n

def setEngine (s : State) (n : Nat) (e : Engine) : State :=
  { s with router := { s.router with engines := tabSet s.router.engines n e } }

def modEngine (s : State) (n : Nat) (f : Engine → Engine) : State := setEngine s n (f (getEngine s n))

/-- The descriptor of a layer (08 Table 08-1); 0 where there is none. -/
def layerRec (s : State) (layer : Nat) : Nat := (activeRecs s 0x0004 2).getD layer 0

/-- An entry of a layer's expert map (08 Table 08-2), read at MAP. -/
def mapEntry (s : State) (layer expert : Nat) : Nat := hbmLoad s (natBits (layerRec s layer) 64 52 + 16 * expert) 16

/-- The owner of an expert: package and engine (08 R309). -/
def expertOwner (s : State) (layer expert : Nat) : Nat × Nat :=
  let m := mapEntry s layer expert
  (natBits m 0 16, engineOfDie (natBits m 16 4))

/-- Seal a source engine's share of a group: every engine of the partition gets the token count and the number of claims
sent to it; an engine without an XDISPATCH of the group seals an empty share. -/
def sealShare (s : State) (eng step layer : Nat) : State :=
  let e := getEngine s eng
  let ds := (e.src.filter (fun g => g.step == step && g.layer == layer)).flatMap SrcGroup.disps
  let tokens := (ds.map Dispatch.tokens).sum
  let dests := ds.flatMap (fun d => d.slots.map (fun x => expertOwner s layer x.expert))
  let s := (members s).foldl (fun s m => (List.range 4).foldl (fun s q =>
    sendMsg s .shareSeal m [q, step, layer, ownPkg s, eng, tokens, dests.count (m, q)]) s) s
  setEngine s eng { e with
    expected := tabDel e.expected (step * 256 + layer)
    src := e.src.filterMap (fun g =>
      if g.step = step ∧ g.layer = layer then
        if g.disps.all Dispatch.ended then none else some { g with closed := true }
      else some g) }

/-- Seal every share of a step whose last expected XDISPATCH has issued. -/
def sealDue (s : State) (eng : Nat) (keys : List Nat) : State :=
  keys.foldl (fun s k => if tabGet 0 (getEngine s eng).expected k = 0 then sealShare s eng (k / 256) (k % 256) else s) s

/-- The XDISPATCH entries that a stopped launch will no longer issue, by layer, lower the engine's expected counts of its
step, so that the groups still seal (10 R389). -/
def lowerExpected (s : State) (c step : Nat) (disp : List (Nat × Nat)) : State :=
  let eng := engineOfDie (dieOfCluster (clusterOfCore c))
  let ds := disp.filter (fun p => p.2 != 0)
  let s := ds.foldl (fun s p => modEngine s eng (fun e =>
    { e with expected := tabMod 0 e.expected (step * 256 + p.1 % 256) (fun v => v - p.2) })) s
  sealDue s eng (ds.map (fun p => step * 256 + p.1 % 256))

/-- The requests (ward index, ASEQ) that a faulted launch fails: under SYS those with rows in it (R389), else every request
of its step whose CONTEXT the fault names (R344). -/
def faultedRequests (s : State) (l : Launch) (context : Nat) : List (Nat × Nat) :=
  if natBits context 12 1 = 1 then (l.rows.map (fun w => (w.ward, w.aseq))).eraseDups
  else
    let n := getLane s l.lane
    if n.step != l.step then []
    else ((n.decisions.filter (fun d => (getWard s d.ward).ctx == context)).map (fun d => (d.ward, d.aseq))).eraseDups

/-- The Warden's treatment of a faulted core (R344, R389): FAIL with cause CORE_FAULT for its requests, each by the ASEQ of
its row. -/
def launchFault (s : State) (c context : Nat) : State :=
  let k := getCore s c
  match k.launch with
  | none => s
  | some l =>
    let s := raiseF s fWDN_ERR_LAUNCH_FAULT
    let s := (faultedRequests s l context).foldl (fun s w =>
      let e := getWard s w.1
      if e.phase.live && e.aseq == w.2 then sendPlain s .fail w.1 w.2 2 else s) s
    let s := lowerExpected s c l.step l.disp
    setCore s c { getCore s c with
      launch := some { l with faulted := true }
      bufs := List.replicate 4 StreamBuf.empty }

/-- A strand of a core faults (03 R132): all four strands stop; the first fault of a launch is recorded and reported to
the Warden (R714). A hardware cause is also the package's uncorrectable fault, declared by the read. -/
def coreFault (s : State) (c strand : Nat) (f : CoreFault) : State :=
  let cl := clusterOfCore c
  let i := indexOfCore c
  let context := (getStrand s c strand).context
  let s := modCore s c stopStrands
  if getF s (fCLU_CORE_STAT_FAULT_CAUSE cl i) = 0 then
    let s := setF (setF s (fCLU_CORE_STAT_FAULT_CAUSE cl i) f.code) (fCLU_CORE_STAT_FAULT_STRAND cl i) strand
    launchFault (s.emit .report [c, strand, f.code, context]) c context
  else s

end Sys2Proof.Machine
end

