-- ==== Sys2Proof/Machine/TierOps.lean ====
section
/-!
DEFINITION. Operations of the memory tiers (spec 11): translation leaves, frames of the general pool, loan frames,
logical flash units, the backing of a page in any tier, and the write buffer of the flash controller.
-/
namespace Sys2Proof.Machine

open Sys2Proof

/-! ### The general frame pool (R398, R399) -/

/-- A frame lies in a carve-out of the active set. -/
def inCarveOut (s : State) (f : Nat) : Bool :=
  (activeRecs s 0x0001 1).any (fun r => decide (natBits r 32 20 ≤ f) && decide (f < natBits r 32 20 + natBits r 64 32))

/-- A frame belongs to the general frame pool. -/
def inPool (s : State) (f : Nat) : Bool := decide (f < 786432) && s.cfg.active.isSome && !inCarveOut s f

/-- The frames of the pool. -/
def poolFrames (s : State) : Nat :=
  if s.cfg.active.isSome then
    786432 - ((activeRecs s 0x0001 1).map (fun r => natBits r 64 32)).sum
      - (s.fault.retired.filter (fun f => !inCarveOut s f)).length
  else 0

/-- A frame is free and zero-filled. -/
def frameFree (s : State) (f : Nat) : Bool :=
  inPool s f && !s.tiers.used.contains f && !s.tiers.zeroing.contains f && !s.fault.retired.contains f

/-- Free frames of the pool. -/
def freeFrames (s : State) : Nat :=
  poolFrames s - (s.tiers.used.filter (fun f => !s.fault.retired.contains f)).length
    - (s.tiers.zeroing.filter (fun f => decide (f < 786432))).length

/-- The lowest free frame from `f` on, among `n` frames. -/
def firstFree (s : State) : Nat → Nat → Option Nat
  | _, 0 => none
  | f, n + 1 => if frameFree s f then some f else firstFree s (f + 1) n

/-- The stacks that a STACKS mask allows (R404). -/
def stacksOf (mask : Nat) : List Nat :=
  if mask % 2 ^ 24 = 0 then List.range 24 else (List.range 24).filter (fun n => natBits mask n 1 == 1)

/-- A local frame for page `v`: the (v mod k)-th allowed stack, then the next in ascending order, wrapping (R404). -/
def localFrame (s : State) (mask v : Nat) : Option Nat :=
  let st := stacksOf mask
  let k := st.length
  (List.range k).findSome? (fun i => firstFree s (st.getD ((v + i) % k) 0 * 32768) 32768)

/-- Allocate a frame. -/
def useFrame (s : State) (f : Nat) : State := { s with tiers := { s.tiers with used := nsInsert s.tiers.used f } }

/-! ### Loan frames and flash units -/

/-- The loan frames in use: leaves, destinations of migrations, parked copies, frames awaiting zeroing. -/
def loanFramesUsed (s : State) : List Nat :=
  (s.tiers.leaves.filter (fun p => p.2.tier == .neighbour && !p.2.lost)).map (fun p => p.2.frame)
    ++ (s.tiers.migs.filter (fun m => m.tier == .neighbour)).map (fun m => m.frame)
    ++ s.bezel.parked.flatMap (fun p => p.2.frames)
    ++ (s.tiers.zeroing.filter (fun f => decide (786432 ≤ f))).map (fun f => f - 786432)

/-- The lowest free loan frame. -/
def loanFrame (s : State) : Option Nat :=
  let used := loanFramesUsed s
  s.tiers.loans.findSome? (fun p =>
    ((List.range 512).map (fun k => p.1 * 512 + k)).find? (fun f => !used.contains f))

/-- The free loan frames, lowest first. -/
def loanFramesFree (s : State) : List Nat :=
  let used := loanFramesUsed s
  s.tiers.loans.flatMap (fun p => ((List.range 512).map (fun k => p.1 * 512 + k)).filter (fun f => !used.contains f))

/-- How many loan frames are free. -/
def loanFree (s : State) : Nat := s.tiers.loans.length * 512 - (loanFramesUsed s).length

/-- The lowest free logical 2 MiB unit (R404). -/
def flashUnit (s : State) : Option Nat :=
  (List.range (getF s fFLS_CAP_LOGICAL / 128)).find? (fun u => !s.flash.units.contains u)

/-! ### Backing of a page -/

/-- A run of `n` bytes of a page from offset `o`, both whole 64-byte units. -/
structure Span where
  off : Nat
  len : Nat
  deriving DecidableEq, Repr

/-- The whole page. -/
def Span.page : Span := ⟨0, 2097152⟩

/-- A 4 KiB block of a page. -/
def Span.block (i : Nat) : Span := ⟨4096 * i, 4096⟩

/-- The bytes of a page's span in its tier, by offset in the span. -/
def backingSlice (s : State) (t : Tier) (f : Nat) (w : Span) : Mem :=
  let a := f * 2097152 + w.off
  match t with
  | .hbm => memSlice s.tiers.hbm a w.len
  | .neighbour => memSlice s.tiers.loanMem a w.len
  | .flash => memSlice s.flash.data a w.len

/-- The poisoned 64-byte units of a page's span in its tier, by number within the span. -/
def backingPoison (s : State) (t : Tier) (f : Nat) (w : Span) : List Nat :=
  let l := match t with
    | .hbm => s.tiers.hbmPoison
    | .neighbour => s.tiers.loanPoison
    | .flash => s.flash.poison
  let a := f * 32768 + w.off / 64
  (l.filter (fun g => decide (a ≤ g) && decide (g < a + w.len / 64))).map (fun g => g - a)

/-- A poison list with the marks of a span put in place of the old ones. -/
def repoison (l : List Nat) (f : Nat) (w : Span) (ps : List Nat) : List Nat :=
  let a := f * 32768 + w.off / 64
  ps.foldl (fun l g => nsInsert l (a + g)) (nsEraseRange l a (a + w.len / 64))

/-- A backlog report: the bytes not yet programmed over a rate that the spec leaves to the parts (R423, log entry 35). -/
def refreshBacklog (s : State) : State :=
  if s.flash.buffer = [] then setF s fFLS_STAT_BACKLOG 0
  else
    let (v, s) := s.takeFree
    setF s fFLS_STAT_BACKLOG (v % 2 ^ 24)

/-- A granule's write enters the write buffer; the later of two writes wins (R422). -/
def bufferGranule (s : State) (granule owner : Nat) (durable : Bool) : State :=
  let fl := s.flash
  let old := (fl.buffer.filter (fun b => b.granule == granule)).any (fun b => b.durable)
  refreshBacklog { s with flash := { fl with
    buffer := fl.buffer.filter (fun b => b.granule != granule) ++ [⟨granule, owner, fl.seq + 1, durable || old⟩]
    lost := nsErase fl.lost granule
    seq := fl.seq + 1 } }

/-- The granules that a range of flash bytes touches. -/
def granulesTouched (a n : Nat) : List Nat :=
  (List.range ((a + n + 16383) / 16384 - a / 16384)).map (fun i => a / 16384 + i)

/-- A write to flash bytes: each granule is read, merged and appended (R422). -/
def flashStoreBytes (s : State) (a : Nat) (bs : List Byte) (owner : Nat) (durable : Bool) : State :=
  let full := (granulesOf a bs.length).filter
    (fun g => decide (a ≤ g * 64) && decide (g * 64 + 64 ≤ a + bs.length))
  let s := { s with flash := { s.flash with
    data := memSetBytes s.flash.data a bs
    poison := s.flash.poison.filter (fun g => !full.contains g) } }
  (granulesTouched a bs.length).foldl (fun s g => bufferGranule s g owner durable) s

/-- Put a span of a page into a tier. -/
def backingPaste (s : State) (t : Tier) (f owner : Nat) (w : Span) (sl : Mem) (ps : List Nat) : State :=
  let a := f * 2097152 + w.off
  match t with
  | .hbm => { s with tiers := { s.tiers with
      hbm := memPaste s.tiers.hbm a w.len sl
      hbmPoison := repoison s.tiers.hbmPoison f w ps } }
  | .neighbour => { s with tiers := { s.tiers with
      loanMem := memPaste s.tiers.loanMem a w.len sl
      loanPoison := repoison s.tiers.loanPoison f w ps } }
  | .flash =>
    let s := { s with flash := { s.flash with
      data := memPaste s.flash.data a w.len sl
      poison := repoison s.flash.poison f w ps } }
    (granulesTouched a w.len).foldl (fun s g => bufferGranule s g owner false) s

/-- Copy a span of a page from one backing to another, its poison with it. -/
def copySpan (s : State) (t : Tier) (f : Nat) (t' : Tier) (f' owner : Nat) (w : Span) : State :=
  backingPaste s t' f' owner w (backingSlice s t f w) (backingPoison s t f w)

/-- Trim a granule (R421): its map entry is unwritten and its buffered copy dropped. -/
def trimGranule (s : State) (g : Nat) : State :=
  { s with flash := { s.flash with
    map := tabDel s.flash.map g
    lost := nsErase s.flash.lost g
    data := memZero s.flash.data (g * 16384) 16384
    poison := nsEraseRange s.flash.poison (g * 256) ((g + 1) * 256)
    media := memZero s.flash.media (g * 16384) 16384
    mediaBad := nsEraseRange s.flash.mediaBad (g * 256) ((g + 1) * 256)
    owner := tabDel s.flash.owner g
    seqOf := tabDel s.flash.seqOf g
    buffer := s.flash.buffer.filter (fun b => b.granule != g)
    blocks := tabMap s.flash.blocks (fun b => { b with valid := nsErase b.valid g }) } }

/-- Trim a logical unit and return it to the free list (R421). -/
def trimUnit (s : State) (u : Nat) : State :=
  let s := (List.range 128).foldl (fun s i => trimGranule s (u * 128 + i)) s
  refreshBacklog { s with flash := { s.flash with units := nsErase s.flash.units u } }

/-- Release the backing of a page (R399, R402): frames of the pool and of loans go to zeroing, logical units are
trimmed. -/
def releaseBacking (s : State) (t : Tier) (f : Nat) : State :=
  match t with
  | .hbm => { s with tiers := { s.tiers with
      used := nsErase s.tiers.used f
      zeroing := if s.fault.retired.contains f then s.tiers.zeroing else nsInsert s.tiers.zeroing f } }
  | .neighbour => { s with tiers := { s.tiers with zeroing := nsInsert s.tiers.zeroing (786432 + f) } }
  | .flash => trimUnit s f

/-! ### Translation leaves (R400, R401) -/

/-- Blocks of a page under migration have been written (R409 step 2). -/
def markDirty (s : State) (k : Nat) (blocks : List Nat) : State :=
  { s with tiers := { s.tiers with migs := s.tiers.migs.map (fun m =>
    if m.page = k then { m with dirty := blocks.foldl nsInsert m.dirty } else m) } }

/-- The index of a virtual page number into the table of a level, 3 at the root (R400: bits [56:48], [47:39], [38:30] and
[29:21] of the address). -/
def tableIndex (level vpn : Nat) : Nat := natBits vpn (9 * level) 9

/-- A leaf as its 8 bytes (Table 11-3). The tables are the package's alone, held here by context and page number; which
4 KiB of the tables carve-out holds a table is open and meets no access (log entry 166). -/
def Leaf.word (l : Leaf) : Nat :=
  1 + 2 * l.write.toNat + (match l.tier with | .hbm => 0 | .neighbour => 4 | .flash => 8) + l.pclass % 4 * 2 ^ 4
    + l.moving.toNat * 2 ^ 6 + l.lost.toNat * 2 ^ 7 + l.roShared.toNat * 2 ^ 8 + l.frame % 2 ^ 31 * 2 ^ 9

/-- The key of a page. -/
def pageKey (ctx vpn : Nat) : Nat := ctx * 2 ^ 36 + vpn

def keyCtx (k : Nat) : Nat := k / 2 ^ 36
def keyVpn (k : Nat) : Nat := k % 2 ^ 36

/-- A leaf over fixed frames that the Hinge loader maps read-only. -/
def Leaf.fixed (frame : Nat) : Leaf := ⟨false, .hbm, 0, false, false, true, frame, 0, 0, 0⟩

/-- The page of a shared read-only range: from page `base`, over the carve-out of a kind. -/
def fixedLeaf (s : State) (kind base vpn : Nat) : Option Leaf :=
  match carveOut s kind with
  | none => none
  | some (first, n) => if base ≤ vpn ∧ vpn < base + n then some (Leaf.fixed (first + (vpn - base))) else none

/-- The valid leaf of a page: the live copy in every context (12 R439), the adapter slots in SYS only (12 R453), then
the context's own tables. -/
def leafOf (s : State) (ctx vpn : Nat) : Option Leaf :=
  match fixedLeaf s 0x04 (getF s fHNG_WEIGHT_VA_VPN) vpn with
  | some l => some l
  | none =>
    match (if ctx = ctxSYS then fixedLeaf s 0x06 (Config.adapterVpn % 2 ^ 36) vpn else none) with
    | some l => some l
    | none => tabFind s.tiers.leaves (pageKey ctx vpn)

def setLeaf (s : State) (k : Nat) (l : Leaf) : State :=
  { s with tiers := { s.tiers with leaves := tabSet s.tiers.leaves k l } }

def delLeaf (s : State) (k : Nat) : State :=
  { s with tiers := { s.tiers with leaves := tabDel s.tiers.leaves k } }

/-- The keys of a context's mapped pages in a range of page numbers. -/
def leavesIn (s : State) (ctx vpn n : Nat) : List (Nat × Leaf) :=
  s.tiers.leaves.filter (fun p => decide (pageKey ctx vpn ≤ p.1) && decide (p.1 < pageKey ctx vpn + n))

/-- A range of pages meets a shared read-only range. -/
def meetsFixed (s : State) (kind base vpn n : Nat) : Bool :=
  match carveOut s kind with
  | none => false
  | some (_, m) => decide (vpn < base + m) && decide (base < vpn + n)

/-- Some page of a range is mapped. -/
def rangeMapped (s : State) (ctx vpn n : Nat) : Bool :=
  leavesIn s ctx vpn n != [] || meetsFixed s 0x04 (getF s fHNG_WEIGHT_VA_VPN) vpn n
    || (ctx == ctxSYS && meetsFixed s 0x06 (Config.adapterVpn % 2 ^ 36) vpn n)

/-- The pages mapped for a context that count against MEM_QUOTA (R403). -/
def mappedPages (s : State) (ctx : Nat) : Nat := (leavesIn s ctx 0 (2 ^ 36)).length

/-- The byte at a device-virtual address: none where the page has no valid leaf or is LOST (R401). -/
def virtByte (s : State) (ctx va : Nat) : Option Byte :=
  match leafOf s ctx (va / 2097152) with
  | none => none
  | some l =>
    if l.lost then none
    else
      let a := l.frame * 2097152 + va % 2097152
      some (match l.tier with
        | .hbm => memGet s.tiers.hbm a
        | .neighbour => memGet s.tiers.loanMem a
        | .flash => memGet s.flash.data a)

/-- The 64-byte unit at a device-virtual address is poisoned. -/
def virtPoisoned (s : State) (ctx va : Nat) : Bool :=
  match leafOf s ctx (va / 2097152) with
  | none => false
  | some l => (match l.tier with
    | .hbm => s.tiers.hbmPoison
    | .neighbour => s.tiers.loanPoison
    | .flash => s.flash.poison).contains (l.frame * 32768 + va % 2097152 / 64)

/-- Cancel a migration, releasing its destination (R409). -/
def cancelMigration (s : State) (k : Nat) : State :=
  match s.tiers.migs.find? (fun m => m.page == k) with
  | none => s
  | some m =>
    let s := { s with tiers := { s.tiers with migs := s.tiers.migs.filter (fun m => m.page != k) } }
    let s := releaseBacking s m.tier m.frame
    match tabFind s.tiers.leaves k with
    | some l => setLeaf s k { l with moving := false }
    | none => s

/-- Unmap one page of the tables. -/
def unmapPage (s : State) (k : Nat) (l : Leaf) : State :=
  let s := cancelMigration s k
  let s := delLeaf s k
  if l.roShared || (l.lost && l.tier == .neighbour) then s else releaseBacking s l.tier l.frame

/-- Unmap every page of a range. -/
def unmapRange (s : State) (ctx vpn n : Nat) : State :=
  (leavesIn s ctx vpn n).foldl (fun s p => unmapPage s p.1 p.2) s

/-- Record a LOST page (R427): its accesses fault from now on; MEM_ERR names the context. -/
def pageLost (s : State) (k : Nat) (f : Field) : State :=
  match tabFind s.tiers.leaves k with
  | none => s
  | some l =>
    let s := setLeaf s k { l with lost := true }
    let s := raiseF s f
    let sys := keyCtx k = ctxSYS
    let s := setF s fMEM_ERR_LAST_TENANT (if sys then 0 else keyCtx k)
    setF s fMEM_ERR_LAST_SYS (if sys then 1 else 0)

/-! ### Placement (R404, R405, Table 11-5) -/

/-- What placing a page finds: a backing, the need of a loan, or no room. -/
inductive Place where
  | at_ (t : Tier) (f : Nat)
  | loan
  | none
  deriving DecidableEq, Repr

/-- The lenders of an image's list; the package's own id marks an unused entry (log entry 39). -/
def lendersOf (img : CfgImage) : List Nat := (img.recs 0x0006 1).filter (fun r => r != img.pkg)

/-- The lenders of the active list. -/
def lenders (s : State) : List Nat :=
  match s.cfg.active with
  | some i => lendersOf i
  | none => []

/-- A loan frame, else a loan to ask for while some lender of the list may have one (R413). -/
def placeLoan (s : State) : Place :=
  match loanFrame s with
  | some f => .at_ .neighbour f
  | none =>
    if s.tiers.denied || (lenders s) = [] || decide (1024 ≤ s.tiers.loans.length) then .none else .loan

/-- The backing of a page at MAP by its class. -/
def placePage (s : State) (pclass mask v : Nat) : Place :=
  let near := if pclass = 0 ∨ getF s fMEM_CFG_LOW_WM < freeFrames s then localFrame s mask v else none
  match near with
  | some f => .at_ .hbm f
  | none =>
    if pclass = 0 then .none
    else
      match placeLoan s with
      | .none =>
        if pclass = 3 then
          match flashUnit s with
          | some u => .at_ .flash u
          | none => .none
        else .none
      | p => p

/-- Take a backing. -/
def useBacking (s : State) (t : Tier) (f : Nat) : State :=
  match t with
  | .hbm => useFrame s f
  | .neighbour => s
  | .flash => { s with flash := { s.flash with units := nsInsert s.flash.units f } }

/-- What mapping a range finds. -/
inductive Placed where
  | all (s : State)
  | loan
  | none
  deriving DecidableEq, Repr

/-- Map `n` pages from `v` on, every page zero-filled. -/
def placePages (ctx : Nat) (write : Bool) (pclass mask : Nat) : Nat → Nat → State → Placed
  | _, 0, s => .all s
  | v, n + 1, s =>
    match placePage s pclass mask v with
    | .none => .none
    | .loan => .loan
    | .at_ t f =>
      let s := useBacking s t f
      let s := setLeaf s (pageKey ctx v) ⟨write, t, pclass, false, false, false, f, 0, 0, s.now⟩
      placePages ctx write pclass mask (v + 1) n s

/-- Ask the lender of an index, or record that every lender has denied (R413). -/
def askLender (s : State) (i : Nat) : State :=
  match (lenders s)[i]? with
  | some p => sendMsg { s with tiers := { s.tiers with asked := some i } } .loanReq p [ownPkg s]
  | none => { s with tiers := { s.tiers with asked := none, denied := true } }

/-- Ask for a loan where none is being asked for. -/
def wantLoan (s : State) : State := if s.tiers.asked.isSome then s else askLender s 0

/-- A loan frame has fabric accesses outstanding, or waiting in a bucket (R402). -/
def frameBusy (s : State) (f : Nat) (op : Nat → Bool) : Bool :=
  (match tabFind s.tiers.loans (f / 512) with
    | none => false
    | some l =>
      let a := l.base + f % 512 * 2097152
      s.fab.reqs.any (fun r => r.dest == l.lender && decide (a ≤ r.addr) && decide (r.addr < a + 2097152) && op r.op)) ||
    s.warden.buckets.any (fun b => b.2.held.any (fun h => h.reqs.any (fun r => r.frame == f && op r.op)))

/-- A 16-byte-aligned window entry for loan slot `i` (14 R500). -/
def loanWindow (l : Loan) : Nat :=
  1 + 7 * 2 ^ 3 + 0x11 * 2 ^ 8 + l.lender % 2 ^ 16 * 2 ^ 16 + l.base % 2 ^ 52 * 2 ^ 32 + 512 * 2 ^ 84

/-! ### Flash blocks -/

def getBlock (s : State) (b : Nat) : FlashBlock := tabGet FlashBlock.fresh s.flash.blocks b

def setBlock (s : State) (b : Nat) (v : FlashBlock) : State :=
  { s with flash := { s.flash with blocks := tabSet s.flash.blocks b v } }

/-- The channel of a block. -/
def blockChan (b : Nat) : Nat := b / 2 ^ 24

/-- A channel is declared and not held down; a channel of a lost Gateway die is held down. -/
def chanUp (s : State) (c : Nat) : Bool :=
  decide (c < getF s fFLS_CFG_CHANNELS) && natBits (getF s fFLS_CH_DOWN_DOWN) c 1 == 0
    && !s.fault.lostGw.contains (c / 8)

/-- The block exists on a channel that is up. -/
def blockUp (s : State) (b : Nat) : Bool :=
  chanUp s (blockChan b) && decide (b % 2 ^ 24 < Config.nandBlocks (blockChan b))

/-- The listed blocks of a channel. -/
def chanBlocks (s : State) (c : Nat) : List (Nat × FlashBlock) := s.flash.blocks.filter (fun p => blockChan p.1 == c)

/-- The good blocks of a channel. -/
def goodBlocks (s : State) (c : Nat) : Nat :=
  Config.nandBlocks c - ((chanBlocks s c).filter (fun p => !p.2.good)).length

/-- The free blocks of a channel. -/
def chanFree (s : State) (c : Nat) : Nat :=
  Config.nandBlocks c - ((chanBlocks s c).filter (fun p => !p.2.good || p.2.written != 0)).length

/-- The channels that are up. -/
def upChans (s : State) : List Nat := (List.range 32).filter (chanUp s)

/-- The good blocks of the package that are listed. -/
def listedGood (s : State) : List (Nat × FlashBlock) :=
  s.flash.blocks.filter (fun p => p.2.good && chanUp s (blockChan p.1))

/-- The lowest erase count of a good block: 0 while some good block has no entry. -/
def eraseMin (s : State) : Nat :=
  let n := ((upChans s).map (goodBlocks s)).sum
  let l := (listedGood s).map (fun p => p.2.erases)
  if l.length < n then 0 else l.foldl min (l.headD 0)

/-- The highest erase count of a good block. -/
def eraseMax (s : State) : Nat := ((listedGood s).map (fun p => p.2.erases)).foldl max 0

/-- Record a flash error of a channel. -/
def flashError (s : State) (f : Field) (chan : Nat) : State := setF (raiseF s f) fFLS_ERR_LAST_CH chan

/-- Schedule a relocation. -/
def scheduleReloc (s : State) (b : Nat) : State :=
  if s.flash.reloc.any (fun r => r.block == b) then s
  else { s with flash := { s.flash with reloc := s.flash.reloc ++ [⟨b, false⟩] } }

end Sys2Proof.Machine
end

