-- ==== Sys2Proof/Machine/FabOps.lean ====
section
/-!
DEFINITION. The Sunded fabric as shared operations (spec 14): packets and flits, routing (R493), virtual channels and
credits (R489-R491), the replay buffer (R483), and the completion of requests (Table 14-9).
-/
namespace Sys2Proof.Machine

open Sys2Proof

/-! ### Packets (Table 14-8) -/

/-- The fields of a packet header that the model builds and reads. -/
structure Packet where
  op     : Nat
  ord    : Bool
  notify : Bool
  ng     : Nat
  status : Nat
  dest   : Nat
  src    : Nat
  tag    : Nat
  addr   : Nat
  bmask  : Nat
  nlatch : Nat
  ewin   : Nat
  eth    : Bool
  data   : List Line
  deriving DecidableEq, Repr

def Packet.header (p : Packet) : BitVec 256 :=
  BitVec.ofNat 256 (p.op % 2 ^ 8 + bit p.ord * 2 ^ 8 + bit p.notify * 2 ^ 9 + p.ng % 4 * 2 ^ 10 + p.status % 16 * 2 ^ 12
    + p.dest % 2 ^ 16 * 2 ^ 16 + p.src % 2 ^ 16 * 2 ^ 32 + p.tag % 2 ^ 24 * 2 ^ 48 + p.addr % 2 ^ 52 * 2 ^ 72
    + p.bmask % 2 ^ 64 * 2 ^ 128 + p.nlatch % 2 ^ 14 * 2 ^ 192 + p.ewin % 2 ^ 8 * 2 ^ 208 + bit p.eth * 2 ^ 216)

def Packet.ofHeader (b : BitVec 256) (data : List Line) : Packet :=
  let n := b.toNat
  ⟨natBits n 0 8, natBits n 8 1 == 1, natBits n 9 1 == 1, natBits n 10 2, natBits n 12 4, natBits n 16 16, natBits n 32 16,
   natBits n 48 24, natBits n 72 52, natBits n 128 64, natBits n 192 14, natBits n 208 8, natBits n 216 1 == 1, data⟩

/-- The operations of Table 14-7. -/
def opREAD : Nat := 0x01
def opWRITE : Nat := 0x02
def opWRITEPART : Nat := 0x03
def opATOMIC : Nat := 0x04
def opMGMT : Nat := 0x10
def opREADRSP : Nat := 0x81
def opWRITEACK : Nat := 0x82
def opATOMICRSP : Nat := 0x84

/-- The channel pair that an OP travels on: 0 requests, 2 responses, 4 management. -/
def vcBase (op : Nat) : Nat := if op = opMGMT then 4 else if 0x80 ≤ op then 2 else 0

/-- A header with no reserved encoding (Tables 14-7, 14-8). -/
def headerLegal (b : BitVec 256) : Bool :=
  let n := b.toNat
  let p := Packet.ofHeader b []
  let known := [opREAD, opWRITE, opWRITEPART, opATOMIC, opMGMT, opREADRSP, opWRITEACK, opATOMICRSP].contains p.op
  known && natBits n 124 4 == 0 && natBits n 206 2 == 0 && natBits n 217 7 == 0 && natBits n 232 24 == 0 &&
    (p.op == opMGMT || p.ng != 0) && (!(p.op == opWRITEPART || p.op == opATOMIC) || p.ng == 1) &&
    (if 0x80 ≤ p.op then decide (p.status ≤ 5) else p.status == 0) &&
    (p.op != opATOMIC || (p.bmask / 16 == 0 && decide (natBits p.bmask 0 3 ≤ 5)))

/-! ### Ports -/

def getPort (s : State) (n : Nat) : Port := tabGet Port.reset s.fab.ports n

def setPort (s : State) (n : Nat) (p : Port) : State :=
  { s with fab := { s.fab with ports := tabSet s.fab.ports n p } }

def modPort (s : State) (n : Nat) (f : Port → Port) : State := setPort s n (f (getPort s n))

/-- The most resends that an unacknowledged flit of a port has had (R484). -/
def Port.resends (p : Port) : Nat := p.replay.foldl (fun m f => max m f.resent) 0

def portUp (s : State) (n : Nat) : Bool := (getPort s n).phase == .up

/-- A port that routing may use (R493). -/
def portConfigured (s : State) (n : Nat) : Bool :=
  match (getPort s n).phase with
  | .disabled => false
  | .held => false
  | .down => false
  | .recable => false
  | _ => true

/-- The configured candidates of a destination: those of PORTS, else those of FALLBACK. -/
def usablePorts (s : State) (dest : Nat) : List Nat :=
  let e := tabGet 0 s.fab.routes dest
  let pick (lo : Nat) : List Nat := (List.range 16).filter (fun n => natBits e (lo + n) 1 == 1 && portConfigured s n)
  if natBits e 33 1 = 0 then [] else if pick 0 = [] then pick 16 else pick 0

/-- The channel and transit fields that a flit takes through an output port (R490). -/
def hopClass (s : State) (n : Nat) (f : Flit) : Nat × Nat × Bool :=
  let dim := getF s (fFAB_PORT_CFG_DIM n)
  let crossed := (if dim = f.curDim then f.crossed else false) || bitF s (fFAB_PORT_CFG_DATELINE n)
  (if f.vc = 4 then 4 else f.vc + bit crossed, dim, crossed)

/-- The credits that a flit may use at a port: shared slots, then reserved slots of its channel (R489). -/
def creditsFor (s : State) (n : Nat) (f : Flit) : Nat :=
  let p := getPort s n
  let vc := (hopClass s n f).1
  p.credits.getD vc 0 + (if vc = 4 then 0 else p.sharedCr)

/-- A flit may be sent: one credit, or two for a management flit that enters a dimension (R491). -/
def creditOk (s : State) (n : Nat) (f : Flit) : Bool :=
  let (vc, dim, _) := hopClass s n f
  if vc = 4 then decide ((if f.curDim = dim ∧ f.hops ≠ 0 then 1 else 2) ≤ (getPort s n).credits.getD 4 0)
  else decide (0 < creditsFor s n f)

/-- The port of the most credits, ties to the lower number. -/
def bestPort (s : State) (f : Flit) (l : List Nat) : Option Nat :=
  l.foldl (fun a n =>
    match a with
    | none => some n
    | some m => if creditsFor s m f < creditsFor s n f then some n else some m) none

/-- The output port of a flit (R493); `none` where no configured port leads to its destination. -/
def choosePort (s : State) (f : Flit) : Option Nat :=
  let p := Packet.ofHeader f.header []
  let us := usablePorts s p.dest
  if us = [] then none
  else if p.op = opMGMT ∨ p.ord then
    let h := if p.op = opMGMT then crc32c (leBytes 8 p.dest)
      else crc32c (leBytes 8 (p.dest + p.addr / 64 * 2 ^ 16))
    us[h % us.length]?
  else
    match us.filter (fun n => portUp s n && !(getPort s n).recalDue) with
    | [] => us.head?
    | ups => bestPort s f ups

/-! ### Flits (Tables 14-2, 14-3) -/

/-- The 256 bytes of a flit, without its CRC. -/
def flitBody (ack : Nat) (nak : Bool) (cred : List Nat) (f : Flit) : Nat :=
  let link := f.seq % 2 ^ 16 + ack % 2 ^ 16 * 2 ^ 16 + bit nak * 2 ^ 32 + f.vc % 8 * 2 ^ 33 + bit f.shared * 2 ^ 36
    + (List.range 6).foldl (fun a i => a + min 255 (cred.getD i 0) * 2 ^ (37 + 8 * i)) 0
  let pay := (List.range 3).foldl (fun a i => a + (f.payload.getD i 0#512).toNat * 2 ^ (384 + 512 * i)) 0
  let tr := if f.vc = 7 then 0 else f.hops % 16 + f.curDim % 4 * 16 + bit f.crossed * 64
  link + f.header.toNat * 2 ^ 128 + pay + tr * 2 ^ 1920

/-- Put the CRC-32C of bytes 0-251 into bytes 252-255. -/
def withCrc (n : Nat) : Nat := n % 2 ^ 2016 + crc32c (leBytes 252 n) * 2 ^ 2016

/-- Send one flit on a port with the present acknowledgement, NAK and credit returns. -/
def emitFlit (s : State) (n : Nat) (f : Flit) : State :=
  let p := getPort s n
  let s := s.emit .flit [n, withCrc (flitBody ((p.expSeq + 65535) % 65536) p.nak p.owed f)]
  setPort s n { p with nak := false, sinceAck := 0, owed := p.owed.map (fun c => c - min 255 c) }

/-- An idle flit. -/
def Flit.idle : Flit := ⟨0, 7, false, 0, [], 0, 0, false, none, 0⟩

/-- A flit leaves its receive slot: the slot is free and its credit is owed (R489). -/
def leaveSlot (s : State) (sl : Option (Nat × Nat × Bool)) : State :=
  match sl with
  | none => s
  | some (n, vc, sh) => modPort s n (fun p =>
      if sh then { p with rxShared := p.rxShared - 1, owed := listMod p.owed 5 (· + 1) }
      else { p with rxUsed := listMod p.rxUsed vc (· - 1), owed := listMod p.owed vc (· + 1) })

/-- Send a packet's flit on a port: a shared credit first (R489), its sequence, and a place in the replay buffer. -/
def sendFlit (s : State) (n : Nat) (f : Flit) : State :=
  let (vc, dim, crossed) := hopClass s n f
  let p := getPort s n
  let sh := vc != 4 && decide (0 < p.sharedCr)
  let g : Flit := { f with
    seq := p.nextSeq, vc := vc, shared := sh, hops := min 15 (f.hops + 1), curDim := dim, crossed := crossed, slot := none,
    resent := 0 }
  let s := setPort s n { p with
    nextSeq := (p.nextSeq + 1) % 65536
    sharedCr := if sh then p.sharedCr - 1 else p.sharedCr
    credits := if sh then p.credits else listMod p.credits vc (· - 1)
    replay := p.replay ++ [g] }
  leaveSlot (emitFlit s n g) f.slot

/-- Send what a port can, in order within each channel. -/
def pumpList (n : Nat) : List Flit → List Nat → List Flit → State → State
  | [], _, kept, s => modPort s n (fun p => { p with waiting := kept })
  | f :: fs, blocked, kept, s =>
    let vc := (hopClass s n f).1
    if portUp s n && decide ((getPort s n).replay.length < 4096) && !blocked.contains vc && creditOk s n f then
      pumpList n fs blocked kept (sendFlit s n f)
    else pumpList n fs (vc :: blocked) (kept ++ [f]) s

def pump (s : State) (n : Nat) : State := pumpList n (getPort s n).waiting [] [] s

/-! ### Completion at the requester (Table 14-9, R499) -/

/-- A fabric error that names a destination package. -/
def fabError (s : State) (f : Field) (dest : Nat) : State := setF (raiseF s f) fFAB_ERR_LAST_PKG dest

/-- Change an issued operation of a core. -/
def modOp (s : State) (c id : Nat) (f : OutOp → OutOp) : State :=
  modCore s c (fun k => { k with ops := k.ops.map (fun o => if o.id = id then f o else o) })

/-- One fabric response of an operation has come. -/
def fabricStep (o : OutOp) : OutOp :=
  match o.phase with
  | .fabric n => { o with phase := if n ≤ 1 then .done else .fabric (n - 1) }
  | _ => o

/-- The data of a request is poisoned: an SRAM or memory destination is marked, a register takes a free value. -/
def poisonSink (s : State) (r : FabReq) : State :=
  match r.sink, r.agent with
  | .none, _ => s
  | .reg, .coreOp c id =>
    let (v, s) := s.takeFree
    modOp s c id (fun o => { o with value := BitVec.ofNat 64 v })
  | .reg, _ => s
  | .sram c a, _ => sramPoisonRange s c a r.len
  | .virt ctx va, _ =>
    match leafOf s ctx (va / 2097152) with
    | none => s
    | some l =>
      let s := markDirty s (pageKey ctx (va / 2097152)) [va % 2097152 / 4096]
      let gs := (granulesOf va r.len).map (fun g => l.frame * 32768 + g % 32768)
      match l.tier with
      | .hbm => { s with tiers := { s.tiers with hbmPoison := gs.foldl nsInsert s.tiers.hbmPoison } }
      | .neighbour => { s with tiers := { s.tiers with loanPoison := gs.foldl nsInsert s.tiers.loanPoison } }
      | .flash => { s with flash := { s.flash with poison := gs.foldl nsInsert s.flash.poison } }

/-- A request completes with a status; a response to no outstanding request is discarded. DEDUCED (log entry 169):
UNREACHABLE and ETH_FAILED are as ADDR_ERROR to the requester and do not set the bit ADDR_ERROR. -/
def completeReq (s : State) (tag status : Nat) : State :=
  match s.fab.reqs.find? (fun r => r.tag == tag) with
  | none => s
  | some r =>
    let s := { s with fab := { s.fab with reqs := s.fab.reqs.filter (fun x => x.tag != tag) } }
    let finish (s : State) : State :=
      match r.agent with
      | .coreOp c id => modOp s c id fabricStep
      | _ => s
    let refuse (s : State) : State :=
      match r.agent with
      | .coreOp c id => modOp s c id (fun o => { o with phase := .refused })
      | _ => s
    match status with
    | 0 => finish s
    | 1 => refuse (fabError s fFAB_ERR_ADDR_ERROR r.dest)
    | 2 => finish (poisonSink s r)
    | 3 => refuse s
    | 4 => refuse (fabError s fFAB_ERR_ETH r.dest)
    | _ =>
      let s := finish (poisonSink (fabError s fFAB_ERR_REQ_TIMEOUT r.dest) r)
      declareFault s 0x000B (FaultAt.package r.dest)

/-! ### Sending (R493) -/

/-- A flit for which no route leads on: a request is answered UNREACHABLE, anything else is discarded and counted. -/
def noRoute (send : State → Packet → State) (s : State) (f : Flit) : State :=
  let p := Packet.ofHeader f.header []
  let s := leaveSlot s f.slot
  if vcBase p.op = 0 then
    let s := fabError s fFAB_ERR_UNREACHABLE p.dest
    if p.src = ownPkg s then completeReq s p.tag 3
    else send s { p with op := p.op + 0x80, ord := false, notify := false, status := 3, dest := p.src, src := ownPkg s,
                         bmask := 0, nlatch := 0, data := [] }
  else count s 0x0600 1

/-- Give a flit to an output port; `none` where none leads on. -/
def placeFlit (s : State) (f : Flit) : Option State :=
  (choosePort s f).map (fun n => pump (modPort s n (fun p => { p with waiting := p.waiting ++ [f] })) n)

/-- A packet of this package as a flit that has taken no hop. -/
def Packet.flit (p : Packet) : Flit := ⟨0, vcBase p.op, false, p.header, p.data, 0, 3, false, none, 0⟩

/-- Send a response; one that finds no route is discarded and counted. -/
def sendResponse (s : State) (p : Packet) : State :=
  match placeFlit s p.flit with
  | some s => s
  | none => count s 0x0600 1

/-- Route a flit on. -/
def forwardFlit (s : State) (f : Flit) : State :=
  match placeFlit s f with
  | some s => s
  | none => noRoute sendResponse s f

/-- Send a packet of this package. -/
def sendPacket (s : State) (p : Packet) : State := forwardFlit s p.flit

/-- Flits that wait at ports out of use are routed anew. -/
def rerouteWaiting (s : State) : State :=
  (List.range 16).foldl (fun s n =>
    let p := getPort s n
    if p.waiting = [] then s
    else
      let moves (f : Flit) : Bool :=
        let q := Packet.ofHeader f.header []
        !portConfigured s n || (p.phase != .up && !q.ord && q.op != opMGMT)
      let go := p.waiting.filter moves
      let s := modPort s n (fun p => { p with waiting := p.waiting.filter (fun f => !moves f) })
      go.foldl forwardFlit (pump s n)) s

end Sys2Proof.Machine
end

