-- ==== Sys2Proof/Machine/Buckets.lean ====
section
/-!
DEFINITION. The accounting of memory traffic: heat and dirty blocks (11 R407, R409), bandwidth buckets (10 R381), and the
fabric requests of accesses to loan frames (14 R495, R496).
-/
namespace Sys2Proof.Machine

open Sys2Proof

/-- What an access needs of its page. -/
inductive Need where
  | read | write | atomic
  deriving DecidableEq, Repr

/-- The pages of a range, each with the start and length of its part. -/
def partsOf (va n : Nat) : List (Nat × Nat × Nat) :=
  (List.range ((va + n + 2097151) / 2097152 - va / 2097152)).map (fun i =>
    let p := va / 2097152 + i
    let lo := max va (p * 2097152)
    (p, lo, min (va + n) ((p + 1) * 2097152) - lo))

/-! ### Heat and dirty blocks (11 R407, R409) -/

/-- Heat after traffic: 1 for every 64 KiB, saturating at 255, with the bytes that remain. -/
def heatAfter (heat traffic n : Nat) : Nat × Nat :=
  (min 255 (heat + (traffic + n) / 65536), (traffic + n) % 65536)

/-- The 4 KiB blocks of a page that a part of an access covers. -/
def blocksTouched (p : Nat × Nat × Nat) : List Nat :=
  let lo := p.2.1 % 2097152 / 4096
  (List.range ((p.2.1 % 2097152 + p.2.2 + 4095) / 4096 - lo)).map (fun i => lo + i)

/-- Count traffic to a page as heat, and a write to a page under migration as dirty blocks. A page of a shared read-only
range has heat of its own and never moves. -/
def touchPage (s : State) (ctx : Nat) (need : Need) (p : Nat × Nat × Nat) : State :=
  let k := pageKey ctx p.1
  match leafOf s ctx p.1, tabFind s.tiers.leaves k with
  | none, _ => s
  | some f, l =>
    if f.roShared then
      { s with tiers := { s.tiers with
          sharedHeat := tabMod (0, 0) s.tiers.sharedHeat k (fun x => heatAfter x.1 x.2 p.2.2) } }
    else
      match l with
      | none => s
      | some l =>
        let h := heatAfter l.heat l.traffic p.2.2
        let s := setLeaf s k { l with heat := h.1, traffic := h.2 }
        let s := if l.tier = .flash then count s 0x0402 1 else s
        if need = .read ∨ !l.moving then s else markDirty s k (blocksTouched p)

/-! ### Bandwidth buckets (10 R381) -/

/-- The depth of a bucket in bytes; buckets 0-383 belong to the 24 HBM controllers, the rest to the 16 fabric ports. -/
def bucketDepth (s : State) (n : Nat) : Nat :=
  let c := n % 16
  (if n < 384 then getF s (fWDN_BWC_HBM_DEPTH c) else getF s (fWDN_BWC_FAB_DEPTH c)) * 1024

/-- A rate of 0 leaves a class unpoliced. -/
def bucketPoliced (s : State) (n : Nat) : Bool :=
  let c := n % 16
  (if n < 384 then getF s (fWDN_BWC_HBM_RATE c) else getF s (fWDN_BWC_FAB_RATE c)) != 0

def getBucket (s : State) (n : Nat) : Bucket := tabGet ⟨bucketDepth s n, []⟩ s.warden.buckets n

def setBucket (s : State) (n : Nat) (b : Bucket) : State :=
  { s with warden := { s.warden with buckets := tabSet s.warden.buckets n b } }

/-- Flow to be charged: a bucket, the tenant's counter of it (20 Table 20-4), and its bytes. -/
structure Charge where
  bucket  : Nat
  counter : Nat
  bytes   : Nat
  deriving DecidableEq, Repr

/-- The bucket has tokens, or its class is unpoliced. -/
def Charge.ready (s : State) (x : Charge) : Bool := !bucketPoliced s x.bucket || (getBucket s x.bucket).left != 0

/-- Charge traffic. -/
def spend (s : State) (x : Charge) : State :=
  let s := count s x.counter x.bytes
  if bucketPoliced s x.bucket then
    let b := getBucket s x.bucket
    setBucket s x.bucket { b with left := b.left - x.bytes }
  else s

/-- The charge of traffic to an HBM address. -/
def hbmCharge (ctx cls a n : Nat) : Charge := ⟨a / 2 ^ 36 * 16 + cls, 0x2001 + 4 * ctx, n⟩

/-- The packet that leads an access to a loan frame, for routing. -/
def loanPacket (s : State) (op : Nat) (ord : Bool) (frame off : Nat) : Packet :=
  let e := tabGet 0 s.fab.windows (frame / 512)
  ⟨op, ord, false, 1, 0, natBits e 16 16, ownPkg s, 0, natBits e 32 52 + frame % 512 * 2097152 + off, 0, 0, 0, false, []⟩

/-- The charge of `n` bytes to a page's backing (R381, 14 R494): the HBM controller, the fabric port, or for flash the
controller that holds the write buffer (log entry 84). -/
def tierCharge (s : State) (ctx cls : Nat) (t : Tier) (frame : Nat) (ord : Bool) (n : Nat) : Option Charge :=
  match t with
  | .hbm => some (hbmCharge ctx cls (frame * 2097152) n)
  | .neighbour =>
    (choosePort s (loanPacket s opREAD ord frame 0).flit).map (fun p => ⟨(24 + p) * 16 + cls, 0x2002 + 4 * ctx, n⟩)
  | .flash => (carveOut s 8).map (fun p => hbmCharge ctx cls (p.1 * 2097152) n)

/-- What a tenant's traffic to backings (tier, frame, bytes) is charged; SYS traffic is not charged. -/
def tierCharges (s : State) (ctx : Nat) (xs : List (Tier × Nat × Nat)) : List Charge :=
  match bwClass s ctx with
  | none => []
  | some cls => xs.filterMap (fun x => tierCharge s ctx cls x.1 x.2.1 false x.2.2)

/-- What a tenant's traffic to HBM ranges (address, bytes) is charged. -/
def hbmCharges (s : State) (ctx : Nat) (rs : List (Nat × Nat)) : List Charge :=
  match bwClass s ctx with
  | none => []
  | some cls => rs.map (fun r => hbmCharge ctx cls r.1 r.2)

/-- Traffic that has taken effect and whose bucket is empty waits there all the same: it is charged at the refill (log entry
177). -/
def chargeOwn (agent : Agent) (s : State) (x : Charge) : State :=
  if x.ready s then spend s x
  else
    let b := getBucket s x.bucket
    setBucket s x.bucket { b with held := b.held ++ [⟨agent, x.counter, x.bytes, true, []⟩] }

/-- Every bucket that the traffic needs has tokens. -/
def allOpen (s : State) (xs : List Charge) : Bool := xs.all (Charge.ready s)

def spendAll (s : State) (xs : List Charge) : State := xs.foldl spend s

/-! ### Fabric requests (14 R495, R496) -/

/-- Cut a list into runs of three at most. -/
def runs3 : List Nat → List (List Nat)
  | a :: b :: c :: t => [a, b, c] :: runs3 t
  | [] => []
  | l => [l]

/-- Granule `g` of bytes `bs` written at `a`, with its mask. -/
def granulePart (a : Nat) (bs : List Byte) (g : Nat) : Line × Nat :=
  (List.range 64).foldl (fun (x : Line × Nat) i =>
    let p := g * 64 + i
    if a ≤ p ∧ p < a + bs.length then
      (x.1 ||| (BitVec.ofNat 512 (bs.getD (p - a) 0#8).toNat <<< (8 * i)), x.2 + 2 ^ i)
    else x) (0#512, 0)

/-- The packets of an access to a loan frame: offset in the frame, OP, granules, mask, payload. -/
def accessPackets (need : Need) (a n : Nat) (bs : List Byte) (aop : Nat) : List (Nat × Nat × Nat × Nat × List Line) :=
  match need with
  | .read => (runs3 (granulesOf a n)).map (fun r => (r.headD 0 * 64, opREAD, r.length, 0, []))
  | .atomic => [(a, opATOMIC, 1, aop, [BitVec.ofNat 512 (leNat bs)])]
  | .write =>
    let gs := granulesOf a n
    let whole := gs.filter (fun g => (granulePart a bs g).2 == 2 ^ 64 - 1)
    let part := gs.filter (fun g => (granulePart a bs g).2 != 2 ^ 64 - 1)
    (runs3 whole).map (fun r => (r.headD 0 * 64, opWRITE, r.length, 0, r.map (fun g => (granulePart a bs g).1))) ++
      part.map (fun g => (g * 64, opWRITEPART, 1, (granulePart a bs g).2, [(granulePart a bs g).1]))

/-- A sink for the data of one request, `n` bytes into its access. -/
def sinkAt (sink : Sink) (n : Nat) : Sink :=
  match sink with
  | .sram c a => .sram c (a + n)
  | .virt ctx va => .virt ctx (va + n)
  | x => x

/-- Send one request and remember it. -/
def sendRequest (agent : Agent) (ord : Bool) (s : State) (x : LoanReq) : State :=
  let p := loanPacket s x.op ord x.frame 0
  let tag := s.fab.nextTag
  let addr := p.addr + x.off
  let s := { s with fab := { s.fab with
    nextTag := (tag + 1) % 2 ^ 24
    reqs := s.fab.reqs ++ [⟨tag, p.dest, x.op, addr, x.ng * 64, agent, x.sink⟩] } }
  sendPacket s { p with addr := addr, tag := tag, ng := x.ng, bmask := x.mask, data := x.data }

/-! ### Traffic of one access -/

/-- The traffic of an access to a part of its range: who makes it, context, need, whether its requests are ordered, the
start of the range, the bytes written (operand and compare value for an atomic), AOP and SIGNED, and where read data goes. -/
structure Flow where
  agent : Agent
  ctx   : Nat
  need  : Need
  ord   : Bool
  va    : Nat
  data  : List Byte
  aop   : Nat
  sink  : Sink
  deriving DecidableEq, Repr

/-- The requests of a part that lies on a loan frame. -/
def Flow.requests (x : Flow) (s : State) (p : Nat × Nat × Nat) : List LoanReq :=
  match leafOf s x.ctx p.1 with
  | some l =>
    if l.tier = .neighbour then
      let bs := if x.need = .atomic then x.data else (x.data.drop (p.2.1 - x.va)).take p.2.2
      let off := p.2.1 % 2097152
      (accessPackets x.need off p.2.2 bs x.aop).map (fun q =>
        ⟨l.frame, sinkAt x.sink (if x.need = .read then p.2.1 - x.va + q.1 - off else 0), q.1, q.2.1, q.2.2.1, q.2.2.2.1, q.2.2.2.2⟩)
    else []
  | none => []

/-- What a part is charged. -/
def Flow.charge (x : Flow) (s : State) (p : Nat × Nat × Nat) : Option Charge :=
  match bwClass s x.ctx, leafOf s x.ctx p.1 with
  | some cls, some l => tierCharge s x.ctx cls l.tier l.frame x.ord p.2.2
  | _, _ => none

/-- Send the requests of a part, charged first. -/
def Flow.go (x : Flow) (s : State) (c : Option Charge) (reqs : List LoanReq) : State :=
  reqs.foldl (sendRequest x.agent x.ord) (match c with | some c => spend s c | none => s)

/-- One part of an access: its requests go, or it waits in its empty bucket (R381, log entry 177). What the access then waits for: a
response for each request, or the bucket. -/
def Flow.part (x : Flow) (acc : Nat × State) (p : Nat × Nat × Nat) : Nat × State :=
  let s := touchPage acc.2 x.ctx x.need p
  let reqs := x.requests s p
  match x.charge s p with
  | none => (acc.1 + reqs.length, x.go s none reqs)
  | some c =>
    if c.ready s then (acc.1 + reqs.length, x.go s (some c) reqs)
    else
      let b := getBucket s c.bucket
      (acc.1 + 1, setBucket s c.bucket { b with held := b.held ++ [⟨x.agent, c.counter, c.bytes, x.ord, reqs⟩] })

/-- The whole range of an access: how many things it waits for. -/
def Flow.run (x : Flow) (n : Nat) (s : State) : Nat × State := (partsOf x.va n).foldl x.part (0, s)

/-! ### Refills -/

/-- A part that waited in a bucket goes: its operation now waits for its responses in place of the bucket. -/
def unheld (n : Nat) (o : OutOp) : OutOp :=
  match o.phase with
  | .fabric k => { o with phase := if k - 1 + n = 0 then .done else .fabric (k - 1 + n) }
  | _ => o

/-- A held request goes: it is charged, and its fabric requests are sent. -/
def releaseHeld (s : State) (b : Nat) (h : HeldReq) : State :=
  let s := h.reqs.foldl (sendRequest h.agent h.ord) (spend s ⟨b, h.counter, h.bytes⟩)
  match h.agent with
  | .coreOp c id => modOp s c id (unheld h.reqs.length)
  | _ => s

/-- Held requests go in their order, as long as the bucket has tokens. -/
def drainBucket (b : Nat) : List HeldReq → State → State
  | [], s => s
  | h :: t, s =>
    if (Charge.ready s ⟨b, 0, 0⟩) then drainBucket b t (releaseHeld s b h)
    else setBucket s b { getBucket s b with held := h :: t }

/-- BUCKET_REFILL (R381): the bucket is full again, and what it holds goes while its tokens last. -/
def execBucketRefill (bucket : Fin 640) (s : State) : Host.Outcome State Fault Refusal :=
  .next (drainBucket bucket (getBucket s bucket).held (setBucket s bucket ⟨bucketDepth s bucket, []⟩))

end Sys2Proof.Machine
end

