-- ==== Sys2Proof/Machine/Bezel.lean ====
section
/-!
DEFINITION. Bezel and the Bitting table (spec 07): pages, page lists, KV records, speculation, parking and return,
the generation sweep, lookup and publication, and the streams that Bezel produces.
-/
namespace Sys2Proof.Machine

open Sys2Proof

/-! ### Layout (R259, R260) -/

/-- The KV layout in force. -/
structure KvLayout where
  ldim     : Nat
  lfmt     : Nat
  efmt     : Nat
  rdim     : Nat
  lpg      : Nat
  groups   : Nat
  headroom : Nat
  deriving DecidableEq, Repr

def kvLayout (s : State) : KvLayout where
  ldim := getF s fBZL_LAYOUT_LDIM
  lfmt := getF s fBZL_LAYOUT_LFMT
  efmt := getF s fBZL_LAYOUT_EFMT
  rdim := getF s fBZL_LAYOUT_RDIM
  lpg := max 1 (getF s fBZL_LAYOUT_LPG)
  groups := layerGroups s
  headroom := getF s fBZL_LAYOUT_HEADROOM

/-- Bits of a latent element. -/
def KvLayout.bits (y : KvLayout) : Nat := if y.lfmt = 9 then 4 else 8

def KvLayout.lb (y : KvLayout) : Nat := y.ldim * y.bits / 8

def KvLayout.pb (y : KvLayout) : Nat := y.lb + y.rdim

def KvLayout.fpp (y : KvLayout) : Nat := (64 * y.lpg * y.pb + 32767) / 32768

/-- The device-physical address of page `n` (R261). -/
def pageAddr (s : State) (n : Nat) : Nat :=
  getF s fBZL_POOL_BASE_BASE * 32768 + n * (kvLayout s).fpp * 32768

/-- The latent of layer `l`, position `j` of a page (R260). -/
def latentAddr (s : State) (n l j : Nat) : Nat :=
  let y := kvLayout s
  pageAddr s n + l * 64 * y.pb + j * y.lb

/-- The positional key of layer `l`, position `j` of a page (R260). -/
def ropeAddr (s : State) (n l j : Nat) : Nat :=
  let y := kvLayout s
  pageAddr s n + l * 64 * y.pb + 64 * y.lb + j * y.rdim

/-! ### Pages -/

def getPage (s : State) (n : Nat) : PageRec := tabGet PageRec.fresh s.bezel.pages n

def setPage (s : State) (n : Nat) (r : PageRec) : State :=
  { s with bezel := { s.bezel with pages := tabSet s.bezel.pages n r } }

def modPage (s : State) (n : Nat) (f : PageRec → PageRec) : State := setPage s n (f (getPage s n))

def scaleKey (page l k : Nat) : Nat := (page * 16 + l) * 64 + k

def getScale (s : State) (page l k : Nat) : Nat := tabGet 0 s.bezel.scales (scaleKey page l k)

/-- The bytes of a page that are ever read (R260): those beyond, up to the end of the last frame, are zero. -/
def KvLayout.pageBytes (y : KvLayout) : Nat := 64 * y.lpg * y.pb

/-! ### Where Bezel's structures lie (R263-R266, R299)

Page lists, page records, scales and the Bitting table are held as records: no address of any context reaches their bytes
(R262). Their addresses count where poison lies there (18 R609, log entry 157). -/

/-- The root of a page list (R264). -/
def rootAddr (s : State) (w : Nat) : Nat := getF s fBZL_PL_BASE_BASE * 4096 + 4096 * w

/-- Leaf `n` of the leaf pool (R266). -/
def leafAddr (s : State) (n : Nat) : Nat := getF s fBZL_PL_BASE_BASE * 4096 + 65536 * 4096 + 4096 * n

/-- The block record of a Bitting entry (R299). -/
def bitRecAddr (s : State) (index : Nat) : Nat := getF s fBZL_BIT_REC_BASE_BASE * 512 + getF s fBZL_LAYOUT_RS * 64 * index

/-- A page-list entry (Table 07-4). -/
def refWord (r : PageRef) : Nat :=
  let loc := match r.loc with
    | .resident => 0
    | .neighbour => 1
    | .flash => 2
    | .none => 3
  r.page % 2 ^ 32 + loc * 2 ^ 32 + r.gen % 2 ^ 16 * 2 ^ 34 + r.shard % 2 ^ 6 * 2 ^ 50 + (if r.pub then 2 ^ 56 else 0)

/-- The header of a page list's root (Table 07-3). -/
def rootHeader (l : PageList) : Nat :=
  l.ttl % 2 ^ 64 + l.chainEntry % 2 ^ 22 * 2 ^ 64 + l.chainStamp % 2 ^ 16 * 2 ^ 86 + (if l.chainValid then 2 ^ 102 else 0)
    + (if l.parking then 2 ^ 103 else 0) + l.chainBlocks % 2 ^ 24 * 2 ^ 104

/-- The root of a page list: the header and the leaf addresses, 0 for no leaf (R264). -/
def rootBytes (s : State) (l : PageList) : List Byte :=
  leBytes 64 (rootHeader l) ++
    (List.range 504).flatMap (fun i => leBytes 8 (((tabFind l.leaves i).map (leafAddr s)).getD 0))

/-- A leaf of a page list: 512 entries, 0 for none. -/
def leafBytes (l : PageList) (leaf : Nat) : List Byte :=
  (List.range 512).flatMap (fun k => leBytes 8 (((tabFind l.ents (leaf * 512 + k)).map refWord).getD 0))

/-- The block record of an entry: 64 token ids and the page-list entries, RS bytes (R299). -/
def blockRecord (s : State) (e : BitEnt) : List Byte :=
  let bs := e.tokens.flatMap (leBytes 4) ++ e.refs.flatMap (fun r => leBytes 8 (refWord r))
  bs ++ List.replicate (getF s fBZL_LAYOUT_RS * 64 - bs.length) 0#8

/-- Bezel is a consuming agent: a poisoned granule in what it reads is the fault of R609. -/
def bezelRead (s : State) (a n : Nat) : State := if hbmPoisoned s a n then hbmFault s a else s

/-- Bezel reads ranges: the first poisoned one is the fault. -/
def bezelReads (s : State) (rs : List (Nat × Nat)) : State :=
  match rs.find? (fun p => hbmPoisoned s p.1 p.2) with
  | some p => hbmFault s p.1
  | none => s

/-- A range of Bezel's own structures is written whole: poison in it is gone (18 R608). -/
def clearPoison (s : State) (a n : Nat) : State :=
  { s with tiers := { s.tiers with hbmPoison := nsEraseRange s.tiers.hbmPoison (a / 64) ((a + n) / 64) } }

/-- What reading a page-list entry touches: its root slot and its place in the leaf. -/
def entRanges (s : State) (w i : Nat) : List (Nat × Nat) :=
  (rootAddr s w + 64 + 8 * (i / 512), 8) ::
    ((tabFind (tabGet PageList.empty s.bezel.lists w).leaves (i / 512)).map (fun n => (leafAddr s n + 8 * (i % 512), 8))).toList

/-- Clear a page's scale record. -/
def clearScales (s : State) (page : Nat) : State :=
  { s with bezel := { s.bezel with scales := s.bezel.scales.filter (fun p => p.1 / 1024 != page) } }

/-- The pages of an owner's free list (R285). -/
def freeList (s : State) (ctx : Nat) : List Nat :=
  ((s.bezel.pages.filter (fun p => p.2.phase == .free && !p.2.pooled && p.2.owner == ctx)).map Prod.fst)

/-- The lowest page of the global pool. -/
def lowestPool (s : State) : Option Nat :=
  (List.range (min (getF s fBZL_POOL_SIZE_PAGES) (s.bezel.pages.length + 1))).find? (fun n => (getPage s n).pooled)

/-- Pages that a context can still take: its free list and the global pool (R288). -/
def pagesAvailable (s : State) (ctx : Nat) : Nat :=
  let taken := (s.bezel.pages.filter (fun p => !p.2.pooled)).length
  (freeList s ctx).length + (getF s fBZL_POOL_SIZE_PAGES - taken)

/-- Take a page for a context: its free list first, then the global pool (R288). The page's scales begin anew. -/
def takePage (s : State) (ctx : Nat) : Option (Nat × State) :=
  match (freeList s ctx).head? with
  | some n =>
    some (n, clearScales (modPage s n (fun r => { r with phase := .held, refs := 1, scaleset := 0 })) n)
  | none =>
    match lowestPool s with
    | none => none
    | some n =>
      some (n, modPage s n (fun r =>
        { r with phase := .held, refs := 1, scaleset := 0, owner := ctx, pooled := false }))

/-- Zero-fill a page and its scale record and put it into the global pool (R286, R287). -/
def poolPage (s : State) (n : Nat) : State :=
  let s := hbmZero s (pageAddr s n) ((kvLayout s).fpp * 32768)
  let s := clearScales s n
  let s := count s 0x0204 1
  modPage s n (fun r =>
    { r with phase := .free, refs := 0, scaleset := 0, pooled := true, owner := 0 })

/-- Free a page whose REF is 0 and whose INFLIGHT is 0 (R285, R288): GEN rises; the owner's list keeps at most its
reserve, and the surplus goes to ZEROING. -/
def freePage (s : State) (n : Nat) : State :=
  let r := getPage s n
  if r.phase == .held && r.refs == 0 && r.inflight == 0 then
    let g := r.gen + 1
    if g < 0xFFFF then
      let full := decide (tenantField s r.owner 192 32 ≤ (freeList s r.owner).length)
      setPage s n { r with gen := g, phase := if full then .zeroing else .free }
    else setPage s n { r with gen := g, phase := .quarantine, since := s.bezel.sweeps }
  else s

/-- Remove one reference to a page. -/
def unrefPage (s : State) (n : Nat) : State := modPage s n (fun r => { r with refs := r.refs - 1 })

/-! ### Page lists (R264-R267) -/

def getList (s : State) (w : Nat) : PageList := tabGet PageList.empty s.bezel.lists w

def setList (s : State) (w : Nat) (l : PageList) : State :=
  { s with bezel := { s.bezel with
      lists := if l = PageList.empty then tabDel s.bezel.lists w else tabSet s.bezel.lists w l } }

def modList (s : State) (w : Nat) (f : PageList → PageList) : State := setList s w (f (getList s w))

/-- The index of the entry of block `b`, group `g` (R265). -/
def entIndex (s : State) (b g : Nat) : Nat := b * layerGroups s + g

/-- Leaves of the pool that are free. -/
def freeLeaves (s : State) : Nat := getF s fBZL_POOL_SIZE_LEAVES - s.bezel.leafUsed.length

/-- The lowest free leaf of the pool. -/
def lowestLeaf (s : State) : Option Nat :=
  (List.range (min (getF s fBZL_POOL_SIZE_LEAVES) (s.bezel.leafUsed.length + 1))).find? (fun n => !s.bezel.leafUsed.contains n)

/-- An entry can be written: its leaf is allocated, or the pool has one. -/
def canEnt (s : State) (w i : Nat) : Bool := tabHas (getList s w).leaves (i / 512) || (lowestLeaf s).isSome

/-- Write a page-list entry, allocating its leaf at the first write in it (R266). The reservations count leaves, so that one
is there; were none, the entry would not be made (log entry 158). -/
def setEnt (s : State) (w i : Nat) (r : PageRef) : State :=
  if tabHas (getList s w).leaves (i / 512) then modList s w (fun l => { l with ents := tabSet l.ents i r })
  else
    match lowestLeaf s with
    | none => s
    | some n =>
      let s := { s with bezel := { s.bezel with leafUsed := nsInsert s.bezel.leafUsed n } }
      modList s w (fun l => { l with leaves := tabSet l.leaves (i / 512) n, ents := tabSet l.ents i r })

/-- Return the leaves that name nothing any longer, zero-filled (R266). -/
def returnLeaves (s : State) (w : Nat) : State :=
  let l := getList s w
  let dead := l.leaves.filter (fun p => !l.ents.any (fun e => e.1 / 512 == p.1))
  let s := dead.foldl (fun s p => clearPoison s (leafAddr s p.2) 4096) s
  let s := { s with bezel := { s.bezel with
      leafUsed := s.bezel.leafUsed.filter (fun n => !(dead.map Prod.snd).contains n) } }
  setList s w { l with leaves := l.leaves.filter (fun p => !(dead.map Prod.fst).contains p.1) }

/-- GEN_MISMATCH (R267). -/
def genMismatch (s : State) (w : Nat) : State :=
  let s := setF (raiseF s fBZL_ERR_GEN_MISMATCH) fBZL_ERR_LAST_WARD w
  declareFault s 0x0009 (FaultAt.package w)

/-- A resident entry's GEN equals its page's (R267). -/
def genOk (s : State) (r : PageRef) : Bool := r.loc != .resident || r.gen == (getPage s r.page).gen

/-- Remove one reference to a parked copy; its room is free once none is left. -/
def unrefCopy (s : State) (h : Nat) : State :=
  match tabFind s.bezel.parked h with
  | none => s
  | some c =>
    { s with bezel := { s.bezel with
        parked := if c.refs ≤ 1 then tabDel s.bezel.parked h else tabSet s.bezel.parked h { c with refs := c.refs - 1 } } }

/-- Drop one entry: its page's reference or its parked copy's. -/
def dropEnt (s : State) (r : PageRef) : State :=
  match r.loc with
  | .resident => unrefPage s r.page
  | .none => s
  | _ => unrefCopy s r.page

/-- The moves of a park under way end: the pages' INFLIGHT falls again (R285). -/
def endMoves (s : State) (w : Nat) : State :=
  let l := getList s w
  let s := (l.moving.getD []).foldl (fun s i =>
    match tabFind l.ents i with
    | some r => if r.loc = .resident then modPage s r.page (fun p => { p with inflight := p.inflight - 1 }) else s
    | none => s) s
  modList s w (fun l => { l with moving := none, parking := false })

/-- Release every page and copy of a request's cache (R285, R295). -/
def releaseList (s : State) (w : Nat) : State :=
  let s := endMoves s w
  let s := (getList s w).ents.foldl (fun s p => dropEnt s p.2) s
  returnLeaves (modList s w (fun l =>
    { l with ents := [], chainValid := false, chainEntry := 0, chainStamp := 0, chainBlocks := 0, chainHash := 0,
             shards := [], ttl := 0 })) w

/-- The position shard of a block (R280): shards are numbered in ascending position. -/
def shardOf (l : PageList) (b : Nat) : Nat := (l.shards.filter (fun p => decide (p.1 ≤ b))).length - 1

/-- This package holds a block: the request is not sharded, or the block's shard lies here. -/
def heldHere (s : State) (l : PageList) (b : Nat) : Bool :=
  l.shards == [] || ((l.shards.filter (fun p => decide (p.1 ≤ b))).getLast?.map Prod.snd).getD 0 == ownPkg s

/-- The entries of committed blocks that another package holds: WHERE is NONE, SHARD names the holder (R280). -/
def noteAbsent (s : State) (w committed : Nat) : State :=
  let l := getList s w
  if l.shards == [] then s
  else
    ((List.range ((committed + 63) / 64)).filter (fun b => !heldHere s l b)).foldl (fun s b =>
      (List.range (layerGroups s)).foldl (fun s g =>
        if tabHas (getList s w).ents (entIndex s b g) then s
        else setEnt s w (entIndex s b g) ⟨0, .none, 0, shardOf l b, false⟩) s) s

/-- Return the pages whose first position lies at or above a length (R274). -/
def releaseAbove (s : State) (w committed : Nat) : State :=
  let g := layerGroups s
  let dead := (getList s w).ents.filter (fun p => decide (committed ≤ p.1 / g * 64))
  let s := dead.foldl (fun s p => dropEnt s p.2) s
  returnLeaves (modList s w (fun l =>
    { l with ents := l.ents.filter (fun p => !decide (committed ≤ p.1 / g * 64)) })) w

/-! ### KV records (R268-R272) -/

/-- Copy bytes within HBM; poison moves with them (18 R608). -/
def hbmCopy (s : State) (src dst n : Nat) : State :=
  let bad := (granulesOf src n).filter (fun g => s.tiers.hbmPoison.contains g)
  let s := hbmStoreBytes s dst (memBytes s.tiers.hbm src n)
  bad.foldl (fun s g => hbmPoison s ((g * 64 - src + dst) / 64)) s

/-- Copy-on-write (R282): the committed positions of block `b`, every layer, scales and SCALESET. -/
def copyPage (s : State) (src dst committed b : Nat) : State :=
  let y := kvLayout s
  let n := min 64 (committed - 64 * b)
  let s := bezelReads s ((List.range y.lpg).flatMap (fun l =>
    [(latentAddr s src l 0, n * y.lb), (ropeAddr s src l 0, n * y.rdim)]))
  let s := (List.range y.lpg).foldl (fun s l =>
    let s := hbmCopy s (latentAddr s src l 0) (latentAddr s dst l 0) (n * y.lb)
    hbmCopy s (ropeAddr s src l 0) (ropeAddr s dst l 0) (n * y.rdim)) s
  let sc := (s.bezel.scales.filter (fun p => p.1 / 1024 == src)).map (fun p => (p.1 - src * 1024 + dst * 1024, p.2))
  let s := { s with bezel := { s.bezel with scales := sc.foldl (fun t p => tabSet t p.1 p.2) s.bezel.scales } }
  modPage s dst (fun r => { r with scaleset := (getPage s src).scaleset })

/-- Take a page from a request's reservation (R272), for entry `i` of its list. -/
def takeReserved (s : State) (w i b : Nat) : Option (Nat × State) :=
  if tabGet 0 s.bezel.resv w = 0 || !canEnt s w i then none
  else
    (takePage s (getWard s w).ctx).map (fun (n, s) =>
      let s := { s with bezel := { s.bezel with resv := tabMod 0 s.bezel.resv w (fun v => v - 1) } }
      (n, setEnt s w i ⟨n, .resident, (getPage s n).gen, shardOf (getList s w) b, false⟩))

/-- The page that a record writes, taken from the reservation or copied as needed (R272, R282): none where another package
holds the block (R280), where the entry's GEN has met its mismatch (R267), and where the reservation is spent, which R272
rules out (log entry 158). -/
def writablePage (s : State) (w b g : Nat) : Option Nat × State :=
  let i := entIndex s b g
  let s := bezelReads s (entRanges s w i)
  match tabFind (getList s w).ents i with
  | none =>
    if !heldHere s (getList s w) b then (none, s)
    else
      match takeReserved s w i b with
      | none => (none, s)
      | some (n, s) => (some n, s)
  | some r =>
    if r.loc != .resident then (none, s)
    else if !genOk s r then (none, genMismatch s w)
    else if (getPage s r.page).refs ≤ 1 then (some r.page, s)
    else
      match takeReserved s w i b with
      | none => (none, s)
      | some (n, s) =>
        let k := min 64 ((getWard s w).committed - 64 * b) * ((kvLayout s).lb + (kvLayout s).rdim) * (kvLayout s).lpg
        let s := (hbmCharges s (getWard s w).ctx [(pageAddr s r.page, k), (pageAddr s n, k)]).foldl (chargeOwn .bezel) s
        (some n, unrefPage (copyPage s r.page n (getWard s w).committed b) r.page)

/-- A KV record found in a launch's write aperture (07 R268): its ward index, position and layer, whether all its
lines were written, and its LDIM latent and RDIM key values as BF16 codes. -/
structure KvRecord where
  ward  : Nat
  pos   : Nat
  layer : Nat
  whole : Bool
  vals  : List Nat
  deriving DecidableEq, Repr

/-- Whether a record is accepted, and the error of R268 or R269 otherwise. -/
inductive RecordFate where
  | ok | short | committed | stale
  deriving DecidableEq, Repr

def recordFate (s : State) (l : Launch) (k : KvRecord) : RecordFate :=
  if !k.whole then .short
  else
    match l.rows.find? (fun r => r.ward == k.ward) with
    | none => .committed
    | some r =>
      let e := getWard s k.ward
      if k.pos < r.committed || r.first + r.count ≤ k.pos then .committed
      else if e.committed ≤ k.pos && e.epoch != r.epoch then .stale
      else .ok

/-- The value of a BF16 code. -/
def bf16Val (b : Nat) : FVal := decodeF fmtBF16 b

/-- Fix the scales of a layer of a page from a launch's records (R270). -/
def fixScales (s : State) (page l : Nat) (ks : List KvRecord) : State :=
  let y := kvLayout s
  let fmt := y.lfmt
  let s := (List.range (y.ldim / 32)).foldl (fun s b =>
    let amax := ks.foldl (fun a k => (((k.vals.drop (32 * b)).take 32).map bf16Val).foldl
      (fun a v => maxVal a (amaxPart v)) a) (FVal.fin false 0 0)
    let x := match amax with
      | .fin _ m e => (if m = 0 then 0 else floorLog2 m e) - emaxOf fmt + (y.headroom : Int)
      | _ => 0
    let code := (clampInt (-127) 127 x + 127).toNat
    { s with bezel := { s.bezel with scales := tabSet s.bezel.scales (scaleKey page l b) code } }) s
  modPage s page (fun r => { r with scaleset := r.scaleset ||| 2 ^ l })

/-- A stored element (R271): a NaN is the positive maximum, infinities and large values the maximum of their sign. -/
def kvElem (f : FloatFmt) (x : Int) (v : FVal) : Nat :=
  match v with
  | .nan => encodeMax f false
  | .inf n => encodeMax f n
  | v => (quantElem f x v).1

/-- What telemetry counts of a stored element (R271): a clamp, a NaN input, an underflow. -/
def kvElemEvent (f : FloatFmt) (x : Int) (v : FVal) : Option Nat :=
  match v with
  | .nan => some 0x0205
  | v =>
    let fl := (quantElem f x v).2
    if fl &&& flOvfSat ≠ 0#5 then some 0x0203 else if fl &&& flUnderflow ≠ 0#5 then some 0x0206 else none

/-- Pack elements of `w` bits into bytes, the first in the low bits (02 R70). -/
def packElems (w : Nat) (es : List Nat) : List Byte :=
  leBytes (es.length * w / 8) ((List.range es.length).foldl (fun a i => a + (es.getD i 0) % 2 ^ w * 2 ^ (w * i)) 0)

/-- Store one record (R260, R271), charged to its tenant (10 R381, log entry 84). -/
def storeRecord (s : State) (page : Nat) (k : KvRecord) : State :=
  let y := kvLayout s
  let l := k.layer % y.lpg
  let j := k.pos % 64
  let f := (fmtOfCode y.lfmt).getD fmtE4M3
  let elem := fun (i : Nat) =>
    if i < y.ldim then (f, (getScale s page l (i / 32) : Int) - 127, bf16Val (k.vals.getD i 0))
    else (fmtE4M3, 0, bf16Val (k.vals.getD i 0))
  let code := fun (i : Nat) => kvElem (elem i).1 (elem i).2.1 (elem i).2.2
  let events := (List.range (y.ldim + y.rdim)).filterMap (fun i => kvElemEvent (elem i).1 (elem i).2.1 (elem i).2.2)
  let s := (hbmCharges s (getWard s k.ward).ctx [(latentAddr s page l j, y.lb), (ropeAddr s page l j, y.rdim)]).foldl
    (chargeOwn .bezel) s
  let s := hbmStoreBytes s (latentAddr s page l j) (packElems y.bits ((List.range y.ldim).map code))
  let s := hbmStoreBytes s (ropeAddr s page l j) (packElems 8 ((List.range y.rdim).map (fun i => code (y.ldim + i))))
  [0x0203, 0x0205, 0x0206].foldl (fun s id => count s id (events.filter (· == id)).length) s

def recordLt (a b : KvRecord) : Bool :=
  decide (a.ward < b.ward) || (decide (a.ward = b.ward) &&
    (decide (a.pos < b.pos) || (decide (a.pos = b.pos) && decide (a.layer < b.layer))))

/-- Apply one accepted record, fixing its layer's scales first where they are not fixed (R270). -/
def applyRecord (oks : List KvRecord) (s : State) (k : KvRecord) : State :=
  let y := kvLayout s
  let b := k.pos / 64
  match writablePage s k.ward b (k.layer / y.lpg) with
  | (none, s) => s
  | (some n, s) =>
    let l := k.layer % y.lpg
    let s := if natBits (getPage s n).scaleset l 1 = 1 then s
      else fixScales s n l (oks.filter (fun o => o.ward == k.ward && o.pos / 64 == b && o.layer == k.layer))
    storeRecord s n k

/-- The error bits of a refused record. -/
def refuseRecord (s : State) (k : KvRecord) (f : RecordFate) : State :=
  let s := setF s fBZL_ERR_LAST_WARD k.ward
  match f with
  | .ok => s
  | .short => raiseF s fBZL_ERR_RECORD_SHORT
  | .committed => raiseF s fBZL_ERR_COMMITTED_WRITE
  | .stale => raiseF s fBZL_ERR_SPEC_STALE

/-- Bytes of a record slot of the aperture: LDIM and RDIM BF16 values, padded to 64 B. -/
def recordBytes (s : State) : Nat := roundUp (2 * ((kvLayout s).ldim + (kvLayout s).rdim)) 64

/-- The records that a launch has left in its aperture, one per slot. -/
def apertureRecords (s : State) (l : Launch) : List KvRecord :=
  let n := recordBytes s
  (l.slots.zipIdx).map (fun (p : (Nat × Nat × Nat) × Nat) =>
    ⟨p.1.1, p.1.2.1, p.1.2.2, (List.range (n / 64)).all (fun i => l.apLines.contains (p.2 * (n / 64) + i)),
      (List.range ((kvLayout s).ldim + (kvLayout s).rdim)).map (fun i => memLoad l.apMem (p.2 * n + 2 * i) 2)⟩)

/-- KV_RECORD_APPLY (R268): the records of a completed launch of a core. -/
def execKvRecordApply (core : Fin 98304) (s : State) : Host.Outcome State Fault Refusal :=
  match (getCore s core).launch with
  | none => .next s
  | some l =>
    if l.done && !l.applied then
      let ks := sortBy recordLt (apertureRecords s l)
      let oks := ks.filter (fun k => recordFate s l k == .ok)
      let s := ks.foldl (fun s k =>
        match recordFate s l k with
        | .ok => applyRecord oks s k
        | f => refuseRecord s k f) s
      .next (modCore s core (fun c => { c with launch := some { l with applied := true } }))
    else .next s

/-! ### Freeing and zeroing -/

/-- PAGE_FREE (R285). -/
def execPageFree (page : Fin 4294967296) (s : State) : Host.Outcome State Fault Refusal := .next (freePage s page)

/-- PAGE_ZEROING_COMPLETE (R287). -/
def execPageZeroingComplete (page : Fin 4294967296) (s : State) : Host.Outcome State Fault Refusal :=
  .next (if (getPage s page).phase == .zeroing then poolPage s page else s)

/-! ### The Bitting table (R297-R306) -/

/-- One SipHash round. -/
def sipRound (v : Word × Word × Word × Word) : Word × Word × Word × Word :=
  let (v0, v1, v2, v3) := v
  let v0 := v0 + v1
  let v1 := v1.rotateLeft 13 ^^^ v0
  let v0 := v0.rotateLeft 32
  let v2 := v2 + v3
  let v3 := v3.rotateLeft 16 ^^^ v2
  let v0 := v0 + v3
  let v3 := v3.rotateLeft 21 ^^^ v0
  let v2 := v2 + v1
  let v1 := v1.rotateLeft 17 ^^^ v2
  let v2 := v2.rotateLeft 32
  (v0, v1, v2, v3)

/-- SipHash-2-4 of a message of whole 64-bit words. -/
def sipHash (key : Nat) (words : List Nat) : Nat :=
  let k0 : Word := BitVec.ofNat 64 key
  let k1 : Word := BitVec.ofNat 64 (key / 2 ^ 64)
  let init := (k0 ^^^ 0x736f6d6570736575#64, k1 ^^^ 0x646f72616e646f6d#64,
    k0 ^^^ 0x6c7967656e657261#64, k1 ^^^ 0x7465646279746573#64)
  let last := (8 * words.length % 256) * 2 ^ 56
  let (v0, v1, v2, v3) := (words ++ [last]).foldl (fun v m =>
    let m : Word := BitVec.ofNat 64 m
    let (v0, v1, v2, v3) := v
    let (v0, v1, v2, v3) := sipRound (sipRound (v0, v1, v2, v3 ^^^ m))
    (v0 ^^^ m, v1, v2, v3)) init
  let (v0, v1, v2, v3) := sipRound (sipRound (sipRound (sipRound (v0, v1, v2 ^^^ 0xff#64, v3))))
  (v0 ^^^ v1 ^^^ v2 ^^^ v3).toNat

/-- The hash of a block (R298). -/
def blockHash (key parent model adapter : Nat) (tokens : List Nat) : Nat :=
  sipHash key (parent :: (model % 2 ^ 16 + (adapter % 2 ^ 32) * 2 ^ 16) ::
    (List.range 32).map (fun i => tokens.getD (2 * i) 0 % 2 ^ 32 + (tokens.getD (2 * i + 1) 0 % 2 ^ 32) * 2 ^ 32))

/-- The sharing domain of a context (16 Table 16-5 DOMAIN). -/
def domainOf (s : State) (ctx : Nat) : Nat := tenantField s ctx 16 13

/-- The key of a domain: the random bits drawn when it first appeared (R297). -/
def domainKey (s : State) (d : Nat) : Option Nat := (tabFind s.bezel.domains d).map (fun i => Config.randomBits i % 2 ^ 128)

/-- The tokens of block `b` of a request: at its home package those of the transcript, elsewhere free values (log entry
13). -/
def blockTokens (s : State) (w b : Nat) : List Nat :=
  let e := getWard s w
  (List.range 64).map (fun i =>
    if e.home = ownPkg s then transcriptToken s e.transcript (64 * b + i)
    else Config.remoteToken e.home e.aseq (64 * b + i) % 2 ^ 32)

/-- The ways of a set whose entries agree with a block in all but its tokens (R300). -/
def bitWays (s : State) (hash domain model adapter : Nat) (parent : Option (Nat × Nat)) : List (Nat × BitEnt) :=
  s.bezel.bitting.filter (fun p =>
    let e := p.2
    p.1 / 8 == hash % 2 ^ 19 && e.hash == hash && e.domain == domain && e.model == model && e.adapter == adapter &&
    (match parent with
      | none => e.root
      | some (i, st) => !e.root && e.parent == i && e.pstamp == st))

/-- The way of a set that matches (R300): the lower of two. -/
def bitMatch (s : State) (hash domain model adapter : Nat) (parent : Option (Nat × Nat)) (tokens : List Nat) :
    Option (Nat × BitEnt) :=
  (bitWays s hash domain model adapter parent).find? (fun p => p.2.tokens == tokens)

/-- The low 32 bits of the present step number. -/
def stepLow (s : State) : Nat := getF s fWDN_STEP_STEP % 2 ^ 32

/-- Take a matched block into a request's list (R301); a fork keeps the entries that it has (log entry 159). -/
def takeMatch (s : State) (w b i : Nat) (e : BitEnt) : State :=
  let s := (List.range e.refs.length).foldl (fun s g =>
    match e.refs[g]? with
    | none => s
    | some r =>
      if tabHas (getList s w).ents (entIndex s b g) then s
      else setEnt (modPage s r.page (fun p => { p with refs := p.refs + 1 })) w (entIndex s b g) r) s
  let s := { s with bezel := { s.bezel with bitting := tabSet s.bezel.bitting i { e with last := stepLow s } } }
  modList s w (fun l =>
    { l with chainEntry := i, chainStamp := e.stamp, chainValid := true, chainBlocks := b + 1, chainHash := e.hash })

/-- The entries of block `b` can be made: leaves are there for all of them. -/
def canTake (s : State) (w b n : Nat) : Bool :=
  decide ((((List.range n).map (fun g => entIndex s b g / 512)).eraseDups.filter (fun i =>
    !tabHas (getList s w).leaves i)).length ≤ freeLeaves s)

/-- Walk a prompt's blocks (R300): the matched count and the state. -/
def bitWalk (w key domain model adapter : Nat) : Nat → Nat → Nat → Option (Nat × Nat) → State → Nat × State
  | 0, b, _, _, s => (b, s)
  | n + 1, b, parentHash, parent, s =>
    let toks := blockTokens s w b
    let h := blockHash key parentHash model adapter toks
    let s := bezelReads s ((bitWays s h domain model adapter parent).map (fun p =>
      (bitRecAddr s p.1, getF s fBZL_LAYOUT_RS * 64)))
    match bitMatch s h domain model adapter parent toks with
    | none => (b, s)
    | some (i, e) =>
      if e.refs.all (genOk s) && canTake s w b e.refs.length then
        bitWalk w key domain model adapter n (b + 1) h (some (i, e.stamp)) (takeMatch s w b i e)
      else (b, s)

/-- The blocks from the first on that one shard of this package holds (R280): the walk stops at its end. -/
def homeBlocks (s : State) (l : PageList) (n : Nat) : Nat :=
  ((List.range n).takeWhile (fun b => heldHere s l b && shardOf l b == shardOf l 0)).length

/-- Remove a Bitting entry (R305). -/
def removeBit (s : State) (i : Nat) : State :=
  match tabFind s.bezel.bitting i with
  | none => s
  | some e =>
    let s := e.refs.foldl (fun s r => unrefPage s r.page) s
    { s with bezel := { s.bezel with bitting := tabDel s.bezel.bitting i } }

/-- The pages that at least one entry references (R306). -/
def prefixPages (s : State) : List Nat :=
  (s.bezel.bitting.flatMap (fun p => p.2.refs.map PageRef.page)).eraseDups

/-- The LRU way of a set: the oldest LAST by serial comparison, ties to the lowest way (R303). -/
def lruWay (s : State) (set : Nat) : Option Nat :=
  (s.bezel.bitting.filter (fun p => p.1 / 8 == set)).foldl (fun a p =>
    match a with
    | none => some p.1
    | some i =>
      match tabFind s.bezel.bitting i with
      | none => some p.1
      | some e => if serialLt p.2.last e.last then some p.1 else some i) none

/-- Evict the LRU way while a publication would exceed the budget (R306). -/
def fitBudget (set add : Nat) : Nat → State → State
  | 0, s => s
  | n + 1, s =>
    if (prefixPages s).length + add ≤ getF s fBZL_BIT_BUDGET_PAGES then s
    else
      match lruWay s set with
      | none => s
      | some i => fitBudget set add n (count (removeBit s i) 0x0202 1)

/-- End the chain of a list (R303). -/
def endChain (s : State) (w : Nat) : State := modList s w (fun l => { l with chainValid := false })

/-- The chain of a list goes on to an entry (R303). -/
def linkChain (s : State) (w b i stamp hash : Nat) : State :=
  modList s w (fun l =>
    { l with chainEntry := i, chainStamp := stamp, chainValid := true, chainBlocks := b + 1, chainHash := hash })

/-- The page-list entries of a block. -/
def blockRefs (s : State) (w b : Nat) : List PageRef :=
  ((List.range (layerGroups s)).map (fun g => tabFind (getList s w).ents (entIndex s b g))).filterMap id

/-- A block may be published (R303): held whole on this package, next in its chain, and its tenant publishes. -/
def publishable (s : State) (w b : Nat) : Bool :=
  let l := getList s w
  let refs := blockRefs s w b
  (b == 0 || (l.chainValid && l.chainBlocks == b)) && tenantField s (getWard s w).ctx 14 1 == 1 &&
    refs.length == layerGroups s && refs.all (fun r => r.loc == .resident)

/-- What identifies a block (R298, R303): hash, domain, model, adapter, parent link and tokens. -/
structure BlockId where
  hash    : Nat
  domain  : Nat
  model   : Nat
  adapter : Nat
  parent  : Option (Nat × Nat)
  tokens  : List Nat
  deriving DecidableEq, Repr

/-- The identity of block `b` of a request, where its domain has a key. -/
def blockId (s : State) (w b : Nat) : Option BlockId :=
  let e := getWard s w
  let l := getList s w
  let d := domainOf s e.ctx
  let adp := if e.adpEn then e.adapterId else 0
  let toks := blockTokens s w b
  (domainKey s d).map (fun key =>
    ⟨blockHash key (if b = 0 then 0 else l.chainHash) e.model adp toks, d, e.model, adp,
      if b = 0 then none else some (l.chainEntry, l.chainStamp), toks⟩)

/-- An identical entry is refreshed and the chain goes on from it (R303); the request's own pages stay private. -/
def refreshBlock (s : State) (w b : Nat) (x : BlockId) : Option State :=
  (bitMatch s x.hash x.domain x.model x.adapter x.parent x.tokens).map (fun (i, e) =>
    linkChain { s with bezel := { s.bezel with bitting := tabSet s.bezel.bitting i { e with last := stepLow s } } }
      w b i e.stamp e.hash)

/-- Insert a block into its set (R303, R304, R306), or end the chain. -/
def insertBlock (s : State) (w b : Nat) (x : BlockId) : State :=
  let refs := blockRefs s w b
  let set := x.hash % 2 ^ 19
  if s.bezel.setsUsed.contains set then endChain s w
  else
    let add := (refs.filter (fun r => !(prefixPages s).contains r.page)).length
    let s := if getF s fBZL_BIT_BUDGET_PAGES = 0 then s else fitBudget set add 9 s
    if getF s fBZL_BIT_BUDGET_PAGES < (prefixPages s).length + add then endChain s w
    else
      let way := match (List.range 8).find? (fun j => !tabHas s.bezel.bitting (set * 8 + j)) with
        | some j => set * 8 + j
        | none => (lruWay s set).getD (set * 8)
      let s := if tabHas s.bezel.bitting way then count (removeBit s way) 0x0202 1 else s
      let stamp := (tabGet 0xFFFF s.bezel.stamps way + 1) % 2 ^ 16
      let pubs := refs.map (fun r => { r with pub := true })
      let y : BitEnt := ⟨x.hash, x.domain, x.model, x.adapter, b == 0, (x.parent.getD (0, 0)).1, (x.parent.getD (0, 0)).2,
        stamp, stepLow s, x.tokens, pubs⟩
      let s := { s with bezel := { s.bezel with
          bitting := tabSet s.bezel.bitting way y
          stamps := tabSet s.bezel.stamps way stamp
          setsUsed := nsInsert s.bezel.setsUsed set } }
      let s := clearPoison s (bitRecAddr s way) (getF s fBZL_LAYOUT_RS * 64)
      let s := refs.foldl (fun s r => modPage s r.page (fun p => { p with refs := p.refs + 1 })) s
      let s := (List.range pubs.length).foldl (fun s g =>
        match pubs[g]? with
        | none => s
        | some r => setEnt s w (entIndex s b g) r) s
      count (linkChain s w b way stamp x.hash) 0x0201 1

/-- The blocks that a step has made fully committed, from the length before to the length after. -/
def newBlocks (before after : Nat) : List Nat := (List.range (after / 64)).filter (fun b => decide (before < 64 * (b + 1)))

/-- The blocks of a request that the table already has are refreshed first, before any eviction of the step (R305). -/
def refreshWard (s : State) (w before after : Nat) : State :=
  (newBlocks before after).foldl (fun s b =>
    if publishable s w b then ((blockId s w b).bind (refreshBlock s w b)).getD s else s) s

/-- The other blocks are inserted, each after its parent; one that is not published ends the chain (R303). -/
def insertWard (s : State) (w before after : Nat) : State :=
  (newBlocks before after).foldl (fun s b =>
    let l := getList s w
    if l.chainValid && decide (b < l.chainBlocks) then s
    else if !publishable s w b then endChain s w
    else
      match blockId s w b with
      | none => endChain s w
      | some x => (refreshBlock s w b x).getD (insertBlock s w b x)) s

/-- BITTING_LOOKUP (R300): the home package walks a prompt's blocks when the request has left ADMITTED, at most as many as
leave one position to compute and as the shard of the home package holds. -/
def execBittingLookup (lookup : Lookup) (s : State) : Host.Outcome State Fault Refusal :=
  let ward := lookup.ward
  if s.bezel.lookups.contains ward then
    let s := { s with bezel := { s.bezel with lookups := nsErase s.bezel.lookups ward } }
    let s := modList s ward (fun l => { l with shards := lookup.shards })
    let e := getWard s ward
    let d := domainOf s e.ctx
    let most := homeBlocks s (getList s ward) ((e.tlen - 1) / 64)
    let (n, s) := match domainKey s d with
      | none => (0, s)
      | some key => bitWalk ward key d e.model (if e.adpEn then e.adapterId else 0) most 0 0 none s
    let s := count s 0x0200 n
    .next { s with bezel := { s.bezel with matched := s.bezel.matched ++ [(ward.val, e.aseq, n)] } }
  else .next s

/-! ### Parking, return and expiry (R291-R295) -/

/-- The loan frames that a parked copy takes (log entry 36). -/
def copyFrames (s : State) : Nat := ((kvLayout s).fpp + 63) / 64

/-- The tier that a park moves to (R292, 11 Table 11-5); a spill has flash only (R296). -/
def parkTarget (s : State) (ctx pages : Nat) (spill : Bool) : Option PageWhere :=
  let c := tenantField s ctx 40 2
  let flashOk := c = 3 ∧ getF s fFLS_CFG_CHANNELS ≠ 0 ∧ getF s fFLS_STAT_BACKLOG ≤ 20000
  let loanOk := 2 ≤ c ∧ pages * copyFrames s ≤ loanFree s
  if flashOk then some .flash
  else if ¬spill ∧ loanOk then some .neighbour
  else none

/-- The entries whose pages a request holds alone. -/
def soloEnts (s : State) (w : Nat) : List (Nat × PageRef) :=
  (getList s w).ents.filter (fun p => p.2.loc == .resident && (getPage s p.2.page).refs == 1)

/-- PARK begins (R292, R293): PARKING is set and the moves are under way; each first compares GEN (R267). -/
def beginPark (s : State) (w : Nat) : State :=
  let ps := soloEnts s w
  if !ps.all (fun p => genOk s p.2) then genMismatch s w
  else
    let s := ps.foldl (fun s p => modPage s p.2.page (fun r => { r with inflight := r.inflight + 1 })) s
    modList s w (fun l => { l with parking := true, moving := some (ps.map Prod.fst) })

/-- Expire a cache on this package's own account (R295): release it and send EXPIRE. -/
def expireOwn (s : State) (w cause : Nat) : State :=
  let s := releaseList s w
  let s := { s with bezel := { s.bezel with expired := s.bezel.expired + 1 } }
  sendPlain s .expire w (getWard s w).aseq cause

/-- The scale record of a page as bytes: scale byte `k` of layer `l` at `l * LDIM / 32 + k` (R263). -/
def scaleBytes (s : State) (scales : List (Nat × Nat)) : List Byte :=
  let y := kvLayout s
  let n := y.lpg * y.ldim / 32
  (List.range (roundUp n 64)).map (fun i =>
    if i < n then BitVec.ofNat 8 (tabGet 0 scales (i / (y.ldim / 32) * 64 + i % (y.ldim / 32))) else 0#8)

/-- The bytes that a parked copy's CRC-32C covers: the page and its scale record (R292). -/
def copyBytes (s : State) (page : Mem) (scales : List (Nat × Nat)) : List Byte :=
  memBytes page 0 (kvLayout s).pageBytes ++ scaleBytes s scales

/-- Move one page to its parked copy (R292). -/
def parkPage (s : State) (w i : Nat) (r : PageRef) (loc : PageWhere) : State :=
  let n := (kvLayout s).pageBytes
  let s := bezelRead s (pageAddr s r.page) n
  let h := s.bezel.nextPark
  let frames := if loc == .neighbour then (loanFramesFree s).take (copyFrames s) else []
  let bytes := memSlice s.tiers.hbm (pageAddr s r.page) n
  let scales := (s.bezel.scales.filter (fun p => p.1 / 1024 == r.page)).map (fun p => (p.1 % 1024, p.2))
  let copy : ParkedCopy := ⟨loc, bytes, scales, (getPage s r.page).scaleset, frames, crc32c (copyBytes s bytes scales), 1⟩
  let s := { s with bezel := { s.bezel with parked := tabSet s.bezel.parked h copy, nextPark := h + 1 } }
  setEnt (unrefPage s r.page) w i { r with page := h, loc := loc, gen := 0 }

/-- What moving pages between HBM and a tier is charged (10 R381). -/
def moveCharges (s : State) (ctx : Nat) (pages : List Nat) (loc : PageWhere) (frame : Nat) : List Charge :=
  let n := (kvLayout s).pageBytes
  let far := if loc == .flash then Tier.flash else Tier.neighbour
  tierCharges s ctx (pages.flatMap (fun p => [(.hbm, pageAddr s p / 2097152, n), (far, frame, n)]))

/-- PARK_COMPLETE (R292, R293): the pages held alone move, or the cache expires with NO_ROOM. The moves wait while a bucket
of the tenant that they need is empty. -/
def execParkComplete (ward : Fin 65536) (s : State) : Host.Outcome State Fault Refusal :=
  match (getList s ward).moving with
  | none => .next s
  | some is =>
    let ps := (soloEnts s ward).filter (fun p => is.contains p.1)
    let e := getWard s ward
    if !ps.all (fun p => genOk s p.2) then .next (genMismatch s ward)
    else if ps = [] then .next (sendPlain (endMoves s ward) .parked ward e.aseq 0)
    else
      match parkTarget s e.ctx ps.length e.spill with
      | none => .next (expireOwn s ward 1)
      | some loc =>
        let cs := moveCharges s e.ctx (ps.map (fun p => p.2.page)) loc ((loanFramesFree s).headD 0)
        if !allOpen s cs then .next s
        else
          let s := ps.foldl (fun s p => parkPage s ward p.1 p.2 loc) (endMoves (spendAll s cs) ward)
          .next (sendPlain s .parked ward e.aseq 0)

/-- A resume cancels a park that is under way (R293). -/
def cancelPark (s : State) (w : Nat) : State := if (getList s w).moving.isSome then endMoves s w else s

/-- The entries of a request that name parked copies. -/
def parkedEnts (s : State) (w : Nat) : List (Nat × PageRef) :=
  (getList s w).ents.filter (fun p => p.2.loc == .neighbour || p.2.loc == .flash)

/-- READY is sent once no entry of a restoring request is parked (R348); PARKING ends with the resume (Table 07-3). -/
def sendReadyIfWhole (s : State) (w : Nat) : State :=
  if (getInfo s w).restoring && parkedEnts s w == [] then
    sendPlain (modList s w (fun l => { l with parking := false })) .ready w (getWard s w).aseq 0
  else s

/-- A copy as it comes back: `flips` are the bits of page and scale record that transfer or storage has turned. -/
def ParkedCopy.returned (s : State) (c : ParkedCopy) (flips : List Nat) : List Byte :=
  flips.foldl (fun bs f => bs.set (f / 8) (bs.getD (f / 8) 0#8 ^^^ BitVec.ofNat 8 (2 ^ (f % 8)))) (copyBytes s c.bytes c.scales)

/-- A checked copy takes its page (R294). -/
def restorePage (s : State) (w i n : Nat) (r : PageRef) (c : ParkedCopy) : State :=
  let s := hbmZero s (pageAddr s n) ((kvLayout s).fpp * 32768)
  let s := unrefCopy s r.page
  let s := { s with
    tiers := { s.tiers with hbm := memPaste s.tiers.hbm (pageAddr s n) (kvLayout s).pageBytes c.bytes }
    bezel := { s.bezel with
      scales := c.scales.foldl (fun t p => tabSet t (n * 1024 + p.1) p.2) s.bezel.scales
      resv := tabMod 0 s.bezel.resv w (fun v => v - 1) } }
  let s := modPage s n (fun p => { p with scaleset := c.scaleset })
  setEnt s w i { r with page := n, loc := .resident, gen := (getPage s n).gen }

/-- RESUME_PAGE_RETURN (R294): a parked page of a restoring request, or of a fork (log entry 160), comes back with the bits
`flips` turned; a failed CRC-32C expires the cache with CHECK_FAILED. Pages come from the reservation. -/
def execResumePageReturn (ward : Fin 65536) (index : Nat) (flips : List Nat) (s : State) :
    Host.Outcome State Fault Refusal :=
  match (parkedEnts s ward).find? (fun p => p.1 == index) with
  | none => .next s
  | some (_, r) =>
    match tabFind s.bezel.parked r.page with
    | none => .next s
    | some c =>
      if !(getInfo s ward).restoring && !(getWard s ward).forked then .next s
      else if crc32c (c.returned s flips) ≠ c.crc then .next (expireOwn (raiseF s fBZL_ERR_PARK_CHECK) ward 2)
      else if tabGet 0 s.bezel.resv ward = 0 then .next s
      else
        match takePage s (getWard s ward).ctx with
        | none => .next s
        | some (n, t) =>
          let cs := moveCharges s (getWard s ward).ctx [n] c.loc (c.frames.headD 0)
          if !allOpen s cs then .next s
          else .next (sendReadyIfWhole (restorePage (spendAll t cs) ward index n r c) ward)

/-! ### The generation sweep (R286, R290, R305) -/

/-- An entry is an orphan, or its domain has no key. -/
def bitOrphan (s : State) (e : BitEnt) : Bool :=
  !tabHas s.bezel.domains e.domain ||
  (!e.root &&
    (match tabFind s.bezel.bitting e.parent with
      | none => true
      | some p => p.stamp != e.pstamp))

/-- GENERATION_SWEEP (R290). -/
def execGenerationSweep (s : State) : Host.Outcome State Fault Refusal :=
  let bad := s.bezel.lists.filter (fun p => p.2.ents.any (fun x => !genOk s x.2))
  let badBit := s.bezel.bitting.filter (fun p => p.2.refs.any (fun r => !genOk s r))
  let s := match bad, badBit with
    | p :: _, _ => genMismatch s p.1
    | [], _ :: _ => genMismatch s 0
    | [], [] => s
  let s := (s.bezel.lists.filter (fun p => !(getWard s p.1).phase.live)).foldl (fun s p => releaseList s p.1) s
  let orph := s.bezel.bitting.filter (fun p => bitOrphan s p.2)
  let s := orph.foldl (fun s p => removeBit s p.1) s
  let quar := s.bezel.pages.filter (fun p => (getPage s p.1).phase == .quarantine)
  let s := quar.foldl (fun s p => modPage (poolPage s p.1) p.1 (fun r => { r with gen := 1 })) s
  let s := bumpWrapF s fBZL_SWEEP_COUNT 1
  let s := setF (setF s fBZL_SWEEP_ORPHANS orph.length) fBZL_SWEEP_EXPIRED s.bezel.expired
  .next { s with bezel := { s.bezel with sweeps := s.bezel.sweeps + 1, expired := 0 } }

end Sys2Proof.Machine
end

