-- ==== Sys2Proof/Machine/Tiers.lean ====
section
/-!
DEFINITION. The memory tiers and the flash translation layer (spec 11): mapping commands, heat, migrations, loans,
and the maintenance of the NAND.
-/
namespace Sys2Proof.Machine

open Sys2Proof

/-! ### Mapping commands (R403, R404, Table 11-4) -/

/-- A mapping command has taken effect and awaits completion. -/
def mapDone (s : State) (status pages : Nat) : State :=
  setF { s with tiers := { s.tiers with mapCmd := some ⟨status, pages, false⟩ } } fMEM_MAP_STAT_BUSY 1

/-- The context of the command held. -/
def mapCtx (s : State) : Nat := if bitF s fMEM_MAP_CMD1_SYS then ctxSYS else getF s fMEM_MAP_CMD1_TENANT

/-- The pages of a range that lie in a shared read-only range. -/
def fixedOverlap (s : State) (kind base vpn n : Nat) : Nat :=
  match carveOut s kind with
  | none => 0
  | some (_, m) => min (vpn + n) (base + m) - max vpn base

/-- MAP places every page or none (R404, R405). -/
def runMap (s : State) : State :=
  let ctx := mapCtx s
  let vpn := getF s fMEM_MAP_CMD0_VPN
  let n := getF s fMEM_MAP_CMD1_PAGES
  if rangeMapped s ctx vpn n then mapDone s 3 0
  else if ctx ≠ ctxSYS ∧ tenantField s ctx 240 32 < mappedPages s ctx + n then mapDone s 4 0
  else
    match placePages ctx (bitF s fMEM_MAP_CMD1_WRITE) (getF s fMEM_MAP_CMD1_PCLASS) (getF s fMEM_MAP_CMD2_STACKS)
        vpn n s with
    | .all s => mapDone s 0 n
    | .none => mapDone s 5 0
    | .loan =>
      wantLoan (setF { s with tiers := { s.tiers with mapCmd := some ⟨0, 0, true⟩ } } fMEM_MAP_STAT_BUSY 1)

/-- A MAP that waits for a loan tries again (log entry 32). -/
def retryMap (s : State) : State :=
  match s.tiers.mapCmd with
  | some m => if m.waiting then runMap s else s
  | none => s

/-- UNMAP. -/
def runUnmap (s : State) : State :=
  let ctx := mapCtx s
  let vpn := getF s fMEM_MAP_CMD0_VPN
  let n := getF s fMEM_MAP_CMD1_PAGES
  let k := (leavesIn s ctx vpn n).length
  mapDone (unmapRange s ctx vpn n) 0 k

/-- PROTECT. -/
def runProtect (s : State) : State :=
  let ctx := mapCtx s
  let vpn := getF s fMEM_MAP_CMD0_VPN
  let n := getF s fMEM_MAP_CMD1_PAGES
  let ls := leavesIn s ctx vpn n
  let shared := fixedOverlap s 0x04 (getF s fHNG_WEIGHT_VA_VPN) vpn n
    + (if ctx = ctxSYS then fixedOverlap s 0x06 (Config.adapterVpn % 2 ^ 36) vpn n else 0)
  if ls.length + shared < n then mapDone s 6 0
  else
    let w := bitF s fMEM_MAP_CMD1_WRITE
    mapDone (ls.foldl (fun s p => setLeaf s p.1 { p.2 with write := w }) s) 0 ls.length

/-- The command held is well formed for its context; otherwise the status that it completes with. -/
def mapCheck (s : State) : Option Nat :=
  let n := getF s fMEM_MAP_CMD1_PAGES
  if n = 0 ∨ 2 ^ 36 < getF s fMEM_MAP_CMD0_VPN + n
      ∨ (bitF s fMEM_MAP_CMD1_SYS = true ∧ getF s fMEM_MAP_CMD1_TENANT ≠ 0) then some 1
  else if tenantRec s (mapCtx s) = none then some 2
  else none

/-- A write of MEM_MAP_GO with GO set (R403, R404). -/
def mapGo (s : State) (fn : Nat) : State :=
  pfWrite s rMEM_MAP_GO fn (fun s =>
  if bitF s fMEM_MAP_STAT_BUSY then raiseF s fMEM_ERR_CMD_BUSY
  else
    match getF s fMEM_MAP_CMD1_OP with
    | 1 => match mapCheck s with
      | some c => mapDone s c 0
      | none => runMap { s with tiers := { s.tiers with denied := false } }
    | 2 => match mapCheck s with | some c => mapDone s c 0 | none => runUnmap s
    | 3 => match mapCheck s with | some c => mapDone s c 0 | none => runProtect s
    | _ => mapDone s 1 0)

/-- MAP: GO with the OP MAP held. -/
def execMap (fn : Fin 64) (s : State) : Host.Outcome State Fault Refusal :=
  .next (if fn.val ≠ 0 ∨ getF s fMEM_MAP_CMD1_OP = 1 then mapGo s fn else s)

/-- UNMAP: GO with the OP UNMAP held. -/
def execUnmap (fn : Fin 64) (s : State) : Host.Outcome State Fault Refusal :=
  .next (if fn.val ≠ 0 ∨ getF s fMEM_MAP_CMD1_OP = 2 then mapGo s fn else s)

/-- PROTECT: GO with the OP PROTECT held. -/
def execProtect (fn : Fin 64) (s : State) : Host.Outcome State Fault Refusal :=
  .next (if fn.val ≠ 0 ∨ getF s fMEM_MAP_CMD1_OP = 3 then mapGo s fn else s)

/-- MAP_COMMAND_COMPLETE (R402, R404): STATUS and DONE are reported and BUSY clears. -/
def execMapCommandComplete (s : State) : Host.Outcome State Fault Refusal :=
  .next (match s.tiers.mapCmd with
  | none => s
  | some m =>
    if m.waiting then s
    else
      let s := setF s fMEM_MAP_STAT_STATUS m.status
      let s := setF s fMEM_MAP_STAT_DONE m.pages
      setF { s with tiers := { s.tiers with mapCmd := none } } fMEM_MAP_STAT_BUSY 0)

/-! ### Heat and migration (R407-R411) -/

/-- HEAT_DECAY: every counter is halved, rounding down. -/
def execHeatDecay (s : State) : Host.Outcome State Fault Refusal :=
  .next { s with tiers := { s.tiers with
    leaves := tabMap s.tiers.leaves (fun l => { l with heat := l.heat / 2 })
    sharedHeat := tabMap s.tiers.sharedHeat (fun x => (x.1 / 2, x.2)) } }

/-- The page that a strict order puts first. -/
def firstBy (lt : Nat × Leaf → Nat × Leaf → Bool) : List (Nat × Leaf) → Option (Nat × Leaf)
  | [] => none
  | p :: ps =>
    match firstBy lt ps with
    | none => some p
    | some q => if lt q p then some q else some p

/-- A page may be demoted: its class, its tier and its time in local HBM (R408). -/
def demotable (s : State) (l : Leaf) : Bool :=
  l.tier == .hbm && decide (2 ≤ l.pclass) && !l.moving && !l.lost && !l.roShared
    && decide (l.since + getF s fMEM_MIG_MIN_RES * 1000000 ≤ s.now)

/-- A page may be promoted. -/
def promotable (s : State) (l : Leaf) : Bool :=
  l.tier != .hbm && !l.moving && !l.lost
    && (l.pclass == 1 || (decide (2 ≤ l.pclass) && decide (getF s fMEM_MIG_PROMOTE_HEAT ≤ l.heat)))

/-- Ascending heat; ties by ascending context and page number, which keys keep. -/
def coldFirst (a b : Nat × Leaf) : Bool := decide (a.2.heat < b.2.heat)

/-- PREFER_HBM pages first, then descending heat (log entry 38). -/
def promoteFirst (a b : Nat × Leaf) : Bool :=
  if a.2.pclass = 1 then decide (b.2.pclass ≠ 1)
  else decide (b.2.pclass ≠ 1) && decide (b.2.heat < a.2.heat)

/-- Begin to move a page (R409 step 1). -/
def startMove (s : State) (k : Nat) (l : Leaf) (t : Tier) (f : Nat) : State :=
  let s := useBacking s t f
  let s := setLeaf s k { l with moving := true }
  { s with tiers := { s.tiers with migs := s.tiers.migs ++ [⟨k, t, f, [], 0, false, none⟩] } }

/-- The target of a demotion: a loan frame, a loan to ask for, flash within the backlog test, or none. -/
def demoteTarget (s : State) (l : Leaf) : Place :=
  match placeLoan s with
  | .none =>
    if l.pclass = 3 ∧ getF s fFLS_STAT_BACKLOG ≤ 20000 then
      match flashUnit s with
      | some u => .at_ .flash u
      | none => .none
    else .none
  | p => p

/-- The first page with a target; one that every lender has denied stays where it is. -/
def demoteOne : List (Nat × Leaf) → State → State
  | [], s => s
  | p :: ps, s =>
    match demoteTarget s p.2 with
    | .at_ t f => startMove s p.1 p.2 t f
    | .loan => wantLoan s
    | .none => demoteOne ps s

/-- The answer of the lenders to a demotion has served its turn: the next one asks again (R408, R413). -/
def forgetDenial (s : State) : State := { s with tiers := { s.tiers with denied := false } }

/-- MIGRATION_START (R408, R411). -/
def execMigrationStart (s : State) : Host.Outcome State Fault Refusal :=
  let free := freeFrames s
  let on := if free < getF s fMEM_CFG_LOW_WM then true
    else if getF s fMEM_CFG_HIGH_WM ≤ free then false else s.tiers.demoting
  let s := { s with tiers := { s.tiers with demoting := on } }
  .next (
    if 16 ≤ s.tiers.migs.length then s
    else if on then
      forgetDenial (demoteOne (sortBy coldFirst (s.tiers.leaves.filter (fun p => demotable s p.2))) s)
    else if getF s fMEM_CFG_HIGH_WM < free then
      match firstBy promoteFirst (s.tiers.leaves.filter (fun p => promotable s p.2)) with
      | none => s
      | some p =>
        match localFrame s 0 (keyVpn p.1) with
        | some f => startMove s p.1 p.2 .hbm f
        | none => s
    else s)

/-- Change the migration of a page. -/
def modMig (s : State) (k : Nat) (f : Migration → Migration) : State :=
  { s with tiers := { s.tiers with migs := s.tiers.migs.map (fun m => if m.page = k then f m else m) } }

/-- A flash read of a page of a region failed (R427): its granule is lost, the page LOST, its migration ended. -/
def regionReadLost (s : State) (granule : Nat) : State :=
  let s := { s with flash := { s.flash with
    map := tabDel s.flash.map granule, lost := nsInsert s.flash.lost granule } }
  match s.tiers.leaves.find? (fun p => p.2.tier == .flash && p.2.frame == granule / 128) with
  | none => s
  | some p => pageLost (cancelMigration s p.1) p.1 fMEM_ERR_LOST

/-- The channel that a granule was read from: its block's, 0 where it has none. -/
def granuleChan (s : State) (g : Nat) : Nat := (tabGet 0 s.flash.map g) / 2 ^ 24

/-- What copying blocks of a page is charged to its tenant (R411). -/
def copyCharges (s : State) (page : Nat) (l : Leaf) (m : Migration) (blocks : Nat) : List Charge :=
  tierCharges s (keyCtx page) [(l.tier, l.frame, 4096 * blocks), (m.tier, m.frame, 4096 * blocks)]

/-- Copy blocks of a page to the destination of its migration. -/
def copyBlocks (s : State) (page : Nat) (l : Leaf) (m : Migration) (blocks : Option (List Nat)) : State :=
  match blocks with
  | none => copySpan s l.tier l.frame m.tier m.frame (keyCtx page) Span.page
  | some bs => bs.foldl (fun s i => copySpan s l.tier l.frame m.tier m.frame (keyCtx page) (Span.block i)) s

/-- What a pass leaves behind (R409 steps 3, 4): another pass over the blocks written meanwhile, or every new access held. -/
def Migration.passed (m : Migration) : Migration :=
  if 64 < m.dirty.length ∧ m.pass + 1 < 3 then { m with dirty := [], pass := m.pass + 1, copying := some m.dirty }
  else { m with pass := m.pass + 1, held := true, copying := some [] }

/-- MIGRATION_COPY_PASS (R409 steps 2-4): a pass ends, or met an uncorrectable read of a flash granule. A pass waits while
a bucket that it is charged to is empty (R411). -/
def execMigrationCopyPass (page : Nat) (badGranule : Option (Fin 128)) (s : State) :
    Host.Outcome State Fault Refusal :=
  .next (match s.tiers.migs.find? (fun m => m.page == page && !m.held) with
  | none => s
  | some m =>
    match badGranule, tabFind s.tiers.leaves page with
    | _, none => s
    | some g, some l =>
      if l.tier == .flash then
        let gr := l.frame * 128 + g.val
        regionReadLost (flashError s fFLS_ERR_UNCORRECTABLE (granuleChan s gr)) gr
      else s
    | none, some l =>
      let cs := copyCharges s page l m ((m.copying.map List.length).getD 512)
      if !allOpen s cs then s
      else modMig (copyBlocks (spendAll s cs) page l m m.copying) page Migration.passed)

/-- MIGRATION_SWITCH (R409 steps 4-6): once writes in flight to a source that is on loan are over, the blocks still set are
copied and the leaf is switched. -/
def execMigrationSwitch (page : Nat) (s : State) : Host.Outcome State Fault Refusal :=
  .next (match s.tiers.migs.find? (fun m => m.page == page && m.held), tabFind s.tiers.leaves page with
  | some m, some l =>
    let cs := copyCharges s page l m m.dirty.length
    if (l.tier == .neighbour && frameBusy s l.frame (fun op => op != opREAD)) || !allOpen s cs then s
    else
    let s := count (copyBlocks (spendAll s cs) page l m (some m.dirty)) 0x0400 1
    let s := { s with tiers := { s.tiers with migs := s.tiers.migs.filter (fun m => m.page != page) } }
    let s := setLeaf s page { l with tier := m.tier, frame := m.frame, moving := false, since := s.now }
    releaseBacking s l.tier l.frame
  | _, _ => s)

/-- FRAME_ZEROING_COMPLETE (R399): the frame returns to its pool, zero-filled; a loan frame not before every access that
translated to it has completed (R402). -/
def execFrameZeroingComplete (frame : Fin 1310720) (s : State) : Host.Outcome State Fault Refusal :=
  .next (
    if s.tiers.zeroing.contains frame.val && !(decide (786432 ≤ frame.val) && frameBusy s (frame.val - 786432) (fun _ => true))
    then
      let s := { s with tiers := { s.tiers with zeroing := nsErase s.tiers.zeroing frame.val } }
      if frame.val < 786432 then hbmZero s (frame.val * 2097152) 2097152
      else { s with tiers := { s.tiers with
        loanMem := memZero s.tiers.loanMem ((frame.val - 786432) * 2097152) 2097152
        loanPoison := nsEraseRange s.tiers.loanPoison ((frame.val - 786432) * 32768)
          ((frame.val - 786431) * 32768) } }
    else s)

/-! ### Frame retirement (18 R612) -/

/-- Retire a frame, or report it when the list is full; `cause` 0 is a correctable pattern, 1 an uncorrectable
error. -/
def retireFrame (s : State) (f cause : Nat) : State :=
  if s.fault.retired.contains f then s
  else
    let carve := inCarveOut s f
    let full := decide (4096 ≤ s.fault.retired.length)
    let s := if full then raiseF s fGLB_RETIRE_FULL
      else
        let s := { s with
          fault := { s.fault with retired := nsInsert s.fault.retired f }
          tiers := { s.tiers with zeroing := nsErase s.tiers.zeroing f } }
        let s := setF s fGLB_RETIRE_COUNT s.fault.retired.length
        setF (setF s fGLB_RETIRE_LAST f) fGLB_RETIRE_LAST_CARVE (if carve then 1 else 0)
    let s := if carve || full then s
      else
        match s.tiers.leaves.find? (fun p => p.2.tier == .hbm && p.2.frame == f && !p.2.moving && !p.2.lost) with
        | none => s
        | some p =>
          if 16 ≤ s.tiers.migs.length then s
          else
            match localFrame s 0 (keyVpn p.1) with
            | some d => startMove s p.1 p.2 .hbm d
            | none => s
    postPF s 0x75 cause (if carve then 1 else 0) 0 f

/-- An uncorrectable error found at an HBM address: the granule is poisoned and its frame retired (R608, R612). -/
def hbmUncorrectable (s : State) (addr : Nat) : State := retireFrame (hbmPoison s (addr / 64)) (addr / 2097152) 1

/-- A correctable error corrected at an HBM address: four distinct granules of a frame within 24 h retire it. -/
def hbmCorrectable (s : State) (addr : Nat) : State :=
  let f := addr / 2097152
  let old := ((tabFind s.tiers.corrLog f).getD []).filter (fun p =>
    decide (s.now < p.2 + 86400000000000) && p.1 != addr / 64)
  let now := (addr / 64, s.now) :: old
  let s := { s with tiers := { s.tiers with corrLog := tabSet s.tiers.corrLog f now } }
  if 4 ≤ now.length then retireFrame s f 0 else s

/-- HBM_SCRUB_READ (R610): the stack's scrubber reads its next granule; `error` 0 none, 1 corrected, 2 failed (log
entry 47). -/
def execHbmScrubRead (stack : Fin 24) (error : Fin 3) (s : State) : Host.Outcome State Fault Refusal :=
  let n := tabGet 0 s.tiers.scrubPos stack
  let addr := stack.val * 2 ^ 36 + n % 2 ^ 30 * 64
  let s := { s with tiers := { s.tiers with scrubPos := tabSet s.tiers.scrubPos stack.val (n + 1) } }
  let slow := (List.range 24).foldl (fun m k => min m (tabGet 0 s.tiers.scrubPos k)) (n + 1)
  let s := setF (setF s fGLB_SCRUB_PASSES (slow / 2 ^ 30)) fGLB_SCRUB_PROGRESS (slow % 2 ^ 30 * 1000 / 2 ^ 30)
  .next (if error = 1 then hbmCorrectable s addr else if error = 2 then hbmUncorrectable s addr else s)

/-! ### Neighbour loans (R412-R415) -/

/-- LOAN_REQ at the lender: its lowest free unit, or a denial. -/
def execLoanReq (borrower : Fin 65536) (s : State) : Host.Outcome State Fault Refusal :=
  .next (
    match carveOut s 0x09, (List.range (getF s fMEM_LOAN_LEND_MAX)).find? (fun u => !tabHas s.tiers.lent u) with
    | some (first, _), some u =>
      sendMsg { s with tiers := { s.tiers with lent := tabSet s.tiers.lent u borrower } } .loanGrant borrower
        [ownPkg s, first * 2097152 + u * 1073741824]
    | _, _ => sendMsg s .loanDeny borrower [ownPkg s])

/-- The lender that the package has asked. -/
def askedLender (s : State) : Option Nat := s.tiers.asked.bind (fun i => (lenders s)[i]?)

/-- The lowest free loan slot. -/
def loanSlot (s : State) : Option Nat := (List.range 1024).find? (fun n => !tabHas s.tiers.loans n)

/-- LOAN_GRANT: the borrower installs the window of the loan (14 R500) and whatever waited tries again. -/
def execLoanGrant (lender : Fin 65536) (base : Fin 4503599627370496) (s : State) :
    Host.Outcome State Fault Refusal :=
  .next (
    if askedLender s = some lender.val then
      match loanSlot s with
      | none => s
      | some n =>
        let l : Loan := ⟨lender, base⟩
        retryMap (count { s with
          tiers := { s.tiers with loans := tabSet s.tiers.loans n l, asked := none, denied := false }
          fab := { s.fab with windows := tabSet s.fab.windows n (loanWindow l) } } 0x0401 1)
    else s)

/-- LOAN_DENY: the next lender of the list is asked. -/
def execLoanDeny (lender : Fin 65536) (s : State) : Host.Outcome State Fault Refusal :=
  .next (
    match s.tiers.asked with
    | some i =>
      if askedLender s = some lender.val then
        let s := askLender s (i + 1)
        if s.tiers.asked.isSome then s
        else
          let s := retryMap s
          if s.tiers.demoting then s else { s with tiers := { s.tiers with denied := false } }
      else s
    | none => s)

/-- No access to a loan is outstanding, nor waits in a bucket. -/
def loanQuiet (s : State) (n : Nat) (l : Loan) : Bool :=
  s.warden.buckets.all (fun b => b.2.held.all (fun h => h.reqs.all (fun r => r.frame / 512 != n)))
    && s.fab.reqs.all (fun r => !(r.dest == l.lender && decide (l.base ≤ r.addr) && decide (r.addr < l.base + 2 ^ 30)))

/-- Nothing of a loan is in use, and no access to it is outstanding. -/
def loanIdle (s : State) (n : Nat) (l : Loan) : Bool :=
  (loanFramesUsed s).all (fun f => f / 512 != n) && loanQuiet s n l

/-- Give a loan back (R414): the window goes, then LOAN_RETURN is sent. -/
def returnLoan (s : State) (n : Nat) (l : Loan) : State :=
  let s := { s with
    fab := { s.fab with windows := tabDel s.fab.windows n }
    tiers := { s.tiers with
      loans := tabDel s.tiers.loans n
      loanMem := memZero s.tiers.loanMem (n * 2 ^ 30) (2 ^ 30)
      loanPoison := nsEraseRange s.tiers.loanPoison (n * 2 ^ 24) ((n + 1) * 2 ^ 24) } }
  sendMsg s .loanReturn l.lender [ownPkg s, l.base]

/-- LOAN_IDLE_EXPIRY: a loan whose frames have stood unmapped for 1 s is returned. -/
def execLoanIdleExpiry (slot : Fin 1024) (s : State) : Host.Outcome State Fault Refusal :=
  .next (
    match tabFind s.tiers.loans slot.val with
    | none => s
    | some l => if loanIdle s slot l then returnLoan s slot l else s)

/-- LOAN_RETURN at the lender: the unit is zero-filled and free. -/
def execLoanReturn (borrower : Fin 65536) (base : Fin 4503599627370496) (s : State) :
    Host.Outcome State Fault Refusal :=
  .next (
    match carveOut s 0x09 with
    | none => s
    | some (first, _) =>
      let u := (base.val - first * 2097152) / 1073741824
      if first * 2097152 ≤ base.val ∧ tabFind s.tiers.lent u = some borrower.val then
        hbmZero { s with tiers := { s.tiers with lent := tabDel s.tiers.lent u } }
          (first * 2097152 + u * 1073741824) 1073741824
      else s)

/-- The loans that a commit of the shadow set affects (R415), with those whose lender needs its unit back (log entry
37). -/
def affectedLoans (s : State) (img : CfgImage) (slots : List Nat) : List (Nat × Loan) :=
  let moved := match s.cfg.active with | some a => a.partition != img.partition | none => false
  s.tiers.loans.filter (fun p => moved || !(lendersOf img).contains p.2.lender || slots.contains p.1)

/-- The lend area of an image, in units. -/
def imageLendMax (img : CfgImage) : Nat := natBits ((img.item 0x0006 rMEM_LOAN).getD 0) 22 10

/-- Whether an evacuation must run before the commit of an image. -/
def evacuationNeeded (s : State) (img : CfgImage) : Bool :=
  affectedLoans s img [] != [] || s.tiers.lent.any (fun p => decide (imageLendMax img ≤ p.1))

/-- Move a page out of a loan, or lose it. -/
def evacuatePage (s : State) (k : Nat) : State :=
  let s := cancelMigration s k
  match tabFind s.tiers.leaves k with
  | none => s
  | some l =>
    let go (s : State) (t : Tier) (f : Nat) : State :=
      setLeaf (copySpan (useBacking s t f) l.tier l.frame t f (keyCtx k) Span.page) k { l with tier := t, frame := f, since := s.now }
    match localFrame s 0 (keyVpn k) with
    | some f => go s .hbm f
    | none =>
      match (if l.pclass = 3 then flashUnit s else none) with
      | some u => go s .flash u
      | none => pageLost s k fMEM_ERR_LOAN_LOST

/-- The ward indexes whose page lists name a parked copy. -/
def copyOwners (s : State) (h : Nat) : List Nat :=
  (s.bezel.lists.filter (fun p => p.2.ents.any (fun e => e.2.loc == .neighbour && e.2.page == h))).map Prod.fst

/-- Evacuate one loan (R415). -/
def evacuateLoan (s : State) (n : Nat) (l : Loan) : State :=
  let s := ((s.tiers.leaves.filter (fun p => p.2.tier == .neighbour && p.2.frame / 512 == n && !p.2.lost)).map
    Prod.fst).foldl evacuatePage s
  let hs := (s.bezel.parked.filter (fun p => p.2.frames.any (fun f => f / 512 == n))).map Prod.fst
  let s := (hs.flatMap (copyOwners s)).eraseDups.foldl (fun s w => expireOwn s w 1) s
  let s := { s with bezel := { s.bezel with parked := s.bezel.parked.filter (fun p => !hs.contains p.1) } }
  returnLoan s n l

/-- EVACUATION_COMPLETE (R415): the affected loans stand empty and are returned, once the last access to them has completed,
and no unit that the new LEND_MAX leaves out is lent. -/
def execEvacuationComplete (slots : List Nat) (s : State) : Host.Outcome State Fault Refusal :=
  .next (
    match s.cfg.shadow with
    | none => s
    | some img =>
      if !s.tiers.evacuating || !(affectedLoans s img slots).all (fun p => loanQuiet s p.1 p.2) then s
      else
        let s := (affectedLoans s img slots).foldl (fun s p => evacuateLoan s p.1 p.2) s
        if s.tiers.lent.any (fun p => decide (imageLendMax img ≤ p.1)) then s
        else { s with tiers := { s.tiers with evacuating := false } })

/-! ### Flash (R416-R427) -/

/-- The granules that the write buffer holds at most (R422). -/
def bufferSize (s : State) : Nat :=
  match carveOut s 0x08 with
  | some (_, n) => n * 128
  | none => 0

/-- FLASH_WRITE: a write of part of a granule enters the buffer; a writer that finds it full waits. -/
def execFlashWrite (granule : Fin 4294967294) (offset : Fin 16384) (data : List Byte) (owner : Fin 4097)
    (durable : Bool) (s : State) : Host.Outcome State Fault Refusal :=
  .next (
    if bufferSize s ≤ s.flash.buffer.length && !s.flash.buffer.any (fun b => b.granule == granule.val) then s
    else flashStoreBytes s (granule.val * 16384 + offset.val) (data.take (16384 - offset.val)) owner durable)

/-- The buffered granule to program next: durable writes come first (Table 11-7), then order of acceptance. -/
def nextToProgram (s : State) : Option BufGranule :=
  match s.flash.buffer.find? (fun b => b.durable) with
  | some b => some b
  | none => s.flash.buffer.head?

/-- The channel that takes the next granule: the next one up, in round-robin order (R422). -/
def nextChan (s : State) : Option Nat :=
  (List.range 32).findSome? (fun i =>
    let c := (s.flash.nextChan + i) % 32
    if chanUp s c then some c else none)

/-- The good block `b` has room for `n` granules more. -/
def blockRoom (s : State) (b n : Nat) : Bool :=
  blockUp s b && (getBlock s b).good && decide ((getBlock s b).written + n ≤ Config.nandGranules (blockChan b))

/-- Place a granule's valid copy in a block. -/
def placeGranule (s : State) (g b : Nat) : State :=
  let s := { s with flash := { s.flash with
    blocks := tabMap s.flash.blocks (fun x => { x with valid := nsErase x.valid g }) } }
  let x := getBlock s b
  let s := setBlock s b { x with valid := nsInsert x.valid g, written := x.written + 1 }
  { s with flash := { s.flash with map := tabSet s.flash.map g b } }

/-- FLASH_PROGRAM_COMPLETE: the next buffered granule has been programmed into a block of the channel whose turn it
is (log entry 34). -/
def execFlashProgramComplete (block : Fin 536870912) (s : State) : Host.Outcome State Fault Refusal :=
  .next (
    match nextToProgram s with
    | none => s
    | some b =>
      if nextChan s = some (blockChan block) ∧ blockRoom s block 1 then
        let s := placeGranule s b.granule block
        refreshBacklog { s with flash := { s.flash with
          buffer := s.flash.buffer.filter (fun x => x.seq != b.seq)
          owner := tabSet s.flash.owner b.granule b.owner
          seqOf := tabSet s.flash.seqOf b.granule b.seq
          media := memPaste s.flash.media (b.granule * 16384) 16384 (memSlice s.flash.data (b.granule * 16384) 16384)
          mediaBad := (s.flash.poison.filter (fun g => g / 256 == b.granule)).foldl nsInsert
            (nsEraseRange s.flash.mediaBad (b.granule * 256) ((b.granule + 1) * 256))
          nextChan := (blockChan block + 1) % 32 } }
      else s)

/-- Retire a block (R424). -/
def retireBlock (s : State) (b : Nat) (f : Field) : State :=
  flashError (setBlock s b { getBlock s b with good := false }) f (blockChan b)

/-- FLASH_PROGRAM_FAIL: the block is retired; the data stays in the buffer and is rewritten elsewhere. -/
def execFlashProgramFail (block : Fin 536870912) (s : State) : Host.Outcome State Fault Refusal :=
  .next (
    if blockUp s block && (getBlock s block).good && s.flash.buffer != [] then
      scheduleReloc (retireBlock s block fFLS_ERR_PROGRAM_FAIL) block
    else s)

/-- FLASH_ERASE_FAIL: the block is retired. -/
def execFlashEraseFail (block : Fin 536870912) (s : State) : Host.Outcome State Fault Refusal :=
  .next (
    if blockUp s block && (getBlock s block).good then retireBlock s block fFLS_ERR_ERASE_FAIL else s)

/-- Move a block's valid granules into another. -/
def relocate (s : State) (src dst : Nat) : State :=
  count ((getBlock s src).valid.foldl (fun s g => placeGranule s g dst) s) 0x0404 1

/-- Erase a block: its count never exceeds the lowest of the good blocks plus SPREAD (R424). -/
def eraseBlock (s : State) (b : Nat) : State :=
  let x := getBlock s b
  let s := { s with flash := { s.flash with reloc := s.flash.reloc.filter (fun r => r.block != b) } }
  if x.good && decide (x.erases + 1 ≤ eraseMin s + getF s fFLS_CFG_SPREAD) then
    setBlock s b { x with erases := x.erases + 1, reads := 0, valid := [], written := 0 }
  else s

/-- The order of victims: fewest valid granules, then the lowest erase count; ties by block number. -/
def victimLt (a b : Nat × FlashBlock) : Bool :=
  decide (a.2.valid.length < b.2.valid.length)
    || (a.2.valid.length == b.2.valid.length && decide (a.2.erases < b.2.erases))

/-- The victim of garbage collection on a channel. -/
def gcVictim (s : State) (c : Nat) : Option (Nat × FlashBlock) :=
  (sortBy victimLt ((chanBlocks s c).filter (fun p => p.2.good && p.2.written != 0))).head?

/-- GARBAGE_COLLECTION on a channel whose free blocks are below 2 % of its good blocks. -/
def execGarbageCollection (channel : Fin 32) (dst : Fin 536870912) (s : State) : Host.Outcome State Fault Refusal :=
  .next (
    match gcVictim s channel with
    | none => s
    | some (v, x) =>
      if chanUp s channel && decide (chanFree s channel * 50 < goodBlocks s channel) && dst.val != v
          && (x.valid == [] || blockRoom s dst x.valid.length) then
        eraseBlock (relocate s v dst) v
      else s)

/-- The least-erased good block that holds valid data. -/
def leastErased (s : State) : Option (Nat × FlashBlock) :=
  (sortBy (fun (a b : Nat × FlashBlock) => decide (a.2.erases < b.2.erases))
    ((listedGood s).filter (fun p => p.2.valid != []))).head?

/-- WEAR_RELOCATION: from a spread of 150 the least-erased block's data moves into a free block of high count. -/
def execWearRelocation (dst : Fin 536870912) (s : State) : Host.Outcome State Fault Refusal :=
  .next (
    match leastErased s with
    | none => s
    | some (v, x) =>
      if 150 ≤ eraseMax s - eraseMin s ∧ (getBlock s dst).written = 0 ∧ x.erases < (getBlock s dst).erases
          ∧ blockRoom s dst x.valid.length then relocate s v dst
      else s)

/-- READ_DISTURB_RELOCATION: a block at RD_THRESH reads, or one that a hard read scheduled, is relocated and erased. -/
def execReadDisturbRelocation (block dst : Fin 536870912) (s : State) : Host.Outcome State Fault Refusal :=
  .next (
    let x := getBlock s block
    if (decide (getF s fFLS_CFG_RD_THRESH * 1000 ≤ x.reads) || s.flash.reloc.any (fun r => r.block == block.val))
        && blockUp s block && block != dst && (x.valid == [] || blockRoom s dst x.valid.length) then
      eraseBlock (relocate s block dst) block
    else s)

/-- RELOCATION_PRIORITY_RAISE: a relocation that has waited more than 1 s runs at level 2. -/
def execRelocationPriorityRaise (block : Fin 536870912) (s : State) : Host.Outcome State Fault Refusal :=
  .next { s with flash := { s.flash with
    reloc := s.flash.reloc.map (fun r => if r.block = block.val then { r with urgent := true } else r) } }

/-- FTL_CHECKPOINT (R426). -/
def execFtlCheckpoint (s : State) : Host.Outcome State Fault Refusal :=
  .next (
    if getF s fFLS_CFG_CHANNELS = 0 then s
    else { s with flash := { s.flash with
      prevMap := s.flash.ckptMap
      prevSeq := s.flash.ckptSeq
      ckptMap := s.flash.map
      ckptSeq := s.flash.seq } })

end Sys2Proof.Machine
end

