-- ==== Sys2Proof/Machine/Hinge.lean ====
section
/-!
DEFINITION. The Hinge loader (spec 12): shard requests and their checks, refetch, staging, aborts, the gates and layer
commits of a swap, adapter loads, and the results of NAND reads (11 R427).
-/
namespace Sys2Proof.Machine

open Sys2Proof

/-! ### Destinations -/

/-- The image whose pending manifest is being staged: the shadow set's, else the active set's. -/
def stagingImage (s : State) : Option CfgImage :=
  match s.cfg.shadow with
  | some i => if (i.recs 0x000A 2) = [] then s.cfg.active else some i
  | none => s.cfg.active

/-- The manifest that is staged. -/
def stagedManifest (s : State) : Option Nat := (stagingImage s).bind (fun i => (i.recs 0x000A 2).head?)

/-- The manifest of a destination: 0 the live copy, 1 staging, 2 + n adapter slot n. -/
def destManifest (s : State) (dest : Nat) : Option Nat :=
  if dest = 0 then activeManifest s
  else if dest = 1 then stagedManifest s
  else tabFind s.hinge.manifests (dest - 2)

/-- The image whose placement plan serves a destination. -/
def destImage (s : State) (dest : Nat) : Option CfgImage := if dest = 1 then stagingImage s else s.cfg.active

/-- The shards of a destination that this package holds: those of groups that the plan gives it, or all of an
adapter's. -/
def heldShards (s : State) (dest : Nat) : List Nat :=
  match destManifest s dest with
  | none => []
  | some m =>
    (List.range (manShards m)).filter (fun i =>
      decide (2 ≤ dest) ||
        match destImage s dest with
        | some img => (groupBase img (shardGroup (manShard m i))).isSome
        | none => false)

/-- The device-physical address of a shard at its destination (R439, R443, R453). -/
def destAddr (s : State) (dest e : Nat) : Option Nat :=
  if 2 ≤ dest then
    (carveOut s 0x06).map (fun (c : Nat × Nat) =>
      c.1 * 2097152 + (dest - 2) * getF s fHNG_CFG_SLOT_BYTES * 1048576 + shardOffset e)
  else
    match carveOut s (if dest = 0 then 0x04 else 0x05), (destImage s dest).bind (fun i => groupBase i (shardGroup e)) with
    | some c, some b => some (c.1 * 2097152 + b + shardOffset e)
    | _, _ => none

/-- The mark of a verified shard. -/
def shardMark (dest i : Nat) : Nat := dest * 2 ^ 20 + i

def isVerified (s : State) (dest i : Nat) : Bool := s.hinge.verified.contains (shardMark dest i)

/-- Every shard of a destination is verified. -/
def allVerified (s : State) (dest : Nat) : Bool := (heldShards s dest).all (isVerified s dest)

/-- A layer of the pending version is staged (R443). -/
def layerStaged (s : State) (m k : Nat) : Bool :=
  (heldShards s 1).all (fun i => commitLayer m (manShard m i) != k || isVerified s 1 i)

/-- HNG_STAGE, and STAGED once every layer is. -/
def refreshStage (s : State) : State :=
  match stagedManifest s with
  | none => s
  | some m =>
    let held := heldShards s 1
    let n := ((List.range (manLayers m)).filter (layerStaged s m)).length
    let s := setF s fHNG_STAGE_SHARDS held.length
    let s := setF s fHNG_STAGE_VERIFIED (held.filter (isVerified s 1)).length
    let s := setF s fHNG_STAGE_LAYERS n
    if swapPhase s = 1 ∧ n = manLayers m then setF s fHNG_MODEL_SWAP 2 else s

/-! ### Requests (R434, R436, R437) -/

/-- Whether a source can offer a shard now; what other packages hold is not in this image (log entry 41). -/
def offers (s : State) (src e : Nat) : Bool × State :=
  if src = 0 then
    let (v, s) := s.takeFree
    (v % 2 == 1, s)
  else if src = 1 then (s.hinge.stash.contains (shardSha e), s)
  else (bitF s fHNG_SRC_HOST, s)

/-- The first source of an order that offers a shard and has not been tried. -/
def pickSource (e : Nat) (tried : List Nat) : List Nat → State → Option Nat × State
  | [], s => (none, s)
  | src :: rest, s =>
    if tried.contains src then pickSource e tried rest s
    else
      let (ok, s) := offers s src e
      if ok then (some src, s) else pickSource e tried rest s

/-- Write a host request into the ring while it has a free entry (15 R525), or leave it unsent. -/
def sendHost (s : State) (f : Fetch) : Fetch × State :=
  let r := s.host.hreq
  let n := ringSize (getF s (fGLB_HREQ_CFG_LOG 0))
  if !bitF s (fGLB_HREQ_CFG_EN 0) || decide (n ≤ r.used n + 1) then (f, s)
  else
    let (target, s) := s.takeFree
    let v := f.index + f.alive * 2 ^ 32 + target % 2 ^ 52 * 2 ^ 64 + (if r.phase then 2 ^ 128 else 0)
    let s := s.emit .hostWrite [0, getF s (fGLB_HREQ_BASE_ADDR 0) * 4096 + 32 * r.tail, 32, v]
    let t := (r.tail + 1) % n
    let s := { s with host := { s.host with hreq := { r with tail := t, phase := if t = 0 then !r.phase else r.phase } } }
    ({ f with sent := true }, msixRequest s 0 65 (bitF s (fGLB_HREQ_CFG_IEN 0)))

/-- Issue one request entry under the next value of ALIVE. -/
def issueFetch (s : State) (f : Fetch) (first : Bool) : State :=
  let f := { f with alive := s.hinge.nextAlive, first := first || f.source == 2 }
  let s := { s with hinge := { s.hinge with nextAlive := (s.hinge.nextAlive + 1) % 65536 } }
  let (f, s) :=
    if f.source = 2 then sendHost s f
    else
      let (pkg, s) := if f.source = 0 then s.takeFree else (0, s)
      ({ f with sent := true },
        s.emit .shardRequest [f.source, pkg % 65536, f.dest, f.index, f.alive])
  { s with hinge := { s.hinge with fetches := s.hinge.fetches ++ [f] } }

/-- Issue a list of entries of one source as one request. -/
def issueAll : List Fetch → Bool → State → State
  | [], _, s => s
  | f :: fs, first, s => issueAll fs false (issueFetch s f first)

/-- An event of the loader about a failed shard. -/
def refetchEvent (s : State) (index cause : Nat) : State :=
  let s := setF (setF (raiseF s fHNG_ERR_REFETCH) fHNG_ERR_LAST_SHARD index) fHNG_ERR_LAST_CAUSE cause
  let s := count s (0x0510 + cause) 1
  postPF s 0x40 cause 0 0 index

/-- Drop a destination's open requests and its verified marks. -/
def dropDest (s : State) (dest : Nat) : State :=
  { s with hinge := { s.hinge with
    verified := s.hinge.verified.filter (fun v => v / 2 ^ 20 != dest)
    fetches := s.hinge.fetches.filter (fun f => f.dest != dest) } }

/-- HINGE_ABORT (R444): the staging is discarded and the live copy stays. -/
def hingeAbort (s : State) (cause : Nat) : State :=
  let pending := getF s fHNG_MODEL_PENDING
  let s := setF (raiseF s fHNG_ERR_ABORT) fHNG_MODEL_LAST_ABORT cause
  let s := postPF s 0x41 cause pending 0 0
  let s := dropDest s 1
  let s := setF (setF (setF s fHNG_STAGE_SHARDS 0) fHNG_STAGE_VERIFIED 0) fHNG_STAGE_LAYERS 0
  setF (setF (setF s fHNG_MODEL_SWAP 0) fHNG_MODEL_PENDING 0) fHNG_MODEL_KV_COMPAT 0

/-- An adapter load is refused on this replica (R456). -/
def adapterRefused (s : State) (n : Nat) : State :=
  let id := (getSlot s n).id
  let s := raiseF s fHNG_ERR_ADAPTER_REFUSED
  let s := (wards s).foldl (fun s p =>
    if p.2.phase == .adapterWait && p.2.adpEn && p.2.adapterId == id && p.2.adapter == n then sendFail s p.1 4
    else s) s
  let s := dropDest s (n + 2)
  let s := { s with hinge := { s.hinge with manifests := tabDel s.hinge.manifests n } }
  setSlot s n AdapterSlot.empty

/-- A shard lost to staging (R436): what follows by destination (R440, R441, R444, R456). -/
def shardLost (s : State) (dest index : Nat) : State :=
  if dest = 0 then
    if getF s fCFG_STAT_LAST_RESET = 2 then declareFault s 0x000F (FaultAt.package index)
    else stageFailed (raiseF s fHNG_ERR_LOAD_FAILED) 4
  else if dest = 1 then hingeAbort s 0
  else adapterRefused s (dest - 2)

/-- The order in which the sources are tried: an adapter's host comes first (R436, R456). -/
def sourceOrder (dest : Nat) : List Nat := if 2 ≤ dest then [2, 0, 1] else [0, 1, 2]

/-- Request a shard again, from the sources of R436 in order, or lose it. -/
def refetch (s : State) (dest index : Nat) (tried : List Nat) : State :=
  match destManifest s dest with
  | none => s
  | some m =>
    let (src, s) := pickSource (manShard m index) tried (sourceOrder dest) s
    match src with
    | some src => issueFetch s ⟨dest, index, src, 0, true, false, false, true, src :: tried⟩ true
    | none => shardLost s dest index

/-- A shard failed (R435). -/
def shardFailed (s : State) (f : Fetch) (cause : Nat) : State :=
  let s := { s with hinge := { s.hinge with fetches := s.hinge.fetches.filter (fun g => g != f) } }
  refetch (refetchEvent s f.index cause) f.dest f.index (if f.refetch then f.tried else [])

/-- The entries of a request after the one that failed: those of its destination and source up to the next
request's first. -/
def laterOf (s : State) (f : Fetch) : List Fetch :=
  (((s.hinge.fetches.filter (fun g => g.dest == f.dest && g.source == f.source)).dropWhile (fun g => g != f)).drop 1).takeWhile
    (fun g => !g.first)

/-- The request of `f` is closed, and its remaining shards go to the same source under a new start value (R434). -/
def reissue (s : State) (f : Fetch) : State :=
  let later := laterOf s f
  issueAll later true { s with hinge := { s.hinge with
    fetches := s.hinge.fetches.filter (fun g => g != f && !later.contains g) } }

/-- Sources for the shards of a load, each with the first that an order offers. -/
def planFetches (m dest : Nat) (order : List Nat) : List Nat → State → List Fetch × List Nat × State
  | [], s => ([], [], s)
  | i :: is, s =>
    let (src, s) := pickSource (manShard m i) [] order s
    let (fs, lost, s) := planFetches m dest order is s
    match src with
    | some src => (⟨dest, i, src, 0, false, false, false, false, []⟩ :: fs, lost, s)
    | none => (fs, i :: lost, s)

/-- Begin to load every shard of a destination that is not verified. -/
def beginLoad (s : State) (dest : Nat) (order : List Nat) : State :=
  match destManifest s dest with
  | none => s
  | some m =>
    let todo := (heldShards s dest).filter (fun i =>
      !isVerified s dest i && !s.hinge.fetches.any (fun f => f.dest == dest && f.index == i))
    let (fs, lost, s) := planFetches m dest order todo s
    let s := [0, 1, 2].foldl (fun s src => issueAll (fs.filter (fun f => f.source == src)) true s) s
    match lost with
    | [] => s
    | i :: _ => shardLost s dest i

/-- Host requests that waited for a free ring entry are written (15 R525). -/
def sendWaiting : List Fetch → State → List Fetch × State
  | [], s => ([], s)
  | f :: fs, s =>
    let (f, s) := if f.source = 2 ∧ f.sent = false then sendHost s f else (f, s)
    let (fs, s) := sendWaiting fs s
    (f :: fs, s)

/-- HINGE_HOST_DOORBELL (R437, 15 R524): the doorbell closes the open request of its INDEX and ALIVE. -/
def hostDoorbell (s : State) (index alive : Nat) : State :=
  match s.hinge.fetches.find? (fun f =>
      f.source == 2 && f.sent && !f.rung && f.index == index && f.alive == alive) with
  | none => raiseF s fHNG_ERR_HOST_DISCARD
  | some f =>
    let n := ringSize (getF s (fGLB_HREQ_CFG_LOG 0))
    let r := s.host.hreq
    let s := { s with
      hinge := { s.hinge with fetches := s.hinge.fetches.map (fun g => if g = f then { g with rung := true } else g) }
      host := { s.host with hreq := { r with head := (r.head + 1) % n } } }
    let (fs, s) := sendWaiting s.hinge.fetches s
    { s with hinge := { s.hinge with fetches := fs } }

/-- HINGE_HOST_DOORBELL: only the PF has the doorbell (15 Table 15-5). -/
def execHingeHostDoorbell (fn : Fin 64) (index : Fin 4294967296) (alive : Fin 65536) (s : State) :
    Host.Outcome State Fault Refusal :=
  .next (if fn.val = 0 then hostDoorbell s index alive else s)

/-- A verified shard is counted by its source and written to its destination, and to the stash (R438). -/
def shardVerified (s : State) (f : Fetch) (e : Nat) (payload : List Byte) : State :=
  let s := count s (0x0500 + f.source) 1
  let s := { s with hinge := { s.hinge with
    fetches := s.hinge.fetches.filter (fun g => g != f)
    verified := nsInsert s.hinge.verified (shardMark f.dest f.index)
    stash := if bitF s fHNG_CFG_STASH && decide (f.dest < 2) then nsInsert s.hinge.stash (shardSha e)
      else s.hinge.stash } }
  let s := match destAddr s f.dest e with
    | some a => hbmStoreBytes s a payload
    | none => s
  if f.dest = 1 then refreshStage s else s

/-- The open entry that a source's next shard answers. -/
def openFetch (s : State) (dest source : Nat) : Option Fetch :=
  s.hinge.fetches.find? (fun f => f.dest == dest && f.source == source && f.sent && (source != 2 || f.rung))

/-- SHARD_DELIVERY (R433, R434): index, ALIVE, CRC and hash, in that order. -/
def execShardDelivery (dest : Fin 8194) (source : Fin 3) (index : Fin 4294967296) (alive : Fin 65536)
    (crc : Word) (payload : List Byte) (s : State) : Host.Outcome State Fault Refusal :=
  .next (
    match openFetch s dest source, destManifest s dest with
    | some f, some m =>
      let e := manShard m f.index
      if index.val ≠ f.index then shardFailed s f 6
      else if alive.val ≠ f.alive then
        let cause := if !f.first && (alive.val + 1) % 65536 == f.alive then 2 else 3
        shardFailed (reissue s f) f cause
      else if crc64 payload ≠ crc.toNat ∨ crc.toNat ≠ shardCrc e then shardFailed s f 0
      else if Config.sha384 payload ≠ shardSha e then shardFailed s f 1
      else
        shardVerified s f e payload
    | _, _ => s)

/-- SHARD_TIMEOUT (R435). -/
def execShardTimeout (dest : Fin 8194) (source : Fin 3) (s : State) : Host.Outcome State Fault Refusal :=
  .next (
    match s.hinge.fetches.find? (fun f => f.dest == dest.val && f.source == source.val && f.sent) with
    | some f => shardFailed s f 4
    | none => s)

/-! ### NAND reads (11 R417, R427, Table 11-8) -/

/-- A read that needed retry level 4 or higher, or soft decoding (`level` 8), schedules relocation of its block. -/
def execFlashReadComplete (granule : Fin 4294967294) (level : Fin 9) (good : Bool) (use : FlashUse) (s : State) :
    Host.Outcome State Fault Refusal :=
  .next (
    let s := count s 0x0403 level.val
    let s := match tabFind s.flash.map granule.val with
      | none => s
      | some b =>
        let x := getBlock s b
        let s := setBlock s b { x with reads := x.reads + 1 }
        if 4 ≤ level.val ∨ getF s fFLS_CFG_RD_THRESH * 1000 ≤ x.reads + 1 then scheduleReloc s b else s
    if good then s
    else
      let s := flashError s fFLS_ERR_UNCORRECTABLE (granuleChan s granule)
      match use with
      | .parked w _ =>
        if (getInfo s w).restoring then expireOwn (raiseF s fBZL_ERR_PARK_CHECK) w 2
        else s
      | .page => regionReadLost s granule
      | .shard d i =>
        match s.hinge.fetches.find? (fun f => f.dest == d && f.index == i && f.source == 1) with
        | some f => shardFailed s f 5
        | none => s
      | .checkpoint => { s with flash := { s.flash with ckptMap := s.flash.prevMap, ckptSeq := s.flash.prevSeq } })

/-! ### Staging (R442-R445) -/

/-- Staging of the shadow set's pending manifest begins. -/
def beginStaging (s : State) (m : Nat) : State :=
  let s := dropDest s 1
  let s := setF (setF s fHNG_MODEL_SWAP 1) fHNG_MODEL_PENDING (manVersion m)
  let s := setF s fHNG_MODEL_KV_COMPAT (if manKvCompat m then 1 else 0)
  refreshStage (beginLoad s 1 [1, 2, 0])

/-- Staging of the shadow set is complete, or there is none to do (R444). -/
def stagingDone (s : State) : Bool :=
  match s.cfg.shadow with
  | none => false
  | some i =>
    match (i.recs 0x000A 2).head? with
    | none => true
    | some m => manVersion m == activeVersion s || (swapPhase s == 2 && allVerified s 1)

/-! ### The wavefront (R448-R452) -/

/-- An old-version step of some lane may still issue launches on this package (log entry 44). -/
def oldStepOpen (s : State) : Bool :=
  s.warden.lanes.any (fun p => p.2.step != 0 && !p.2.sent && decide (p.2.step % 2 ^ 32 < getF s fHNG_WAVE_H_STEP))

/-- An old-version launch that reads layer `k` runs. -/
def oldLaunchReads (s : State) (k : Nat) : Bool :=
  s.comp.cores.any (fun p => match p.2.launch with
    | some l => !l.done && !l.newVer && decide (l.first ≤ k) && decide (k ≤ l.last)
    | none => false)

/-- Send every HINGE_PASSED that is due. -/
def sendPassed (s : State) : State :=
  if !s.hinge.gating || oldStepOpen s then s
  else
    (List.range (modelLayers s)).foldl (fun s k =>
      if s.hinge.passSent.contains k || oldLaunchReads s k then s
      else sendAll { s with hinge := { s.hinge with passSent := nsInsert s.hinge.passSent k } } .hingePassed
        [ownPkg s, k]) s

/-- HNG_WAVE.PASSED and OPEN. -/
def refreshWave (s : State) : State :=
  let n := modelLayers s
  let s := setF s fHNG_WAVE_PASSED ((List.range n).filter (gateHeld s s.hinge.passed)).length
  setF s fHNG_WAVE_OPEN ((List.range n).filter (gateHeld s s.hinge.committed)).length

/-- HINGE_PASSED(k) from a package. -/
def execHingePassed (pkg : Fin 65536) (layer : Fin 256) (s : State) : Host.Outcome State Fault Refusal :=
  .next (
    if s.hinge.gating && (members s).contains pkg.val then
      sendPassed (refreshWave { s with hinge := { s.hinge with
        passed := if s.hinge.passed.contains (layer.val, pkg.val) then s.hinge.passed
          else (layer.val, pkg.val) :: s.hinge.passed } })
    else s)

/-- HINGE_COMMITTED(k) from a package; once every package has committed every layer the gates are open for good. -/
def execHingeCommitted (pkg : Fin 65536) (layer : Fin 256) (s : State) : Host.Outcome State Fault Refusal :=
  .next (
    if s.hinge.gating && (members s).contains pkg.val then
      let s := refreshWave { s with hinge := { s.hinge with
        committed := if s.hinge.committed.contains (layer.val, pkg.val) then s.hinge.committed
          else (layer.val, pkg.val) :: s.hinge.committed } }
      let s := sendPassed s
      if (List.range (modelLayers s)).all (gateHeld s s.hinge.committed) then
        { s with hinge := { s.hinge with gating := false } }
      else s
    else s)

/-- Copy a layer's staged bytes over the live copy. -/
def copyLayer (s : State) (m k : Nat) : State :=
  (heldShards s 1).foldl (fun s i =>
    let e := manShard m i
    if commitLayer m e = k then
      match destAddr s 1 e, destAddr s 0 e with
      | some a, some b => hbmCopy s a b (shardLength e)
      | _, _ => s
    else s) s

/-- The wavefront is complete on this package: the swap is over, the staging is released, and the stash drops what
only the replaced version names (R438, R445). -/
def swapComplete (s : State) (m : Nat) : State :=
  let old := match (activeRecs s 0x000A 1).head? with
    | some o => (manEntries o).map shardSha
    | none => []
  let new := (manEntries m).map shardSha
  let live := (heldShards s 1).map (shardMark 0)
  let s := dropDest (dropDest s 0) 1
  let s := { s with hinge := { s.hinge with
    verified := live.foldl nsInsert s.hinge.verified
    stash := s.hinge.stash.filter (fun x => new.contains x || !old.contains x) } }
  let s := setF (setF (setF s fHNG_STAGE_SHARDS 0) fHNG_STAGE_VERIFIED 0) fHNG_STAGE_LAYERS 0
  setF (setF (setF s fHNG_MODEL_SWAP 0) fHNG_MODEL_PENDING 0) fHNG_MODEL_KV_COMPAT 0

/-- Commit a layer and say so to every package. -/
def commitOne (s : State) (m k : Nat) : State :=
  let s := copyLayer s m k
  let s := setF (count s 0x0520 1) fHNG_WAVE_COMMITTED (k + 1)
  let s := sendAll s .hingeCommitted [ownPkg s, k]
  if k + 1 = manLayers m then swapComplete s m else s

/-- LAYER_COMMIT_COMPLETE (R448, R449): the next layer in order, once HINGE_PASSED is held from every package. -/
def execLayerCommitComplete (layer : Fin 256) (s : State) : Host.Outcome State Fault Refusal :=
  .next (
    match stagedManifest s with
    | some m =>
      if swapPhase s = 4 ∧ getF s fHNG_WAVE_COMMITTED = layer.val ∧ layer.val < manLayers m
          ∧ gateHeld s s.hinge.passed layer then
        sendPassed (commitOne s m layer)
      else s
    | none => s)

/-- Recovery commits every layer not yet committed, from the preserved staging (R452). -/
def finishWave (s : State) : State :=
  match stagedManifest s with
  | some m =>
    if swapPhase s = 4 then
      let c := getF s fHNG_WAVE_COMMITTED
      (List.range (manLayers m - c)).foldl (fun s i => commitOne s m (c + i)) s
    else s
  | none => s

/-! ### Adapters (R456) -/

/-- The VERSION of an adapter manifest qualifies: the active version, or the one a KV_COMPATIBLE active manifest
replaced. -/
def versionQualifies (s : State) (v : Nat) : Bool :=
  v == activeVersion s ||
    match activeManifest s with
    | some m => manKvCompat m && v == manPrev m
    | none => false

/-- The loader accepts a manifest for a slot (R456 step 1, R453). -/
def adapterOk (s : State) (id m : Nat) : Bool :=
  manifestOk m 1 (modelLayers s) && manifestSigned m (activeRecs s 0x000A 3) && manAdapterId m == id
    && versionQualifies s (manVersion m) && decide (manByte m 40 8 ≤ getF s fHNG_CFG_SLOT_BYTES * 1048576)

/-- ADAPTER_LOAD_COMPLETE: the manifest read for a slot arrives and its shards are requested, host first; when every
shard is verified the replica sends ADAPTER_READY (log entry 43). -/
def execAdapterLoadComplete (slot : Fin 8192) (manifest : Option Nat) (s : State) :
    Host.Outcome State Fault Refusal :=
  .next (
    let v := getSlot s slot
    if v.phase != .loading then s
    else
      match tabFind s.hinge.manifests slot.val with
      | none =>
        match manifest with
        | none => adapterRefused s slot
        | some m =>
          if adapterOk s v.id m then
            let s := { s with hinge := { s.hinge with manifests := tabSet s.hinge.manifests slot.val m } }
            let s := setSlot s slot { v with
              domain := manDomain m, pub := manPublic m, rank := manRank m, version := manVersion m }
            beginLoad s (slot.val + 2) (sourceOrder (slot.val + 2))
          else adapterRefused s slot
      | some m =>
        if !versionQualifies s (manVersion m) then adapterRefused s slot
        else if allVerified s (slot.val + 2) then
          sendRecord (count s 0x0521 1) { OrderRecord.plain .adapterReady (ownPkg s) 0 0 slot with extent := v.id }
        else s)

end Sys2Proof.Machine
end

