-- ==== Sys2Proof/Machine/Assay.lean ====
section
/-!
DEFINITION. The Assay check-value engines (spec 13): GO, ABORT, the end of a scan with its status, and the loader's
re-verification of the live copy (R476, R477).
-/
namespace Sys2Proof.Machine

open Sys2Proof

/-- An engine is usable: its Gateway die is present (R459). -/
def enginePresent (s : State) (n : Nat) : Bool := decide (n < 32) && !s.fault.lostGw.contains (n / 8)

def getScan (s : State) (n : Nat) : Option Scan := tabFind s.assay.scans n

def setScan (s : State) (n : Nat) (x : Scan) : State :=
  { s with assay := { s.assay with scans := tabSet s.assay.scans n x } }

/-- The fields of a latched CTL. -/
def Scan.poly (x : Scan) : Nat := natBits x.ctl 2 2
def Scan.virt (x : Scan) : Bool := natBits x.ctl 4 1 == 1
def Scan.cont (x : Scan) : Bool := natBits x.ctl 5 1 == 1
def Scan.aliveEn (x : Scan) : Bool := natBits x.ctl 6 1 == 1
def Scan.cmp (x : Scan) : Bool := natBits x.ctl 7 1 == 1
def Scan.tenant (x : Scan) : Nat := natBits x.ctl 8 12
def Scan.sys (x : Scan) : Bool := natBits x.ctl 20 1 == 1
def Scan.ctx (x : Scan) : Nat := if x.sys then ctxSYS else x.tenant
/-- Record bytes of alive mode (R471). -/
def Scan.rb (x : Scan) : Nat := natBits x.alive 17 15 * 64
def Scan.off (x : Scan) : Nat := natBits x.alive 32 16

/-- End a scan: BUSY clears, DONE is set, STATUS and PROGRESS are written (R473); RESULT and MATCH as R470 says. -/
def endScan (s : State) (n status progress : Nat) (result : Nat) (isMatch : Bool) : State :=
  let s := setF (setF s (fASY_ENG_STAT_BUSY n) 0) (fASY_ENG_STAT_DONE n) 1
  let s := setF (setF s (fASY_ENG_STAT_STATUS n) status) (fASY_ENG_STAT_PROGRESS n) progress
  let s := setF (setF s (fASY_ENG_RESULT_VALUE n) result) (fASY_ENG_STAT_MATCH n) (if isMatch then 1 else 0)
  { s with assay := { s.assay with
    scans := tabDel s.assay.scans n
    chain := if status = 2 then s.assay.chain else tabDel s.assay.chain n } }

/-- A scan's configuration is refused with BAD_CONFIG (Table 13-2); the loader's use of an engine ends its chain (log entry
176). -/
def scanBad (s : State) (n : Nat) (x : Scan) : Bool :=
  let chain := tabFind s.assay.chain n
  x.len == 0
    || (x.cont && (match chain with | some (p, _) => p != x.poly | none => true))
    || (x.aliveEn && (x.rb == 0 || x.len % x.rb != 0 || decide (2 ^ 32 < x.len / x.rb) || x.off % 2 == 1
        || decide (x.rb < x.off + 2)))
    || decide (50 < natBits x.ctl 21 7)
    || (!x.virt && (x.tenant != 0 || x.sys)) || (x.sys && x.tenant != 0)
    || (x.virt && (tenantRec s x.ctx).isNone)

/-- A device-physical range lies within the live copy, the staging or the adapter carve-out (R462). -/
def scanRange (s : State) (x : Scan) : Bool :=
  [0x04, 0x05, 0x06].any (fun k => match carveOut s k with
    | some (f, n) => decide (f * 2097152 ≤ x.start) && decide (x.start + x.len ≤ (f + n) * 2097152)
    | none => false)

/-- Start a scan: what ends at once ends at once. -/
def startScan (s : State) (n : Nat) (x : Scan) : State :=
  let s := setF (setF (setF s (fASY_ENG_STAT_DONE n) 0) (fASY_ENG_STAT_MATCH n) 0) (fASY_ENG_STAT_ALIVE_BAD n) 0
  let s := setF (setF (setF s (fASY_ENG_STAT_KIND n) 0) (fASY_ENG_STAT_FAILS n) 0) (fASY_ENG_STAT_PROGRESS n) 0
  let s := resetReg s (rASY_ENG_AFAIL n)
  if scanBad s n x then endScan s n 3 0 0 false
  else if !x.virt && !scanRange s x then endScan s n 4 0 0 false
  else setScan (setF (setF s (fASY_ENG_STAT_BUSY n) 1) (fASY_ENG_STAT_STATUS n) 1) n x

/-- Fields of CTL that hold (all but GO and ABORT). -/
def ctlHeld (v : Nat) : Nat := natBits v 2 26 * 4

/-- What reading a range finds: every byte, or the status and the bytes read before it stopped with the line. -/
inductive ScanRead where
  | all (bytes : List Byte)
  | stop (status read line : Nat)
  deriving DecidableEq, Repr

/-- The line that holds a device-virtual byte, in the memory its page lies in. -/
def physLine (s : State) (ctx va : Nat) : Nat :=
  match leafOf s ctx (va / 2097152) with
  | none => va / 64 * 64
  | some l => l.frame * 2097152 + va % 2097152 / 64 * 64

/-- The first failure of a device-virtual range, page by page and line by line; otherwise none. -/
def virtStop (s : State) (ctx start : Nat) : Nat → Nat → Option (Nat × Nat × Nat)
  | _, 0 => none
  | i, k + 1 =>
    let va := start + i
    match virtByte s ctx va with
    | none => some (5, i, 0)
    | some _ => if virtPoisoned s ctx va then some (6, i, physLine s ctx va) else virtStop s ctx start (i + 1) k

/-- The first bytes of a scan's range. -/
def scanBytes (s : State) (x : Scan) (n : Nat) : List Byte :=
  if x.virt then (List.range n).map (fun i => (virtByte s x.ctx (x.start + i)).getD 0#8)
  else memBytes s.tiers.hbm x.start n

/-- Read the range of a scan (R465, R467). -/
def scanRead (s : State) (x : Scan) : ScanRead :=
  if x.virt then
    match virtStop s x.ctx x.start 0 x.len with
    | some (st, n, line) => .stop st n line
    | none => .all (scanBytes s x x.len)
  else
    match (granulesOf x.start x.len).find? (fun g => s.tiers.hbmPoison.contains g) with
    | some g => .stop 6 (g * 64 - x.start) (g * 64)
    | none => .all (scanBytes s x x.len)

/-- The alive failures of a run of counters (R472): record, found, expected, and whether a repeat. -/
def aliveFails : Nat → Option Nat → Option Nat → List Nat → List (Nat × Nat × Nat × Bool)
  | _, _, _, [] => []
  | i, prev, want, c :: cs =>
    let rest := aliveFails (i + 1) (some c) (some ((c + 1) % 65536)) cs
    match want with
    | none => rest
    | some e => if c = e then rest else (i, c, e, prev == some c) :: rest

/-- The counters of the records of a scan that lie in the bytes read. -/
def aliveCounters (x : Scan) (bs : List Byte) : List Nat :=
  ((List.range (x.len / x.rb)).filter (fun i => decide (i * x.rb + x.off + 2 ≤ bs.length))).map
    (fun i => leNat ((bs.drop (i * x.rb + x.off)).take 2))

/-- Record the alive failures of the bytes that a scan has read. -/
def aliveCheck (s : State) (n : Nat) (x : Scan) (bs : List Byte) : State :=
  if !x.aliveEn then s
  else
    let want := if natBits x.alive 16 1 = 1 then none else some (natBits x.alive 0 16)
    match aliveFails 0 none want (aliveCounters x bs) with
    | [] => s
    | (r, c, e, rep) :: fs =>
      let s := setReg s (rASY_ENG_AFAIL n) (BitVec.ofNat 64 (r + c * 2 ^ 32 + e * 2 ^ 48))
      let s := setF (raiseF s (fASY_ENG_STAT_ALIVE_BAD n)) (fASY_ENG_STAT_KIND n) (if rep then 0 else 1)
      setF s (fASY_ENG_STAT_FAILS n) (min 31 (fs.length + 1))

/-- How far a scan can read: the whole range, or up to what would stop it. -/
def scanReach (s : State) (x : Scan) : Nat :=
  match scanRead s x with
  | .all _ => x.len
  | .stop _ read _ => read

/-- A running scan has read on since it was last looked at, by a free number of bytes (R473, log entry 48). -/
def advanceScan (s : State) (n : Nat) (x : Scan) : State :=
  let p := getF s (fASY_ENG_STAT_PROGRESS n)
  let (v, s) := s.takeFree
  setF s (fASY_ENG_STAT_PROGRESS n) (p + v % (scanReach s x - p + 1))

/-- Software looks at an engine: its own running scan has read on. -/
def lookScan (s : State) (n : Nat) : State :=
  match getScan s n with
  | some x => if x.shard = none then advanceScan s n x else s
  | none => s

/-- End a scan before it has read its range: ABORTED or PREEMPTED, with what it has read by now. -/
def cutScan (s : State) (n status : Nat) (x : Scan) : State :=
  let s := advanceScan s n x
  let p := getF s (fASY_ENG_STAT_PROGRESS n)
  endScan (aliveCheck s n x (scanBytes s x p)) n status p 0 false

/-- A write of ASY_ENGn_CTL (R461, R464, R474, R476). -/
def asyCtlWrite (s : State) (fn n : Nat) (v : Word) : State :=
  pfWrite s (rASY_ENG_CTL n) fn (fun s =>
  if !enginePresent s n then s
  else
    let v := v.toNat
    let go := v % 2 = 1
    let abort := natBits v 1 1 = 1
    if s.assay.held.contains n then raiseF s (fASY_ENG_STAT_DISCARDED n)
    else if go ∧ abort then s
    else
      match getScan s n with
      | some x =>
        if abort then cutScan s n 7 x
        else raiseF s (fASY_ENG_STAT_DISCARDED n)
      | none =>
        let s := setReg s (rASY_ENG_CTL n) (BitVec.ofNat 64 (ctlHeld v))
        if go then
          startScan s n ⟨ctlHeld v, (getReg s (rASY_ENG_START n)).toNat, (getReg s (rASY_ENG_LEN n)).toNat,
            (getReg s (rASY_ENG_ALIVE n)).toNat, (getReg s (rASY_ENG_EXPECT n)).toNat, none⟩
        else s)

/-- ASSAY_GO: a write of CTL with GO set. -/
def execAssayGo (fn : Fin 64) (engine : Fin 32) (ctl : Word) (s : State) : Host.Outcome State Fault Refusal :=
  .next (asyCtlWrite s fn engine (ctl ||| 1#64))

/-- ASSAY_ABORT: a write of CTL with ABORT set. -/
def execAssayAbort (fn : Fin 64) (engine : Fin 32) (ctl : Word) (s : State) : Host.Outcome State Fault Refusal :=
  .next (asyCtlWrite s fn engine (ctl ||| 2#64))

/-! ### The end of a scan -/

/-- Give the next shards of the loader to the idle engines, in ascending order (R477). -/
def loaderGive : List Nat → State → State
  | [], s => s
  | n :: ns, s =>
    if (getScan s n).isSome then loaderGive ns s
    else
      match s.assay.queue with
      | [] => s
      | i :: rest =>
        let s := { s with assay := { s.assay with queue := rest } }
        match activeManifest s with
        | none => loaderGive ns s
        | some m =>
          let e := manShard m i
          match destAddr s 0 e with
          | none => loaderGive ns s
          | some a => loaderGive ns (setScan s n ⟨2 ^ 7, a, shardLength e, 0, shardCrc e, some i⟩)

/-- The loader returns every engine once its last scan has ended: idle, STATUS IDLE. -/
def loaderReturn (s : State) : State :=
  if s.assay.queue = [] && s.assay.scans.all (fun p => p.2.shard.isNone) then
    let s := s.assay.held.foldl (fun s n => setF (setF s (fASY_ENG_STAT_LOADER n) 0) (fASY_ENG_STAT_STATUS n) 0) s
    setF { s with assay := { s.assay with held := [] } } fASY_OWN_LOADER 0
  else s

/-- The loader takes all engines for re-verification, pre-empting software's scans (R476). -/
def loaderTake (s : State) : State :=
  let es := (List.range 32).filter (enginePresent s)
  let s := es.foldl (fun s n =>
    let s := match getScan s n with
      | some x => cutScan s n 8 x
      | none => s
    setF s (fASY_ENG_STAT_LOADER n) 1) s
  let s := setF s fASY_OWN_LOADER ((es.map (fun n => 2 ^ n)).sum)
  let s := dropDest s 0
  let s := { s with assay := { s.assay with held := es, queue := heldShards s 0, chain := [] } }
  loaderReturn (loaderGive es s)

/-- An uncorrectable line that a scan meets is reported as the scrubber reports one (R467). -/
def reportRead (s : State) : ScanRead → State
  | .all _ => s
  | .stop _ _ line => hbmUncorrectable s line

/-- What a loader's scan says of a shard: verified where it ended with MATCH, otherwise refetched (R477). -/
def judgeShard (s : State) (i : Nat) (x : Scan) (read : ScanRead) : State :=
  let good := match read with
    | .all bs => crc64 bs == x.expect
    | .stop _ _ _ => false
  if good then { s with hinge := { s.hinge with verified := nsInsert s.hinge.verified (shardMark 0 i) } }
  else refetch (refetchEvent s i 0) 0 i []

/-- The end of a loader's scan of a shard. -/
def loaderScanEnd (s : State) (n i : Nat) (x : Scan) : State :=
  let t := { s with assay := { s.assay with scans := tabDel s.assay.scans n } }
  loaderReturn (loaderGive s.assay.held (judgeShard (reportRead t (scanRead t x)) i x (scanRead t x)))

/-- The line that stopped a scan after `read` bytes lies in the card's own HBM. -/
def stopInHbm (s : State) (x : Scan) (read : Nat) : Bool :=
  if x.virt then
    match leafOf s x.ctx ((x.start + read) / 2097152) with
    | none => false
    | some l => l.tier == .hbm
  else true

/-- The traffic of a device-virtual scan, page by page (R463, 11 R407). -/
def scanParts (x : Scan) : List (Nat × Nat × Nat) := if x.virt then partsOf x.start x.len else []

/-- What a scan is charged: the bytes of a tenant's pages. -/
def scanCharges (s : State) (x : Scan) : List Charge :=
  tierCharges s x.ctx ((scanParts x).filterMap (fun p => (leafOf s x.ctx p.1).map (fun l => (l.tier, l.frame, p.2.2))))

/-- The end of a software scan (R465-R473): an uncorrectable line is reported as the scrubber reports one (R467). -/
def softScanEnd (s : State) (n : Nat) (x : Scan) : State :=
  match scanRead s x with
  | .stop st read line =>
    let s := endScan (aliveCheck s n x (scanBytes s x read)) n st read 0 false
    if st = 6 then
      let s := setReg s (rASY_ENG_AFAIL n) (BitVec.ofNat 64 (line % 2 ^ 52))
      if stopInHbm s x read then hbmUncorrectable s line else s
    else s
  | .all bs =>
    let a := crcAlg x.poly
    let from_ := if x.cont then (match tabFind s.assay.chain n with | some (_, r) => r | none => a.init) else a.init
    let r := crcFeed a from_ bs
    let v := crcOut a r
    let s := aliveCheck s n x bs
    let s := { s with assay := { s.assay with chain := tabSet s.assay.chain n (x.poly, r) } }
    endScan s n 2 x.len v (x.cmp && v == x.expect % 2 ^ a.width)

/-- SCAN_COMPLETE. A scan waits while a bucket that it is charged to is empty (R463, 10 R381). -/
def execScanComplete (engine : Fin 32) (s : State) : Host.Outcome State Fault Refusal :=
  .next (
    match getScan s engine with
    | none => s
    | some x =>
      match x.shard with
      | some i => loaderScanEnd s engine i x
      | none =>
        let cs := scanCharges s x
        if !allOpen s cs then s
        else softScanEnd ((scanParts x).foldl (fun s p => touchPage s x.ctx .read p) (spendAll s cs)) engine x)

end Sys2Proof.Machine
end

