-- ==== Sys2Proof/Machine/AttnFn.lean ====
section
/-!
DEFINITION. The soft maximum as functions of values (spec 06): the exponential D of Table 06-1, masks (R229, R230),
row records (Table 06-3), the row steps of ASTEP, ALMAX, ALSUM and ALPROB, the fold, the normalisation and the
merges. The meanings of the attention entries read their operands and write what these functions give.
-/
namespace Sys2Proof.Machine

open Sys2Proof

def f32NegInf : Nat := f32Inf true
def f32PosInf : Nat := f32Inf false

/-- The scaled score rne_fp32(x * sigma) (R226). -/
def scaledScore (x sigma : Nat) : Eval := mul32 x sigma

/-- The exponential D(a, b) of Table 06-1 (R228), `b` at least `a`. -/
def expD (g2 : Bool) (a b : Nat) : Eval :=
  match dec32 a, dec32 b with
  | .inf true, _ => (0, flNone)
  | .inf false, .inf false => (f32One false, flNone)
  | .fin _ _ _, .inf false => (0, flNone)
  | .fin _ _ _, .fin _ _ _ =>
    let (d, f) := add32 a (g2Neg b)
    let (r, g) := builtinFn g2 0x03 d
    (r, f ||| g)
  | _, _ => (fmtFP32.nanBits, flNone)

/-- A row's mask inputs (R229, R230): positions modulo 2^64. -/
structure MaskIn where
  mmode : Nat
  query : Nat
  key0  : Nat
  kend  : Nat
  win   : Nat
  word  : Nat
  deriving DecidableEq, Repr

/-- Column `c` contributes (R229, Table 06-2). -/
def contributes (m : MaskIn) (c : Nat) : Bool :=
  let k := (m.key0 + c) % 2 ^ 64
  let causalOut := decide (m.query < k)
  let winOut := causalOut || decide (m.win ≤ (m.query + 2 ^ 64 - k) % 2 ^ 64)
  let explOut := natBits m.word c 1 == 0
  let out := match m.mmode with
    | 0 => false
    | 1 => causalOut
    | 2 => winOut
    | 3 => explOut
    | 4 => explOut || causalOut
    | 5 => explOut || winOut
    | _ => true
  decide (k < m.kend) && !out

/-! ### Row records (Table 06-3) -/

def recM (r : Nat) : Nat := natBits r 0 32
def recL (r : Nat) : Nat := natBits r 32 32
def recALPHA (r : Nat) : Nat := natBits r 64 32
def recInf (r : Nat) : Bool := natBits r 96 1 == 1
def recNan (r : Nat) : Bool := natBits r 97 1 == 1

/-- The record that FIRST reads (R231). -/
def recInit : Nat := f32NegInf

def recSet (r m l alpha : Nat) : Nat :=
  natSetBits (natSetBits (natSetBits r 0 32 m) 32 32 l) 64 32 alpha

def recFlag (r bit : Nat) (b : Bool) : Nat := if b then natSetBits r bit 1 1 else r

/-- NAN_REC: M, L and ALPHA NaN, NAN_ROW set, every other field unchanged (R239). -/
def nanRec (r : Nat) : Nat :=
  recFlag (recSet r fmtFP32.nanBits fmtFP32.nanBits fmtFP32.nanBits) 97 true

/-- The NaN of a probability format in every column. -/
def nanP (pfmt n : Nat) : List Nat :=
  List.replicate n (match fmtOfCode pfmt with | some f => f.nanBits | none => 0)

/-- The scaled scores of the contributing columns: `none` for a column that does not contribute. -/
def rowScores (sigma : Nat) (m : MaskIn) (xs : List Nat) : List (Option Nat) × FlagSet :=
  let go := (List.range xs.length).map (fun c =>
    if contributes m c then
      let (t, f) := scaledScore (xs.getD c 0) sigma
      (some t, f)
    else (none, flNone))
  (go.map Prod.fst, go.foldl (fun a p => a ||| p.2) flNone)

def anyNanScore (ts : List (Option Nat)) : Bool :=
  ts.any (fun t => match t with | some t => (dec32 t).isNan | none => false)

/-- The maximum of a starting value and the contributing scores. -/
def maxScore (m : Nat) (ts : List (Option Nat)) : Nat :=
  ts.foldl (fun a t => match t with | some t => max32 a t | none => a) m

/-- The stored probabilities of a row under a maximum: PFMT codes (R237). -/
def rowProbs (g2 : Bool) (pfmt m : Nat) (ts : List (Option Nat)) : List Nat × FlagSet :=
  let go := ts.map (fun t => match t with
    | none => (0, flNone)
    | some t =>
      let (d, f) := expD g2 t m
      let (p, g) := convertOut pfmt true d
      (p, f ||| g))
  (go.map Prod.fst, go.foldl (fun a p => a ||| p.2) flNone)

/-- What a row step gives: the record to write (none: unchanged), the probability row, the flags. -/
structure RowOut where
  rcd   : Option Nat
  probs : List Nat
  flags : FlagSet
  deriving DecidableEq, Repr

/-- ASTEP on one row (R239). -/
def astepRow (g2 : Bool) (pfmt sigma : Nat) (m : MaskIn) (rcd : Nat) (xs : List Nat) : RowOut :=
  if recNan rcd then ⟨none, nanP pfmt xs.length, flNone⟩
  else
    let (ts, f) := rowScores sigma m xs
    if anyNanScore ts then ⟨some (nanRec rcd), nanP pfmt xs.length, f⟩
    else
      let m1 := maxScore (recM rcd) ts
      let (alpha, fa) := expD g2 (recM rcd) m1
      let (ps, fp) := rowProbs g2 pfmt m1 ts
      let sum := ps.foldl (fun a p => (addExact a (elemVal pfmt p)).1) (.fin false 0 0)
      let (prod, fm) := mulExact (dec32 alpha) (dec32 (recL rcd))
      let (tot, fs) := addExact prod sum
      let (l, fl) := round32 tot
      let rcd1 := recFlag (recSet rcd m1 l alpha) 96 (recInf rcd || m1 == f32PosInf)
      ⟨some rcd1, ps, f ||| fa ||| fp ||| fm ||| fs ||| fl⟩

/-- ALMAX on one row (R244). -/
def almaxRow (first : Bool) (sigma : Nat) (m : MaskIn) (rcd : Nat) (xs : List Nat) : RowOut :=
  if recNan rcd then ⟨none, [], flNone⟩
  else
    let (ts, f) := rowScores sigma m xs
    if anyNanScore ts then ⟨some (nanRec rcd), [], f⟩
    else
      let m1 := maxScore (recM rcd) ts
      let rcd := if first then recSet rcd m1 0 0 else natSetBits rcd 0 32 m1
      ⟨some (recFlag rcd 96 (m1 == f32PosInf)), [], f⟩

/-- The probabilities that ALSUM adds: `none` for a NAN_ROW row, a NaN addend where a score is NaN (R245). -/
def alsumRow (g2 : Bool) (pfmt sigma : Nat) (m : MaskIn) (rcd : Nat) (xs : List Nat) :
    List FVal × FlagSet :=
  if recNan rcd then ([], flNone)
  else
    let (ts, f) := rowScores sigma m xs
    if anyNanScore ts then ([.nan], f)
    else
      let (ps, fp) := rowProbs g2 pfmt (recM rcd) ts
      (((List.range xs.length).filter (fun c => (ts.getD c none).isSome)).map
        (fun c => elemVal pfmt (ps.getD c 0)), f ||| fp)

/-- ALPROB on one row (R246); `lcopy` carries the element to copy into L. -/
def alprobRow (g2 : Bool) (pfmt sigma : Nat) (m : MaskIn) (lcopy : Option Nat) (rcd : Nat) (xs : List Nat) :
    RowOut :=
  if recNan rcd then ⟨none, nanP pfmt xs.length, flNone⟩
  else
    let (ts, f) := rowScores sigma m xs
    if anyNanScore ts then ⟨some (nanRec rcd), nanP pfmt xs.length, f⟩
    else
      let (ps, fp) := rowProbs g2 pfmt (recM rcd) ts
      let l := lcopy.getD (recL rcd)
      ⟨some (recSet rcd (recM rcd) l (f32One false)), ps, f ||| fp⟩

/-- One element of AFOLD (R240). DESIGN CHOICE: FP32 bits that an attention entry only copies (pv here, L in `alprobRow`
and `amergeState`) stay as they are, a NaN's payload with them (log entry 143). -/
def afoldElem (first : Bool) (alpha o pv : Nat) : Eval :=
  if first || alpha == 0 then (pv, flNone) else fma32 alpha o pv

/-- Correctly rounded FP32 division (R228, R241): whatever is neither zero nor NaN gives infinity with OVERFLOW over a
zero. -/
def div32 (a b : Nat) : Eval :=
  match dec32 a, dec32 b with
  | .nan, _ => (fmtFP32.nanBits, flNone)
  | _, .nan => (fmtFP32.nanBits, flNone)
  | .inf _, .inf _ => evInvalid
  | .inf s, .fin t n _ => (f32Inf (s != t), flIf (n == 0) flOverflow)
  | .fin s _ _, .inf t => (f32Zero (s != t), flNone)
  | .fin s m e, .fin t n f =>
    if n = 0 then
      if m = 0 then evInvalid else (f32Inf (s != t), flOverflow)
    else if m = 0 then (f32Zero (s != t), flNone)
    else evExact (quotVal (s != t) m n (e - f))

/-- ANORM on one row: the row's codes in OFMT, the record to write, flags (R241). -/
def anormRow (ofmt : Nat) (sat : Bool) (rcd : Nat) (os : List Nat) : List Nat × Option Nat × FlagSet :=
  if recNan rcd then (nanP ofmt os.length, none, flNone)
  else if recM rcd = f32NegInf then (List.replicate os.length 0, some (recFlag rcd 98 true), flNone)
  else
    let go := os.map (fun o =>
      let (q, f) := div32 o (recL rcd)
      let (r, g) := convertOut ofmt sat q
      (r, f ||| g))
    (go.map Prod.fst, none, go.foldl (fun a p => a ||| p.2) flNone)

/-- The sum of exact products, rounded once; pairs of zero weight are left out by the caller (R252). Neither its value
nor its flags depend on the order of the pairs (R250): infinities of both signs give NaN with INVALID beside whatever else
is NaN, and a sum of nothing but -0 is -0 (R67). -/
def sumProducts (ps : List (Nat × Nat)) : Eval :=
  let qs := ps.map (fun p => mulExact (dec32 p.1) (dec32 p.2))
  let f := qs.foldl (fun a q => a ||| q.2) flNone
  let pos := qs.any (fun q => q.1 == .inf false)
  let neg := qs.any (fun q => q.1 == .inf true)
  if pos && neg then (fmtFP32.nanBits, f ||| flInvalid)
  else if qs.any (fun q => q.1.isNan) then (fmtFP32.nanBits, f)
  else if pos || neg then (f32Inf neg, f)
  else
    let v := qs.foldl (fun a q => (addExact a q.1).1) (FVal.fin (!qs.isEmpty) 0 0)
    let (r, k) := round32 v
    (r, f ||| k)

/-- AMERGE, KIND 1, on the partial records of a row (R251). -/
def amergeMax (recs : List Nat) : Nat :=
  if recs.any recNan then nanRec 0
  else
    let m := recs.foldl (fun a r => max32 a (recM r)) f32NegInf
    recFlag (recSet 0 m 0 0) 96 (m == f32PosInf)

/-- AMERGE, KIND 0: partials as (record, row); the merged record and row (R252). -/
def amergeState (g2 : Bool) (lsrc : Option Nat) (cols : Nat) (ps : List (Nat × List Nat)) :
    Nat × List Nat × FlagSet :=
  if ps.any (fun (p : Nat × List Nat) => recNan p.1) then
    (nanRec 0, List.replicate cols fmtFP32.nanBits, flNone)
  else
    let infs := ps.filter (fun (p : Nat × List Nat) => recInf p.1)
    let one := f32One false
    if infs ≠ [] then
      let (l, fl) := match lsrc with
        | some l => (l, flNone)
        | none => sumProducts (infs.map (fun (p : Nat × List Nat) => (one, recL p.1)))
      let row : List (Nat × FlagSet) := (List.range cols).map (fun c => sumProducts (infs.map (fun (p : Nat × List Nat) => (one, p.2.getD c 0))))
      (recFlag (recSet 0 f32PosInf l 0) 96 true, row.map Prod.fst, row.foldl (fun (a : FlagSet) (p : Nat × FlagSet) => a ||| p.2) fl)
    else
      let m := ps.foldl (fun a p => max32 a (recM p.1)) f32NegInf
      if m = f32NegInf then (recSet 0 f32NegInf 0 0, List.replicate cols 0, flNone)
      else
        let ws := ps.map (fun p => (expD g2 (recM p.1) m, p))
        let fw := ws.foldl (fun (a : FlagSet) (w : (Nat × FlagSet) × Nat × List Nat) => a ||| w.1.2) flNone
        let ws := ws.filter (fun (w : (Nat × FlagSet) × Nat × List Nat) => w.1.1 != 0)
        let (l, fl) := match lsrc with
          | some l => (l, flNone)
          | none => sumProducts (ws.map (fun (w : (Nat × FlagSet) × Nat × List Nat) => (w.1.1, recL w.2.1)))
        let row : List (Nat × FlagSet) := (List.range cols).map (fun c => sumProducts (ws.map (fun (w : (Nat × FlagSet) × Nat × List Nat) => (w.1.1, w.2.2.getD c 0))))
        (recSet 0 m l 0, row.map Prod.fst, row.foldl (fun (a : FlagSet) (p : Nat × FlagSet) => a ||| p.2) (fw ||| fl))

end Sys2Proof.Machine
end

