-- ==== Sys2Proof/Machine/TelOps.lean ====
section
/-!
DEFINITION. Telemetry as other files use it (spec 20): snapshots into the holding sets, the trace funnel, and the
counter catalogue.
-/
namespace Sys2Proof.Machine

open Sys2Proof

def setTel (s : State) (t : Tel) : State := { s with tel := t }

/-! ### Snapshots (R652, R653) -/

/-- A set is being filled. -/
def isFilling (s : State) (n : Nat) : Bool := tabHas s.tel.filling n

/-- Latch every counter for a set that is not being filled. -/
def beginSnapshot (s : State) (n : Nat) : State :=
  let (c, s) := snapshotCounters s
  setTel s { s.tel with filling := tabSet s.tel.filling n c }

/-- A write of TEL_SNAP.GO by the PF: into set 0, discarded while set 0 is being filled. -/
def snapGo (s : State) : State :=
  if isFilling s 0 then raiseF s fTEL_SNAP_STAT_DISCARDED else beginSnapshot s 0

/-- A counter as a holding set gives it; while the set is being filled, the old or the new value (R653). -/
def holdRead (s : State) (n id : Nat) : Nat × State :=
  let old := tabGet 0 (tabGet [] s.tel.hold n) id
  match tabFind s.tel.filling n with
  | none => (old, s)
  | some c =>
    let (b, s) := s.takeFree
    (if b % 2 = 0 then old else tabGet 0 c id, s)

/-! ### The catalogue (R650, Tables 20-1 to 20-4) -/

/-- The base id of a counter's group; none for a reserved id. -/
def counterGroup (id : Nat) : Option Nat :=
  if id < 0x600 then some (id / 0x100 * 0x100)
  else if id < 0x800 then some 0x600
  else if id < 0xB00 then some (id / 0x100 * 0x100)
  else if id < 0x1000 then none
  else if id < 0x2000 then some 0x1000
  else if id < 0x6000 then some 0x2000
  else if id < 0x6004 then some 0x6000
  else none

/-- UNIT of a counter: fixed for the package, cluster and tenant groups; the others are the package's own. -/
def counterUnit (id : Nat) : Nat :=
  match counterGroup id with
  | none => 0
  | some 0 => if id = 0 then 3 else if id = 1 then 5 else if id ≤ 0x0A then 1 else 0
  | some 0x1000 => [4, 4, 4, 3, 3, 1, 1, 1].getD (id % 8) 0
  | some 0x2000 => [1, 2, 2, 1].getD (id % 4) 0
  | some 0x6000 => [1, 2, 2, 1].getD (id % 4) 0
  | some _ => Config.counterUnit id % 6

/-- A word of a catalogue entry: UNIT, GROUP and NAME. -/
def catalogueWord (id : Nat) (high : Bool) : Nat :=
  if counterUnit id = 0 then 0
  else
    let v := counterUnit id + (counterGroup id).getD 0 / 0x100 * 2 ^ 8 + Config.counterName id % 2 ^ 112 * 2 ^ 16
    if high then v / 2 ^ 64 else v % 2 ^ 64

/-! ### The trace funnel (R655-R660) -/

/-- Records that the trace buffer holds: 8 MiB. -/
def traceDepth : Nat := 524288

/-- The GROUPS bit of a source (TEL_TRACE_CTL), none for fault logic, the funnel and numbers without a source. -/
def traceGroup (source : Nat) : Option Nat :=
  if source < 0x200 then some 0
  else if source = 0x200 then some 1
  else if source = 0x201 then some 2
  else if 0x210 ≤ source ∧ source ≤ 0x213 then some 3
  else if 0x220 ≤ source ∧ source ≤ 0x22F then some 4
  else if source = 0x230 then some 5
  else if source = 0x232 then some 6
  else if source = 0x233 then some 7
  else none

/-- Whether a source emits a record of a type: fault and EVENT records always, LOSS as the source does, the others when
their group is enabled. -/
def traceEmits (s : State) (source type : Nat) : Bool :=
  type == 0x11 || source == 0x231 ||
    (match traceGroup source with
    | some g => natBits (getF s fTEL_TRACE_CTL_GROUPS) g 1 == 1
    | none => false)

/-- A trace record (Table 20-5). -/
def traceWord (type source : Nat) (delta : Int) (arg data : Nat) : Nat :=
  type % 2 ^ 8 + source % 2 ^ 12 * 2 ^ 8 + (delta % 2 ^ 24).toNat * 2 ^ 20 + arg % 2 ^ 20 * 2 ^ 44
    + data % 2 ^ 64 * 2 ^ 64

/-- The funnel is frozen for a dump (R660). -/
def traceFrozen (s : State) : Bool := !s.fault.dumped

/-- The funnel accepts records. -/
def traceOpen (s : State) : Bool := bitF s fTEL_TRACE_CTL_EN && !traceFrozen s

/-- A record is lost (counter 0x0005). -/
def traceLost (s : State) : State := count s 5 1

/-- Write a record to the buffer by MODE; whether it was written. -/
def traceAppend (s : State) (w : Nat) : Bool × State :=
  let full := decide (traceDepth ≤ s.tel.trace.length)
  if full ∧ getF s fTEL_TRACE_CTL_MODE ≠ 0 then (false, traceLost (raiseF s fTEL_TRACE_STAT_FULL))
  else
    let old := if full then s.tel.trace.drop 1 else s.tel.trace
    (true, count (setTel s { s.tel with trace := old ++ [w] }) 4 1)

/-- Write a TIMESYNC that carries a time (R658). -/
def traceSync (s : State) (t : Nat) : State :=
  let (ok, s) := traceAppend s (traceWord 0x01 0xFFF 0 0 t)
  if ok then setTel s { s.tel with lastSync := some t } else s

/-- DELTA of a time, when it fits. -/
def traceDelta (s : State) (t : Nat) : Option Int :=
  match s.tel.lastSync with
  | none => none
  | some u =>
    let d : Int := (t : Int) - u
    if -2 ^ 23 ≤ d ∧ d < 2 ^ 23 then some d else none

/-- A record arrives at the funnel. -/
def tracePut (s : State) (type source arg data t : Nat) : State :=
  if !traceOpen s then traceLost s
  else
    let s := if (traceDelta s t).isSome then s else traceSync s t
    (traceAppend s (traceWord type source ((traceDelta s t).getD 0) arg data)).2

/-- A source's record on its way to the funnel; `fifoFull` says that its FIFO has no room (R659). -/
def traceRecord (s : State) (type source arg data t : Nat) (fifoFull : Bool) : State :=
  if !traceEmits s source type then s
  else if fifoFull then
    traceLost (setTel s { s.tel with lossy := tabMod 0 s.tel.lossy source (fun n => n + 1) })
  else if type = 0x1F then
    let n := tabGet 0 s.tel.lossy source
    tracePut (setTel s { s.tel with lossy := tabDel s.tel.lossy source }) 0x1F source 0 n t
  else tracePut s type source arg data t

/-- A cluster's record of a change of its power state, with its cycle counter as it stands (R657): its source FIFO has
drained by the time the clock is gated, so the record is never dropped there (log entry 8). -/
def tracePower (s : State) (k type arg : Nat) : State :=
  traceRecord s type k arg (tabGet 0 s.tel.counters (0x1000 + 8 * k)) s.now false

/-- A write of TEL_TRACE_MARK by the PF. -/
def traceMark (s : State) (v : Nat) : State := traceRecord s 0x14 0x233 0 v s.now false

/-- Slots of the host ring. -/
def traceRing (s : State) : Nat := 2 ^ (getF s fTEL_TRACE_CTL_HLOG + 12)

/-- Copy the oldest record to the host ring. -/
def traceCopyOne (s : State) (w : Nat) : State :=
  let p := getF s fTEL_TRACE_STAT_WPTR
  let s := s.emit .hostWrite [0, getF s fTEL_TRACE_BASE_ADDR * 4096 + 16 * (p % traceRing s), 16, w]
  setF s fTEL_TRACE_STAT_WPTR ((p + 1) % 2 ^ 32)

/-- HOST mode copies what the ring has room for; a write that fails ends the mode. -/
def traceCopy (s : State) (good : Bool) : State :=
  let used := (getF s fTEL_TRACE_STAT_WPTR + 2 ^ 32 - getF s fTEL_TRACE_RPTR_RPTR) % 2 ^ 32
  let n := min s.tel.trace.length (traceRing s - used)
  if getF s fTEL_TRACE_CTL_MODE ≠ 2 ∨ traceFrozen s ∨ n = 0 then s
  else if !good then setF (raiseF s fTEL_TRACE_STAT_HOST_FAIL) fTEL_TRACE_CTL_MODE 0
  else
    let ws := s.tel.trace.take n
    let s := setTel s { s.tel with trace := s.tel.trace.drop n }
    ws.foldl traceCopyOne s

end Sys2Proof.Machine
end

