-- ==== Sys2Proof/Machine/Power.lean ====
section
/-!
DEFINITION. Power, clocks and thermal control (spec 17): core limits and ceilings, operating points, the cap, the
thermal limits, input supervision, and the cluster power states DOZE and DEEP.
-/
namespace Sys2Proof.Machine

open Sys2Proof

/-! ### Site records and enable sets (01 R54-R60, 03 Table 03-9) -/

/-- Bitwise vote of three copies (R25). -/
def vote3 (a b c : Nat) : Nat := (a &&& b) ||| (a &&& c) ||| (b &&& c)

/-- Vote a list of three copies. -/
def voteList (l : List Nat) : Nat := vote3 (l.getD 0 0) (l.getD 1 0) (l.getD 2 0)

/-- The fused record of a site: FUSE_LO, FUSE_MID, FUSE_HI in 5 MHz, GOOD. -/
def siteGood (k i : Nat) : Bool := natBits (Config.siteFuse k i) 30 1 == 1

/-- The CUR fields of a site as one 30-bit number, with AGED as bit 30. -/
def siteCur (s : State) (k i : Nat) : Nat :=
  match tabFind (getCluster s k).cur i with
  | some l => voteList l
  | none => natBits (Config.siteFuse k i) 0 30

/-- Among good sites, the higher fused frequency at 0.80 V comes first, then the lower index (R57). -/
def siteLt (k a b : Nat) : Bool :=
  decide (natBits (Config.siteFuse k b) 10 10 < natBits (Config.siteFuse k a) 10 10)

/-- The default enable set (R57). -/
def defaultSites (k : Nat) : List Nat :=
  (sortBy (siteLt k) ((List.range 200).filter (siteGood k))).take 192

/-- The enabled sites of a cluster, ascending: enabled index i is the i-th (R62). -/
def enabledSites (s : State) (k : Nat) : List Nat :=
  match (getCluster s k).enmask with
  | some m => (List.range 200).filter (fun i => natBits m i 1 == 1)
  | none => (defaultSites k).foldl nsInsert []

/-- The maximum frequency of a site at a voltage in 10 mV, 60-95, between its CUR points (R576), 5 MHz units. DESIGN
CHOICE: below the lowest point, where a cluster's VDD stands after a reload until its target is reached, the line of the
two lower points is extended, to no less than 0; the spec interpolates between the points alone (log entry 146). -/
def siteAt (cur v : Nat) : Nat :=
  let lo := natBits cur 0 10
  let mid := natBits cur 10 10
  let hi := natBits cur 20 10
  let f : Int :=
    if v ≤ 80 then (lo : Int) * 20 + ((mid : Int) - lo) * ((v : Int) - 60)
    else ((mid : Int) * 15 + ((hi : Int) - mid) * ((v : Int) - 80))
  (if v ≤ 80 then f / 20 else f / 15).toNat

/-- The ceiling of a cluster at a voltage and the lowest site that sets it (R58). -/
def ceilingAt (s : State) (k v : Nat) : Nat × Nat :=
  match enabledSites s k with
  | [] => (0, 0)
  | i :: is => is.foldl (fun a j =>
      let f := siteAt (siteCur s k j) v
      if f < a.1 then (f, j) else a) (siteAt (siteCur s k i) v, i)

/-! ### Operating points (R578-R584) -/

def getCP (s : State) (k : Nat) : ClusterPower := tabGet ClusterPower.off s.power.clusters k

def setCP (s : State) (k : Nat) (c : ClusterPower) : State :=
  { s with power := { s.power with clusters := tabSet s.power.clusters k c } }

/-- The mode target (R578), 5 MHz units. -/
def modeTarget (s : State) : Nat :=
  if getF s fPTC_CFG_MODE = 1 then 300 else if bitF s fPTC_CFG_BOOST then 390 else 330

/-- The cap limit of a cluster's kind. -/
def capLimit (s : State) (k : Nat) : Nat :=
  if isPavilion k then getF s fPTC_LIMITS_PAV_FLIM else getF s fPTC_LIMITS_CROWN_FLIM

/-- The thermal limit of a die, none above the mode target. -/
def thermalLimit (s : State) (d : Nat) : Nat := (tabFind s.power.limits d).getD 390

/-- The frequency of R579. -/
def clusterFreq (s : State) (k : Nat) : Nat :=
  let f := min (min (modeTarget s) (ceilingAt s k 95).1) (min (capLimit s k) (thermalLimit s (dieOfCluster k)))
  if bitF s fPTC_STAT_FAST then min f (max 120 (f / 2)) else f

/-- The lowest 10 mV step from `v` whose ceiling is at least `f`, else 0.95 V (R580). -/
def stepFor (s : State) (k f : Nat) : Nat → Nat → Nat
  | _, 0 => 95
  | v, n + 1 => if f ≤ (ceilingAt s k v).1 then v else stepFor s k f (v + 1) n

/-- Give a cluster the operating point of R579 and R580, changing it as R584 says: while the target lies above VDD the
clock keeps its value, but never above the ceiling at VDD, to which a lowered CUR brings it down (01 R58). -/
def operate (s : State) (k : Nat) : State :=
  let c := getCP s k
  let f := clusterFreq s k
  let v := stepFor s k f 60 35
  setCP s k { c with target := v, flim := f, freq := if v ≤ c.vdd then f else min (min c.freq f) (ceilingAt s k c.vdd).1 }

/-- The power state of a cluster: 0 RUN, 1 DOZE, 2 DEEP, 3 OFF. -/
def pstate (s : State) (k : Nat) : Nat := getF s (fCLU_STATE_PSTATE k)

/-- The clusters that run, or that will resume at their operating point. -/
def poweredClusters (s : State) : List Nat := (List.range 512).filter (fun k => pstate s k != 3)

/-- Why a cluster stands below 1.50 GHz: 0 CAP, 1 THERMAL, 2 CEILING (R594). -/
def brokenCause (s : State) (k : Nat) : Nat :=
  if capLimit s k < 300 then 0
  else if thermalLimit s (dieOfCluster k) < 300 then 1
  else if (ceilingAt s k 95).1 < 300 then 2
  else 0

/-- Note whether a cluster stands below 1.50 GHz in FIXED mode. -/
def setBroken (s : State) (b : Bool) : State := { s with power := { s.power with broken := b } }

/-- FIXED_HELD and FIXED_BROKEN (R593, R594). -/
def fixedCheck (s : State) : State :=
  if getF s fPTC_CFG_MODE ≠ 1 then setBroken (setF s fPTC_STAT_FIXED_HELD 0) false
  else
    let ks := poweredClusters s
    match ks.find? (fun k => (getCP s k).flim != 300) with
    | some k =>
      if s.power.broken then s
      else
        let s := raiseF (setF (setBroken s true) fPTC_STAT_FIXED_HELD 0) fPTC_ERR_FIXED_BROKEN
        postPF s 0x60 (brokenCause s k) (dieOfCluster k) 0 0
    | none =>
      let t := setF (setBroken s false) fPTC_STAT_FIXED_HELD 1
      if s.power.broken then postPF t 0x60 3 (dieOfCluster (ks.headD 0)) 0 0 else t

/-- Recompute every operating point after a limit has changed. -/
def operateAll (s : State) : State := fixedCheck ((poweredClusters s).foldl operate s)

/-- VOLTAGE_TARGET_REACHED (R584): VDD stands at its target and the frequency rises. -/
def execVoltageTargetReached (cluster : Fin 512) (s : State) : Host.Outcome State Fault Refusal :=
  let c := getCP s cluster
  .next (setCP s cluster { c with vdd := c.target, freq := c.flim })

/-! ### The cap (R587-R592) -/

/-- The effective cap in watts. -/
def effectiveCap (s : State) : Nat :=
  let c := getF s fPTC_CAP_CAP_W
  let down := getF s fPTC_STAT_CONV_DOWN
  let c := if down = 0 then c else min c (375 * (16 - down))
  if s.power.undervolt then min c 3000 else c

/-- The consumer code of a priority, 0 highest (R590). -/
def prioCode (s : State) (i : Nat) : Nat := natBits (getF s fPTC_CFG_PRIO) (2 * i) 2

/-- Step a consumer down, where it is above its floor (Table 17-5). -/
def stepDown (s : State) (code : Nat) : Option State :=
  match code with
  | 0 => if getF s fPTC_LIMITS_LANES ≤ 4 then none
         else some (setF s fPTC_LIMITS_LANES (max 4 (getF s fPTC_LIMITS_LANES - 4)))
  | 1 => if getF s fPTC_LIMITS_HBM_SHARE ≤ 4 then none
         else some (setF s fPTC_LIMITS_HBM_SHARE (getF s fPTC_LIMITS_HBM_SHARE - 1))
  | 2 => if getF s fPTC_LIMITS_PAV_FLIM ≤ 120 then none
         else some (setF s fPTC_LIMITS_PAV_FLIM (max 120 (getF s fPTC_LIMITS_PAV_FLIM - 5)))
  | _ => if getF s fPTC_LIMITS_CROWN_FLIM ≤ 120 then none
         else some (setF s fPTC_LIMITS_CROWN_FLIM (max 120 (getF s fPTC_LIMITS_CROWN_FLIM - 5)))

/-- Step a consumer up, where it is below its maximum. -/
def stepUp (s : State) (code : Nat) : Option State :=
  let m := modeTarget s
  match code with
  | 0 => if 24 ≤ getF s fPTC_LIMITS_LANES then none
         else some (setF s fPTC_LIMITS_LANES (min 24 (getF s fPTC_LIMITS_LANES + 4)))
  | 1 => if 16 ≤ getF s fPTC_LIMITS_HBM_SHARE then none
         else some (setF s fPTC_LIMITS_HBM_SHARE (getF s fPTC_LIMITS_HBM_SHARE + 1))
  | 2 => if m ≤ getF s fPTC_LIMITS_PAV_FLIM then none
         else some (setF s fPTC_LIMITS_PAV_FLIM (min m (getF s fPTC_LIMITS_PAV_FLIM + 5)))
  | _ => if m ≤ getF s fPTC_LIMITS_CROWN_FLIM then none
         else some (setF s fPTC_LIMITS_CROWN_FLIM (min m (getF s fPTC_LIMITS_CROWN_FLIM + 5)))

/-- A consumer stands below its maximum. -/
def capActive (s : State) : Bool := (List.range 4).any (fun c => (stepUp s c).isSome)

/-- Every consumer at its maximum for the mode in force. -/
def capReset (s : State) : State :=
  let m := modeTarget s
  let s := setF (setF s fPTC_LIMITS_LANES 24) fPTC_LIMITS_HBM_SHARE 16
  setF (setF (setF s fPTC_LIMITS_PAV_FLIM m) fPTC_LIMITS_CROWN_FLIM m) fPTC_STAT_CAP_ACTIVE 0

/-- The telemetry counters of recalibration changes, cap steps and fast-limit events (17, 20 Table 20-1 group 0x0900; the
numbers in the group are the model's, log entry 70). -/
def ctrRecal : Nat := 0x0900
def ctrCap : Nat := 0x0901
def ctrFast : Nat := 0x0902

/-- A step that the cap has taken. -/
def capStep (s : State) (code : Nat) : State :=
  count (operateAll (setF (setF s fPTC_STAT_LIMITER code) fPTC_STAT_CAP_ACTIVE (if capActive s then 1 else 0))) ctrCap 1

/-- CAP_CONTROL (R588, R589, R592): one period. -/
def execCapControl (s : State) : Host.Outcome State Fault Refusal :=
  let p := getF s fPTC_INPUT_POWER
  let cap := effectiveCap s
  .next (
    if cap < p then
      let s := { s with power := { s.power with under := 0 } }
      match [3, 2, 1, 0].findSome? (fun i => (stepDown s (prioCode s i)).map (fun t => (prioCode s i, t))) with
      | some (code, t) => capStep { t with power := { t.power with above := 0 } } code
      | none =>
        let n := s.power.above + 1
        let s := { s with power := { s.power with above := n } }
        if n = 10 then
          platformEvent (postPF (raiseF (raiseF s fPTC_STAT_CAP_UNMET) fPTC_ERR_CAP_UNMET) 0x62 0 0 0 p) [0x62, p]
        else s
    else
      let s := setF { s with power := { s.power with above := 0 } } fPTC_STAT_CAP_UNMET 0
      if p * 100 ≤ cap * 98 then
        if s.power.under + 1 = 10 then
          let s := { s with power := { s.power with under := 0 } }
          match [0, 1, 2, 3].findSome? (fun i => (stepUp s (prioCode s i)).map (fun t => (prioCode s i, t))) with
          | some (code, t) => capStep t code
          | none => s
        else { s with power := { s.power with under := s.power.under + 1 } }
      else { s with power := { s.power with under := 0 } })

/-- Report the effective cap. -/
def reportCap (s : State) : State := setF s fPTC_INPUT_CAP_EFF (effectiveCap s)

/-- Replace the cap, or set BAD_WRITE (R587). -/
def setCap (s : State) (w : Nat) : State :=
  if 3000 ≤ w ∧ w ≤ 6000 then reportCap (setF s fPTC_CAP_CAP_W w) else raiseF s fPTC_ERR_BAD_WRITE

/-- CAP_WRITE: a write of PTC_CAP; only the PF's counts (R605). -/
def execCapWrite (fn : Fin 64) (value : Word) (s : State) : Host.Outcome State Fault Refusal :=
  .next (if fn.val = 0 then setCap s (value.toNat % 65536) else errVfAccess s rPTC_CAP fn)

/-! ### Input supervision (R568, R570, R573, R586) -/

/-- INPUT_SAMPLE: VIN48 in mV and the current in 10 mA; power over the window and energy follow. -/
def execInputSample (vin iin : Fin 65536) (s : State) : Host.Outcome State Fault Refusal :=
  let x := vin.val * iin.val
  let n := getF s fPTC_CFG_WINDOW * 100
  let samples := (x :: s.power.samples).take (max 1 n)
  let mean := samples.sum / samples.length / 100000
  let e := s.power.energyRem + x
  let s := { s with power := { s.power with samples := samples, energyRem := e % 100000 } }
  let s := setF (setF s fPTC_INPUT_VIN vin) fPTC_INPUT_IIN iin
  let s := setF (setF s fPTC_INPUT_POWER mean) fPTC_INPUT_CAP_EFF (effectiveCap s)
  let s := setF s fPTC_ENERGY_ENERGY (getF s fPTC_ENERGY_ENERGY + e / 100000)
  .next (setF s fPTC_STAT_INPUT_OK (if 40000 ≤ vin.val ∧ vin.val ≤ 60000 then 1 else 0))

/-- INPUT_UNDERVOLT (Table 17-2). -/
def execInputUndervolt (s : State) : Host.Outcome State Fault Refusal :=
  let s := raiseF { s with power := { s.power with undervolt := true } } fPTC_ERR_UNDERVOLT
  .next (reportCap (postPF s 0x63 0 0 0 (getF s fPTC_INPUT_VIN)))

/-- UNDERVOLT_RECOVERY: VIN48 has stood in range for 1 s. -/
def execUndervoltRecovery (s : State) : Host.Outcome State Fault Refusal :=
  .next (reportCap { s with power := { s.power with undervolt := false } })

/-- CONVERTER_FAILURE (R568). -/
def execConverterFailure (s : State) : Host.Outcome State Fault Refusal :=
  let n := min 16 (getF s fPTC_STAT_CONV_DOWN + 1)
  let s := raiseF (setF s fPTC_STAT_CONV_DOWN n) fPTC_ERR_CONVERTER
  let s := reportCap (postPF s 0x63 1 0 0 (getF s fPTC_INPUT_VIN))
  .next (if 16 - n < 8 then declareFault s 0x000D (FaultAt.package n) else s)

/-- FAST_LIMIT_ENTRY (R586). -/
def execFastLimitEntry (s : State) : Host.Outcome State Fault Refusal :=
  .next (count (operateAll (raiseF (raiseF s fPTC_STAT_FAST) fPTC_ERR_FAST_LIMIT)) ctrFast 1)

/-- FAST_LIMIT_EXIT. -/
def execFastLimitExit (s : State) : Host.Outcome State Fault Refusal :=
  .next (operateAll (setF s fPTC_STAT_FAST 0))

/-- Add to a cluster's counter k of 20 Table 20-3. -/
def countCluster (s : State) (k i n : Nat) : State := count s (0x1000 + 8 * k + i) n

/-- DROOP_DETECT (R585): the clock period is doubled. -/
def execDroopDetect (cluster : Fin 512) (s : State) : Host.Outcome State Fault Refusal :=
  .next (if pstate s cluster = 3 then s else
    countCluster (setCP s cluster { getCP s cluster with droop := true }) cluster 5 1)

/-- DROOP_RECOVERY. -/
def execDroopRecovery (cluster : Fin 512) (s : State) : Host.Outcome State Fault Refusal :=
  .next (setCP s cluster { getCP s cluster with droop := false })

/-! ### Thermal control (R598, R599) -/

/-- A reading in a 12-bit field. -/
def tempField (t : Int) : Nat := intToNat 12 t

/-- The hottest of a range of sensors that are not discarded: its number and reading. -/
def hottest (s : State) (lo hi : Nat) : Option (Nat × Int) :=
  (s.power.temps.filter (fun p => decide (lo ≤ p.1) && decide (p.1 < hi) && !s.power.discarded.contains p.1)).foldl
    (fun a p => match a with
      | none => some p
      | some q => if q.2 < p.2 then some p else some q) none

/-- PTC_TEMP from the readings: Tj with its die code, the hottest stack and the hottest optical engine. -/
def reportTemps (s : State) : State :=
  let s := match hottest s 0 516 with
    | some (n, t) =>
      setF (setF s fPTC_TEMP_TJ_MAX (tempField t)) fPTC_TEMP_TJ_DIE (if n < 512 then n / 32 else 16 + (n - 512))
    | none => s
  let s := match hottest s 516 540 with
    | some (_, t) => setF s fPTC_TEMP_HBM_MAX (tempField t)
    | none => s
  match hottest s 540 556 with
  | some (_, t) => setF s fPTC_TEMP_OPT_MAX (tempField t)
  | none => s

/-- Take a sensor's reading. -/
def readSensor (s : State) (n : Nat) (t : Int) : State :=
  reportTemps { s with power := { s.power with temps := tabSet s.power.temps n t } }

/-- PTC_STAT.THROTTLE and OVERTEMP. -/
def reportLimits (s : State) : State :=
  let ports := s.power.throttled.any (fun n => decide (n < 516) || decide (540 ≤ n))
  let s := setF s fPTC_STAT_THROTTLE (if s.power.limits != [] || ports then 1 else 0)
  setF s fPTC_STAT_OVERTEMP (if s.power.hot != [] then 1 else 0)

/-- THROTTLE_T in quarter degrees. -/
def throttleT (s : State) : Int := 4 * (getF s fPTC_CFG_THROTTLE_T : Int)

/-- The hottest cluster sensor of a die. -/
def dieReading (s : State) (d : Nat) : Option Int := (hottest s (32 * d) (32 * d + 32)).map Prod.snd

/-- THERMAL_THROTTLE, to the PF and to the event receiver (20 R664). -/
def throttleEvent (s : State) (cause die : Nat) : State :=
  platformEvent (postPF s 0x61 cause die 0 0) [0x61, cause, die]

/-- THERMAL_LIMIT_STEP (R599): a cluster sensor's reading, and one step of its die's limit down or up. -/
def execThermalLimitStep (cluster : Fin 512) (reading : Int) (s : State) : Host.Outcome State Fault Refusal :=
  let s := readSensor s cluster reading
  let d := dieOfCluster cluster
  let lim := tabFind s.power.limits d
  .next (
    match dieReading s d with
    | none => s
    | some t =>
      let s := if t < 412 then { s with power := { s.power with hot := nsErase s.power.hot d } } else s
      if s.power.hot.contains d then reportLimits s
      else if throttleT s ≤ t then
        let v := max 120 ((lim.getD (modeTarget s)) - 5)
        let s := { s with power := { s.power with limits := tabSet s.power.limits d v } }
        let s := if lim.isNone then throttleEvent (raiseF s fPTC_ERR_THROTTLED) 0 d else raiseF s fPTC_ERR_THROTTLED
        operateAll (reportLimits s)
      else if t < throttleT s - 8 then
        match lim with
        | none => reportLimits s
        | some v =>
          let ls := if modeTarget s ≤ v + 5 then tabDel s.power.limits d else tabSet s.power.limits d (v + 5)
          operateAll (reportLimits { s with power := { s.power with limits := ls } })
      else reportLimits s)

/-- OVERTEMP_ENTRY: a cluster sensor at 105 degrees holds its die at 0.60 GHz. -/
def execOvertempEntry (cluster : Fin 512) (reading : Int) (s : State) : Host.Outcome State Fault Refusal :=
  let s := readSensor s cluster reading
  let d := dieOfCluster cluster
  .next (
    if 420 ≤ reading then
      let s := { s with power := { s.power with
        limits := tabSet s.power.limits d 120, hot := nsInsert s.power.hot d } }
      operateAll (reportLimits (throttleEvent (raiseF s fPTC_ERR_THROTTLED) 1 d))
    else s)

/-- The number of a sensor of Table 17-7. -/
def sensorNumber : SensorUnit → Nat
  | .gateway d => 512 + d.val
  | .stack n => 516 + n.val
  | .optical n => 540 + n.val

/-- Hold or release a sensor's response. -/
def holdSensor (s : State) (n : Nat) (on off : Bool) : State :=
  if on then { s with power := { s.power with throttled := nsInsert s.power.throttled n } }
  else if off then { s with power := { s.power with throttled := nsErase s.power.throttled n } }
  else s

/-- SENSOR_THRESHOLD_CROSSING (Table 17-8): lanes, refresh rate or stack bandwidth follow a reading. -/
def execSensorThresholdCrossing (unit : SensorUnit) (reading : Int) (s : State) :
    Host.Outcome State Fault Refusal :=
  let n := sensorNumber unit
  let was := s.power.throttled.contains n
  let s := readSensor s n reading
  .next (
    match unit with
    | .gateway d =>
      let s := holdSensor s n (decide (throttleT s ≤ reading)) (decide (reading < throttleT s - 8))
      let s := if s.power.throttled.contains n && !was then
          throttleEvent (raiseF s fPTC_ERR_THROTTLED) 0 (16 + d.val) else s
      reportLimits s
    | .stack k =>
      let s := { s with power := { s.power with
        refresh2 := if 340 ≤ reading then nsInsert s.power.refresh2 k.val else nsErase s.power.refresh2 k.val } }
      holdSensor s n (decide (380 ≤ reading)) (decide (reading < 372))
    | .optical _ =>
      reportLimits (holdSensor s n (decide (340 ≤ reading)) (decide (reading < 332))))

/-- SENSOR_CALIBRATION (R598): the cluster sensors of a die against its reference; those more than 5 degrees off are
discarded. -/
def execSensorCalibration (die : Fin 16) (reference : Int) (readings : List (Fin 32 × Int)) (s : State) :
    Host.Outcome State Fault Refusal :=
  let step := fun (s : State) (p : Fin 32 × Int) =>
    let n := die.val * 32 + p.1.val
    let bad := 20 < (p.2 - reference) ∨ 20 < (reference - p.2)
    let s := { s with power := { s.power with
      temps := tabSet s.power.temps n p.2
      discarded := if bad then nsInsert s.power.discarded n else nsErase s.power.discarded n } }
    if bad then raiseF s fPTC_ERR_SENSOR else s
  .next (reportTemps (readings.foldl step s))

/-! ### Ageing (R577, 03 R148) -/

/-- AGEING_RECALIBRATION: the measured maxima of a site at the three points, 5 MHz units; a CUR field is only
lowered, which lowers the ceiling at once and is counted in telemetry (01 R60). -/
def execAgeingRecalibration (cluster : Fin 512) (site : Fin 200) (lo mid hi : Fin 1024) (s : State) :
    Host.Outcome State Fault Refusal :=
  let cur := siteCur s cluster site
  let f (c m : Nat) := if m < c then m else c
  let l := f (natBits cur 0 10) lo
  let m := f (natBits cur 10 10) mid
  let h := f (natBits cur 20 10) hi
  let new := l + m * 2 ^ 10 + h * 2 ^ 20
  .next (
    if !(enabledSites s cluster).contains site.val || new == cur % 2 ^ 30 then s
    else
      let v := new + 2 ^ 30
      count (operateAll (modCluster s cluster (fun k => { k with cur := tabSet k.cur site.val [v, v, v] }))) ctrRecal 1)

/-! ### Cluster power states (R595, R596) -/

/-- A strand neither runs nor waits for anything but a latch. -/
def Strand.quiet (t : Strand) : Bool := t.phase == .idle || t.phase == .waiting

/-- The time that a cluster has spent in DOZE or DEEP is counted when it leaves the state (20 Table 20-3). -/
def countSleep (s : State) (k : Nat) : State :=
  let p := pstate s k
  if p = 1 ∨ p = 2 then countCluster s k (2 + p) (s.now - (getCP s k).since) else s

/-- The record types of the power states (20 Table 20-6): DOZE, DEEP, OFF. -/
def powerRecord (p : Nat) : Nat := if p = 1 then 0x02 else if p = 2 then 0x03 else 0x05

/-- A cluster leaves its power state for DOZE, DEEP or OFF: a cycle counter that ran stops, the time asleep is counted, and
the record of the state goes out before the clock is gated (20 R656, R657). -/
def leaveFor (s : State) (k p : Nat) : State :=
  let s := if pstate s k = 0 then advanceCycles s k else countSleep s k
  tracePower s k (powerRecord p) 0

/-- A cluster enters DOZE or DEEP. -/
def enterSleep (s : State) (k p : Nat) : State :=
  let s := leaveFor s k p
  setF (setCP s k { getCP s k with since := s.now }) (fCLU_STATE_PSTATE k) p

/-- CLUSTER_DOZE: idle for 64 cycles with nothing in flight. -/
def execClusterDoze (cluster : Fin 512) (s : State) : Host.Outcome State Fault Refusal :=
  .next (
    if pstate s cluster = 0 && s.comp.cores.all (fun p =>
        clusterOfCore p.1 != cluster.val || (p.2.strands.all Strand.quiet && p.2.ops == [])) then
      enterSleep s cluster 1
    else s)

/-- The accumulator files of a cluster are lost (03 R111). -/
def dropTiles (s : State) (k : Nat) : State :=
  { s with comp := { s.comp with cores := s.comp.cores.map (fun (p : Nat × Core) =>
      if clusterOfCore p.1 = k then (p.1, { p.2 with tiles := [] }) else p) } }

/-- CLUSTER_DEEP: every strand IDLE for DEEP_IDLE. -/
def execClusterDeep (cluster : Fin 512) (s : State) : Host.Outcome State Fault Refusal :=
  .next (
    if pstate s cluster = 1 && clusterIdle s cluster && getF s fPTC_CFG_DEEP_IDLE != 0 then
      dropTiles (enterSleep s cluster 2) cluster
    else s)

/-- A cluster returns to RUN; its first cycle there emits WAKE, with the state left (20 R657). -/
def wakeCluster (s : State) (k : Nat) : State :=
  let p := pstate s k
  if p = 1 ∨ p = 2 then tracePower (setF (countCluster (countSleep s k) k 7 1) (fCLU_STATE_PSTATE k) 0) k 0x04 p else s

/-- CLUSTER_WAKE: the wake that an arrival brings about is this command's (log entry 168). -/
def execClusterWake (cluster : Fin 512) (s : State) : Host.Outcome State Fault Refusal := .next (wakeCluster s cluster)

end Sys2Proof.Machine
end

