-- ==== Sys2Proof/Machine/PadOps.lean ====
section
/-!
DEFINITION. The Padlock island's fields as other units read them (spec 19): lifecycle and debug codes by vote, usable
key slots, signatures, and the creation and destruction of keys.
-/
namespace Sys2Proof.Machine

open Sys2Proof

def setPad (s : State) (p : Padlock) : State := { s with padlock := p }

/-- The lifecycle: a vote that is not a code of Table 19-2 is treated as DEPLOYED (R643). -/
def lifeCode (s : State) : Nat :=
  let v := voteList s.padlock.life
  if v = 0x5A5A ∨ v = 0xA5A5 ∨ v = 0x6996 then v else 0xA5A5

/-- The debug state: a vote that is not a code of Table 19-6 is treated as CLOSED. -/
def debugCode (s : State) : Nat :=
  let v := voteList s.padlock.debug
  if v = 0x0F0F ∨ v = 0x33CC ∨ v = 0xF0F0 ∨ v = 0xCC33 then v else 0x0F0F

/-- Debug access is open: the store windows are writable, INTSCAN and INTEST act (Table 19-6). -/
def debugOpen (s : State) : Bool := debugCode s == 0xF0F0

def setDebug (s : State) (c : Nat) : State := setPad s { s.padlock with debug := [c, c, c] }

def setLife (s : State) (c : Nat) : State := setPad s { s.padlock with life := [c, c, c] }

/-- PROG and REVOKED of a slot. -/
def slotProg (s : State) (n : Nat) : Bool := natBits (voteList s.padlock.fused) (2 * n) 1 == 1
def slotRevoked (s : State) (n : Nat) : Bool := natBits (voteList s.padlock.fused) (2 * n + 1) 1 == 1

/-- The pair in the key block has the slot's fused digest (R635). -/
def slotDigestOk (s : State) (n : Nat) : Bool :=
  match tabFind s.padlock.digests n, tabFind s.padlock.pairs n with
  | some d, some p => Config.sha384 p == d
  | _, _ => false

/-- A slot is usable (R635). -/
def slotUsable (s : State) (n : Nat) : Bool := decide (n < 4) && slotProg s n && !slotRevoked s n && slotDigestOk s n

/-- Use a slot for a verification: a digest that does not match is recorded. -/
def useSlot (s : State) (n : Nat) : Bool × State :=
  let bad := decide (n < 4) && slotProg s n && !slotRevoked s n && !slotDigestOk s n
  (slotUsable s n, if bad then raiseF s fPDL_STAT_SLOT_MISMATCH else s)

/-- The pair of a slot as the verifier takes it. -/
def slotKey (s : State) (n : Nat) : Nat := leNat ((tabFind s.padlock.pairs n).getD [])

/-- The n-th draw of random bits. -/
def drawRandom (s : State) : Nat × State :=
  (s.padlock.draws, setPad s { s.padlock with draws := s.padlock.draws + 1 })

/-- Create the flash key of a context that has none (11 R418). -/
def createFlashKey (s : State) (ctx : Nat) : State :=
  if tabHas s.padlock.flashKeys ctx then s
  else
    let (n, s) := drawRandom s
    setPad s { s.padlock with flashKeys := tabSet s.padlock.flashKeys ctx n }

/-- Create the key of a sharing domain that has none (07 R297). -/
def createDomainKey (s : State) (d : Nat) : State :=
  if tabHas s.bezel.domains d then s
  else
    let (n, s) := drawRandom s
    { s with bezel := { s.bezel with domains := tabSet s.bezel.domains d n } }

/-- Destroy every key (R639). -/
def destroyKeys (s : State) : State :=
  let s := { s with bezel := { s.bezel with domains := [] } }
  setPad s { s.padlock with flashKeys := [], sysKey := none, derived := none }

/-- Measurement 1 (Table 19-5): ROM and the fuse fields other than DUS. -/
def fuseMeasurement (s : State) : Nat :=
  Config.fuseDigest ([Config.serial, Config.fwRoot, voteList s.padlock.life, voteList s.padlock.svn,
    voteList s.padlock.fused] ++ s.padlock.digests.flatMap (fun p => [p.1, p.2]))

/-- Measurement 5 (Table 19-5): the lifecycle code, then the debug code. -/
def stateMeasurement (s : State) : Nat := lifeCode s + debugCode s * 2 ^ 16

/-- Derive the keys of Table 19-4 afresh under the present debug code and issue the alias certificate (R641). -/
def deriveKeys (s : State) : State :=
  setPad s { s.padlock with
    derived := some (debugCode s)
    cert := [fuseMeasurement s, s.padlock.fwDigest, stateMeasurement s] }

/-- The SYS flash key of the active STASH_ID. -/
def deriveSysKey (s : State) : State :=
  setPad s { s.padlock with sysKey := some (getF s fHNG_STASH_STASH_ID, debugCode s) }

/-- Whether a signature block verifies over a message hash under a slot's pair (R431, R543, R644). -/
def slotVerifies (s : State) (ctx n hash : Nat) (sig : List Byte) : Bool := signedBy ctx hash sig (slotKey s n)

/-- A lifecycle or debug vote that is no code is recorded (R643). -/
def noteTriple (s : State) : State :=
  let l := voteList s.padlock.life
  let d := voteList s.padlock.debug
  if lifeCode s = l ∧ debugCode s = d then s else raiseF s fPDL_STAT_TRIPLE_BAD

end Sys2Proof.Machine
end

