-- ==== Sys2Proof/Machine/CfgOps.lean ====
section
/-!
DEFINITION. The configuration image (spec 16): its parts (R542-R546), the checks of pass 1 (R551) and the section
checks of R550.
-/
namespace Sys2Proof.Machine

open Sys2Proof

/-- `len` bytes at offset `off` of an image held as a little-endian number. -/
def imgField (n off len : Nat) : Nat := natBits n (8 * off) (8 * len)

/-! ### Header and directory (R542, R544, Table 16-1) -/

/-- A directory entry: TYPE, OFFSET, LENGTH. -/
structure DirEntry where
  type : Nat
  off  : Nat
  len  : Nat
  deriving DecidableEq, Repr

def imgSections (n : Nat) : Nat := imgField n 20 4

def dirWord (n i : Nat) : Nat := imgField n (256 + 16 * i) 16

def imgDir (n : Nat) : List DirEntry :=
  (List.range (min 64 (imgSections n))).map (fun i =>
    let w := dirWord n i
    ⟨natBits w 0 16, natBits w 32 32, natBits w 64 32⟩)

/-- No element of a list relates to a later one. -/
def pairwiseNot {α : Type} (bad : α → α → Bool) : List α → Bool
  | [] => true
  | x :: xs => xs.all (fun y => !bad x y) && pairwiseNot bad xs

def noDup (l : List Nat) : Bool := pairwiseNot (fun a b => a == b) l

/-- Two half-open ranges overlap. -/
def rangesMeet (a n b m : Nat) : Bool := decide (a < b + m) && decide (b < a + n)

/-- Bytes of the signature block. -/
def sigBytes : Nat := 4736

/-- Header, directory and length break no rule of R542, R544 and R549. -/
def headerFormatOk (n len : Nat) : Bool :=
  let ds := imgDir n
  decide (256 + sigBytes ≤ len) && decide (len ≤ 268435456) && imgField n 0 4 == 0x47465A41 && imgField n 4 2 == 1
    && decide (imgField n 18 1 ≤ 3) && imgField n 19 1 == 0 && decide (1 ≤ imgSections n)
    && decide (imgSections n ≤ 64) && imgField n 24 8 == len && imgField n 32 224 == 0
    && ((List.range (imgSections n)).all (fun i =>
      let w := dirWord n i
      natBits w 16 16 == 0 && natBits w 96 32 == 0))
    && (ds.all (fun d => decide (1 ≤ d.type) && decide (d.type ≤ 0x0A) && d.off % 4096 == 0
      && decide (256 + 16 * imgSections n ≤ d.off) && decide (d.off + d.len + sigBytes ≤ len)))
    && noDup (ds.map DirEntry.type) && pairwiseNot (fun a b => rangesMeet a.off a.len b.off b.len) ds
    && ([1, 2, 3, 4, 5, 6, 8, 9, 0x0A].all (fun t => ds.any (fun d => d.type == t)))

/-- Images are addressed by their header alone as `CfgImage` (Table 16-1). -/
def bareImage (header : Nat) : CfgImage := ⟨header, [], 0, 0⟩

/-- TARGET (R551). -/
def targetBad (s : State) (n : Nat) : Bool :=
  imgField n 6 2 != 0x00B1 ||
    match s.cfg.active with
    | some a => a.pkg != imgField n 12 2
    | none => false

/-- GENERATION (R551). -/
def generationBad (s : State) (n : Nat) : Bool :=
  let g := imgField n 8 4
  g == 0 ||
    match s.cfg.active with
    | some a =>
      let d := (g + 2 ^ 32 - a.gen) % 2 ^ 32
      d == 0 || decide (2 ^ 31 ≤ d)
    | none => false

/-! ### Sections (R545, Table 16-2) -/

/-- The RECSIZE of an array kind: `none` reserved, `some none` any nonzero size, 0 variable-length. -/
def recSizeOf (type kind : Nat) : Option (Option Nat) :=
  match type, kind with
  | 1, 1 => some (some 16)
  | 1, 2 => some (some 16)
  | 2, 1 => some (some 32)
  | 3, 1 => some (some 0)
  | 3, 2 => some (some 0)
  | 3, 3 => some (some 176)
  | 4, 1 => some (some 32)
  | 4, 2 => some (some 16)
  | 4, 3 => some (some 16)
  | 4, 4 => some (some 16)
  | 5, 1 => some (some 64)
  | 5, 2 => some (some 64)
  | 6, 1 => some (some 2)
  | 7, 1 => some (some 32)
  | 8, 1 => some (some 8)
  | 8, 2 => some (some 8)
  | 8, 3 => some (some 32)
  | 8, 4 => some (some 32)
  | 8, 5 => some (some 8)
  | 9, 1 => some none
  | 9, 2 => some (some 64)
  | 0x0A, 1 => some none
  | 0x0A, 2 => some none
  | 0x0A, 3 => some none
  | _, _ => none

/-- A mask of `w` bits from bit `lo`. -/
def maskAt (lo w : Nat) : Nat := (2 ^ w - 1) * 2 ^ lo

/-- The registers that report a parameter of a section, each with the bits that the image sets (R545). -/
def paramsOf (type : Nat) : List (Nat × Nat) :=
  match type with
  | 4 => [(rWDN_CFG, maskAt 0 8)]
  | 6 =>
    [(rBZL_POOL_BASE, maskAt 15 37), (rBZL_POOL_SIZE, maskAt 0 64), (rBZL_PL_BASE, maskAt 12 40),
     (rBZL_BIT_REC_BASE, maskAt 9 43), (rBZL_BIT_BUDGET, maskAt 0 32), (rWRD_KR_BASE, maskAt 16 44),
     (rWRD_TS_BASE, maskAt 12 48), (rWRD_TS_STAT, maskAt 0 32), (rMEM_CFG, maskAt 20 40), (rMEM_MIG, maskAt 0 40),
     (rMEM_LOAN, maskAt 22 10), (rFLS_CFG, maskAt 0 34)]
  | 9 => [(rHNG_ADIR, maskAt 4 60), (rHNG_SRC, maskAt 0 1 + maskAt 8 24), (rHNG_CFG, maskAt 16 17),
     (rHNG_STASH, maskAt 0 64)]
  | 0x0A => [(rHNG_WEIGHT_VA, maskAt 21 36)]
  | _ => []

/-- Parameter items from an offset: `none` where one breaks R545. -/
def parseItems (n type : Nat) : Nat → Nat → Option (List (Nat × Nat))
  | 0, _ => some []
  | k + 1, off =>
    let key := imgField n off 4
    let v := imgField n (off + 8) 8
    match tabFind (paramsOf type) key with
    | none => none
    | some m =>
      if imgField n (off + 4) 4 != 0 || v &&& m != v then none
      else (parseItems n type k (off + 16)).map (fun t => (key, v) :: t)

/-- Variable-length records, each a multiple of 16 bytes that begins with its length. -/
def parseVar (n end_ : Nat) : Nat → Nat → Option (List Nat × Nat)
  | 0, off => some ([], off)
  | k + 1, off =>
    let l := imgField n off 4
    if l = 0 ∨ l % 16 ≠ 0 ∨ end_ < off + l then none
    else (parseVar n end_ k (off + l)).map (fun p => (imgField n off l :: p.1, p.2))

/-- Record arrays from an offset. -/
def parseArrays (n type end_ : Nat) : Nat → Nat → Option (List CfgArray)
  | 0, _ => some []
  | k + 1, off =>
    let kind := imgField n off 2
    let size := imgField n (off + 2) 2
    let cnt := imgField n (off + 4) 4
    let pos := off + 16
    if imgField n (off + 8) 8 ≠ 0 ∨ end_ < pos then none
    else
      match recSizeOf type kind with
      | none => none
      | some (some 0) =>
        if size ≠ 0 ∨ end_ < pos + 16 * cnt then none
        else
          (parseVar n end_ cnt pos).bind (fun p =>
            (parseArrays n type end_ k p.2).map (fun t => ⟨kind, pos, p.1⟩ :: t))
      | some want =>
        if size = 0 ∨ (want.getD size) ≠ size ∨ end_ < pos + size * cnt then none
        else
          (parseArrays n type end_ k (pos + size * cnt)).map (fun t =>
            ⟨kind, pos, (List.range cnt).map (fun i => imgField n (pos + size * i) size)⟩ :: t)

/-- A section parsed; `none` where it breaks R545. -/
def parseSection (n : Nat) (d : DirEntry) : Option CfgSection :=
  let items := imgField n d.off 4
  let arrays := imgField n (d.off + 4) 4
  if d.len < 16 ∨ imgField n (d.off + 8) 8 ≠ 0 ∨ d.len < 16 + 16 * items + 16 * arrays then none
  else
    match parseItems n d.type items (d.off + 16), parseArrays n d.type (d.off + d.len) arrays (d.off + 16 + 16 * items) with
    | some i, some a => some ⟨d.type, i, a⟩
    | _, _ => none

/-- The image with every section that parses. -/
def parseImage (n hash base : Nat) : CfgImage :=
  ⟨imgField n 0 256, (imgDir n).map (fun d => (parseSection n d).getD ⟨d.type, [], []⟩), hash, base⟩

/-! ### What the image names -/

/-- A parameter field: the image's item, or the field's value at reset. -/
def CfgImage.param (i : CfgImage) (type : Nat) (f : Field) : Nat :=
  natBits ((i.item type f.reg).getD (regReset f.reg).toNat) f.lo f.w

def CfgImage.carve (i : CfgImage) (kind : Nat) : Option Nat := (i.recs 1 1).find? (fun r => natBits r 0 8 == kind)

/-- Frames of a carve-out, 0 where the image has none. -/
def CfgImage.carveFrames (i : CfgImage) (kind : Nat) : Nat := ((i.carve kind).map (fun r => natBits r 64 32)).getD 0

/-- This image's route to a package is VALID, or the package is its own. -/
def CfgImage.reaches (i : CfgImage) (p : Nat) : Bool := p == i.pkg || natBits ((i.recs 8 2).getD p 0) 33 1 == 1

/-- The role of a cluster (Table 16-4). -/
def CfgImage.role (i : CfgImage) (k : Nat) : Nat := natBits ((i.recs 2 1).getD k 0) 201 3

def CfgImage.rolesOf (i : CfgImage) (role : Nat) : Nat :=
  ((List.range 512).filter (fun k => i.role k == role)).length

def CfgImage.hasTenant (i : CfgImage) (t : Nat) : Bool := (i.recs 5 1).any (fun r => natBits r 0 12 == t)

/-- The enable mask of a cluster, where the image gives one. -/
def CfgImage.enmask (i : CfgImage) (k : Nat) : Option Nat :=
  let r := (i.recs 2 1).getD k 0
  if natBits r 200 1 = 1 then some (natBits r 0 200) else none

def CfgImage.tsetOf (i : CfgImage) (k : Nat) : Nat := natBits ((i.recs 2 1).getD k 0) 208 8

/-- The table set of an index. -/
def CfgImage.tableSet (i : CfgImage) (t : Nat) : Option Nat := (i.recs 3 1).find? (fun r => imgField r 4 1 == t)

/-- The micro-program set of an index. -/
def CfgImage.microSet (i : CfgImage) (t : Nat) : Option Nat := (i.recs 3 2).find? (fun r => imgField r 4 1 == t)

/-- The entry-point record of a table set and number. -/
def CfgImage.entryPoint (i : CfgImage) (t ep : Nat) : Option Nat :=
  (i.recs 3 3).find? (fun r => imgField r 64 16 / 2 ^ 21 % 2 ^ 8 == t && imgField r 64 16 / 2 ^ 29 % 2 ^ 6 == ep)

/-! ### Table sets and micro-programs (R155-R158, R217, R218) -/

def tsPavilion (r : Nat) : Bool := natBits (imgField r 5 1) 0 1 == 1
def tsPercore (r : Nat) : Bool := natBits (imgField r 5 1) 1 1 == 1
def tsCoreEntries (r : Nat) : Nat := imgField r 6 2
def tsClusterEntries (r : Nat) : Nat := imgField r 8 2
/-- Core-store images in a table set. -/
def tsImages (r : Nat) : Nat := if tsPercore r then 192 else 1

/-- Entry `j` of the core store of enabled index `i`, 0 beyond the image. -/
def tsCoreEntry (r i j : Nat) : Entry :=
  if j < tsCoreEntries r then
    BitVec.ofNat 128 (imgField r (16 + 16 * ((if tsPercore r then i else 0) * tsCoreEntries r + j)) 16)
  else 0

/-- Entry `j` of the cluster store, 0 beyond the image. -/
def tsClusterEntry (r j : Nat) : Entry :=
  if j < tsClusterEntries r then
    BitVec.ofNat 128 (imgField r (16 + 16 * (tsImages r * tsCoreEntries r + j)) 16)
  else 0

/-- The micro-ops of slot `x` of a micro-program set: empty where the set does not fill it. -/
def msSlot (r x : Nat) : List Nat :=
  let filled := imgField r 6 2
  if natBits filled x 1 = 1 then
    let before := ((List.range x).filter (fun y => natBits filled y 1 == 1)).length
    (List.range 64).map (fun i => imgField r (16 + 512 * before + 8 * i) 8)
  else List.replicate 64 0

/-- Slots that a set fills. -/
def msFilled (r : Nat) : List Nat := (List.range 16).filter (fun x => natBits (imgField r 6 2) x 1 == 1)

/-- A table set's micro-program slot is valid. -/
def slotOkIn (i : CfgImage) (tset x : Nat) : Bool :=
  match i.microSet tset with
  | none => false
  | some r => (slotFault (msSlot r x)).isNone

/-- The slot that an entry's FN or ACT names. -/
def entrySlot (e : Entry) : Option Nat :=
  let fn := if eOP e = 0x40 then fld e 77 5 else if eOP e = 0x41 then fld e 66 5 else 0
  if 0x10 ≤ fn then some (fn - 0x10) else none

/-- An entry passes the load checks of R189 for a store of a kind. -/
def entryOk (pav : Bool) (e : Entry) : Bool := opDefined (eOP e) && headerOk e && payloadOk pav e

/-- An entry of a table set passes R189, and its slot is valid (R218). -/
def entryOkIn (i : CfgImage) (tset : Nat) (pav : Bool) (e : Entry) : Bool :=
  entryOk pav e &&
    match entrySlot e with
    | none => true
    | some x => slotOkIn i tset x

def tableSetOk (i : CfgImage) (r : Nat) : Bool :=
  let pav := tsPavilion r
  imgField r 0 4 == 16 + 16 * (tsCoreEntries r * tsImages r + tsClusterEntries r) &&
  natBits (imgField r 5 1) 2 6 == 0 && decide (tsCoreEntries r ≤ 1024) && decide (tsClusterEntries r ≤ 1024) &&
  imgField r 10 6 == 0 &&
  ((List.range (tsImages r)).all (fun c => (List.range (tsCoreEntries r)).all (fun j =>
    entryOkIn i (imgField r 4 1) pav (tsCoreEntry r c j)))) &&
  ((List.range (tsClusterEntries r)).all (fun j => entryOkIn i (imgField r 4 1) pav (tsClusterEntry r j)))

def microSetOk (r : Nat) : Bool :=
  imgField r 0 4 == 16 + 512 * (msFilled r).length && imgField r 5 1 == 0 && imgField r 8 8 == 0 &&
  (msFilled r).all (fun x => (slotFault (msSlot r x)).isNone)

/-- The presets of an entry point: latch and count. -/
def epPresets (r : Nat) : List (Nat × Nat) :=
  ((List.range 8).filter (fun p => natBits r (64 + 32 * p + 8) 1 == 1)).map
    (fun p => (natBits r (64 + 32 * p) 5, natBits r (64 + 32 * p + 16) 16))

/-- An entry-point record (Table 04-1) and the 16 bytes that follow it break no rule. -/
def entryPointOk (i : CfgImage) (r : Nat) : Bool :=
  let x := imgField r 64 16
  natBits r 48 16 == 0 && natBits r 320 192 == 0 &&
  ((List.range 8).all (fun p => natBits r (64 + 32 * p + 5) 3 == 0 && natBits r (64 + 32 * p + 9) 7 == 0)) &&
  ((epPresets r).all (fun p => p.2 != 0)) && noDup ((epPresets r).map Prod.fst) &&
  natBits x 35 93 == 0 && (i.tableSet (natBits x 21 8)).isSome

/-! ### The section checks (R550) -/

def settingsOk (r : Nat) : Bool :=
  let p := natBits r 0 64
  let c := natBits r 64 64
  let prio := (List.range 4).map (fun i => natBits p (3 + 2 * i) 2)
  decide (natBits p 0 2 ≤ 1) && noDup prio && decide (1 ≤ natBits p 11 8) && decide (85 ≤ natBits p 35 7) &&
  decide (natBits p 35 7 ≤ 100) && natBits p 42 22 == 0 && decide (3000 ≤ c) && decide (c ≤ 6000)

def carveRecOk (r : Nat) : Bool :=
  let k := natBits r 0 8
  decide (1 ≤ k) && decide (k ≤ 0x0C) && natBits r 9 23 == 0 && natBits r 52 12 == 0 && natBits r 96 32 == 0 &&
  (natBits r 8 1 == 0 || [4, 5, 6, 0x0A, 0x0B].contains k) && decide (natBits r 32 20 + natBits r 64 32 ≤ 786432)

def bootOk (i : CfgImage) : Bool :=
  let cs := i.recs 1 1
  let sb := i.param 9 fHNG_CFG_SLOT_BYTES
  let lend := i.param 6 fMEM_LOAN_LEND_MAX
  cs.all carveRecOk && noDup (cs.map (fun r => natBits r 0 8)) &&
  pairwiseNot (fun a b => rangesMeet (natBits a 32 20) (natBits a 64 32) (natBits b 32 20) (natBits b 64 32)) cs &&
  ([1, 2, 3, 4, 0x0A, 0x0B, 0x0C].all (fun k => (i.carve k).isSome)) &&
  i.carveFrames 0x0A == 2048 && i.carveFrames 0x0B == 2048 && decide (256 ≤ i.carveFrames 0x0C) &&
  (sb == 0 || decide (8192 * sb ≤ 2 * i.carveFrames 6)) &&
  (i.param 6 fFLS_CFG_CHANNELS == 0 || ((i.carve 7).isSome && (i.carve 8).isSome)) &&
  i.carveFrames 9 == lend * 512 &&
  (i.recs 1 2).length == 1 && (i.recs 1 2).all settingsOk

def popCount (n : Nat) : Nat := ((List.range 200).filter (fun b => natBits n b 1 == 1)).length

def clusterRecOk (i : CfgImage) (k : Nat) : Bool :=
  let r := (i.recs 2 1).getD k 0
  let role := natBits r 201 3
  let pav := isPavilion k
  (match i.enmask k with
    | none => natBits r 0 200 == 0
    | some m => popCount m == 192 &&
        (List.range 200).all (fun x => natBits m x 1 == 0 || siteGood k x)) &&
  decide (role ≤ 4) && !(role == 1 && !pav) && !(role == 2 && pav) && natBits r 205 3 == 0 && natBits r 216 40 == 0 &&
  (match i.tableSet (natBits r 208 8) with
    | none => false
    | some t => tsPavilion t == pav)

def clustersOk (i : CfgImage) : Bool :=
  (i.recs 2 1).length == 512 && (List.range 512).all (clusterRecOk i)

def tablesetsOk (i : CfgImage) : Bool :=
  (i.recs 3 1).all (tableSetOk i) && noDup ((i.recs 3 1).map (fun r => imgField r 4 1)) &&
  (i.recs 3 2).all microSetOk && noDup ((i.recs 3 2).map (fun r => imgField r 4 1)) &&
  (i.recs 3 3).all (entryPointOk i) &&
  noDup ((i.recs 3 3).map (fun r => natBits (imgField r 64 16) 21 14))

def laneRecOk (n r : Nat) : Bool :=
  let rows := natBits r 0 16
  let toks := natBits r 16 16
  natBits r 112 144 == 0 &&
  (if n = 1 then rows == 0 && decide (2048 ≤ toks)
   else decide (1 ≤ rows) && decide (rows ≤ 4096) && decide (toks ≤ if n = 0 then 0 else 2048))

def layerRecOk (r : Nat) : Bool :=
  natBits r 44 20 == 0 && natBits r 116 12 == 0 && natBits r 64 4 == 0 &&
  (natBits r 43 1 == 0 ||
    (decide (natBits r 10 4 ≤ natBits r 0 10) && decide (16 ≤ natBits r 14 7) && decide (natBits r 14 7 ≤ 64) &&
     natBits r 21 14 != 0 && [2, 3, 5].contains (natBits r 35 4) && [0, 2].contains (natBits r 39 4)))

def mapRecOk (i : CfgImage) (r : Nat) : Bool :=
  let cl := natBits r 20 5
  let n := natBits r 30 5 + 1
  i.reaches (natBits r 0 16) && decide (natBits r 0 16 < 4096) && decide (cl + n ≤ 32) && natBits r 35 5 == 0 &&
  natBits r 40 24 % 4 == 0 && natBits r 40 24 != 0 && natBits r 64 6 == 0 && natBits r 121 7 == 0 &&
  (natBits r 0 16 != i.pkg ||
    (List.range n).all (fun j => i.role (natBits r 16 4 * 32 + cl + j) == 4))

/-- A parameter lies within the range that its rule lets the image set (log entry 139). -/
def CfgImage.within (i : CfgImage) (type : Nat) (f : Field) (lo hi : Nat) : Bool :=
  decide (lo ≤ i.param type f) && decide (i.param type f ≤ hi)

def placementOk (i : CfgImage) : Bool :=
  i.within 4 fWDN_CFG_MARGIN 2 50 &&
  (i.recs 4 1).length == 3 && (i.recs 4 1).zipIdx.all (fun (p : Nat × Nat) => laneRecOk p.2 p.1) &&
  (i.recs 4 2).length == 256 && (i.recs 4 2).all layerRecOk && (i.recs 4 3).all (mapRecOk i) &&
  (i.recs 4 4).all (fun r => natBits r 64 64 == 0) && noDup ((i.recs 4 4).map (fun r => natBits r 0 16))

/-- A quota of an entry asks for lanes that have clusters (R359). -/
def quotaOk (i : CfgImage) (r : Nat) : Bool :=
  (natBits r 64 16 == 0 || (i.rolesOf 1 != 0 && i.rolesOf 2 != 0)) &&
  (natBits r 80 48 == 0 || i.rolesOf 3 != 0)

def tenantRecOk (i : CfgImage) (sys : Bool) (r : Nat) : Bool :=
  let t := natBits r 0 12
  let d := natBits r 16 13
  let fn := natBits r 29 7
  natBits r 12 1 == (if sys then 1 else 0) && (!sys || t == 0) && natBits r 15 1 == 0 && natBits r 42 6 == 0 &&
  natBits r 232 8 == 0 && natBits r 272 240 == 0 &&
  (if sys then d == 8191 else d == t || (decide (4096 ≤ d) && decide (d ≤ 8190))) &&
  (decide (fn < 64) || fn == 0x7F) && quotaOk i r

/-- The sum of a field over tenants and SYS. -/
def tenantSum (i : CfgImage) (lo : Nat) : Nat := ((i.recs 5 1 ++ i.recs 5 2).map (fun r => natBits r lo 16)).sum

def laneField (i : CfgImage) (n lo : Nat) : Nat := natBits ((i.recs 4 1).getD n 0) lo 16

def tenantsOk (i : CfgImage) : Bool :=
  (i.recs 5 1).all (tenantRecOk i false) && noDup ((i.recs 5 1).map (fun r => natBits r 0 12)) &&
  (i.recs 5 2).length == 1 && (i.recs 5 2).all (tenantRecOk i true) &&
  decide (tenantSum i 128 ≤ laneField i 0 0) && decide (tenantSum i 144 ≤ laneField i 1 16) &&
  decide (tenantSum i 160 ≤ laneField i 2 0) && decide (tenantSum i 176 ≤ laneField i 2 16)

/-- Logical granules of the declared flash (R419). -/
def flashLogical (channels op : Nat) : Nat :=
  ((List.range channels).map (fun c => Config.nandBlocks c * Config.nandGranules c)).sum * (100 - op) / 100

def memoryOk (i : CfgImage) : Bool :=
  let ch := i.param 6 fFLS_CFG_CHANNELS
  let op := i.param 6 fFLS_CFG_OP
  i.within 6 fWRD_KR_BASE_PERIOD 1 255 && i.within 6 fWRD_TS_BASE_DELAY 1 255 &&
  i.within 6 fMEM_MIG_MIG_RATE 1 200 && i.within 6 fMEM_MIG_DECAY 1 255 && i.within 6 fFLS_CFG_RD_THRESH 10 1000 &&
  (i.recs 6 1).length == 16 && (i.recs 6 1).all (fun p => i.reaches p && decide (p < 4096)) &&
  decide (i.param 6 fMEM_CFG_LOW_WM < i.param 6 fMEM_CFG_HIGH_WM) && decide (ch ≤ 32) &&
  (ch == 0 || (decide (7 ≤ op) && decide (op ≤ 50) && decide (1 ≤ i.param 6 fFLS_CFG_CE) &&
    decide (i.param 6 fFLS_CFG_CE ≤ 8) &&
    decide (4 * flashLogical ch op ≤ i.carveFrames 7 * 2097152)))

def regionOk (i : CfgImage) (r : Nat) : Bool :=
  natBits r 52 12 == 0 && natBits r 112 144 == 0 && decide (natBits r 16 36 + natBits r 64 24 ≤ 2 ^ 36) &&
  (if natBits r 12 1 = 1 then natBits r 0 12 == 0 else i.hasTenant (natBits r 0 12))

/-- A port is enabled by an image. -/
def CfgImage.portEnabled (i : CfgImage) (p : Nat) : Bool := natBits ((i.recs 8 1).getD p 0) 23 1 == 1

def routeOk (i : CfgImage) (r : Nat) : Bool :=
  natBits r 34 30 == 0 && (List.range 16).all (fun p =>
    (natBits r p 1 == 0 && natBits r (16 + p) 1 == 0) || i.portEnabled p)

def windowOk (i : CfgImage) (r : Nat) : Bool :=
  let k := natBits r 1 2
  natBits r 7 1 == 0 && natBits r 13 3 == 0 && natBits r 116 140 == 0 && k != 3 &&
  (natBits r 0 1 == 0 ||
    (i.reaches (natBits r 16 16) && decide (natBits r 16 16 < 4096) &&
     (if k = 2 then natBits r 5 2 == 0 && natBits r 40 44 == 0 else natBits r 32 21 == 0)))

/-- The queue-pair entry of an image. -/
def CfgImage.qp (i : CfgImage) (n : Nat) : Nat := (i.recs 9 2).getD n 0

def ewinOk (i : CfgImage) (r : Nat) : Bool :=
  natBits r 5 3 == 0 && natBits r 28 4 == 0 && natBits r 168 88 == 0 &&
  (natBits r 2 1 == 0 ||
    (natBits r 32 12 == 0 && natBits r 128 12 == 0 &&
     natBits (i.qp (natBits r 8 20)) 0 1 == 1 && natBits (i.qp (natBits r 8 20)) 4 1 == 1))

/-- The checks of the fabric section (14 R493, R500, R504, 10 R381); the ordering package is a package of the partition (10
R357, log entry 53). -/
def fabricOk (i : CfgImage) : Bool :=
  let bw := i.recs 8 5
  (i.recs 8 1).length == 16 && (i.recs 8 1).all (fun r => natBits r 24 40 == 0) &&
  decide (i.pkg < 4096) && decide (i.orderPkg < 4096) && i.reaches i.orderPkg &&
  decide ((i.recs 8 2).length ≤ 4096) && (i.recs 8 2).all (routeOk i) &&
  decide ((i.recs 8 3).length ≤ 3072) && (i.recs 8 3).all (windowOk i) &&
  decide ((i.recs 8 4).length ≤ 256) && (i.recs 8 4).all (ewinOk i) &&
  bw.length == 16 && decide ((bw.map (fun r => natBits r 0 16)).sum ≤ 2304) &&
  decide ((bw.map (fun r => natBits r 32 16)).sum ≤ 540)

/-- The 64-bit ETH_PORTn_CFG value of an Ethernet port record (log entry 54). -/
def CfgImage.ethPort (i : CfgImage) (p : Nat) : Nat := natBits ((i.recs 9 1).getD p 0) 0 24

def qpRecOk (i : CfgImage) (r : Nat) : Bool :=
  natBits r 17 15 == 0 && natBits r 56 8 == 0 && natBits r 328 56 == 0 && natBits r 448 64 == 0 &&
  (natBits r 0 1 == 0 ||
    (decide (natBits r 320 4 ≤ 8) && decide (natBits r 324 4 ≤ 8) && natBits (i.ethPort (natBits r 1 2)) 0 1 == 1 &&
     (if natBits r 4 1 = 1 then natBits r 5 12 == 0 else i.hasTenant (natBits r 5 12))))

def hostNetOk (i : CfgImage) : Bool :=
  (i.recs 9 1).length == 4 && (i.recs 9 1).all (fun r => natBits r 24 40 == 0) && decide ((i.recs 9 2).length ≤ 16384) && (i.recs 9 2).all (qpRecOk i)

/-- The pending manifest of an image. -/
def CfgImage.pending (i : CfgImage) : Option Nat := (i.recs 0x0A 2).head?

/-- The pending manifest fails only its signatures (R442). -/
def pendingUnsigned (i : CfgImage) : Bool :=
  match i.pending with
  | none => false
  | some m => manifestOk m 0 0 && !manifestSigned m (i.recs 0x0A 3)

def modelsOk (i : CfgImage) : Bool :=
  let ks := i.recs 0x0A 3
  (i.recs 0x0A 1).length == 1 && decide ((i.recs 0x0A 2).length ≤ 1) && decide (1 ≤ ks.length) &&
  decide (ks.length ≤ 8) &&
  (i.recs 0x0A 1 ++ i.recs 0x0A 2).all (fun m => manifestOk m 0 0 && manVersion m != 0 && manifestSigned m ks)

/-- The cause that a section gives, `none` where it passes. -/
def sectionCause (n : Nat) (i : CfgImage) (d : DirEntry) : Option Nat :=
  if (parseSection n d).isNone then some 1
  else
    let ok := match d.type with
      | 1 => bootOk i
      | 2 => clustersOk i
      | 3 => tablesetsOk i
      | 4 => placementOk i
      | 5 => tenantsOk i
      | 6 => memoryOk i
      | 7 => (i.recs 7 1).all (regionOk i)
      | 8 => fabricOk i
      | 9 => hostNetOk i
      | _ => modelsOk i
    if d.type = 5 ∧ 4096 < (i.recs 5 1).length then some 5
    else if ok then none else some 6

/-- The first failure, section by section in directory order: cause and directory index. -/
def sectionsFail (n : Nat) (i : CfgImage) : List (DirEntry × Nat) → Option (Nat × Nat)
  | [] => none
  | (d, j) :: t =>
    match sectionCause n i d with
    | some c => some (c, j)
    | none => sectionsFail n i t

/-! ### Staging checks (R442) -/

/-- The staging carve-out holds every placed group of a manifest. -/
def stagingRoom (i : CfgImage) (m : Nat) : Bool :=
  (manEntries m).all (fun e =>
    match groupBase i (shardGroup e) with
    | none => true
    | some b => decide (b + shardOffset e + shardLength e ≤ i.carveFrames 5 * 2097152))

/-- KV_COMPATIBLE holds what it promises. -/
def compatOk (s : State) (m : Nat) : Bool :=
  !manKvCompat m ||
    (manPrev m == activeVersion s &&
      match activeManifest s with
      | some a => manLayout m == manLayout a
      | none => false)

end Sys2Proof.Machine
end

