-- ==== Sys2Proof/Machine/Ward.lean ====
section
/-!
DEFINITION. The ward table's records and commands (spec 09): admission at the home package, the order stream, the
application of every record kind, and the Keyrings.
-/
namespace Sys2Proof.Machine

open Sys2Proof

/-! ### Descriptor fields (Tables 09-3, 09-4) -/

def dOP (d : Nat) : Nat := natBits d 0 8
def dTENANT (d : Nat) : Nat := natBits d 16 12
def dSYS (d : Nat) : Bool := natBits d 28 1 == 1
def dCLASS (d : Nat) : Nat := natBits d 29 2
def dADP (d : Nat) : Bool := natBits d 38 1 == 1
def dFORK (d : Nat) : Bool := natBits d 39 1 == 1
def dKR (d : Nat) : Nat := natBits d 40 3
def dPROMPT_LEN (d : Nat) : Nat := natBits d 48 24
def dMAX_LEN (d : Nat) : Nat := natBits d 72 24
def dADAPTER (d : Nat) : Nat := natBits d 96 32
def dDEADLINE (d : Nat) : Nat := natBits d 128 32
def dINTERVAL (d : Nat) : Nat := natBits d 160 16
def dMODEL (d : Nat) : Nat := natBits d 176 16
def dWARD (d : Nat) : Nat := natBits d 192 16
def dTTL (d : Nat) : Nat := natBits d 208 8
def dASEQ (d : Nat) : Nat := natBits d 256 32
def dPROMPT_ADDR (d : Nat) : Nat := natBits d 320 64
def dDEST_ADDR (d : Nat) : Nat := natBits d 384 64
def dDEST_KEY (d : Nat) : Nat := natBits d 448 32
def dDEST_QP (d : Nat) : Nat := natBits d 480 24

/-- The context that a descriptor names. -/
def dCtx (d : Nat) : Nat := if dSYS d then ctxSYS else dTENANT d

/-- Status codes (Table 09-5). -/
def stOK : Nat := 0x00
def stADMIT_FULL : Nat := 0x21
def stTENANT_QUOTA : Nat := 0x22
def stADAPTER_BUSY : Nat := 0x23
def stDEADLINE_FAR : Nat := 0x24
def stBAD_DESCRIPTOR : Nat := 0x25
def stTENANT_UNKNOWN : Nat := 0x26
def stMODEL_DRAINING : Nat := 0x27
def stPREFIX_DOMAIN_DENIED : Nat := 0x28

/-- The origin is a PCIe function. -/
def originPcie : Origin → Bool
  | .pcie _ _ => true
  | .qp _ _ => false

/-- The origin is the PF. -/
def originPF : Origin → Bool
  | .pcie fn _ => fn == 0
  | .qp _ _ => false

/-- A context is bound to the carrier of a descriptor (15 R514, 16 R548); SYS to the PF alone (R332). -/
def bound (s : State) (o : Origin) (ctx : Nat) : Bool :=
  match o with
  | .pcie fn _ => if ctx = ctxSYS then fn == 0 else (tenantRec s ctx).isSome && tenantField s ctx 29 7 == fn
  | .qp i port => ctx != ctxSYS && qpValid s i && qpPort s i == port && qpContext s i == ctx

/-- A command's reserved bits are zero (Table 09-4) and SYS names no tenant. -/
def commandOk (d : Nat) : Bool :=
  let used := 0xFF + (2 ^ 29 - 2 ^ 16) + (2 ^ 208 - 2 ^ 192) + (2 ^ 288 - 2 ^ 256)
    + (if dOP d = 2 then 2 ^ 216 - 2 ^ 208 else 0)
    + (if dOP d = 3 then (2 ^ 72 - 2 ^ 48) + (2 ^ 176 - 2 ^ 128) + (2 ^ 384 - 2 ^ 320) else 0)
  d &&& (2 ^ 512 - 1 - used) == 0 && !(dSYS d && dTENANT d != 0)

/-- An admission descriptor's reserved encodings (R333 check 1, R332). -/
def admitOk (s : State) (o : Origin) (d : Nat) : Bool :=
  dOP d == 1 && natBits d 8 8 == 0 && natBits d 43 5 == 0 && natBits d 216 40 == 0 && natBits d 288 32 == 0 &&
  natBits d 504 8 == 0 && !(dSYS d && dTENANT d != 0) && (dADP d || dADAPTER d == 0) && dKR d != 7 &&
  dPROMPT_LEN d != 0 && decide (dPROMPT_LEN d < limitOf (dMAX_LEN d) (layerGroups s)) &&
  (dMODEL d == 0 || dMODEL d == activeVersion s) &&
  (!originPcie o || (dDEST_KEY d == 0 && dDEST_QP d == 0)) &&
  (!dSYS d || originPF o)

/-- Count a Keyring delivery for a tenant (20 Table 20-4). -/
def countTenant (s : State) (ctx k n : Nat) : State :=
  count s (if ctx = ctxSYS then 0x6000 + k else 0x2000 + 4 * ctx + k) n

/-- The prompt of a descriptor is read (R333, R348): by the function's DMA, or by an RDMA read on DEST_QP under DEST_KEY; a
RESUME uses the queue pair and key of the request's admission. -/
def readPrompt (s : State) (r : PromptRead) : State :=
  let d := r.desc
  let v := getDeliv s (dWARD d)
  match r.origin with
  | .pcie fn _ => s.emit .hostRead [fn, dPROMPT_ADDR d, 4 * dPROMPT_LEN d]
  | .qp _ _ =>
    let qp := if dOP d = 1 then dDEST_QP d else v.destQp
    let key := if dOP d = 1 then dDEST_KEY d else v.destKey
    s.emit .rdmaRead [qp, dPROMPT_ADDR d, key, 4 * dPROMPT_LEN d]

/-- A descriptor is held while its prompt is read. -/
def beginRead (s : State) (r : PromptRead) : State :=
  readPrompt { s with ward := { s.ward with reads := s.ward.reads ++ [r] } } r

/-- ADMIT_DESCRIPTOR (R333): the first check that fails gives the status. -/
def execAdmitDescriptor (origin : Origin) (subseq : Nat) (desc : BitVec 512) (s : State) :
    Host.Outcome State Fault Refusal :=
  let d := desc.toNat
  let refuse := fun (s : State) (st : Nat) => complete s origin subseq (dOP d) st 0 0
  if stopped s then .next s
  else if !admitOk s origin d then .next (refuse s stBAD_DESCRIPTOR)
  else if (tenantRec s (dCtx d)).isNone || !bound s origin (dCtx d) then .next (refuse s stTENANT_UNKNOWN)
  else if deadlineFar s.now (dDEADLINE d) then .next (refuse s stDEADLINE_FAR)
  else
    match allocExtent s (limitOf (dMAX_LEN d) (layerGroups s)) with
    | none => .next (refuse (raiseF s fWRD_ERR_TS_FULL) stADMIT_FULL)
    | some (x, s) => .next (beginRead s ⟨d, origin, subseq, x⟩)

/-- Send the record of a descriptor that has passed the home checks; its completion is owed, and the tokens that a RESUME
appends are kept. The record of a command says in its argument whether the carrier is bound to the command's tenant, which
only the home package can tell (log entry 162). -/
def sendDescriptor (s : State) (k : RecKind) (r : PromptRead) (tokens : List Nat) : State :=
  let s := { s with ward := { s.ward with
    owed := s.ward.owed ++ [⟨r.origin, r.subseq, dOP r.desc, r.desc, tokens, false⟩] } }
  sendRecord s { OrderRecord.plain k (ownPkg s) (dWARD r.desc) (dASEQ r.desc) (bit (bound s r.origin (dCtx r.desc))) with
    desc := r.desc, origin := r.origin, extent := r.extent }

/-- An Ethernet prompt is read on DEST_QP: a valid queue pair of the carrier's context (15 R532). -/
def promptPathOk (s : State) (r : PromptRead) : Bool :=
  match r.origin with
  | .pcie _ _ => true
  | .qp i _ =>
    let q := if dOP r.desc = 1 then dDEST_QP r.desc else (getDeliv s (dWARD r.desc)).destQp
    qpValid s q && qpContext s q == qpContext s i && !(getQP s q).err

/-- PROMPT_READ_COMPLETE (R333 check 5, R348): the prompt of the oldest read of an origin and SUBSEQ has come. -/
def execPromptReadComplete (origin : Origin) (subseq : Nat) (good : Bool) (tokens : List Nat) (s : State) :
    Host.Outcome State Fault Refusal :=
  match s.ward.reads.find? (fun r => r.origin == origin && r.subseq == subseq) with
  | none => .next s
  | some r =>
    let s := { s with ward := { s.ward with reads := s.ward.reads.erase r } }
    let isAdmit := dOP r.desc = 1
    let toks := (List.range (dPROMPT_LEN r.desc)).map (fun i => tokens.getD i 0)
    if !good || !promptPathOk s r then
      let s := if isAdmit then freeExtent s r.extent else s
      .next (complete s origin subseq (dOP r.desc) stBAD_DESCRIPTOR (if isAdmit then 0 else dWARD r.desc)
        (if isAdmit then 0 else dASEQ r.desc))
    else if isAdmit then .next (sendDescriptor (transcriptPut s r.extent 0 toks) .admission r [])
    else .next (sendDescriptor s .resume r toks)

/-- A command goes into the order stream, where it is checked when it is applied (R337); words of another OP are no such
command. -/
def submitCommand (s : State) (k : RecKind) (op : Nat) (r : PromptRead) : State :=
  if stopped s then s
  else if dOP r.desc ≠ op then complete s r.origin r.subseq (dOP r.desc) stBAD_DESCRIPTOR (dWARD r.desc) (dASEQ r.desc)
  else sendDescriptor s k r []

/-- PAUSE (R331, R337). -/
def execPause (origin : Origin) (subseq : Nat) (desc : BitVec 512) (s : State) : Host.Outcome State Fault Refusal :=
  .next (submitCommand s .pause 2 ⟨desc.toNat, origin, subseq, 0⟩)

/-- CANCEL (R331, R337). -/
def execCancel (origin : Origin) (subseq : Nat) (desc : BitVec 512) (s : State) : Host.Outcome State Fault Refusal :=
  .next (submitCommand s .cancel 4 ⟨desc.toNat, origin, subseq, 0⟩)

/-- RESUME (R331, R345, R348): the home package compares the DEADLINE with its own rack time, and reads the tokens to append
before it sends the record. -/
def execResume (origin : Origin) (subseq : Nat) (desc : BitVec 512) (s : State) : Host.Outcome State Fault Refusal :=
  let d := desc.toNat
  let r : PromptRead := ⟨d, origin, subseq, 0⟩
  .next (
    if stopped s then s
    else if dOP d = 3 ∧ deadlineFar s.now (dDEADLINE d) then
      complete s origin subseq (dOP d) stDEADLINE_FAR (dWARD d) (dASEQ d)
    else if dOP d = 3 ∧ dPROMPT_LEN d ≠ 0 then beginRead s r
    else submitCommand s .resume 3 r)

/-! ### The order stream (R338-R341) -/

/-- ORDER_RECORD_ARRIVAL (R339): the ordering package queues a record. -/
def execOrderRecordArrival (r : OrderRecord) (s : State) : Host.Outcome State Fault Refusal :=
  if orderPkg s = ownPkg s ∧ s.cfg.active.isSome then
    .next { s with ward := { s.ward with queue := s.ward.queue ++ [r] } }
  else .next s

/-- BATCH_CUT (R339): cut, number and send a batch, with its records, at a multiple of ORDER_PERIOD. -/
def execBatchCut (s : State) : Host.Outcome State Fault Refusal :=
  if orderPkg s = ownPkg s ∧ s.cfg.active.isSome then
    let period := max 1 (getF s fWRD_KR_BASE_PERIOD) * 1000
    let cut := s.now / period * period
    let b : Batch := ⟨s.ward.nextBatch, cut + getF s fWRD_TS_BASE_DELAY * 1000, s.ward.nextAseq, s.ward.queue⟩
    let admits := (b.recs.filter (fun r => r.kind == .admission)).length
    let s := { s with ward := { s.ward with
        queue := []
        lastCut := cut
        nextBatch := (b.number + 1) % 2 ^ 32
        nextAseq := (b.first + admits) % 2 ^ 32 } }
    .next (sendAll s .batch ([b.number, b.apply, b.first, b.recs.length] ++ b.recs.flatMap recordArgs))
  else .next s

/-- BATCH_ARRIVAL (R340, R341): hold a batch until it is due and its predecessors have come. -/
def execBatchArrival (b : Batch) (s : State) : Host.Outcome State Fault Refusal :=
  if s.ward.batches.any (fun x => x.number == b.number) then .next s
  else .next { s with ward := { s.ward with batches := s.ward.batches ++ [b] } }

/-- The next batch in number order, where it is held. -/
def nextHeld (s : State) : Option Batch :=
  let n := (getF s fWRD_ORDER_STAT_LAST_BATCH + 1) % 2 ^ 32
  s.ward.batches.find? (fun b => b.number == n)

/-- How many batches are held in unbroken number order from number `n` on. -/
def heldRun (s : State) : Nat → Nat → Nat
  | 0, _ => 0
  | k + 1, n => if s.ward.batches.any (fun b => b.number == n % 2 ^ 32) then heldRun s k (n + 1) + 1 else 0

/-- A batch is due at B and has not arrived (R341): batches follow one another by ORDER_PERIOD, so that those due by B are
known by number. -/
def batchMissing (s : State) (b : Nat) : Bool :=
  match s.ward.lastApply with
  | none => false
  | some t =>
    decide (heldRun s s.ward.batches.length (getF s fWRD_ORDER_STAT_LAST_BATCH + 1)
      < (b - t) / (max 1 (getF s fWRD_KR_BASE_PERIOD) * 1000))

/-- BATCH_WAIT_TIMEOUT (R341). -/
def execBatchWaitTimeout (s : State) : Host.Outcome State Fault Refusal :=
  if serving s && !stopped s && (nextHeld s).isNone then
    .next (declareFault s 0x0007 (FaultAt.package 0))
  else .next s

/-! ### Applying records (R334-R337, R342-R344, R348, R353) -/

/-- Take the completion owed for a descriptor. -/
def takeOwed (s : State) (o : Origin) (d : Nat) : Option (Owed × State) :=
  match s.ward.owed.find? (fun x => x.origin == o && x.desc == d) with
  | none => none
  | some x => some (x, { s with ward := { s.ward with owed := s.ward.owed.erase x } })

/-- Complete a descriptor whose record is applied, at its home package; an admission whose origin has been reset since
fails with cause DELIVERY (15 R526). -/
def completeRecord (s : State) (r : OrderRecord) (st ward aseq : Nat) : State :=
  if r.src = ownPkg s then
    match takeOwed s r.origin r.desc with
    | none => s
    | some (x, s) =>
      let s := complete s x.origin x.subseq x.op st ward aseq
      if x.lost && r.kind == .admission && st == 0 then deliveryFailure s ward else s
  else s

/-- Drop what an entry holds on entry to DONE or FAILED (R343). -/
def dropHoldings (s : State) (w : Nat) : State :=
  let s := releasePin s (getWard s w)
  let s := releaseList s w
  { s with
    bezel := { s.bezel with resv := tabDel s.bezel.resv w, lookups := nsErase s.bezel.lookups w }
    warden := { s.warden with info := tabDel s.warden.info w }
    ward := { s.ward with counted := s.ward.counted.filter (fun c => !(decide (c.1 < 3) && c.2.1 == w)) } }

/-- A step in flight has a row or chunk of a request: tokens of it may already be in the Keyring. -/
def inFlight (s : State) (w : Nat) : Bool :=
  !stopped s && s.warden.lanes.any (fun p => p.2.step != 0 && p.2.decisions.any (fun d =>
    d.ward == w && decide (d.kind < 3) && d.aseq == (getWard s w).aseq))

/-- To FAILED with a cause (R343): the ERROR entry comes at once, or after the tokens of a step in flight. -/
def toFailed (s : State) (w cause : Nat) : State :=
  let wait := inFlight s w
  let s := dropHoldings s w
  let s := modWard s w (fun e => { e with phase := .failed, doomed := false })
  if wait then { s with ward := { s.ward with failing := tabSet s.ward.failing w cause } }
  else releaseIfDelivered (errorEntry s w cause) w

/-- To DONE (R343). -/
def toDone (s : State) (w : Nat) : State :=
  let s := dropHoldings s w
  releaseIfDelivered (modWard s w (fun e => { e with phase := .done, doomed := false })) w

/-- Roll back the speculative positions as a rejection of all (R274, Table 09-8). -/
def rollback (s : State) (w : Nat) : State :=
  let e := getWard s w
  if e.speclen = 0 then s
  else
    let s := setWard s w { e with speclen := 0, epoch := (e.epoch + 1) % 256 }
    releaseAbove s w e.committed

/-- The TTL deadline of a pause at B (R291), `ttl` in units of 15 s. -/
def ttlDeadline (s : State) (ctx b ttl : Nat) : Nat := b + min ttl (tenantField s ctx 224 8) * 15000000000

/-- To PAUSED at B with a TTL, none for a spill (R291). -/
def toPaused (s : State) (w b : Nat) (ttl : Option Nat) : State :=
  let s := rollback s w
  let s := releasePin s (getWard s w)
  let s := modWard s w (fun e => { e with phase := .paused })
  let s := modInfo s w (fun i => { i with restoring := false, parkWanted := false, pass1 := false })
  let s := { s with
    bezel := { s.bezel with resv := tabDel s.bezel.resv w }
    ward := { s.ward with counted := s.ward.counted.filter (fun c => !(decide (c.1 < 3) && c.2.1 == w)) } }
  modList s w (fun l =>
    { l with ttl := match ttl with | none => 0 | some t => ttlDeadline s (getWard s w).ctx b t })

/-- The adapter of an entry is in a slot for it (R455). -/
def inSlot (s : State) (e : WardEntry) : Option Nat :=
  match readySlot s e.adapterId with
  | none => none
  | some (n, v) => if slotAdmits s v e.ctx then some n else none

/-- Reserve a page for every parked copy that a request's list names (R348, R294). -/
def reserveReturns (s : State) (w : Nat) : State :=
  { s with bezel := { s.bezel with resv := tabMod 0 s.bezel.resv w (fun v => v + (parkedEnts s w).length) } }

/-- Begin a restore (R348): ADAPTER_WAIT where the adapter is in no slot, else PAGE_WAIT. Pages are reserved and return, and
READY follows; a rebuild repeats the Bitting lookup instead, and REBUILD is cleared when its match count is applied. -/
def beginRestore (s : State) (w : Nat) : State :=
  let s := cancelPark s w
  let e := getWard s w
  let slot := if e.adpEn then inSlot s e else some e.adapter
  let s := setWard s w { e with
    phase := if slot.isSome then .pageWait else .adapterWait
    adapter := slot.getD e.adapter }
  let s := reserveReturns (modList s w (fun l => { l with ttl := 0, parking := true })) w
  let s := { s with ward := { s.ward with counted := s.ward.counted.filter (fun c => !(decide (c.1 < 3) && c.2.1 == w)) } }
  let s := modInfo s w (fun i => { i with restoring := true, matched := !e.rebuild })
  let s := if e.rebuild && e.home == ownPkg s then
      { s with bezel := { s.bezel with lookups := nsInsert s.bezel.lookups w } }
    else s
  sendReadyIfWhole s w

/-- Copy a source's page list into a fork's (R336, R281): every block is shared, a parked copy as a page is. -/
def forkPages (s : State) (src dst : Nat) : State :=
  (getList s src).ents.foldl (fun s p =>
    let s := match p.2.loc with
      | .resident => modPage s p.2.page (fun r => { r with refs := r.refs + 1 })
      | .none => s
      | _ => { s with bezel := { s.bezel with
          parked := s.bezel.parked.map (fun c => if c.1 = p.2.page then (c.1, { c.2 with refs := c.2.refs + 1 }) else c) } }
    setEnt s dst p.1 p.2) (modList s dst (fun l => { l with shards := (getList s src).shards }))

/-- Copy a source's transcript before a fork's own prompt, at the fork's home package (R336). A transcript homed
elsewhere is read over the fabric: its tokens are free values here (log entry 13). -/
def forkTranscript (s : State) (src : WardEntry) (extent n : Nat) : State :=
  let own := (List.range n).map (transcriptToken s extent)
  if src.home = ownPkg s then
    let toks := (List.range src.tlen).map (transcriptToken s src.transcript)
    transcriptPut s extent 0 (toks ++ own)
  else transcriptPut s extent 0 ((List.range src.tlen).map (fun p => Config.remoteToken src.home src.aseq p % 2 ^ 32) ++ own)

/-- The status of an ADMIT record at a replica (R334). -/
def admitStatus (s : State) (d : Nat) : Nat :=
  let src := getWard s (dWARD d)
  let held := (wards s).filter (fun p => p.2.ctx == dCtx d && p.2.cls == dCLASS d)
  if draining s then stMODEL_DRAINING
  else if (lowestFree s).isNone then stADMIT_FULL
  else if tenantField s (dCtx d) (64 + 16 * dCLASS d) 16 ≤ held.length then stTENANT_QUOTA
  else if dFORK d && decide (domainOf s src.ctx ≠ domainOf s (dCtx d)) then stPREFIX_DOMAIN_DENIED
  else if dFORK d && (src.aseq != dASEQ d || src.phase != .paused || src.rebuild
      || (dMODEL d != 0 && src.model != dMODEL d) || (dMODEL d == 0 && src.model != activeVersion s)
      || src.adpEn != dADP d || (dADP d && src.adapterId != dADAPTER d)) then stBAD_DESCRIPTOR
  else if dADP d && !(match readySlot s (dADAPTER d) with
      | some (_, v) => slotAdmits s v (dCtx d)
      | none => false) && !slotAvailable s then
    stADAPTER_BUSY
  else stOK

/-- The entry that an accepted admission fills (R335, R336). -/
def admitEntry (s : State) (r : OrderRecord) (w aseq b : Nat) : WardEntry :=
  let d := r.desc
  let src := getWard s (dWARD d)
  let fork := dFORK d
  { phase := .admitted, tenant := dTENANT d, sys := dSYS d, cls := dCLASS d, level := natBits d 31 4
    doomed := deadlinePassed b (dDEADLINE d), forked := fork, specEn := natBits d 35 1 == 1, adpEn := dADP d
    spill := false, rebuild := false, keep := natBits d 37 1 == 1, ackReq := natBits d 36 1 == 1
    deadline := dDEADLINE d, committed := if fork then src.committed else 0, speclen := 0, epoch := 0, adapter := 0
    plist := getF s fBZL_PL_BASE_BASE + w, model := activeVersion s, keepTtl := dTTL d
    tlen := dPROMPT_LEN d + (if fork then src.tlen else 0), limit := limitOf (dMAX_LEN d) (layerGroups s)
    interval := dINTERVAL d, admitTime := b, home := r.src, krSize := dKR d, outstanding := 0, aseq := aseq
    nextSeq := 1, transcript := r.extent, origin := r.origin, adapterId := dADAPTER d, held := .free }

/-- ADMIT applied (R334-R336). -/
def applyAdmit (s : State) (r : OrderRecord) (aseq b : Nat) : State :=
  let d := r.desc
  let st := admitStatus s d
  let s := setF s fWRD_ORDER_STAT_LAST_ASEQ aseq
  match lowestFree s with
  | none =>
    completeRecord (if r.src = ownPkg s then freeExtent s r.extent else s) r st 0 0
  | some w =>
    if st ≠ stOK then completeRecord (if r.src = ownPkg s then freeExtent s r.extent else s) r st 0 0
    else
      let e := admitEntry s r w aseq b
      let src := getWard s (dWARD d)
      let s := releaseList s w
      let s := if dFORK d then reserveReturns (forkPages s (dWARD d) w) w else s
      let s := if dFORK d && r.src == ownPkg s then forkTranscript s src r.extent (dPROMPT_LEN d) else s
      let s := setWard s w e
      let s := setInfo s w WardInfo.fresh
      let s := if r.src = ownPkg s then
          setDeliv s w { Delivery.none with
            aseq := aseq, destAddr := dDEST_ADDR d, destKey := dDEST_KEY d, destQp := dDEST_QP d }
        else s
      completeRecord s r stOK w aseq

/-- The record's command has no reserved encoding and names its target as R337 asks; `arg` is the home package's word that
its carrier is bound to the command's tenant (log entry 162). -/
def commandTarget (s : State) (r : OrderRecord) : Bool :=
  let e := getWard s (dWARD r.desc)
  commandOk r.desc && e.phase != .free && e.aseq == dASEQ r.desc && e.ctx == dCtx r.desc && e.home == r.src && r.arg == 1

/-- States that accept PAUSE (Table 09-8). -/
def pausable (p : WardPhase) : Bool :=
  match p with
  | .admitted => true
  | .adapterWait => true
  | q => pins q

def suspended (p : WardPhase) : Bool := p == .paused || p == .parked

/-- The tokens of an applied RESUME go into the transcript at the home package (R348). -/
def appendPrompt (s : State) (r : OrderRecord) (e : WardEntry) : State :=
  if r.src = ownPkg s then
    match s.ward.owed.find? (fun x => x.origin == r.origin && x.desc == r.desc) with
    | some x => transcriptPut s e.transcript e.tlen x.tokens
    | none => s
  else s

/-- PAUSE, RESUME or CANCEL applied at B. -/
def applyCommand (s : State) (r : OrderRecord) (b : Nat) : State :=
  let d := r.desc
  let w := dWARD d
  let e := getWard s w
  let answer := fun (s : State) (st : Nat) => completeRecord s r st w (dASEQ d)
  if !commandTarget s r then answer s stBAD_DESCRIPTOR
  else
    match r.kind with
    | .pause =>
      if pausable e.phase then answer (toPaused s w b (some (dTTL d))) stOK else answer s stBAD_DESCRIPTOR
    | .resume =>
      if !suspended e.phase then answer s stBAD_DESCRIPTOR
      else if deadlineFar b (dDEADLINE d) then answer s stDEADLINE_FAR
      else if e.limit ≤ e.tlen + dPROMPT_LEN d then answer s stBAD_DESCRIPTOR
      else
        let s := appendPrompt s r e
        let s := setWard s w { e with
          deadline := dDEADLINE d, interval := dINTERVAL d, doomed := false, spill := false
          tlen := e.tlen + dPROMPT_LEN d }
        answer (beginRestore s w) stOK
    | .cancel =>
      if e.phase.live then
        toFailed (answer s stOK) w 1
      else answer s stOK
    | _ => s

/-- The entry that a plain record names still stands. -/
def sameEntry (s : State) (w aseq : Nat) : Bool := (getWard s w).phase != .free && (getWard s w).aseq == aseq

/-- Count one package's record and say whether every package's has come. -/
def countRecord (s : State) (k w pkg : Nat) : Bool × State :=
  let s := if s.ward.counted.contains (k, w, pkg) then s
    else { s with ward := { s.ward with counted := (k, w, pkg) :: s.ward.counted } }
  ((members s).all (fun p => s.ward.counted.contains (k, w, p)), s)

/-- Forget what has been counted of a kind. -/
def clearCount (s : State) (k w : Nat) : State :=
  { s with ward := { s.ward with counted := s.ward.counted.filter (fun c => !(c.1 == k && c.2.1 == w)) } }

/-- EXPIRE or an expiry by ELAPSED takes effect on an entry (R295): REBUILD, COMMITTED 0, pages and copies released;
the home package raises TTL_EXPIRED. -/
def expireEntry (s : State) (w cause : Nat) : State :=
  let s := releaseList s w
  let s := { s with bezel := { s.bezel with expired := s.bezel.expired + 1 } }
  let s := modWard s w (fun e => { e with rebuild := true, committed := 0 })
  let e := getWard s w
  if e.home = ownPkg s then postOrigin s e.origin e.sys 0x31 cause w 0 e.aseq else s

/-- An EXPIRE record applied (Table 09-8): a restore that failed its check goes on as a rebuild. -/
def applyExpire (s : State) (w cause : Nat) : State :=
  let e := getWard s w
  if suspended e.phase then expireEntry s w cause
  else if cause = 2 && (getInfo s w).restoring && (e.phase == .adapterWait || e.phase == .pageWait) then
    beginRestore (expireEntry s w cause) w
  else s

/-- KDRAIN applied (R353). -/
def applyKdrain (s : State) (list : List (Nat × Nat × Nat)) : State :=
  list.foldl (fun s x =>
    if sameEntry s x.1 x.2.1 then
      modWard s x.1 (fun e => { e with outstanding := min e.outstanding ((e.nextSeq + 2 ^ 32 - 1 - x.2.2) % 2 ^ 32) })
    else s) s

/-- ADAPTER_READY from every replica, for the adapter that the slot loads, makes the slot READY and sends its waiters on to
PREFILL (R457, Table 09-8). -/
def applyAdapterReady (s : State) (slot id pkg : Nat) : State :=
  let (all, s) := if (getSlot s slot).phase == .loading && (getSlot s slot).id == id then countRecord s 3 slot pkg else (false, s)
  if all then
    let s := clearCount s 3 slot
    let s := setSlot s slot { getSlot s slot with phase := .ready }
    (wards s).foldl (fun s p =>
      if p.2.phase == .adapterWait && p.2.adpEn && p.2.adapterId == (getSlot s slot).id && p.2.adapter == slot then
          let s := modWard s p.1 (fun e => { e with phase := .prefill })
          if p.2.home = ownPkg s ∧ ¬(getInfo s p.1).restoring then
            { s with bezel := { s.bezel with lookups := nsInsert s.bezel.lookups p.1 } }
          else s
      else s) s
  else s

/-- The ordering package places START once it has applied a JOB_READY of one GEN from every package (16 R560). -/
def placeStart (s : State) : State :=
  if orderPkg s = ownPkg s ∧ !serving s then
    if (members s).all (fun p => s.cfg.jobReady.contains (p, activeGen s)) then
      { s with
        cfg := { s.cfg with jobReady := [] }
        ward := { s.ward with queue := s.ward.queue ++ [OrderRecord.plain .start (ownPkg s) 0 0 0] } }
    else s
  else s

/-- One record applied at time `b`; `aseq` is the ASEQ of an ADMIT (R340, Tables 09-6 and 16-6). -/
def applyOrder (s : State) (r : OrderRecord) (aseq b : Nat) : State :=
  match r.kind with
  | .admission => applyAdmit s r aseq b
  | .pause => applyCommand s r b
  | .resume => applyCommand s r b
  | .cancel => applyCommand s r b
  | .kdrain => applyKdrain s r.list
  | .release =>
    let e := getWard s r.ward
    if sameEntry s r.ward r.aseq && (e.phase == .done || e.phase == .failed) then
      let s := if e.home = ownPkg s then
          let s := freeExtent s e.transcript
          { s with ward := { s.ward with deliv := tabDel s.ward.deliv r.ward } }
        else s
      setWard { s with ward := { s.ward with failing := tabDel s.ward.failing r.ward } } r.ward WardEntry.freed
    else s
  | .parked =>
    if sameEntry s r.ward r.aseq && (getWard s r.ward).phase == .paused then
      let (all, s) := countRecord s 1 r.ward r.src
      if all then modWard (clearCount s 1 r.ward) r.ward (fun e => { e with phase := .parked }) else s
    else s
  | .ready => if sameEntry s r.ward r.aseq && (getInfo s r.ward).restoring then (countRecord s 2 r.ward r.src).2 else s
  | .adapterReady => applyAdapterReady s r.arg r.extent r.src
  | .fail => if sameEntry s r.ward r.aseq && (getWard s r.ward).phase.live then toFailed s r.ward r.arg else s
  | .expire => if sameEntry s r.ward r.aseq then applyExpire s r.ward r.arg else s
  | .commitReady => { s with cfg := { s.cfg with ready := (r.src, r.arg) :: s.cfg.ready } }
  | .commitWithdraw => { s with cfg := { s.cfg with ready := s.cfg.ready.filter (fun x => x != (r.src, r.arg)) } }
  | .stop => if serving s then raiseF s fCFG_STAT_STOPPING else s
  | .jobReady =>
    placeStart { s with cfg := { s.cfg with jobReady := (r.src, r.arg) :: s.cfg.jobReady.filter (fun x => x.1 != r.src) } }
  | .start => s

/-- The records of a batch in order, each ADMIT with the next ASEQ. -/
def applyRecs (b : Nat) : List OrderRecord → Nat → State → State
  | [], _, s => s
  | r :: rs, aseq, s =>
    applyRecs b rs (if r.kind == .admission then (aseq + 1) % 2 ^ 32 else aseq) (applyOrder s r aseq b)

/-- One batch applied. -/
def applyBatch (s : State) (x : Batch) (b : Nat) : State :=
  let s := { s with
    ward := { s.ward with
      batches := s.ward.batches.filter (fun y => y.number != x.number)
      lastApply := some x.apply }
    fault := { s.fault with batches := s.fault.batches.drop (s.fault.batches.length - 255) ++ [x] } }
  let s := setF s fWRD_ORDER_STAT_LAST_BATCH x.number
  applyRecs b x.recs x.first s

/-- Every due batch in number order (R340). -/
def applyDue (b : Nat) : Nat → State → State
  | 0, s => s
  | n + 1, s =>
    match nextHeld s with
    | none => s
    | some x => if x.apply ≤ b then applyDue b n (applyBatch s x b) else s

/-! ### Keyrings (R351-R353) -/

/-- Copy one Keyring entry to its destination. -/
def copyEntry (s : State) (w : Nat) (e : WardEntry) (d : Delivery) (q : Nat) : State :=
  let a := keyringAddr s w e.krSize q
  let s := bezelRead s a 16
  let v := hbmLoad s a 16
  let dst := d.destAddr + 16 * (q % ringEntries e.krSize)
  match e.origin with
  | .pcie fn _ => s.emit .hostWrite [fn, dst, 16, v]
  | .qp _ _ => rdmaPut s d.destQp dst d.destKey 16 v

/-- KEYRING_COPY_OUT (R351): the entries written and not yet copied go out in sequence. -/
def execKeyringCopyOut (ward : Fin 65536) (s : State) : Host.Outcome State Fault Refusal :=
  let e := getWard s ward
  let d := getDeliv s ward
  if e.phase = .free ∨ e.home ≠ ownPkg s ∨ d.failed then .next s
  else
    let n := d.written - d.copied
    let s := (List.range n).foldl (fun s i => copyEntry s ward e d (d.copied + 1 + i)) s
    .next (setDeliv s ward { getDeliv s ward with copied := d.copied + n })

/-- KEYRING_WRITE_COMPLETE (R352). -/
def execKeyringWriteComplete (ward : Fin 65536) (seq : Nat) (good : Bool) (s : State) :
    Host.Outcome State Fault Refusal :=
  let e := getWard s ward
  let d := getDeliv s ward
  if e.phase = .free ∨ e.home ≠ ownPkg s ∨ d.copied < seq ∨ seq ≤ d.completed ∨ d.failed then .next s
  else if !good then .next (deliveryFailure s ward)
  else
    let n := seq - d.completed
    let d := { d with completed := seq, delivered := if e.ackReq then d.delivered else seq }
    let s := setDeliv s ward d
    let s := if e.ackReq then s else countTenant s e.ctx 0 n
    .next (releaseIfDelivered s ward)

/-- KEYRING_ACK (R352). -/
def execKeyringAck (origin : Origin) (value : Word) (s : State) : Host.Outcome State Fault Refusal :=
  let v := value.toNat
  let w := natBits v 0 16
  let q := natBits v 32 32
  let e := getWard s w
  let d := getDeliv s w
  let fromOrigin := match origin, e.origin with
    | .pcie f _, .pcie g _ => f == g
    | .qp i _, .qp j _ => i == j
    | _, _ => false
  if e.phase != .free && e.home == ownPkg s && e.aseq % 2 ^ 16 == natBits v 16 16 && fromOrigin &&
      decide (q ≤ d.written) then
    if e.ackReq && decide (d.delivered < q) then
      let s := countTenant (setDeliv s w { d with delivered := q }) e.ctx 0 (q - d.delivered)
      .next (releaseIfDelivered s w)
    else .next s
  else .next (setF (raiseF s fWRD_ERR_ACK_DISCARDED) fWRD_ERR_LAST_WARD w)

/-- KDRAIN_SEND (R353): the progress of every request that has advanced. -/
def execKdrainSend (s : State) : Host.Outcome State Fault Refusal :=
  let adv := s.ward.deliv.filter (fun p => decide (p.2.drained < p.2.delivered))
  if adv = [] then .next s
  else
    let s := sendRecord s { OrderRecord.plain .kdrain (ownPkg s) 0 0 0 with
      list := adv.map (fun p => (p.1, p.2.aseq, p.2.delivered)) }
    .next { s with ward := { s.ward with deliv := tabMap s.ward.deliv (fun d => { d with drained := d.delivered }) } }

/-- A write of WRD_ENT_SEL. -/
def wrdEntSel (s : State) (ward : Nat) : State :=
  let s := setF (setF s fWRD_ENT_SEL_WARD ward) fWRD_ENT_SEL_VALID 0
  { s with ward := { s.ward with entWanted := true } }

/-- WRD_ENT_SEL_WRITE (R354, R355). -/
def execWrdEntSelWrite (fn : Fin 64) (ward : Fin 65536) (s : State) : Host.Outcome State Fault Refusal :=
  .next (pfWrite s rWRD_ENT_SEL fn (fun s => wrdEntSel s ward))

/-- The copy taken at a step boundary (R355). -/
def copyWardEntry (s : State) : State :=
  if s.ward.entWanted then
    let e := getWard s (getF s fWRD_ENT_SEL_WARD)
    let s := { s with ward := { s.ward with entWanted := false, entCopy := if e.phase = .free then 0 else e.pack } }
    raiseF s fWRD_ENT_SEL_VALID
  else s

end Sys2Proof.Machine
end

