-- ==== Sys2Proof/Machine/WardenOps.lean ====
section
/-!
DEFINITION. The Warden's work at a boundary (spec 10): lanes, results and facts (R365), transitions, deadline tests
(R375), formation in three passes (R370-R374), page pressure (R382-R384) and the digest (R390).
-/
namespace Sys2Proof.Machine

open Sys2Proof

/-! ### Lanes -/

/-- The parameters of a lane (Table 10-2, 16 R545). -/
structure LaneParams where
  rowsMax   : Nat
  tokensMax : Nat
  base      : Nat
  row       : Nat
  token     : Nat
  kv        : Nat
  deriving DecidableEq, Repr

def laneParams (s : State) (n : Nat) : LaneParams :=
  let r := (activeRecs s 0x0004 1).getD n 0
  ⟨natBits r 0 16, natBits r 16 16, natBits r 32 32, natBits r 64 16, natBits r 80 16, natBits r 96 16⟩

/-- BOUND in ns (Table 10-2). -/
def laneBound (n : Nat) : Nat := if n = 0 then 40000 else 1200000

/-- The lane of a state for a class (R358). -/
def laneOfPhase (cls : Nat) (p : WardPhase) (more : Bool) : Option Nat :=
  match p with
  | .prefill => some (if cls = 0 then 1 else 2)
  | .decode => some (if cls = 0 then 0 else 2)
  | .verify => some (if cls = 0 then 0 else 2)
  | .pageWait => some (if cls = 0 then (if more then 1 else 0) else 2)
  | _ => none

def laneOf (e : WardEntry) : Option Nat := laneOfPhase e.cls e.phase (decide (1 < e.tlen - e.committed))

/-- The lane of an entry that waits outside the steps: the one that it will return to (R376). -/
def waitLane (e : WardEntry) : Option Nat :=
  let more := decide (1 < e.tlen - e.committed)
  match e.phase with
  | .adapterWait => some (if e.cls = 0 then 1 else 2)
  | .held => laneOfPhase e.cls e.held more
  | .paused => laneOfPhase e.cls .pageWait more
  | .parked => laneOfPhase e.cls .pageWait more
  | _ => none

/-- The lane in which an entry waits before its first chunk. -/
def prefillLane (e : WardEntry) : Nat := if e.cls = 0 then 1 else 2

/-- Ceiling of positions over 1,024. -/
def kvUnits (n : Nat) : Nat := (n + 1023) / 1024

/-- The longest chunk from COMMITTED (R370), trying from the largest length down by 64. -/
def chunkFrom (p : LaneParams) (c : Nat) : Nat → Nat → Nat
  | 0, _ => 0
  | k + 1, n =>
    if n = 0 then 0
    else if p.base + p.token * n + p.kv * kvUnits (c + n) ≤ 1200000 then n
    else chunkFrom p c k ((c + n - 1) / 64 * 64 - c)

def chunkLen (p : LaneParams) (c tlen : Nat) : Nat :=
  let n := min 2048 (tlen - c)
  let n := if c + n = tlen then n else (c + n) / 64 * 64 - c
  chunkFrom p c 34 n

/-- The time left to prefill, chunk by chunk (R375). -/
def prefillTime (p : LaneParams) (tlen : Nat) : Nat → Nat → Nat
  | 0, _ => 0
  | k + 1, c =>
    if tlen ≤ c then 0
    else
      let n := max 1 (chunkLen p c tlen)
      p.base + p.token * n + p.kv * kvUnits (c + n) + prefillTime p tlen k (c + n)

/-- A candidate of a step (R370). -/
structure Cand where
  ward   : Nat
  aseq   : Nat
  ctx    : Nat
  cls    : Nat
  level  : Nat
  dl     : Nat
  doomed : Bool
  kind   : Nat
  first  : Nat
  count  : Nat
  drafts : Nat
  epoch  : Nat
  part   : Nat
  gives  : Bool
  deriving DecidableEq, Repr

/-- The key of R371: class ascending, level descending, earliest deadline, oldest ASEQ. -/
def keyLt (a b : Cand) : Bool :=
  if a.cls ≠ b.cls then decide (a.cls < b.cls)
  else if a.level ≠ b.level then decide (b.level < a.level)
  else if a.dl ≠ b.dl then serialLt a.dl b.dl
  else serialLt a.aseq b.aseq

/-- Keyring credit (R350). -/
def credit (e : WardEntry) : Nat := ringEntries e.krSize - e.outstanding

/-- The drafts of a decode row: what the table set proposes, within Keyring credit, LIMIT and SPECLEN's width (R370). -/
def draftsOf (proposed : List (Nat × Nat)) (w : Nat) (e : WardEntry) : Nat :=
  if e.specEn then min (min (tabGet 0 proposed w) (credit e - 2)) (min (e.limit - e.tlen - 1) 255) else 0

/-- An entry as a candidate of its lane, or the cause that leaves it out (R350, R370); `proposed` gives the drafts
that the table set proposes. -/
def asCand (s : State) (lane : Nat) (proposed : List (Nat × Nat)) (w : Nat) (e : WardEntry) : Cand ⊕ Nat :=
  let p := laneParams s lane
  let mk := fun (kind count drafts part : Nat) (gives : Bool) =>
    Cand.mk w e.aseq e.ctx e.cls e.level e.deadline e.doomed kind e.committed count drafts e.epoch part gives
  let pre := e.phase == .prefill || (e.phase == .pageWait && decide (1 < e.tlen - e.committed))
  if pre then
    let n := chunkLen p e.committed e.tlen
    let last := e.committed + n = e.tlen
    if n = 0 then .inr 1
    else if last ∧ credit e ≤ 1 then .inr 7
    else .inl (mk 0 n 0 (p.token * n + p.kv * kvUnits (e.committed + n)) (decide last))
  else if e.phase == .verify then
    if credit e ≤ e.speclen + 1 then .inr 7
    else .inl (mk 2 (1 + e.speclen) e.speclen (p.row * (1 + e.speclen) + p.kv * kvUnits e.committed) true)
  else
    let d := draftsOf proposed w e
    if d = 0 ∧ credit e ≤ 1 then .inr 7
    else .inl (mk 1 (1 + d) d (p.row * (1 + d) + p.kv * kvUnits e.committed) (decide (d = 0)))

/-! ### Results and facts (R365, Table 09-8) -/

/-- Deliver `n` tokens of a step to an entry; the home package appends them to the transcript (R346). -/
def deliverTokens (s : State) (w n : Nat) : State :=
  let e := getWard s w
  let s := if e.home = ownPkg s ∧ n ≠ 0 then
      noteWritten (transcriptPut s e.transcript e.tlen
        ((List.range n).map (fun i => hbmLoad s (keyringAddr s w e.krSize (e.nextSeq + i)) 4))) w (e.nextSeq + n - 1)
    else s
  let s := setWard s w { e with
    tlen := e.tlen + n
    nextSeq := (e.nextSeq + n) % 2 ^ 32
    outstanding := e.outstanding + n
    deadline := if e.interval = 0 then e.deadline else (e.deadline + n * e.interval) % 2 ^ 32 }
  if n = 0 then s else modInfo s w (fun i => { i with leftOut := none })

/-- The lengths of a request after a step: committed and speculative length, epoch, state and tokens (Table 09-8, R274).
Verification returns every page beyond the new committed length. -/
def applyResult (s : State) (d : Decision) (r : StepResult) : State :=
  let w := d.ward
  let e := getWard s w
  if !sameEntry s w d.aseq then s
  else if d.kind = 0 ∧ e.phase = .prefill then
    let s := setWard s w { e with
      committed := e.committed + d.count
      phase := if e.committed + d.count = e.tlen then .decode else .prefill }
    deliverTokens s w r.deliv
  else if d.kind = 1 ∧ e.phase = .decode then
    if 0 < d.drafts then
      setWard s w { e with committed := e.committed + 1, speclen := d.drafts, phase := .verify }
    else deliverTokens (setWard s w { e with committed := e.committed + 1 }) w r.deliv
  else if d.kind = 2 ∧ e.phase = .verify then
    let c := e.committed + r.accept
    let s := setWard s w { e with
      committed := c, speclen := 0, phase := .decode
      epoch := if r.accept < d.drafts then (e.epoch + 1) % 256 else e.epoch }
    deliverTokens (releaseAbove s w c) w r.deliv
  else s

/-- A step without a sample for a request still advances it: a chunk before the last, and a row that writes drafts; nothing
is delivered (Table 09-8, log entry 163). -/
def advances (s : State) (d : Decision) : Bool :=
  (d.kind == 0 && decide (d.first + d.count < (getWard s d.ward).tlen)) || (d.kind == 1 && decide (0 < d.drafts))

/-- The end of a request or of its turn (Table 09-8): a turn ends with KEEP below LIMIT, everything else is DONE. -/
def endResult (s : State) (b : Nat) (d : Decision) (r : StepResult) : State :=
  let w := d.ward
  let e := getWard s w
  if !sameEntry s w d.aseq || !r.ended || !(e.phase == .decode || e.phase == .verify) then s
  else if e.keep && decide (e.tlen < e.limit) then
    toPaused s w b (some e.keepTtl)
  else
    let s := if e.home = ownPkg s then modDeliv s w (fun x => { x with endSeq := (e.nextSeq + 2 ^ 32 - 1) % 2 ^ 32 }) else s
    toDone s w

/-- A failed entry whose step has ended: its tokens count, and the ERROR entry follows them (R343). -/
def failResult (s : State) (d : Decision) (r : StepResult) : State :=
  match tabFind s.ward.failing d.ward with
  | none => s
  | some cause =>
    if !sameEntry s d.ward d.aseq then s
    else
      let s := { s with ward := { s.ward with failing := tabDel s.ward.failing d.ward } }
      releaseIfDelivered (errorEntry (deliverTokens s d.ward r.deliv) d.ward cause) d.ward

/-- The exchanges held for the lane's step in flight. -/
def Lane.now (l : Lane) : List StepExchange := l.exch.filter (fun x => x.step == l.step)

/-- What a step did for a request: the result that some package sampled, or none. -/
def Lane.resultOf (l : Lane) (d : Decision) : Option StepResult :=
  (l.now.flatMap StepExchange.results).find? (fun r => r.ward == d.ward && r.aseq == d.aseq)

/-- Publish the blocks that a step has made fully committed, in ward-index order (07 R303): what the table already has is
refreshed first, so that no eviction of the step comes before (R305). -/
def publishStep (s : State) (l : Lane) : State :=
  let ds := (sortBy (fun (a b : Decision) => decide (a.ward < b.ward)) l.decisions).filter (fun d =>
    sameEntry s d.ward d.aseq && (getWard s d.ward).phase.live && decide (d.kind < 3))
  let s := { s with bezel := { s.bezel with setsUsed := [] } }
  let s := ds.foldl (fun s d => refreshWard s d.ward d.first (getWard s d.ward).committed) s
  ds.foldl (fun s d => insertWard s d.ward d.first (getWard s d.ward).committed) s

/-- A match count applied (R302, 09 R348): the matched positions are committed, a rebuild has its start. A fork keeps a
larger COMMITTED (log entry 159). -/
def applyMatch (s : State) (x : Nat × Nat × Nat) : State :=
  if sameEntry s x.1 x.2.1 then
    let s := modWard s x.1 (fun e =>
      { e with rebuild := false, committed := if e.forked ∧ ¬e.rebuild then max e.committed (64 * x.2.2) else 64 * x.2.2 })
    noteAbsent (modInfo s x.1 (fun i => { i with matched := true })) x.1 (getWard s x.1).committed
  else s

/-- Phase 1 of the boundary that ends a lane's step (R340, R365): results, publication, ends of requests, then the local
facts of the step before. -/
def phaseResults (s : State) (lane b : Nat) : State :=
  let l := getLane s lane
  let s := l.decisions.foldl (fun s d =>
    match l.resultOf d with
    | some r => applyResult s d r
    | none => if advances s d then applyResult s d ⟨d.ward, d.aseq, 0, 0, false, false⟩ else s) s
  let s := l.decisions.foldl (fun s d => noteAbsent s d.ward (getWard s d.ward).committed) s
  let s := publishStep s l
  let s := l.decisions.foldl (fun s d => failResult s d ((l.resultOf d).getD ⟨d.ward, d.aseq, 0, 0, false, false⟩)) s
  let s := l.decisions.foldl (fun s d => ((l.resultOf d).map (endResult s b d)).getD s) s
  let s := l.facts.foldl applyMatch s
  let s := { s with warden := { s.warden with
      headroom := l.reports.foldl (fun t x => tabSet t x.1 x.2) s.warden.headroom } }
  setLane s lane { getLane s lane with
    facts := l.now.flatMap StepExchange.matched
    reports := l.now.map (fun x => (x.sender, x.headroom, x.report)) }

/-- Exchanges whose digest differs from this package's own (R391). -/
def digestCheck (s : State) (lane : Nat) : State :=
  let l := getLane s lane
  match l.now.find? (fun x => x.digest != l.digest) with
  | none => s
  | some x =>
    let s := setF (raiseF s fWDN_ERR_DIGEST_MISMATCH) fWDN_ERR_LAST_PKG x.sender
    let s := postPF s 0x13 lane 0 x.sender l.step
    declareFault s 0x0008 (FaultAt.package x.sender)

/-! ### Phase 3, step 1 -/

/-- Leave ADMITTED, or an ADAPTER_WAIT without a slot (R369, R455). -/
def admittedStep (s : State) (w : Nat) : State :=
  let e := getWard s w
  let lookup := fun (s : State) =>
    if e.home = ownPkg s then { s with bezel := { s.bezel with lookups := nsInsert s.bezel.lookups w } } else s
  let go := fun (s : State) (slot : Nat) =>
    let s := setWard s w { e with phase := .prefill, adapter := slot }
    if (getInfo s w).restoring then s else lookup s
  if !e.adpEn then go s e.adapter
  else
    match readySlot s e.adapterId with
    | some (n, v) =>
      if slotAdmits s v e.ctx then go s n
      else if e.home = ownPkg s then sendFail (setWard s w { e with phase := .adapterWait }) w 4
      else setWard s w { e with phase := .adapterWait }
    | none =>
      if (getInfo s w).pinned then s
      else
        match chooseAdapterSlot s e.adapterId with
        | none => setWard s w { e with phase := .adapterWait }
        | some n =>
          let s := if (getSlot s n).phase == .loading then s
            else loadSlot s n e.adapterId
          let s := setWard s w { e with phase := .adapterWait, adapter := n }
          modInfo s w (fun i => { i with pinned := true })

/-- HELD entries return once the hinge step has ended (R450). -/
def heldReturn (s : State) : State :=
  if s.hinge.hingeStep.isSome then s
  else (wards s).foldl (fun s p =>
    if p.2.phase = .held then
      modWard s p.1 (fun e =>
        { e with phase := if e.held = .pageWait then (if 1 < e.tlen - e.committed then .prefill else .decode) else e.held
                 held := .free })
    else s) s

/-- Expiry by ELAPSED at B (R295): the decisions and the state. -/
def elapsedExpiry (s : State) (b : Nat) : List Decision × State :=
  (wards s).foldl (fun (a : List Decision × State) p =>
    let s := a.2
    let t := (getList s p.1).ttl
    if suspended p.2.phase && t != 0 && decide (t ≤ b) && !p.2.rebuild then
      (a.1 ++ [⟨p.1, p.2.aseq, 5, p.2.doomed, false, 0, 0, p.2.epoch, 0⟩], expireEntry s p.1 0)
    else a) ([], s)

/-- An entry's rank for precedence among suspended and waiting requests, DOOMED last. -/
def entryCand (w : Nat) (e : WardEntry) : Cand :=
  ⟨w, e.aseq, e.ctx, e.cls, e.level, e.deadline, e.doomed, 0, 0, 0, 0, 0, 0, false⟩

/-- `a` has higher precedence than `b`. -/
def precedes (a b : Cand) : Bool := if a.doomed ≠ b.doomed then b.doomed else keyLt a b

/-- Pages that a package can still supply (R374). -/
def supply (s : State) (pkg : Nat) : Nat :=
  match tabFind s.warden.headroom pkg with
  | none => 0
  | some (h, rep) =>
    h - (s.warden.reserved.filter (fun x => x.2.1 == pkg && decide (rep < x.1))).foldl (fun a x => a + x.2.2) 0

def canSupply (s : State) (pages : Nat) : Bool := (members s).all (fun p => decide (pages ≤ supply s p))

/-- Reserve pages on every package for the step being formed (R374). -/
def reservePages (s : State) (step w pages : Nat) : State :=
  { s with
    warden := { s.warden with reserved := s.warden.reserved ++ (members s).map (fun p => (step, p, pages)) }
    bezel := { s.bezel with resv := tabMod 0 s.bezel.resv w (fun v => v + pages) } }

/-- Resume the spilled entry of highest precedence (R384). -/
def spilledResume (s : State) (step : Nat) : List Decision × State :=
  let sp := (wards s).filter (fun p => p.2.spill && suspended p.2.phase)
  match sortBy (fun a b => precedes (entryCand a.1 a.2) (entryCand b.1 b.2)) sp with
  | [] => ([], s)
  | (w, e) :: _ =>
    let waiting := (wards s).any (fun p => p.2.phase == .pageWait && precedes (entryCand p.1 p.2) (entryCand w e))
    let pages := (e.committed + 63) / 64 * layerGroups s
    if waiting || !canSupply s pages then ([], s)
    else
      let s := reservePages s step w pages
      let s := beginRestore (setWard s w { e with spill := false }) w
      ([⟨w, e.aseq, 6, e.doomed, false, 0, 0, e.epoch, 0⟩], s)

/-! ### Phase 3, step 2 (R375, R376) -/

/-- The earliest time at which an entry's next token could be delivered: its remaining chunks, or a step that holds only its
next row, with the positions that R370 gives that row. -/
def earliest (s : State) (b : Nat) (proposed : List (Nat × Nat)) (w : Nat) (e : WardEntry) : Nat :=
  let verify := e.phase == .verify || (e.phase == .held && e.held == .verify)
  let needs := match e.phase with
    | .decode => false
    | .verify => false
    | .held => !verify && decide (1 < e.tlen - e.committed)
    | .pageWait => decide (1 < e.tlen - e.committed)
    | _ => true
  if needs then b + prefillTime (laneParams s (prefillLane e)) e.tlen 65536 e.committed
  else
    let p := laneParams s (if e.cls = 0 then 0 else 2)
    b + p.base + p.row * (1 + if verify then e.speclen else draftsOf proposed w e) + p.kv * kvUnits e.committed

/-- The home package posts a Warden event of a request (R377). -/
def requestEvent (s : State) (w code cause : Nat) : State :=
  let e := getWard s w
  if e.home = ownPkg s then postOrigin s e.origin e.sys code cause w 0 e.aseq else s

/-- The deadline tests at B; only the home package counts a miss (R377). -/
def deadlineTests (s : State) (b : Nat) (proposed : List (Nat × Nat)) : State :=
  (wards s).foldl (fun s p =>
    let e := p.2
    if e.doomed || suspended e.phase || !e.phase.live then s
    else
      let cause := (getInfo s p.1).leftOut.getD 0
      let doom := fun (s : State) => modWard s p.1 (fun e => { e with doomed := true })
      if deadlinePassed b e.deadline then
        let s := doom (requestEvent s p.1 0x10 cause)
        if e.home = ownPkg s then countTenant s e.ctx 3 1 else s
      else if 2 ^ 31 ≤ ahead (earliest s b proposed p.1 e) e.deadline then doom (requestEvent s p.1 0x11 cause)
      else s) s

/-! ### Phase 3, steps 3 and 4 (R370-R374) -/

/-- A step being formed; `short` lists the candidates whose pages could not be reserved. -/
structure Forming where
  est    : Nat
  rows   : Nat
  tokens : Nat
  taken  : List (Cand × Bool)
  short  : List Cand
  deriving DecidableEq, Repr

def Cand.rows (c : Cand) : Nat := if c.kind = 0 then 0 else 1
def Cand.tokens (c : Cand) : Nat := if c.kind = 0 then c.count else 0

/-- Rows and tokens that a context has taken. -/
def ctxRows (f : Forming) (ctx : Nat) : Nat := (f.taken.filter (fun x => x.1.ctx == ctx)).foldl (fun a x => a + x.1.rows) 0
def ctxTokens (f : Forming) (ctx : Nat) : Nat :=
  (f.taken.filter (fun x => x.1.ctx == ctx)).foldl (fun a x => a + x.1.tokens) 0

/-- CAP_ROWS is kept (Table 10-8; 0 = no cap). -/
def capRowsOk (s : State) (f : Forming) (c : Cand) : Bool :=
  let cap := tenantField s c.ctx 48 16
  cap == 0 || c.kind == 0 || decide (ctxRows f c.ctx + c.rows ≤ cap)

/-- caps_ok (R372). -/
def capsOk (s : State) (lane : Nat) (f : Forming) (c : Cand) : Bool :=
  let p := laneParams s lane
  decide (f.rows + c.rows ≤ p.rowsMax) && decide (f.tokens + c.tokens ≤ p.tokensMax) && capRowsOk s f c

/-- within_reservation (R371, Table 10-8). -/
def withinReservation (s : State) (lane : Nat) (f : Forming) (c : Cand) : Bool :=
  let rows := if lane = 0 then tenantField s c.ctx 128 16 else if lane = 2 then tenantField s c.ctx 160 16 else 0
  let toks := if lane = 1 then tenantField s c.ctx 144 16 else if lane = 2 then tenantField s c.ctx 176 16 else 0
  if c.kind = 0 then decide (ctxTokens f c.ctx + c.tokens ≤ toks) else decide (ctxRows f c.ctx + 1 ≤ rows)

/-- fits (R372). -/
def fitsStep (s : State) (lane b : Nat) (f : Forming) (limit : Nat) (c : Cand) : Bool :=
  let e := f.est + c.part
  capsOk s lane f c && decide (e ≤ limit) &&
  f.taken.all (fun x => x.1.doomed || !x.1.gives || !serialLt x.1.dl (usOf (b + e)))

/-- Pages that a candidate's step can need (R374). -/
def pagesNeeded (s : State) (c : Cand) : Nat :=
  ((c.first + c.count - 1) / 64 - c.first / 64 + 1) * layerGroups s

/-- Every replica's READY has been applied to a restoring entry. -/
def restoreReady (s : State) (w : Nat) : Bool :=
  !(getInfo s w).restoring || (members s).all (fun p => s.ward.counted.contains (2, w, p))

/-- The phase that a PAGE_WAIT entry returns to. -/
def waitReturn (e : WardEntry) : WardPhase := if 1 < e.tlen - e.committed then .prefill else .decode

/-- Take a candidate whose pages can be reserved; otherwise it enters PAGE_WAIT (R374). -/
def tryTake (step : Nat) (p1 : Bool) (a : Forming × State) (c : Cand) : Forming × State :=
  let (f, s) := a
  let n := pagesNeeded s c
  let e := getWard s c.ward
  if !restoreReady s c.ward then (f, modInfo s c.ward (fun i => { i with leftOut := some 8 }))
  else if canSupply s n then
    let s := reservePages s step c.ward n
    let s := if e.phase = .pageWait then setWard s c.ward { e with phase := waitReturn e } else s
    let s := if (getInfo s c.ward).restoring then
        clearCount (modInfo s c.ward (fun i => { i with restoring := false })) 2 c.ward
      else s
    ({ f with est := f.est + c.part, rows := f.rows + c.rows, tokens := f.tokens + c.tokens
              taken := f.taken ++ [(c, p1)] }, s)
  else
    let s := if e.phase = .prefill ∨ e.phase = .decode then setWard s c.ward { e with phase := .pageWait } else s
    ({ f with short := f.short ++ [c] }, modInfo s c.ward (fun i => { i with leftOut := some 4 }))

/-- Not yet taken, and not turned away for pages in this step. -/
def remaining (f : Forming) (cs : List Cand) : List Cand :=
  cs.filter (fun c => !f.taken.any (fun x => x.1.ward == c.ward) && !f.short.any (fun x => x.ward == c.ward))

/-- The reservation of the candidate's own tenant would have held it, and requests of that tenant before it took the room
(log entry 164). -/
def ownOrder (s : State) (lane : Nat) (f : Forming) (c : Cand) : Bool :=
  withinReservation s lane { f with taken := [] } c &&
    !withinReservation s lane { f with taken := f.taken.filter (fun x => x.2) } c

/-- The reason a candidate was passed over (Table 10-6). -/
def passedCause (s : State) (lane : Nat) (f : Forming) (c : Cand) : Nat :=
  let p := laneParams s lane
  let p1 := f.taken.filter (fun x => x.2 && x.1.ctx != c.ctx)
  if !capRowsOk s f c || ownOrder s lane f c then 3
  else if p.rowsMax < (p1.map (fun x => x.1.rows)).sum + c.rows ∨ p.tokensMax < (p1.map (fun x => x.1.tokens)).sum + c.tokens
  then 2
  else 1

/-- Passes 1 to 3 (R371). -/
def threePasses (s : State) (lane step b : Nat) (cs : List Cand) : Forming × State :=
  let ks := sortBy keyLt cs
  let f0 : Forming := ⟨(laneParams s lane).base, 0, 0, [], []⟩
  let tenants := (sortBy (fun (a b : Nat) => decide (a < b)) (cs.map Cand.ctx)).eraseDups
  let a := tenants.foldl (fun (a : Forming × State) t =>
    let mine := ks.filter (fun c => c.ctx == t)
    (mine.filter (fun c => !c.doomed) ++ mine.filter (fun c => c.doomed)).foldl (fun a c =>
      if withinReservation a.2 lane a.1 c && capsOk a.2 lane a.1 c then tryTake step true a c else a) a) (f0, s)
  let limit := a.1.est + laneBound lane
  let pass := fun (a : Forming × State) (cs : List Cand) =>
    cs.foldl (fun (a : Forming × State) c =>
      if fitsStep a.2 lane b a.1 limit c then tryTake step false a c
      else (a.1, modInfo a.2 c.ward (fun i => { i with leftOut := some (passedCause a.2 lane a.1 c) }))) a
  let a := pass a ((remaining a.1 ks).filter (fun c => !c.doomed))
  pass a (sortBy (fun x y => serialLt x.aseq y.aseq) ((remaining a.1 ks).filter (fun c => c.doomed)))

/-- Candidates of a lane, those of other lanes' hinge barrier moved to HELD (R369, R450), and the causes of those
left out. -/
def listCands (s : State) (lane : Nat) (proposed : List (Nat × Nat)) : List Cand × State :=
  let holding := match s.hinge.hingeStep with
    | none => false
    | some (l, _) => l != lane
  (wards s).foldl (fun (a : List Cand × State) p =>
    let (w, e) := p
    let s := a.2
    let out := fun (s : State) (c : Nat) => modInfo s w (fun i => { i with leftOut := some c })
    if laneOf e = some lane then
      if holding then
        (a.1, out (setWard s w { e with phase := .held, held := if e.phase = .pageWait then .pageWait else e.phase }) 6)
      else if (e.phase == .prefill || e.phase == .pageWait) && !(getInfo s w).matched then a
      else
        match asCand s lane proposed w e with
        | .inl c => (a.1 ++ [c], modInfo s w (fun i => { i with pass1 := false }))
        | .inr c => (a.1, out s c)
    else if waitLane e = some lane then
      (a.1, out s (if e.phase = .adapterWait then 5 else if e.phase = .held then 6 else 8))
    else a) ([], s)

/-! ### Phase 3, step 5 (R382, R383) -/

/-- The first package that is short for a candidate. -/
def shortPkg (s : State) (c : Cand) : Nat :=
  ((members s).find? (fun p => decide (supply s p < pagesNeeded s c))).getD 0

/-- An ordered park has not yet become PARKED. -/
def parkPending (s : State) : Bool :=
  (wards s).any (fun p => (getInfo s p.1).parkWanted && p.2.phase == .paused)

/-- The requests that a spill for `c` may take (R383): running, of lower precedence, holding pages, not taken by pass 1 in the
latest step of their lane. Every package holds pages of a request with committed positions (log entry 165). -/
def spillVictims (s : State) (c : Cand) : List (Nat × WardEntry) :=
  (wards s).filter (fun p =>
    (p.2.phase == .prefill || p.2.phase == .decode) && !(getInfo s p.1).pass1 && precedes c (entryCand p.1 p.2) &&
      decide (0 < p.2.committed))

/-- Spill one request (R383, R296). -/
def spill (s : State) (w : Nat) (e : WardEntry) (pkg : Nat) : State :=
  let s := toPaused s w 0 none
  let s := modWard s w (fun e => { e with spill := true })
  let s := modInfo s w (fun i => { i with parkWanted := true })
  let s := raiseF s fWDN_ERR_SPILL
  let s := if e.home = ownPkg s then postOrigin s e.origin e.sys 0x12 0 w pkg e.aseq else s
  beginPark s w

/-- Freeing steps for the shortfalls of a step being formed (R382): parks, at most 8 and none while an earlier one is under
way; once no PAUSED entry is left unparked, one spill, for the shortfall of highest precedence that has a victim. A request
that the step has taken keeps its row out of the step when it is spilled. -/
def pagePressure (s : State) (f : Forming) : List Decision × State :=
  if f.short == [] || parkPending s then ([], s)
  else
    let ps := (wards s).filter (fun p => p.2.phase == .paused)
    let ps := sortBy (fun (a b : Nat × WardEntry) =>
      let ta := (getList s a.1).ttl
      let tb := (getList s b.1).ttl
      if ta ≠ tb then decide (tb = 0 ∨ (ta ≠ 0 ∧ ta < tb)) else serialLt a.2.aseq b.2.aseq) ps
    if ps ≠ [] then
      let go := ps.take 8
      (go.map (fun p => ⟨p.1, p.2.aseq, 3, p.2.doomed, false, 0, 0, p.2.epoch, 0⟩),
       go.foldl (fun s p => beginPark (modInfo s p.1 (fun i => { i with parkWanted := true })) p.1) s)
    else
      let lowest := fun (c : Cand) =>
        (sortBy (fun (a b : Nat × WardEntry) => precedes (entryCand b.1 b.2) (entryCand a.1 a.2)) (spillVictims s c)).head?
      match (sortBy precedes f.short).findSome? (fun c => (lowest c).map (fun v => (c, v))) with
      | none => ([], s)
      | some (c, (w, e)) => ([⟨w, e.aseq, 4, e.doomed, false, 0, 0, e.epoch, 0⟩], spill s w e (shortPkg s c))

/-! ### Phase 3, step 6 (R390) -/

/-- The canonical record of a step. -/
def digestBytes (step b gen batch lane : Nat) (ds : List Decision) : List Byte :=
  leBytes 8 step ++ leBytes 8 b ++ leBytes 4 gen ++ leBytes 4 batch ++ leBytes 1 lane ++ leBytes 7 0 ++
  ds.flatMap (fun d => leBytes 2 d.ward ++ leBytes 4 d.aseq ++ leBytes 1 d.kind
    ++ leBytes 1 (bit d.doomed + 2 * bit d.pass1) ++ leBytes 3 d.first ++ leBytes 2 d.count ++ leBytes 1 d.epoch
    ++ leBytes 2 0)

/-- Form the lane's next step at B from the table (R369): `proposed` are the drafts that the table set proposes,
`disp` the XDISPATCH entries per engine and layer (R388),
and `pre` the decisions that the boundary has already made. -/
def formStep (s : State) (lane b : Nat) (pre : List Decision) (proposed : List (Nat × Nat))
    (disp : List (Nat × Nat × Nat)) : State :=
  let step := (getF s fWDN_STEP_STEP + 1) % 2 ^ 64
  let s := (wards s).foldl (fun s p =>
    if prefillLane p.2 = lane ∧ (p.2.phase = .admitted ∨ p.2.phase = .adapterWait) then admittedStep s p.1 else s) s
  let s := heldReturn s
  let (d1, s) := elapsedExpiry s b
  let (d2, s) := spilledResume s step
  let s := deadlineTests s b proposed
  let (cs, s) := listCands s lane proposed
  let (f, s) := threePasses s lane step b cs
  let s := f.taken.foldl (fun s x => if x.2 then modInfo s x.1.ward (fun i => { i with pass1 := true }) else s) s
  let (d3, s) := pagePressure s f
  let rows := (f.taken.filter (fun x => !d3.any (fun d => d.ward == x.1.ward))).map (fun x =>
    Decision.mk x.1.ward x.1.aseq x.1.kind x.1.doomed x.2 x.1.first x.1.count x.1.epoch x.1.drafts)
  let ds := sortBy (fun (x y : Decision) => decide (x.ward < y.ward)) (pre ++ d1 ++ d2 ++ d3 ++ rows)
  let bytes := digestBytes step b (activeGen s) (getF s fWRD_ORDER_STAT_LAST_BATCH) lane ds
  let dg := crc32c bytes
  let kept := s.fault.digests.filter (fun p => p.1 == lane)
  let s := { s with fault := { s.fault with
    digests := s.fault.digests.filter (fun p => p.1 != lane) ++ kept.drop (kept.length - 63) ++ [(lane, bytes)] } }
  let s := setReg s rWDN_STEP (BitVec.ofNat 64 step)
  let s := setReg s rWDN_DIGEST (BitVec.ofNat 64 (dg + step % 2 ^ 32 * 2 ^ 32))
  let s := setReg s (rWDN_LANE_BND lane) (BitVec.ofNat 64 b)
  let s := setReg s (rWDN_LANE_STAT lane)
    (BitVec.ofNat 64 (f.rows % 2 ^ 16 + f.tokens % 2 ^ 16 * 2 ^ 16 + min (f.est / 1000) (2 ^ 20 - 1) * 2 ^ 32))
  let s := disp.foldl (fun s x =>
    let k := step * 256 + x.2.1 % 256
    sealDue (modEngine s x.1 (fun e => { e with expected := tabMod 0 e.expected k (fun v => v + x.2.2) })) x.1 [k]) s
  let s := { s with bezel := { s.bezel with setsUsed := [] } }
  setLane s lane { getLane s lane with step := step, decisions := ds.filter (fun d => decide (d.kind < 3)), digest := dg
                                       sent := false, exch := (getLane s lane).exch.filter (fun x => decide (step ≤ x.step)) }

end Sys2Proof.Machine
end

