-- ==== Sys2Proof/Machine/Cfg.lean ====
section
/-!
DEFINITION. Loading, committing and discarding a configuration set, the swap and its effects (spec 16, R549-R560), and
the start of a job.
-/
namespace Sys2Proof.Machine

open Sys2Proof

def cfgShadow (s : State) : Nat := getF s fCFG_STAT_SHADOW
def cfgStage (s : State) : Nat := getF s fCFG_STAT_STAGE

/-- A pass of a load is under way (R552). -/
def passRunning (s : State) : Bool := decide (1 ≤ cfgShadow s) && decide (cfgShadow s ≤ 3)

/-- A CFG_CMD or CFG_RESET write is discarded. -/
def cfgDiscard (s : State) : State := raiseF s fCFG_ERR_CMD_DISCARDED

/-! ### The shadow set (R549-R552) -/

/-- The shadow set is empty. -/
def emptyShadow (s : State) : State :=
  let s := { s with
    cfg := { s.cfg with shadow := none, loading := none, wanted := false }
    tiers := { s.tiers with evacuating := false } }
  setF (setF s fCFG_STAT_SHADOW 0) fCFG_GEN_SHADOW 0

/-- Lose a READY or COMMIT_SENT shadow set: readiness is withdrawn (R556) and its staging discarded (R444). -/
def withdrawShadow (s : State) : State :=
  let g := getF s fCFG_GEN_SHADOW
  let s := if cfgShadow s = 5 then raiseF (sendPlain s .commitWithdraw 0 0 g) fCFG_ERR_WITHDRAWN else s
  let staged := s.cfg.shadow.any (fun i => i.pending.isSome) && (swapPhase s == 1 || swapPhase s == 2)
  let s := if staged then hingeAbort s 3 else s
  emptyShadow s

/-- A rejected image (R550): the shadow set is empty, the cause recorded, and start-up waits for an image. -/
def rejectImage (s : State) (cause sec : Nat) : State :=
  let s := emptyShadow s
  let s := raiseF (setF (setF s fCFG_STAT_REJECT cause) fCFG_STAT_REJECT_SECTION sec) fCFG_ERR_REJECTED
  if s.cfg.active.isNone then setStage s 4 else s

/-- CFG_CMD.LOAD (R549, R552); only a cold reset leaves FAILED (R564, log entry 173). -/
def cfgLoad (s : State) (fn : Nat) : State :=
  if fn ≠ 0 then errVfAccess s rCFG_CMD fn
  else if cfgStage s = 0xF then cfgDiscard s
  else if cfgStage s < 4 ∧ !s.cfg.warm then s
  else if passRunning s then cfgDiscard s
  else
    let s := if cfgShadow s = 4 ∨ cfgShadow s = 5 then withdrawShadow s else s
    let a := getF s fCFG_LOAD_ADDR_ADDR * 4096
    let l := getF s fCFG_LOAD_LEN_LENGTH
    let s := { s with cfg := { s.cfg with loading := some ⟨a, l, 0, 0⟩ } }
    let s := setF s fCFG_STAT_SHADOW 1
    let s := if cfgStage s = 4 then setStage s 5 else s
    s.emit .hostRead [0, a, l]

/-- LOAD. -/
def execLoad (fn : Fin 64) (s : State) : Host.Outcome State Fault Refusal := .next (cfgLoad s fn)

/-- CFG_CMD.DISCARD (R552). -/
def cfgDrop (s : State) (fn : Nat) : State :=
  if fn ≠ 0 then errVfAccess s rCFG_CMD fn
  else
    let s := withdrawShadow s
    if s.cfg.active.isNone ∧ 5 ≤ cfgStage s ∧ cfgStage s ≤ 7 then setStage s 4 else s

/-- DISCARD. -/
def execDiscard (fn : Fin 64) (s : State) : Host.Outcome State Fault Refusal := .next (cfgDrop s fn)

/-- Pass 2 begins. -/
def beginPass2 (s : State) : State :=
  match s.cfg.loading with
  | none => s
  | some l =>
    let s := setF s fCFG_STAT_SHADOW 3
    let s := if s.cfg.active.isNone then setStage s 7 else s
    s.emit .hostRead [0, l.addr, l.len]

/-- The checks of pass 1 in their order (R551): the cause of rejection, and the state after the key slot's use. -/
def pass1Cause (s : State) (l : Loading) (bs : List Byte) : Option Nat × State :=
  let n := leNat bs
  if !headerFormatOk n l.len then (some 1, s)
  else if targetBad s n then (some 2, s)
  else if generationBad s n then (some 4, s)
  else
    let (usable, s) := useSlot s (imgField n 18 1)
    let msg := bs.take (l.len - sigBytes)
    if usable && slotVerifies s 1 (imgField n 18 1) (Config.sha384 msg) (bs.drop (l.len - sigBytes)) then (none, s)
    else (some 3, s)

/-- The bytes of the active set in the configuration carve-out. -/
def activeBytes (s : State) (i : CfgImage) : List Byte := memBytes s.tiers.hbm i.base (natBits i.header 192 64)

/-- After a warm reset the active set is re-hashed in place (Table 16-9); a hash that differs is taken as a rejection
with PASS2_MISMATCH, and the package waits for an image (log entry 56). -/
def rehashActive (s : State) : State :=
  match s.cfg.active with
  | none => s
  | some i =>
    if Config.sha384 (activeBytes s i) = i.hash then setStage s 8
    else rejectImage { s with cfg := { s.cfg with active := none } } 7 0xFF

/-- IMAGE_PASS1_COMPLETE (R549, R551): `bytes` is what the PF's DMA read, none where a read failed. -/
def execImagePass1Complete (bytes : Option (List Byte)) (s : State) : Host.Outcome State Fault Refusal :=
  .next (
    match s.cfg.loading with
    | none => if cfgStage s = 5 ∧ s.cfg.warm then rehashActive s else s
    | some l =>
      if cfgShadow s ≠ 1 then s
      else
        match bytes with
        | none => rejectImage s 8 0xFF
        | some bs =>
          if bs.length ≠ l.len then s
          else
            match pass1Cause s l bs with
            | (some c, s) => rejectImage s c 0xFF
            | (none, s) =>
              let s := { s with cfg := { s.cfg with
                loading := some { l with header := imgField (leNat bs) 0 256, hash := Config.sha384 bs } } }
              if s.cfg.trained then beginPass2 s
              else
                let s := setF s fCFG_STAT_SHADOW 2
                if s.cfg.active.isNone then setStage s 6 else s)

/-- Where the shadow half of the configuration carve-out begins: the half that does not hold the active set. -/
def shadowBase (s : State) (img : CfgImage) : Nat :=
  let c := ((match s.cfg.active with | some a => a | none => img).carve 0x0C).getD 0
  let up := match s.cfg.active with | some _ => !s.cfg.upper | none => Config.firstHalfUpper
  natBits c 32 20 * 2097152 + (if up then natBits c 64 32 / 2 * 2097152 else 0)

/-- The staging checks of R442: a rejection with its cause and the cause of HINGE_ABORT. -/
def stagingCause (s : State) (i : CfgImage) : Option (Nat × Nat) :=
  match i.pending with
  | none => none
  | some m =>
    if manVersion m = activeVersion s then none
    else if !stagingRoom i m then some (9, 1)
    else if !compatOk s m then some (0x0A, 2)
    else none

/-- The shadow set is READY: its pending manifest's staging begins, and the loans it affects are evacuated. -/
def shadowReady (s : State) (i : CfgImage) : State :=
  let s := { s with cfg := { s.cfg with shadow := some i, loading := none } }
  let s := setF (setF s fCFG_STAT_SHADOW 4) fCFG_GEN_SHADOW i.gen
  let s := match i.pending with
    | some m => if manVersion m = activeVersion s then s else beginStaging s m
    | none => s
  { s with tiers := { s.tiers with evacuating := s.cfg.active.isSome && evacuationNeeded s i } }

/-- IMAGE_PASS2_COMPLETE (R549, R550): the image is read into the shadow half and its sections are checked. -/
def execImagePass2Complete (bytes : Option (List Byte)) (s : State) : Host.Outcome State Fault Refusal :=
  .next (
    match s.cfg.loading with
    | none => s
    | some l =>
      if cfgShadow s ≠ 3 then s
      else
        match bytes with
        | none => rejectImage s 8 0xFF
        | some bs =>
          if bs.length ≠ l.len then s
          else if Config.sha384 bs ≠ l.hash then rejectImage s 7 0xFF
          else
            let n := leNat bs
            let i := parseImage n l.hash 0
            let i := { i with base := shadowBase s i }
            let s := hbmStoreBytes s i.base bs
            match sectionsFail n i (imgDir n).zipIdx with
            | some (c, j) =>
              let s := if c = 6 ∧ ((imgDir n).getD j ⟨0, 0, 0⟩).type = 0x0A ∧ pendingUnsigned i then hingeAbort s 4 else s
              rejectImage s c j
            | none =>
              match stagingCause s i with
              | some (c, a) => rejectImage (hingeAbort s a) c 0xFF
              | none => shadowReady s i)

/-! ### Installing a set -/

/-- The parameter registers of a section. -/
def installSection (i : CfgImage) (s : State) (type : Nat) : State :=
  (paramsOf type).foldl (fun s p =>
    let v := ((i.item type p.1).getD (regReset p.1).toNat) &&& p.2
    let keep := (getReg s p.1).toNat - ((getReg s p.1).toNat &&& p.2)
    setReg s p.1 (BitVec.ofNat 64 (keep + v))) s

/-- BZL_LAYOUT of a model manifest (07 R258, R259, R299). -/
def installLayout (s : State) (m : Nat) : State :=
  let y := manLayout m
  let ldim := natBits y 0 16
  let lfmt := natBits y 16 8
  let rdim := natBits y 32 16
  let lpg := max 1 (natBits y 48 8)
  let nl := natBits y 64 16
  let pb := ldim * (if lfmt = 9 then 4 else 8) / 8 + rdim
  let g := (nl + lpg - 1) / lpg
  let s := setReg s rBZL_LAYOUT 0
  let s := setF (setF (setF s fBZL_LAYOUT_LDIM ldim) fBZL_LAYOUT_LFMT lfmt) fBZL_LAYOUT_RDIM rdim
  let s := setF (setF (setF s fBZL_LAYOUT_EFMT (natBits y 24 8)) fBZL_LAYOUT_LPG lpg) fBZL_LAYOUT_HEADROOM (natBits y 56 8)
  setF (setF (setF s fBZL_LAYOUT_FPP ((64 * lpg * pb + 32767) / 32768)) fBZL_LAYOUT_G g) fBZL_LAYOUT_RS
    ((256 + 64 * ((g + 7) / 8)) / 64)

/-- NAND channels whose parameters differ from the declaration are held down (11 R416). -/
def installFlash (s : State) (i : CfgImage) : State :=
  let ch := i.param 6 fFLS_CFG_CHANNELS
  let bad := (List.range ch).filter (fun c => Config.nandMismatch c)
  let s := setF s fFLS_CH_DOWN_DOWN ((bad.map (fun c => 2 ^ c)).sum)
  let s := if bad = [] then s else raiseF s fFLS_ERR_GEOMETRY
  let good := (upChans s).map (fun c => goodBlocks s c * Config.nandGranules c)
  setF s fFLS_CAP_LOGICAL (good.sum * (100 - getF s fFLS_CFG_OP) / 100)

/-- The set's registers that no item carries: lanes, replica group, fabric, Ethernet, buckets, keys, PTC_CFG. -/
def installDerived (s : State) (i : CfgImage) : State :=
  let d := i.rolesOf 1
  let p := i.rolesOf 2
  let x := i.rolesOf 3
  let s := setF s fWDN_CFG_LANES (bit (d != 0) + 2 * bit (p != 0) + 4 * bit (x != 0))
  let s := setF (setF (setF (setF s fWDN_CFG_CL_D d) fWDN_CFG_CL_P p) fWDN_CFG_CL_I x) fWDN_CFG_CL_X (i.rolesOf 4)
  let s := setF (setF s fWRD_CFG_RGROUP i.rgroup) fWRD_CFG_ORDER_PKG i.orderPkg
  let s := setF s fWRD_CFG_ORDERER (bit (i.orderPkg == i.pkg))
  let s := setF (setF (setF s fFAB_CFG_PKG_ID i.pkg) fFAB_CFG_PARTITION i.partition) fFAB_CFG_RGROUP i.rgroup
  let s := setF s fFAB_CFG_ENABLED (((List.range 16).filter i.portEnabled).map (fun n => 2 ^ n)).sum
  let s := (List.range 16).foldl (fun s n =>
    let s := setReg s (rFAB_PORT_CFG n) (BitVec.ofNat 64 ((i.recs 8 1).getD n 0))
    setReg s (rWDN_BWC n) (BitVec.ofNat 64 ((i.recs 8 5).getD n 0))) s
  let s := (List.range 4).foldl (fun s n => setReg s (rETH_PORT_CFG n) (BitVec.ofNat 64 (i.ethPort n))) s
  let s := setF s fHNG_CFG_KEYS ((i.recs 0x0A 3).length - 1)
  let s := setReg s rPTC_CFG (BitVec.ofNat 64 (natBits ((i.recs 1 2).headD 0) 0 64))
  match ((i.sections.find? (fun x => x.type == 4)).bind (fun x => x.arrays.find? (fun a => a.kind == 2))) with
  | some a => setF s fXRT_CFG_LAYER_BASE ((i.base + a.pos) / 16)
  | none => s

/-- The tables of the fabric and the queue pairs. -/
def installTables (s : State) (i : CfgImage) : State :=
  let nz := fun (l : List (Nat × Nat)) => l.filter (fun p => p.2 != 0)
  let rows := fun (l : List Nat) (at_ : Nat) => nz (l.zipIdx.map (fun p => (at_ + p.2, p.1)))
  let qp := rows (i.recs 9 2) 0
  { s with
    fab := { s.fab with
      routes := rows (i.recs 8 2) 0
      windows := s.fab.windows.filter (fun p => decide (p.1 < 1024)) ++ rows (i.recs 8 3) 1024
      ewins := rows (i.recs 8 4) 0 }
    host := { s.host with
      qpEntry := qp
      qps := s.host.qps.filter (fun p => tabGet 0 s.host.qpEntry p.1 == tabGet 0 qp p.1)
      portRec := (i.recs 9 1).zipIdx.map (fun p => (p.2, p.1)) }
    warden := { s.warden with buckets := s.warden.buckets.filter (fun p => p.2.held != []) } }

/-- A port that carries nothing: its link state begins anew, and what waits for a port waits on. -/
def portDark (s : State) (n : Nat) (ph : PortPhase) : State :=
  let q := tabGet Port.reset s.fab.ports n
  { s with fab := { s.fab with ports := tabSet s.fab.ports n { Port.reset with phase := ph, waiting := q.waiting, lost := q.lost } } }

/-- Ports under a new expectation (14 R485, R506, Table 16-7); a port of a lost Gateway die is gone. -/
def installPorts (s : State) (old : Option CfgImage) (i : CfgImage) : State :=
  (List.range 16).foldl (fun s n =>
    let was := old.any (fun o => o.portEnabled n)
    let e := fun (x : CfgImage) => natBits ((x.recs 8 1).getD n 0) 0 20
    if !i.portEnabled n || s.fault.lostGw.contains (n / 4) then portDark s n .disabled
    else if !was then portDark s n .training
    else if old.any (fun o => e o != e i) then portDark s n .recable
    else s) s

/-! ### Tenants -/

/-- Free-list pages above the reserve go to zeroing (07 R288), the highest first. -/
def trimFreeList (s : State) (ctx : Nat) : State :=
  ((freeList s ctx).drop (tenantField s ctx 192 32)).foldl (fun s n =>
    modPage s n (fun r => { r with phase := .zeroing })) s

/-- Map a region of the image, zero-filled, as far as there is room (log entry 55). -/
def mapRegion (s : State) (r : Nat) : State :=
  let ctx := if natBits r 12 1 = 1 then ctxSYS else natBits r 0 12
  match placePages ctx (natBits r 13 1 == 1) (natBits r 14 2) (natBits r 88 24) (natBits r 16 36) (natBits r 64 24) s with
  | .all s => s
  | .loan => wantLoan s
  | .none => s

/-- Keys and regions of the contexts that an older set did not have (R557). -/
def buildTenants (s : State) (old : Option CfgImage) (i : CfgImage) : State :=
  let had := fun (ctx : Nat) => match old with
    | none => false
    | some o => if ctx = ctxSYS then true else o.hasTenant ctx
  let new := (contexts s).filter (fun c => !had c)
  let s := new.foldl (fun s c => if c = ctxSYS then s else createFlashKey s c) s
  let s := new.foldl (fun s c =>
    { s with tel := { s.tel with counters := s.tel.counters.filter (fun p =>
        c == ctxSYS || decide (p.1 < 0x2000 + 4 * c) || decide (0x2000 + 4 * c + 3 < p.1)) } }) s
  let s := (contexts s).foldl (fun s c => createDomainKey s (domainOf s c)) s
  (i.recs 7 1).foldl (fun s r =>
    if new.contains (if natBits r 12 1 = 1 then ctxSYS else natBits r 0 12) then mapRegion s r else s) s

/-- A tenant leaves: regions unmapped, pages zeroed, key destroyed (R557). -/
def removeTenant (s : State) (ctx : Nat) : State :=
  let s := unmapRange s ctx 0 (2 ^ 36)
  let s := (freeList s ctx).foldl (fun s n => modPage s n (fun r => { r with phase := .zeroing })) s
  setPad s { s.padlock with flashKeys := tabDel s.padlock.flashKeys ctx }

/-- A domain without tenants loses its key (07 R297). -/
def dropDomains (s : State) : State :=
  let live := (contexts s).map (domainOf s)
  { s with bezel := { s.bezel with domains := s.bezel.domains.filter (fun p => live.contains p.1) } }

/-- The SYS flash key follows STASH_ID (11 R418). -/
def followStash (s : State) : State :=
  if s.padlock.sysKey = some (getF s fHNG_STASH_STASH_ID, debugCode s) then s else deriveSysKey s

/-! ### Clusters -/

/-- A cluster passes through OFF: its SRAM, stores, slots and cores' state are lost, no slot is valid and no scrub read is
overdue, and it waits to be reloaded. -/
def clusterOff (s : State) (k : Nat) : State :=
  let mine := fun (c : Nat) => clusterOfCore c == k
  let s := if pstate s k = 3 then s else leaveFor s k 3
  let s := setF (setF s (fCLU_STATE_PSTATE k) 3) (fCLU_STATE_SCRUB_OVERDUE k) 0
  let s := setF s (fCLU_LUS_STAT_VALID k) 0
  let c := getCluster s k
  let s := setCluster s k { Cluster.empty with cur := c.cur, enmask := c.enmask, tset := c.tset }
  let s := { s with comp := { s.comp with
    cores := s.comp.cores.filter (fun p => !mine p.1)
    coreStore := s.comp.coreStore.filter (fun p => !mine (p.1 / 1024))
    clusterStore := s.comp.clusterStore.filter (fun p => p.1 / 1024 != k)
    sram := s.comp.sram.filter (fun p => !mine (p.1 / 262144))
    sramPoison := s.comp.sramPoison.filter (fun w => !mine (w / 32768)) } }
  let s := setCP s k ClusterPower.off
  { s with cfg := { s.cfg with reloads := nsInsert s.cfg.reloads k } }

/-- A cluster's record, table set or micro-program set differs between two sets. -/
def clusterChanged (old : Option CfgImage) (i : CfgImage) (k : Nat) : Bool :=
  match old with
  | none => true
  | some o =>
    (o.recs 2 1).getD k 0 != (i.recs 2 1).getD k 0 || o.tableSet (o.tsetOf k) != i.tableSet (i.tsetOf k) ||
      o.microSet (o.tsetOf k) != i.microSet (i.tsetOf k)

/-- The VALID bits of a micro-program set: a filled slot is valid when it passes the checks of 05 R218, an empty one is
not. -/
def msValid (r : Nat) : Nat :=
  (((msFilled r).filter (fun x => (slotFault (msSlot r x)).isNone)).map (fun x => 2 ^ x)).sum

/-- Load both stores and the micro-program slots of a cluster from a set (04 R155, 05 R216), with their VALID bits. -/
def loadStores (s : State) (i : CfgImage) (k : Nat) : State :=
  let t := i.tsetOf k
  let ts := (i.tableSet t).getD 0
  let ms := i.microSet t
  let cores := (List.range 192).flatMap (fun c =>
    ((List.range (tsCoreEntries ts)).map (fun j => ((k * 192 + c) * 1024 + j, tsCoreEntry ts c j))))
  let clus := (List.range (tsClusterEntries ts)).map (fun j => (k * 1024 + j, tsClusterEntry ts j))
  let put := fun (m : List (Nat × Entry)) (l : List (Nat × Entry)) => l.foldl (fun m p => tabSet m p.1 p.2) m
  let s := { s with comp := { s.comp with
    coreStore := put (s.comp.coreStore.filter (fun p => p.1 / 1024 / 192 != k)) cores
    clusterStore := put (s.comp.clusterStore.filter (fun p => p.1 / 1024 != k)) clus } }
  let s := setF s (fCLU_LUS_STAT_VALID k) ((ms.map msValid).getD 0)
  modCluster s k (fun c => { c with
    enmask := i.enmask k
    tset := t
    poisonedStore := []
    slots := match ms with
      | none => []
      | some r => (msFilled r).map (fun x => (x, msSlot r x)) })

/-- Ports of a set begin to train (stage OPTICS). -/
def trainPorts (s : State) (i : CfgImage) : State :=
  (List.range 16).foldl (fun s n =>
    if i.portEnabled n && !s.fault.lostGw.contains (n / 4) then portDark s n .training else s) s

/-- JOB_READY for the active GEN (R560). -/
def sendJobReady (s : State) : State := sendPlain s .jobReady 0 0 (activeGen s)

/-- What follows once no cluster waits to be reloaded: stage OPTICS, or JOB_READY after a commit under R559. -/
def reloadsDone (s : State) : State :=
  match s.cfg.active with
  | none => s
  | some i =>
    if startHeld s || s.cfg.reloads != [] then s
    else if cfgStage s = 8 then trainPorts (setStage s 9) i
    else if cfgStage s = 0xD ∧ !serving s then sendJobReady s
    else s

/-- CLUSTER_RELOAD_COMPLETE (R155, R216, R557): the cluster has its enable set, stores and slots, and leaves OFF unless
its role is UNUSED. -/
def execClusterReloadComplete (cluster : Fin 512) (s : State) : Host.Outcome State Fault Refusal :=
  .next (
    match s.cfg.active with
    | none => s
    | some i =>
      if s.cfg.reloads.contains cluster.val && decide (8 ≤ cfgStage s) then
        let k := cluster.val
        let moved := (getCluster s k).enmask != i.enmask k || getF s (fCLU_TBL_STAT_LOAD_GEN k) == 0
        let s := loadStores s i k
        let s := if moved then setF s (fCLU_STATE_ENABLE_GEN k) i.gen else s
        let s := setF (setF s (fCLU_TBL_STAT_LOAD_GEN k) i.gen) (fCLU_LUS_STAT_LOAD_GEN k) i.gen
        let s := { s with tel := { s.tel with counters := tabSet s.tel.counters (0x1000 + 8 * k) 0 } }
        let s := { s with cfg := { s.cfg with reloads := nsErase s.cfg.reloads k } }
        let s := if i.role k = 0 then s else tracePower (fixedCheck (operate (setF s (fCLU_STATE_PSTATE k) 0) k)) k 0x04 3
        reloadsDone s
      else s)

/-! ### The swap (R557, Table 16-7) -/

/-- The shadow set becomes the active set, with every effect of Table 16-7. DESIGN CHOICE (log entry 174): the consumers of
input power start from their maxima, as at start-up. -/
def swapSets (s : State) : State :=
  match s.cfg.shadow with
  | none => s
  | some i =>
    let old := s.cfg.active
    let upper := match old with | some _ => !s.cfg.upper | none => Config.firstHalfUpper
    let gone := match old with
      | none => []
      | some o => ((o.recs 5 1).map (fun r => natBits r 0 12)).filter (fun t => !i.hasTenant t)
    let s := gone.foldl removeTenant s
    let s := { s with cfg := { s.cfg with
      active := some i, shadow := none, upper := upper, ready := s.cfg.ready.filter (fun x => x.2 != i.gen)
      wanted := false, due := false, resume := none } }
    let s := setF (setF (setF s fCFG_STAT_SHADOW 0) fCFG_GEN_SHADOW 0) fCFG_GEN_ACTIVE i.gen
    let s := [4, 6, 9, 0x0A].foldl (installSection i) s
    let s := installFlash (installTables (installDerived s i) i) i
    let s := match old, (i.recs 0x0A 1).head? with
      | none, some m => installLayout (setF s fHNG_MODEL_ACTIVE (manVersion m)) m
      | _, _ => s
    let s := match old with
      | none =>
        let s := setF s fPTC_CAP_CAP_W (natBits ((i.recs 1 2).headD 0) 64 16)
        reportCap s
      | some _ => installPorts (followStash (dropDomains (buildTenants s old i))) old i
    let s := (contexts s).foldl trimFreeList s
    let s := capReset s
    let s := ((List.range 512).filter (clusterChanged old i)).foldl clusterOff s
    let s := operateAll s
    let s := match i.pending with
      | some m => if manVersion m ≠ activeVersion s ∧ swapPhase s = 2 then setF s fHNG_MODEL_SWAP 3 else s
      | none => s
    if cfgStage s = 7 then setStage s 8 else reloadsDone s

/-! ### Commit and STOP (R554, R556, R558, R559) -/

/-- The commit conditions that this package meets: READY, staged, evacuated. -/
def commitReady (s : State) : Bool := cfgShadow s == 4 && s.cfg.wanted && stagingDone s && !s.tiers.evacuating

/-- While no job runs, the swap is made as soon as it can be (R559). -/
def localCommit (s : State) : State := if commitReady s && !serving s then swapSets s else s

/-- The shadow image moves a border (R559). -/
def borderCommit (s : State) : Bool :=
  match s.cfg.active, s.cfg.shadow with
  | some a, some i => a.partition != i.partition || a.rgroup != i.rgroup || a.orderPkg != i.orderPkg
  | _, _ => false

/-- CFG_CMD.COMMIT. -/
def cfgCommit (s : State) (fn : Nat) : State :=
  if fn ≠ 0 then errVfAccess s rCFG_CMD fn
  else if cfgShadow s ≠ 4 ∨ (borderCommit s ∧ serving s) then cfgDiscard s
  else localCommit { s with cfg := { s.cfg with wanted := true } }

/-- COMMIT. -/
def execCommit (fn : Fin 64) (s : State) : Host.Outcome State Fault Refusal := .next (cfgCommit s fn)

/-- COMMIT_READY_SEND (R554): when its conditions hold the record is sent, or without a job the swap is made. -/
def execCommitReadySend (s : State) : Host.Outcome State Fault Refusal :=
  .next (
    if !serving s then localCommit s
    else if commitReady s && (swapPhase s == 0 || swapPhase s == 2) then
      setF (sendPlain s .commitReady 0 0 (getF s fCFG_GEN_SHADOW)) fCFG_STAT_SHADOW 5
    else s)

/-- CFG_CMD.STOP. -/
def cfgStop (s : State) (fn : Nat) : State :=
  if fn ≠ 0 then errVfAccess s rCFG_CMD fn
  else if serving s then sendPlain s .stop 0 0 0
  else cfgDiscard s

/-- STOP. -/
def execStop (fn : Fin 64) (s : State) : Host.Outcome State Fault Refusal := .next (cfgStop s fn)

/-- The commit of the shadow set is due (R555): every package is ready for its GEN, and no entry is held for a tenant
that it removes. -/
def commitDue (s : State) : Bool :=
  match s.cfg.shadow with
  | none => false
  | some i =>
    cfgShadow s == 5 && (members s).all (fun p => s.cfg.ready.contains (p, i.gen)) &&
      (wards s).all (fun p => p.2.sys || i.hasTenant p.2.tenant)

end Sys2Proof.Machine
end

