-- ==== Sys2Proof/Machine/Reset.lean ====
section
/-!
DEFINITION. Resets and start-up (spec 16, R561-R565), the input conditions and the Deadbolt trip (17 R569-R571, R601),
and the loss of a Gateway die (01 R46).
-/
namespace Sys2Proof.Machine

open Sys2Proof

/-! ### What a reset keeps of the registers (00 R27) -/

/-- Keep only the masked bits of the listed registers; every other bit takes its reset value. -/
def keepRegs (s : State) (keep : List (Nat × Nat)) : State :=
  keep.foldl (fun t p =>
    let old := (getReg s p.1).toNat &&& p.2
    let r := (regReset p.1).toNat
    setReg t p.1 (BitVec.ofNat 64 (r - (r &&& p.2) + old))) { s with regs := [] }

def maskAll : Nat := 2 ^ 64 - 1

/-- The fields whose Meaning says that they keep their value across cold reset: SUSPECT, the trip and energy records, the
length of the frame retirement list. -/
def keepCold : List (Nat × Nat) :=
  [(rGLB_FAULT_STAT, maskAt 5 1), (rPTC_TRIP, maskAll), (rPTC_ENERGY, maskAll), (rGLB_RETIRE, maskAt 0 13)]

/-- What a warm reset keeps: the global errors (21), the fault registers (R629), the trip and energy records, the active
set's GEN, the island's boot record, what the loader knows of the active version and its swap, and the divisor of the
console, which returns to its reset value at cold and power-on reset alone (20 R667). Every other TEL_ field takes its
reset value (R27; log entry 107). -/
def keepWarm : List (Nat × Nat) :=
  [(rTEL_UART_CFG, maskAt 0 7), (rGLB_ERR, maskAll), (rGLB_ERR_INFO, maskAll), (rGLB_LATCH_ERR, maskAll), (rGLB_FAULT_STAT, maskAll),
   (rGLB_FAULT_CAUSE, maskAll), (rGLB_FAULT_TIME, maskAll), (rGLB_DUMP_STAT 0, maskAll), (rGLB_DUMP_STAT 1, maskAll),
   (rGLB_DUMP_CTL, maskAll), (rGLB_SCRUB, maskAll), (rGLB_RETIRE, maskAll), (rPTC_TRIP, maskAll),
   (rPTC_ENERGY, maskAll), (rCFG_GEN, maskAt 0 32), (rPDL_LIFE, maskAll), (rPDL_DBG, maskAt 0 16),
   (rHNG_MODEL, maskAll), (rHNG_STAGE, maskAll), (rHNG_WAVE, maskAll), (rFLS_CAP, maskAll), (rFLS_CH_DOWN, maskAll)]

/-! ### Cold and power-on reset -/

/-- The write buffer is lost: every granule reads as it was last programmed (11 R426). -/
def flashBufferLost (s : State) : State :=
  { s with flash := { s.flash with buffer := [], data := s.flash.media, poison := s.flash.mediaBad, reloc := [] } }

/-- The FTL rebuilds its map from the latest checkpoint and later headers, trims what has no key, and marks SYS granules
written after the checkpoint lost where a header cannot be read (R426). -/
def ftlRebuild (s : State) (badHeader : Bool) : State :=
  let dead := (s.flash.map.map Prod.fst).filter (fun g => tabGet ctxSYS s.flash.owner g != ctxSYS)
  let s : State := dead.foldl trimGranule s
  let late := if badHeader then
      (s.flash.seqOf.filter (fun p => decide (s.flash.ckptSeq < p.2))).map Prod.fst
    else []
  let s := { s with flash := { s.flash with
    lost := late.foldl nsInsert s.flash.lost
    units := (s.flash.map.map (fun p => p.1 / 128)).foldl nsInsert [] } }
  if s.flash.map == [] then s else raiseF s fFLS_ERR_MAP_REBUILT

/-- The counters that a cold reset keeps (20 R651). -/
def telCold (t : Tel) : Tel :=
  { t with
    counters := t.counters.filter (fun p => p.1 == 1 || (decide (0x1000 ≤ p.1) && decide (p.1 < 0x2000) && p.1 % 8 == 0))
    hold := []
    filling := []
    seq1 := 0
    snapReq := none
    samples := 0
    i3cAddr := none
    eid := 0
    rxFifo := [] }

/-- The CUR fields of every cluster (03 R148). -/
def keptCur (s : State) : List (Nat × Cluster) :=
  (s.comp.clusters.filter (fun (p : Nat × Cluster) => p.2.cur != [])).map
    (fun (p : Nat × Cluster) => (p.1, { Cluster.empty with cur := p.2.cur }))

/-- What a cold reset and a loss of the 48 V rails lose alike: everything outside the always-on domain (R561). DESIGN
CHOICE: a Gateway die that was lost counts as present again after either; the spec is silent (01 R46, log entry 140). -/
def loseAll (s : State) : State :=
  let s := flashBufferLost s
  let r := State.reset
  { s with
    comp := { r.comp with clusters := keptCur s }
    tiers := r.tiers
    fab := r.fab
    host := { r.host with perst := s.host.perst }
    cfg := r.cfg
    fault := { r.fault with retired := s.fault.retired }
    bezel := r.bezel
    router := r.router
    ward := r.ward
    warden := r.warden
    hinge := { r.hinge with stash := s.hinge.stash }
    assay := r.assay
    power := { r.power with energyRem := s.power.energyRem, lost := s.power.lost, tripped := s.power.tripped } }

/-- A cold reset (Table 16-8): restart at ROM. A readiness that was sent is withdrawn (R556). -/
def coldReset (s : State) (badHeader : Bool) : State :=
  let s := if cfgShadow s = 5 then sendPlain s .commitWithdraw 0 0 (getF s fCFG_GEN_SHADOW) else s
  let s := destroyKeys (loseAll { s with tel := telCold s.tel })
  let s := setPad s { s.padlock with nonce := none, queue := [] }
  let s := keepRegs s keepCold
  let s := setF (setStage s 1) fCFG_STAT_LAST_RESET 1
  ftlRebuild (s.emit .pin [0, 1]) badHeader

/-- COLD_RESET; `badHeader` says that a NAND header written after the checkpoint cannot be read. -/
def execColdReset (badHeader : Bool) (s : State) : Host.Outcome State Fault Refusal := .next (coldReset s badHeader)

/-- POWER_ON_RESET: AUX has come up. Fuses, key block, boot NOR and NAND are not powered storage. -/
def execPowerOnReset (badHeader : Bool) (s : State) : Host.Outcome State Fault Refusal :=
  .next (
    let f := (flashBufferLost s).flash
    let p := s.padlock
    let retired := lifeCode s == 0x6996
    let t := { State.reset with
      pending := s.pending
      fresh := s.fresh
      out := s.out
      flash := f
      time := { TimeBase.reset with refclk := s.time.refclk }
      hinge := { State.reset.hinge with stash := s.hinge.stash }
      padlock := { Padlock.empty with
        life := p.life, svn := p.svn, fused := p.fused, digests := p.digests, pairs := p.pairs, nor := p.nor
        draws := p.draws
        debug := if retired then p.debug else Padlock.empty.debug } }
    let t := if s.time.refclk then t else raiseF t fGLB_TIME_STAT_REF_LOST
    ftlRebuild t badHeader)

/-! ### Warm reset -/

/-- A migration stops and its destination is released. -/
def dropMigrations (s : State) : State := (s.tiers.migs.map Migration.page).foldl cancelMigration s

/-- The dump slots that were being written are empty: their dump was not finished. -/
def dropDumps (s : State) : State :=
  let s := [0, 1].foldl (fun s n => if dumpState s n = 1 then setF s (fGLB_DUMP_STAT_STATE n) 0 else s) s
  { s with fault := { s.fault with dumping := [], want := none, dumped := true, windowEnd := true, graceEnd := true } }

/-- The KV pool is lost: every page of it is zero-filled (07 R287). -/
def dropPool (s : State) : State :=
  let s := hbmZero s (getF s fBZL_POOL_BASE_BASE * 32768)
    (getF s fBZL_POOL_SIZE_PAGES * (kvLayout s).fpp * 32768)
  { s with bezel := { Bezel.empty with domains := s.bezel.domains, stamps := s.bezel.stamps } }

/-- Staging that belonged to a lost shadow set is discarded; that of the active set is kept (R445). -/
def dropStaging (s : State) : State :=
  if swapPhase s = 1 ∨ swapPhase s = 2 then
    let s := dropDest s 1
    let s := setReg s rHNG_STAGE 0
    setF (setF (setF s fHNG_MODEL_SWAP 0) fHNG_MODEL_PENDING 0) fHNG_MODEL_KV_COMPAT 0
  else s

/-- A warm reset (Table 16-8): serving state is lost, the active set governs again, and start-up resumes at RAILS. DESIGN
CHOICE (log entry 147): a Girdle link that is down stays down; the spec says nothing of it. -/
def warmReset (s : State) : State :=
  let sent := cfgShadow s == 5
  let s := withdrawShadow s
  let s := dropStaging (dropPool (dropMigrations s))
  let s := (List.range 512).foldl clusterOff s
  let r := State.reset
  let layout := getReg s rBZL_LAYOUT
  let s := { s with
    fab := { r.fab with windows := s.fab.windows.filter (fun p => decide (p.1 < 1024)) }
    host := { r.host with linkUp := s.host.linkUp, perst := s.host.perst }
    router := r.router
    ward := r.ward
    warden := r.warden
    hinge := { s.hinge with
      slots := [], manifests := [], fetches := [], passed := [], committed := [], passSent := [], hingeStep := none
      gating := false
      verified := s.hinge.verified.filter (fun v => v / 2 ^ 20 == 1) }
    assay := r.assay
    tiers := { s.tiers with mapCmd := none, asked := none, denied := false, demoting := false }
    cfg := { s.cfg with ready := [], jobReady := [], due := false, resume := none, wanted := false, warm := true } }
  let stage := getF s fGLB_FAULT_STAT_PHASE
  let s := keepRegs s keepWarm
  let s := match s.cfg.active with
    | none => s
    | some i =>
      let s := installTables (installDerived ([4, 6, 9, 0x0A].foldl (installSection i) s) i) i
      let s := setReg s rBZL_LAYOUT layout
      let s := setF s fPTC_CAP_CAP_W (natBits ((i.recs 1 2).headD 0) 64 16)
      capReset (reportCap s)
  let s := deriveKeys (setPad s { s.padlock with nonce := none })
  let s := setF (setStage s 3) fCFG_STAT_LAST_RESET 2
  let s := if sent then raiseF s fCFG_ERR_WITHDRAWN else s
  if stage = 0 then s else setFaultPhase s 3

/-- A debug transition is under way (19 Table 19-6). -/
def inTransition (s : State) : Bool := debugCode s == 0x33CC || debugCode s == 0xCC33

/-- A warm reset asked for (R562; 19 R647): of a package of a running partition it is a fault of the job, announced before the reset begins;
a halted package takes none (18 R623, log entry 59). -/
def startWarmReset (s : State) : State :=
  if s.cfg.active.isNone ∨ getF s fGLB_FAULT_STAT_PHASE = 5 ∨ cfgStage s = 0xF ∨ inTransition s then s
  else
    let s := if serving s && !stopped s then declareFault s 0x0010 (FaultAt.package 0) else s
    warmReset (dropDumps s)

/-- WARM_RESET. -/
def execWarmReset (s : State) : Host.Outcome State Fault Refusal := .next (startWarmReset s)

/-! ### Start-up stages (Table 16-9)

A stage of a package that `startHeld` holds does not end (18 R617, R619, R623). -/

/-- A firmware copy in boot NOR: what PLDM has written, else what the system provided. -/
def norCopy (s : State) (n : Nat) : List Byte := (tabFind s.padlock.nor n).getD (Config.norCopy n)

/-- SVN of a copy's header (log entry 60). -/
def fwSVN (bs : List Byte) : Nat := natBits (leNat (bs.take 64)) 48 8

/-- A firmware copy meets every condition of R638. -/
def fwOk (s : State) (bs : List Byte) : Bool :=
  let h := leNat (bs.take 64)
  natBits h 0 32 == 0x57465A41 && natBits h 32 16 == 1 && decide (fwSVN bs ≤ 64) && natBits h 56 8 == 0
    && natBits h 96 32 == bs.length && natBits h 128 384 == 0 && decide (64 + 2689 + sigBytes ≤ bs.length)
    && Config.sha384 ((bs.drop 64).take 2689) == Config.fwRoot
    && signedBy 2 (Config.sha384 (bs.take (bs.length - sigBytes))) (bs.drop (bs.length - sigBytes))
        (leNat ((bs.drop 64).take 2689))
    && decide (voteList s.padlock.svn ≤ fwSVN bs)

/-- The accepted copy runs and the keys are derived; the package goes on to RAILS. -/
def acceptCopy (s : State) (n : Nat) : State :=
  let bs := norCopy s n
  let s := setPad s { s.padlock with running := fwSVN bs, fwDigest := Config.sha384 bs }
  let s := setF (setF s fPDL_LIFE_COPY n) fPDL_LIFE_FW_SVN (fwSVN bs)
  setStage (deriveKeys s) 3

/-- FIRMWARE_ACCEPTED (R638): copy A, else copy B, else FAILED. Stage ROM does not end without REFCLK (22 R704). -/
def execFirmwareAccepted (s : State) : Host.Outcome State Fault Refusal :=
  .next (
    if cfgStage s ≠ 1 ∨ !s.time.refclk then s
    else if fwOk s (norCopy s 0) then acceptCopy s 0
    else if fwOk s (norCopy s 1) then acceptCopy s 1
    else stageFailed s 1)

/-- RAILS_COMPLETE (R569): rails come up, or one does not (R564). During a debug transition the stage goes on with
default training and the erasure (19 R646), which DEBUG_TRANSITION_COMPLETE ends. -/
def execRailsComplete (good : Bool) (s : State) : Host.Outcome State Fault Refusal :=
  .next (
    if cfgStage s ≠ 3 ∨ s.power.lost then s
    else if !good then stageFailed s 2
    else if inTransition s then { s with cfg := { s.cfg with trained := true } }
    else
      let s := if s.host.perst then s else { s with host := { s.host with linkUp := true } }
      setStage s (if s.cfg.warm then 5 else 4))

/-- HBM_TRAINING_COMPLETE (R563, R564). -/
def execHbmTrainingComplete (good : Bool) (s : State) : Host.Outcome State Fault Refusal :=
  .next (
    if s.cfg.trained ∨ cfgShadow s ≠ 2 ∨ cfgStage s = 0xF then s
    else if !good then stageFailed s 3
    else beginPass2 { s with cfg := { s.cfg with trained := true } })

/-- OPTICS_STAGE_COMPLETE: no port is in TRAINING any more. -/
def execOpticsStageComplete (s : State) : Host.Outcome State Fault Refusal :=
  .next (
    if !startHeld s && cfgStage s == 9 && s.fab.ports.all (fun p => p.2.phase != .training) then setStage s 0xA else s)

/-- FABRIC_STAGE_COMPLETE: routes and windows stand; loans keep theirs. -/
def execFabricStageComplete (s : State) : Host.Outcome State Fault Refusal :=
  .next (if !startHeld s && cfgStage s == 0xA then setStage s 0xB else s)

/-- TENANTS_STAGE_COMPLETE: keys, tables, regions and free lists; then the live copy is loaded, from the stash before
the host (R565), or re-verified through the Assay engines (12 R441, 13 R476). -/
def execTenantsStageComplete (s : State) : Host.Outcome State Fault Refusal :=
  .next (
    match s.cfg.active with
    | none => s
    | some i =>
      if startHeld s || cfgStage s != 0xB then s
      else
        let s := setStage s 0xC
        if s.cfg.warm then loaderTake s
        else beginLoad (followStash (buildTenants s none i)) 0 [1, 2])

/-- The package is READY and sends JOB_READY (R560, 18 R619). -/
def becomeReady (s : State) : State :=
  let s := setStage s 0xD
  let s := if stopped s then setFaultPhase s 4 else s
  sendJobReady { s with cfg := { s.cfg with warm := false } }

/-- WEIGHTS_STAGE_COMPLETE (12 R440, R441, R452): every shard stands verified; an unfinished wavefront completes. -/
def execWeightsStageComplete (s : State) : Host.Outcome State Fault Refusal :=
  .next (
    if !startHeld s && cfgStage s == 0xC && allVerified s 0 && s.assay.held == [] then becomeReady (finishWave s) else s)

/-! ### Input power (17 R570, R571) and the trip (R601) -/

/-- The registers that the always-on domain holds (01 R47): the time base, the trace funnel and the management controller
run from AUX and keep theirs while the 48 V rails are down. -/
def keepAlwaysOn : List (Nat × Nat) :=
  [rGLB_TIME_STAT, rTEL_SNAP_STAT, rTEL_TRACE_CTL, rTEL_TRACE_STAT, rTEL_TRACE_BASE, rTEL_TRACE_RPTR, rTEL_SRING_BASE,
   rTEL_SRING_CFG, rTEL_SRING_STAT, rTEL_SSEL 0, rTEL_SSEL 1, rTEL_SSEL 2, rTEL_SSEL 3, rTEL_SSEL 4, rTEL_SSEL 5,
   rTEL_SSEL 6, rTEL_SSEL 7, rTEL_UART_CFG, rTEL_UART_STAT].map (fun r => (r, maskAll))

/-- The 48 V rails are down: what they powered is lost and the package waits in RAILS. -/
def railsDown (s : State) : State :=
  let s := destroyKeys (loseAll s)
  let s := keepRegs s (keepCold ++ keepAlwaysOn ++
    [(rPDL_LIFE, maskAll), (rPDL_DBG, maskAt 0 16), (rPTC_ERR, maskAll)])
  let s := assertFaultN (setStage s 3)
  { s.emit .pin [0, 0] with power := { s.power with lost := true } }

/-- INPUT_POWER_LOSS: VIN48 below 36 V. After a trip it releases THERMTRIP_N and PWR_KILL_N. -/
def execInputPowerLoss (s : State) : Host.Outcome State Fault Refusal :=
  .next (
    if s.power.tripped then
      { (s.emit .pin [1, 1]).emit .pin [2, 1] with power := { s.power with tripped := false } }
    else if s.power.lost then s
    else railsDown s)

/-- INPUT_OVERVOLT: as a loss of power, with PWR_KILL_N asserted. -/
def execInputOvervolt (s : State) : Host.Outcome State Fault Refusal :=
  .next (if s.power.tripped then s else (railsDown s).emit .pin [2, 0])

/-- VIN48_RESTORED (R571): a cold reset after a loss of power. -/
def execVin48Restored (s : State) : Host.Outcome State Fault Refusal :=
  .next (
    if s.power.lost && !s.power.tripped then
      coldReset { s with power := { s.power with lost := false } } false
    else s)

/-- DEADBOLT_TRIP (R601): a watched sensor of a die stands at 118 C. -/
def execDeadboltTrip (die : Fin 20) (sensor : Fin 2) (s : State) : Host.Outcome State Fault Refusal :=
  .next (
    if s.power.tripped then s
    else
      let s := ((s.emit .pin [1, 0]).emit .pin [2, 0])
      let s := if bitF s fPTC_TRIP_TRIPPED then s
        else setF (setF (platformEvent (raiseF s fPTC_TRIP_TRIPPED) [12, 1]) fPTC_TRIP_DIE die) fPTC_TRIP_SENSOR sensor
      let s := railsDown s
      { s with power := { s.power with tripped := true } })

/-! ### Loss of a Gateway die (01 R46, 18 R615) -/

/-- The ports, channels and engines of a die are gone. -/
def dropGateway (s : State) (d : Nat) : State :=
  let s := { s with fault := { s.fault with lostGw := nsInsert s.fault.lostGw d } }
  let s := (List.range 4).foldl (fun s i => portDark s (4 * d + i) .disabled) s
  let s := (List.range 8).foldl (fun s i =>
    let n := 8 * d + i
    if (getScan s n).isSome then endScan s n 8 (getF s (fASY_ENG_STAT_PROGRESS n)) 0 false else s) s
  { s with router := { s.router with engines := tabDel s.router.engines d } }

/-- GATEWAY_LOSS: G1, G2 or G3 is disabled; the package declares GATEWAY_LOST. -/
def execGatewayLoss (die : Fin 3) (s : State) : Host.Outcome State Fault Refusal :=
  .next (
    if s.fault.lostGw.contains (die.val + 1) then s
    else declareFault (dropGateway s (die.val + 1)) 0x000E (FaultAt.onDie (17 + die.val) (17 + die.val)))

/-- G0_LOSS (R615): the package stops at once, takes no dump and sends nothing. -/
def execG0Loss (s : State) : Host.Outcome State Fault Refusal :=
  .next (
    let s := dropGateway s 0
    let s := (List.range 16).foldl (fun s n => portDark s n .disabled) s
    let s := { s with comp := { s.comp with cores := tabMap s.comp.cores stopStrands } }
    let s := { s with
      warden := { s.warden with lanes := [] }
      ward := { s.ward with owed := [] }
      host := { s.host with linkUp := false } }
    setFaultPhase (setF s fGLB_TIME_STAT_SERVING 0) 5)

end Sys2Proof.Machine
end

