-- ==== Sys2Proof/Machine/Streams.lean ====
section
/-!
DEFINITION. The streams that Bezel produces (spec 07 R276-R278): the order of their bytes, stored data as it is, and
expansion.
-/
namespace Sys2Proof.Machine

open Sys2Proof

/-! ### Streams (R276-R278) -/

/-- The page that holds a position of a request's layer, where resident. -/
def streamPage (s : State) (w layer pos : Nat) : Option PageRef :=
  let y := kvLayout s
  (tabFind (getList s w).ents (entIndex s (pos / 64) (layer / y.lpg))).filter (fun r => r.loc == .resident)

/-- Bytes of an expanded element. -/
def KvLayout.ebytes (y : KvLayout) : Nat := if y.efmt = 2 then 2 else 1

/-- Positions or dimensions rounded up to whole tile groups, and positions to 32 (R276). -/
def streamGroup (t : StreamSpec) (n : Nat) : Nat := roundUp n (max 1 t.cols)
def streamBlocks (t : StreamSpec) : Nat := (t.count + 31) / 32

/-- Dimensions of an expanded key: the nope part, then the positional key (R277). -/
def keyDims (t : StreamSpec) (y : KvLayout) : Nat := t.dim + y.rdim

/-- The bytes of a stream (Table 07-5); an expanded stream brings its heads one after the other (log entry 18). -/
def streamBytes (y : KvLayout) (t : StreamSpec) : Nat :=
  match t.kind with
  | 0 => t.heads * (streamGroup t t.count * keyDims t y * y.ebytes)
  | 1 => t.heads * (streamGroup t t.dim * (32 * streamBlocks t) * y.ebytes)
  | 2 => streamGroup t t.count * y.lb
  | 3 => streamGroup t y.ldim * streamBlocks t * (32 * y.bits / 8)
  | 4 => streamGroup t t.count * y.rdim
  | 5 => 64 * ((t.first + t.count + 63) / 64 - t.first / 64)
  | 6 => y.ldim * streamBlocks t
  | _ => 0

def streamLines (y : KvLayout) (t : StreamSpec) : Nat := (streamBytes y t + 63) / 64

/-- The elements, as (position offset, dimension), that byte `i` of a LATENT or ROPE stream packs, the first in the
low bits (Table 07-5). -/
def streamElems (y : KvLayout) (t : StreamSpec) (i : Nat) : List (Nat × Nat) :=
  let n := max 1 t.cols
  let perRow := 32 * y.bits / 8
  match t.kind with
  | 2 =>
    let r := i % (n * y.lb)
    let p := i / (n * y.lb) * n + r % (n * perRow) / perRow
    let d := r / (n * perRow) * 32 + r % perRow * 8 / y.bits
    (List.range (8 / y.bits)).map (fun k => (p, d + k))
  | 3 =>
    let group := n * streamBlocks t * perRow
    let r := i % group
    let d := i / group * n + r % (n * perRow) / perRow
    let p := r / (n * perRow) * 32 + r % perRow * 8 / y.bits
    (List.range (8 / y.bits)).map (fun k => (p + k, d))
  | 4 =>
    let r := i % (n * y.rdim)
    let b := r / (n * 32)
    let w := min 32 (y.rdim - 32 * b)
    [(i / (n * y.rdim) * n + r % (n * 32) / w, b * 32 + r % (n * 32) % w)]
  | _ => []

/-- The HBM byte that holds an element of a stream, where its page is resident and the element exists. -/
def streamAddr (s : State) (t : StreamSpec) (e : Nat × Nat) : Option Nat :=
  let y := kvLayout s
  let pos := t.first + e.1
  if e.1 < t.count ∧ e.2 < (if t.kind = 4 then y.rdim else y.ldim) then
    (streamPage s t.ward t.layer pos).map (fun r =>
      if t.kind = 4 then ropeAddr s r.page (t.layer % y.lpg) (pos % 64) + e.2
      else latentAddr s r.page (t.layer % y.lpg) (pos % 64) + e.2 * y.bits / 8)
  else none

/-- Byte `i` of a stream of stored data (Table 07-5, R278); added positions are zero. -/
def streamByte (s : State) (t : StreamSpec) (i : Nat) : Nat :=
  let y := kvLayout s
  match t.kind with
  | 5 =>
    if i % 64 < y.ldim / 32 then
      match streamPage s t.ward t.layer ((t.first / 64 + i / 64) * 64) with
      | none => 0
      | some r => getScale s r.page (t.layer % y.lpg) (i % 64)
    else 0
  | 6 =>
    let blocks := max 1 (streamBlocks t)
    match streamPage s t.ward t.layer (t.first + i % blocks * 32) with
    | none => 0
    | some r => getScale s r.page (t.layer % y.lpg) (i / blocks / 32)
  | _ =>
    let w := if t.kind = 4 then 8 else y.bits
    let es := streamElems y t i
    (List.range es.length).foldl (fun a k =>
      let e := es.getD k (0, 0)
      match streamAddr s t e with
      | none => a
      | some ad => a + natBits (hbmLoad s ad 1) (e.2 * w % 8) w * 2 ^ (k * w)) 0

/-! ### Expansion (R277) -/

/-- An element of an expanded stream: head, position offset, dimension, and which byte of it. -/
structure ExpPlace where
  head : Nat
  pos  : Nat
  dim  : Nat
  byte : Nat
  deriving DecidableEq, Repr

/-- The element at byte `i` of an expanded stream (Table 07-5). -/
def expandPlace (y : KvLayout) (t : StreamSpec) (i : Nat) : ExpPlace :=
  let n := max 1 t.cols
  let w := y.ebytes
  if t.kind = 0 then
    let dims := max 1 (keyDims t y)
    let per := max 1 (streamGroup t t.count * dims * w)
    let r := i % per
    let q := r % (n * dims * w)
    let b := q / (n * 32 * w)
    let bw := max 1 (min 32 (dims - 32 * b))
    let z := q - b * (n * 32 * w)
    ⟨i / per, r / (n * dims * w) * n + z / (bw * w), 32 * b + z % (bw * w) / w, z % w⟩
  else
    let row := n * (32 * max 1 (streamBlocks t)) * w
    let per := max 1 (streamGroup t t.dim / n * row)
    let r := i % per
    let q := r % row
    let z := q % (n * 32 * w)
    ⟨i / per, 32 * (q / (n * 32 * w)) + z % (32 * w) / w, r / row * n + z / (32 * w), z % w⟩

/-- Row `r` of the up-projection matrix of a stream lies here, LDIM elements packed (log entry 18). -/
def uRowAddr (y : KvLayout) (t : StreamSpec) (r : Nat) : Nat := t.ubase + r * (y.ldim * widthOfCode t.ufmt / 8)

/-- A row of U with its scales applied. -/
def uRow (s : State) (t : StreamSpec) (r : Nat) : List FVal :=
  let y := kvLayout s
  let w := widthOfCode t.ufmt
  let v := hbmLoad s (uRowAddr y t r) (y.ldim * w / 8)
  (List.range y.ldim).map (fun i =>
    scaledElem t.ufmt (hbmLoad s (t.uscale + r * (y.ldim / 32) + i / 32) 1) (natBits v (i * w) w))

/-- The latent of a position, each element times its page's scale, exactly. -/
def latentRow (s : State) (page l j : Nat) : List FVal :=
  let y := kvLayout s
  let v := hbmLoad s (latentAddr s page l j) y.lb
  (List.range y.ldim).map (fun i => scaledElem y.lfmt (getScale s page l (i / 32)) (natBits v (i * y.bits) y.bits))

/-- An expanded element (R277): a block-exact sum in ascending i from +0, converted to EFMT with SAT = 1, or a dimension of
the positional key, widened exactly and converted. Added positions and dimensions are +0. -/
def expandElem (s : State) (t : StreamSpec) (x : ExpPlace) : Nat × FlagSet :=
  let y := kvLayout s
  let pos := t.first + x.pos
  let l := t.layer % y.lpg
  if t.count ≤ x.pos ∨ (if t.kind = 0 then keyDims t y else t.dim) ≤ x.dim then (0, flNone)
  else
    match streamPage s t.ward t.layer pos with
    | none => (0, flNone)
    | some r =>
      if x.dim < t.dim then
        let (v, f) := floatCell ((blockLen t.ufmt y.lfmt).getD 32) (uRow s t (x.head * t.dim + x.dim))
          (latentRow s r.page l (pos % 64)) 0
        let (o, g) := convertOut y.efmt true v
        (o, f ||| g)
      else
        convertOut y.efmt true (widen32 3 (hbmLoad s (ropeAddr s r.page l (pos % 64) + (x.dim - t.dim)) 1))

/-- What an expanded element reads: latent, row of U with its scales, or positional key. -/
def expandRanges (s : State) (t : StreamSpec) (x : ExpPlace) : List (Nat × Nat) :=
  let y := kvLayout s
  let pos := t.first + x.pos
  let l := t.layer % y.lpg
  if t.count ≤ x.pos ∨ (if t.kind = 0 then keyDims t y else t.dim) ≤ x.dim then []
  else
    match streamPage s t.ward t.layer pos with
    | none => []
    | some r =>
      if x.dim < t.dim then
        let u := x.head * t.dim + x.dim
        [(latentAddr s r.page l (pos % 64), y.lb), (uRowAddr y t u, y.ldim * widthOfCode t.ufmt / 8)] ++
          (if isMxCode t.ufmt then [(t.uscale + u * (y.ldim / 32), y.ldim / 32)] else [])
      else [(ropeAddr s r.page l (pos % 64) + (x.dim - t.dim), 1)]

/-- The HBM ranges that line `n` of a stream reads: the page-list entries it goes through, and the data. -/
def streamRanges (s : State) (t : StreamSpec) (n : Nat) : List (Nat × Nat) :=
  let y := kvLayout s
  let is := (List.range 64).map (fun j => 64 * n + j)
  let list := (List.range ((t.first % 64 + t.count + 63) / 64)).flatMap (fun b =>
    entRanges s t.ward (entIndex s (t.first / 64 + b) (t.layer / y.lpg)))
  list ++ (if t.kind ≤ 1 then (is.map (expandPlace y t)).flatMap (expandRanges s t)
    else (is.flatMap (fun i => (streamElems y t i).filterMap (streamAddr s t))).map (fun a => (a, 1)))

/-- Line `n` of a stream and the flags that its expander raises: computed from the pages, zero beyond the end. -/
def streamLine (s : State) (t : StreamSpec) (n : Nat) : Line × FlagSet :=
  let y := kvLayout s
  let is := (List.range 64).map (fun j => 64 * n + j)
  let elem := fun (i : Nat) => if i < streamBytes y t then expandElem s t (expandPlace y t i) else (0, flNone)
  let byte := fun (i : Nat) =>
    if streamBytes y t ≤ i then 0
    else if t.kind ≤ 1 then natBits (elem i).1 (8 * (expandPlace y t i).byte) 8
    else streamByte s t i
  (BitVec.ofNat 512 ((List.range 64).foldl (fun a j => a + byte (64 * n + j) * 2 ^ (8 * j)) 0),
    if t.kind ≤ 1 then is.foldl (fun f i => f ||| (elem i).2) flNone else flNone)

/-- The pages that a stream reads agree with their GEN (R267). -/
def streamGenOk (s : State) (t : StreamSpec) : Bool :=
  (List.range (t.count / 64 + 2)).all (fun b =>
    match streamPage s t.ward t.layer (t.first + 64 * b) with
    | none => true
    | some r => genOk s r)

/-- A stream that the Warden may bind (R273, R276, R280): its positions end at or below the committed length, this package
holds every block of them, and they lie in one shard; an expanded stream names one to four heads and a matrix of the
FP8-class row. -/
def streamOk (s : State) (t : StreamSpec) : Bool :=
  let l := getList s t.ward
  let bs := (List.range ((t.first % 64 + t.count + 63) / 64)).map (fun b => t.first / 64 + b)
  decide (t.kind ≤ 6) && decide (t.first + t.count ≤ (getWard s t.ward).committed) &&
    bs.all (fun b => (streamPage s t.ward t.layer (64 * b)).isSome && shardOf l b == shardOf l (t.first / 64)) &&
    (decide (2 ≤ t.kind) || (decide (1 ≤ t.heads) && decide (t.heads ≤ 4) && decide (3 ≤ t.ufmt) && decide (t.ufmt ≤ 8)))

/-- Every stream of a launch may be bound. -/
def streamsOk (s : State) (sp : LaunchSpec) : Bool := sp.streams.all (streamOk s)

/-- The sticky flags of a Bezel expander (02 R79). -/
def raiseExpander (s : State) (x : Nat) (f : FlagSet) : State :=
  if f = flNone then s
  else
    { s with bezel := { s.bezel with
        expFlags := tabMod flNone s.bezel.expFlags x (fun y => y ||| f) } }

/-- The next line of a stream, through the expander that serves it: what is read is checked (R267, 18 R609), and the line goes out. -/
def nextLine (s : State) (expander : Nat) (t : StreamSpec) (n : Nat) : Line × State :=
  let (line, f) := streamLine s t n
  (line, raiseExpander (bezelReads s (streamRanges s t n)) expander f)

end Sys2Proof.Machine
end

