-- ==== Sys2Proof/Machine/Warden.lean ====
section
/-!
DEFINITION. The Warden's commands (spec 10): shares and exchanges of steps, boundaries, the swap point (12 R447),
commits and stops at boundaries (16 R555-R560), launches on cores (R385-R389) and bandwidth buckets (R381).
-/
namespace Sys2Proof.Machine

open Sys2Proof

/-! ### A step's share (R362) -/

/-- Every launch of a lane's step on this package is complete and its records applied. -/
def launchesDone (s : State) (lane step : Nat) : Bool :=
  s.comp.cores.all (fun p => match p.2.launch with
    | some l => l.lane != lane || l.step != step || (l.done && l.applied) || l.faulted
    | none => true)

/-- The decision of a step about a request. -/
def stepDecision (l : Lane) (w : Nat) : Option Decision := l.decisions.find? (fun d => d.ward == w)

/-- The tokens that a request takes of those sampled: none beyond its limit. -/
def takenTokens (e : WardEntry) (x : Sampled) : List (Nat × Nat) := x.tokens.take (e.limit - e.tlen)

/-- The step's result for a sampled request (Table 10-3): TRUNCATED says that its last token reaches LIMIT, an end token or
not (R347). -/
def resultOf (e : WardEntry) (w : Nat) (x : Sampled) : StepResult :=
  let n := (takenTokens e x).length
  let trunc := decide (n ≠ 0) && decide (e.limit ≤ e.tlen + n)
  ⟨w, e.aseq, x.accept, n, x.ended || trunc, trunc⟩

/-- Write one token of a request to its Keyring: here when this is the home package, else over the fabric. -/
def deliverToken (s : State) (w : Nat) (e : WardEntry) (i token logp : Nat) (fin rej trunc : Bool) : State :=
  let q := e.nextSeq + i
  if e.home = ownPkg s then noteWritten (keyringPut s w e token q logp fin rej trunc false) w q
  else s.emit .request [e.home, w, q, keyringWord token q logp fin rej trunc false (s.now - e.admitTime)]

/-- The Keyring writes of a sampled request (R349). -/
def deliverSampled (s : State) (l : Lane) (x : Sampled) : State :=
  match stepDecision l x.ward with
  | none => s
  | some d =>
    let e := getWard s x.ward
    if !sameEntry s x.ward d.aseq then s
    else
      let ts := takenTokens e x
      let r := resultOf e x.ward x
      let n := ts.length
      (ts.zipIdx).foldl (fun s (p : (Nat × Nat) × Nat) =>
        let last := p.2 + 1 == n
        deliverToken s x.ward e p.2 p.1.1 p.1.2 (last && r.ended) (last && d.kind == 2 && decide (x.accept < d.drafts))
          (last && r.trunc)) s

/-- HEADROOM (Table 10-3, 07 R266): pool pages not reserved, as many as leaves can be supplied for (log entry 64). -/
def headroom (s : State) : Nat :=
  let taken := (s.bezel.pages.filter (fun p => !p.2.pooled)).length
  let resv := (s.bezel.resv.map Prod.snd).sum
  min (getF s fBZL_POOL_SIZE_PAGES - taken - resv) (freeLeaves s)

/-- The exchange of a step (Table 10-3). -/
def makeExchange (s : State) (lane : Nat) (l : Lane) (xs : List Sampled) : StepExchange :=
  let rs := xs.filterMap (fun x =>
    match stepDecision l x.ward with
    | some d => if sameEntry s x.ward d.aseq then some (resultOf (getWard s x.ward) x.ward x) else none
    | none => none)
  ⟨lane, l.step, ownPkg s, s.now, l.digest, activeGen s, rs, s.bezel.matched, headroom s, getF s fWDN_STEP_STEP⟩

/-- An exchange as the items of a message. -/
def exchangeArgs (x : StepExchange) : List Nat :=
  [x.lane, x.step, x.sender, x.doneAt, x.digest, x.gen, x.headroom, x.report, x.results.length] ++
    x.results.flatMap (fun r => [r.ward, r.aseq, r.accept, r.deliv, bit r.ended, bit r.trunc]) ++
    x.matched.flatMap (fun m => [m.1, m.2.1, m.2.2])

/-- Record an exchange, once per sender and step. -/
def recordExchange (s : State) (x : StepExchange) : State :=
  let l := getLane s x.lane
  if l.exch.any (fun y => y.sender == x.sender && y.step == x.step) || decide (x.step < l.step) then s
  else setLane s x.lane { l with exch := l.exch ++ [x] }

/-- STEP_SHARE_COMPLETE: the package's share of a lane's step is complete; its exchange goes to every package, and is
held here as well. -/
def execStepShareComplete (lane : Fin 3) (sampled : List Sampled) (s : State) : Host.Outcome State Fault Refusal :=
  .next (
    let l := getLane s lane
    if !serving s || stopped s || l.step == 0 || l.sent || !launchesDone s lane l.step then s
    else
      let s := sampled.foldl (fun s x => deliverSampled s l x) s
      let x := makeExchange s lane l sampled
      let s := sendAll s .stepExchange (exchangeArgs x)
      let drops := s.router.drops
      let s := { s with
        router := { s.router with drops := [] }
        bezel := { s.bezel with
          matched := [], setsUsed := []
          resv := s.bezel.resv.filter (fun p => !l.decisions.any (fun d => d.ward == p.1)) }
        comp := { s.comp with cores := tabMap s.comp.cores (fun k =>
          match k.launch with
          | some n => if n.lane = lane.val ∧ n.step = l.step then { k with launch := none } else k
          | none => k) } }
      let s := recordExchange s x
      sendPassed (setLane s lane { getLane s lane with sent := true, drops := drops }))

/-- STEP_EXCHANGE (R362): an exchange from a package of the partition. -/
def execStepExchange (x : StepExchange) (s : State) : Host.Outcome State Fault Refusal :=
  .next (
    if serving s && !stopped s && decide (x.lane < 3) && (members s).contains x.sender then recordExchange s x else s)

/-- Every package's exchange of the step in flight is held. -/
def allExchanged (s : State) (lane : Nat) : Bool :=
  let l := getLane s lane
  l.step != 0 && (members s).all (fun p => l.now.any (fun x => x.sender == p))

/-- EXCHANGE_WAIT_TIMEOUT (R367): an exchange missing for more than 10 ms. -/
def execExchangeWaitTimeout (lane : Fin 3) (s : State) : Host.Outcome State Fault Refusal :=
  .next (
    let l := getLane s lane
    if serving s && !stopped s && l.step != 0 && l.sent && !allExchanged s lane then
      let miss := ((members s).find? (fun p => !l.now.any (fun x => x.sender == p))).getD 0
      declareFault s 0x0007 (FaultAt.package miss)
    else s)

/-! ### The swap point (12 R446, R447) -/

/-- The drain of a committed swap is complete. -/
def drainComplete (s : State) : Bool := swapPhase s == 3 && (bitF s fHNG_MODEL_KV_COMPAT || !drainOpen s)

/-- The swap point H: every replica makes V' the active version. -/
def swapPoint (s : State) : List Decision × State :=
  match pendingManifest s with
  | none => ([], s)
  | some m =>
    let v := manVersion m
    let compat := manKvCompat m
    let old := wards s
    let s := setF (setF s fHNG_MODEL_ACTIVE v) fHNG_MODEL_SWAP 4
    let s := old.foldl (fun s p => modWard s p.1 (fun e => { e with model := v })) s
    let gone := if compat then [] else old.filter (fun p => suspended p.2.phase && !p.2.rebuild)
    let s := gone.foldl (fun s p => expireEntry s p.1 0) s
    let ds := gone.map (fun p => Decision.mk p.1 p.2.aseq 5 p.2.doomed false 0 0 p.2.epoch 0)
    let s := ((s.bezel.bitting.filter (fun p => p.2.model != v)).map Prod.fst).foldl removeBit s
    let s := if compat then s else installLayout s m
    let s := { s with hinge := { s.hinge with
      gating := true, passed := [], committed := [], passSent := []
      slots := s.hinge.slots.filter (fun (p : Nat × AdapterSlot) => p.2.phase != .ready || versionQualifies s p.2.version) } }
    let s := setReg s rHNG_WAVE 0
    (ds, setF s fHNG_WAVE_H_STEP ((getF s fWDN_STEP_STEP + 1) % 2 ^ 32))

/-! ### Boundaries (R363-R369) -/

/-- Phase 3 of a boundary: the swap point if it is this boundary, the end of the hinge step, and the lane's next step. -/
def phaseForm (s : State) (lane b ended : Nat) (proposed : List (Nat × Nat)) (disp : List (Nat × Nat × Nat)) : State :=
  let s := if s.hinge.hingeStep = some (lane, ended) then { s with hinge := { s.hinge with hingeStep := none } } else s
  let h := drainComplete s
  let (ds, s) := if h then swapPoint s else ([], s)
  let s := formStep s lane b ds proposed disp
  let s := if h then { s with hinge := { s.hinge with hingeStep := some (lane, (getLane s lane).step) } } else s
  sendPassed s

/-- The job stops (16 R558). -/
def jobStop (s : State) : State :=
  let s := { s with warden := { s.warden with lanes := [], reserved := [] } }
  let s := setF (setF s fGLB_TIME_STAT_SERVING 0) fCFG_STAT_STOPPING 0
  sendJobReady (setStage s 0xD)

/-- No step is in flight in any lane. -/
def noneInFlight (s : State) : Bool := [0, 1, 2].all (fun n => (getLane s n).step == 0)

/-- What follows phase 2 of a boundary: the stop of the job, the quiesce of a due commit, or phase 3. -/
def boundaryEnd (s : State) (lane b ended : Nat) (proposed : List (Nat × Nat)) (disp : List (Nat × Nat × Nat)) : State :=
  if bitF s fCFG_STAT_STOPPING && wards s == [] then jobStop s
  else
    let s := if s.cfg.due || commitDue s then { s with cfg := { s.cfg with due := true } } else s
    if s.cfg.due then
      if noneInFlight s then
        let s := swapSets s
        { s with cfg := { s.cfg with resume := some (b + 20000) } }
      else s
    else phaseForm s lane b ended proposed disp

/-- B of a boundary (R363): the largest DONE plus MARGIN, rounded up to a whole microsecond. -/
def boundaryTime (s : State) (lane : Nat) : Nat :=
  roundUp (((getLane s lane).now.map StepExchange.doneAt).foldl max 0 + getF s fWDN_CFG_MARGIN * 1000) 1000

/-- The sender of the exchange that came last. -/
def lastSender (s : State) (lane : Nat) : Nat := (((getLane s lane).now.getLast?).map StepExchange.sender).getD 0

/-- A lane of lower code is to take its boundary at the same B first (R366). -/
def earlierLane (s : State) (lane : Nat) : Bool :=
  (List.range lane).any (fun n => allExchanged s n && boundaryTime s n == boundaryTime s lane)

/-- STEP_BOUNDARY (R363-R369, 09 R340). -/
def execStepBoundary (lane : Fin 3) (proposed : List (Nat × Nat)) (disp : List (Nat × Nat × Nat)) (s : State) :
    Host.Outcome State Fault Refusal :=
  .next (
    if !serving s || stopped s || !allExchanged s lane || earlierLane s lane then s
    else
      let b := boundaryTime s lane
      if batchMissing s b then raiseF s fWRD_ERR_BATCH_LATE
      else
        let ended := (getLane s lane).step
        let s := digestCheck s lane
        if stopped s then s
        else
          let s := if b < s.now then
              setF (raiseF s fWDN_ERR_EXCHANGE_LATE) fWDN_ERR_LAST_PKG (lastSender s lane) else s
          let s := phaseResults s lane b
          let s := setLane s lane { getLane s lane with step := 0, decisions := [] }
          let s := setReg s (rWDN_LANE_BND lane) (BitVec.ofNat 64 b)
          let s := copyWardEntry (applyDue b s.ward.batches.length s)
          boundaryEnd s lane b ended proposed disp)

/-- Boundaries of the three lanes at one time, in the order D, P, I (R366). -/
def threeBoundaries (s : State) (b : Nat) (proposed : List (Nat × Nat)) (disp : List (List (Nat × Nat × Nat))) : State :=
  [0, 1, 2].foldl (fun s n => phaseForm s n b 0 proposed (disp.getD n [])) s

/-- COMMIT_RESUME_BOUNDARY (16 R555): 20 us after the quiesce point, every lane takes a boundary under the new set. -/
def execCommitResumeBoundary (proposed : List (Nat × Nat)) (disp : List (List (Nat × Nat × Nat))) (s : State) :
    Host.Outcome State Fault Refusal :=
  .next (
    match s.cfg.resume with
    | none => s
    | some b =>
      if !serving s || stopped s then s
      else if batchMissing s b then raiseF s fWRD_ERR_BATCH_LATE
      else
        let s := { s with cfg := { s.cfg with resume := none } }
        let s := copyWardEntry (applyDue b s.ward.batches.length s)
        threeBoundaries s b proposed disp)

/-- The end of an episode (18 R619, R626): FAULT_N is released, the pinned dump is READY, RECOVERY_DONE is posted. -/
def endEpisode (s : State) : State :=
  if !stopped s then s
  else
    let s := [0, 1].foldl (fun s n => if dumpState s n = 2 then setF s (fGLB_DUMP_STAT_STATE n) 3 else s) s
    let s := setF (setFaultPhase s 0) fGLB_FAULT_STAT_FAULT_N 0
    let s := setF s fGLB_FAULT_STAT_OWN 0
    postPF (s.emit .pin [0, 1]) 0x72 0 0 0 (getF s fGLB_FAULT_STAT_EPISODE)

/-- START applied at T (16 R560). -/
def startJob (s : State) (t : Nat) (proposed : List (Nat × Nat)) (disp : List (List (Nat × Nat × Nat))) : State :=
  let s := endEpisode s
  let s := setReg s rWDN_STEP 0
  let s := setStage (setF s fGLB_TIME_STAT_SERVING 1) 0xE
  threeBoundaries (copyWardEntry { s with warden := { s.warden with lanes := [] } }) t proposed disp

/-- BATCH_APPLY_IDLE (16 R560): without a job, the next batch is applied at its apply time; START begins the job. -/
def execBatchApplyIdle (proposed : List (Nat × Nat)) (disp : List (List (Nat × Nat × Nat))) (s : State) :
    Host.Outcome State Fault Refusal :=
  .next (
    let ph := getF s fGLB_FAULT_STAT_PHASE
    if serving s || !(ph == 0 || ph == 4) then s
    else
      match nextHeld s with
      | none => s
      | some x =>
        if s.now < x.apply then s
        else
          let s := applyBatch s x x.apply
          if x.recs.any (fun r => r.kind == .start) && cfgStage s == 0xD then startJob s x.apply proposed disp else s)

/-! ### Launches (R385-R389) -/

/-- The LOUPE bit of a cluster (16 Table 16-4). -/
def clusterLoupe (s : State) (k : Nat) : Bool := natBits ((activeRecs s 2 1).getD k 0) 204 1 == 1

/-- The LOUPE bit of a strand (06 R247). -/
def loupe (s : State) (c ctx : Nat) : Bool :=
  clusterLoupe s (clusterOfCore c) || (ctx != ctxSYS && tenantField s ctx 13 1 == 1)

/-- The decision of a lane's step that a row of a launch carries out. -/
def rowDecision (s : State) (l : Lane) (w : RowSpec) : Option Decision :=
  l.decisions.find? (fun d => d.ward == w.ward && d.first == w.first && d.count == w.count && d.kind ≤ 2
    && (d.kind == 2) == w.verify && sameEntry s d.ward d.aseq)

/-- The bytes of a row list (R385); the token word of a chunk is 0. Adapter slots are not in it (log entry 175). -/
def rowListBytes (s : State) (l : Lane) (rows : List RowSpec) : List Byte :=
  rows.flatMap (fun r =>
    let token := if ((rowDecision s l r).map Decision.kind).getD 0 = 0 then 0 else r.token
    leBytes 16 (r.first % 2 ^ 24 + r.count % 2 ^ 12 * 2 ^ 24 + bit r.verify * 2 ^ 36 + token % 2 ^ 32 * 2 ^ 64))

/-- The argument words of an entry point's record (16 R545 array 3). -/
def epArg (r i : Nat) : Word := BitVec.ofNat 64 (imgField r (80 + 8 * i) 8)

/-- The strand's identity in S15 (04 R159). -/
def strandId (c i : Nat) : Nat :=
  let k := clusterOfCore c
  indexOfCore c + i * 2 ^ 8 + (k % 32) * 2 ^ 10 + dieOfCluster k * 2 ^ 15

/-- A started strand (04 R159, Table 10-9). -/
def startStrand (s : State) (c i r : Nat) (sp : LaunchSpec) (x : StrandLaunch) (sys : Bool) : Strand :=
  let ctx := if sys then ctxSYS else x.context
  let s14 := x.rows.length % 2 ^ 16 + x.tokens % 2 ^ 16 * 2 ^ 16 + sp.lane % 4 * 2 ^ 32 + bit (loupe s c ctx) * 2 ^ 63
  { Strand.idle with
    phase := .ready
    pc := some (natBits r (12 * i) 11)
    context := ctx
    sreg := (List.range 12).map (epArg r) ++
      [BitVec.ofNat 64 sp.aperture, BitVec.ofNat 64 x.rowList, BitVec.ofNat 64 s14, BitVec.ofNat 64 (strandId c i)] }

/-- The core can take a launch (R387, 03 R139): its earlier work is complete or cancelled. -/
def coreFree (k : Core) : Bool :=
  k.ops == [] && k.strands.all (fun t => t.phase == .idle || t.phase == .faulted) &&
    (match k.launch with
      | none => true
      | some l => (l.done && l.applied) || l.faulted)

/-- The gates of a launch (12 R448): a new-version launch waits for every layer that it reads. -/
def gateOpen (s : State) (newVer : Bool) (first last : Nat) : Bool :=
  !newVer || !s.hinge.gating ||
    (List.range (last + 1 - first)).all (fun i => gateHeld s s.hinge.committed (first + i))

/-- Presets of an entry point join the cluster latches, once per step and cluster (04 R158). -/
def applyPresets (s : State) (k r : Nat) : State :=
  (epPresets r).foldl (fun s p =>
    modCluster s k (fun c => { c with clatch := tabSet c.clatch p.1 (min 65535 (tabGet 0 c.clatch p.1 + p.2)) })) s

/-- Launches of a lane's step on a cluster. -/
def clusterLaunches (s : State) (k lane step : Nat) : List Launch :=
  s.comp.cores.filterMap (fun p =>
    if clusterOfCore p.1 = k then p.2.launch.filter (fun l => l.lane == lane && l.step == step) else none)

/-- The role of a cluster (16 Table 16-4). -/
def clusterRole (s : State) (k : Nat) : Nat := natBits ((activeRecs s 2 1).getD k 0) 201 3

/-- The cluster's role is that of the lane (R358, R359); EXPERT clusters serve every lane. -/
def roleOk (s : State) (k lane : Nat) : Bool := clusterRole s k == lane + 1 || clusterRole s k == 4

/-- The launch runs under SYS: its entry point declares it, or it is an expert launch (08 R321). -/
def launchSys (s : State) (k r : Nat) : Bool := natBits (imgField r 64 16) 0 1 == 1 || clusterRole s k == 4

/-- The rows of a launch are decisions of the step, and under TENANT each strand's belong to its CONTEXT (R386, 06 R253).
An expert launch has none. -/
def rowsOk (s : State) (k r : Nat) (l : Lane) (sp : LaunchSpec) : Bool :=
  sp.strands.all (fun x => x.rows.all (fun w =>
    clusterRole s k != 4 && (rowDecision s l w).isSome && (launchSys s k r || (getWard s w.ward).ctx == x.context)))

/-- A row suits the launch's heads (06 Table 06-12): decode and verification rows of class 0 and verification rows of every
class run on Culet cores, chunks on Facet cores; the expand reading works one head, the absorbed reading 2 or 4, a decode
row on a Facet core 4, every other work 1 to 4. -/
def rowHeadsOk (c lane : Nat) (sp : LaunchSpec) (d : Decision) : Bool :=
  let n := sp.heads.2
  let expand := sp.streams.any (fun t => t.kind ≤ 1)
  if d.kind = 0 then !isCulet c && decide (n ≤ 4)
  else if d.kind = 2 then isCulet c && decide (n ≤ 4)
  else if isCulet c then (if expand then n == 1 else n == 2 || n == 4)
  else lane == 2 && n == 4

/-- Head placement (06 R254): consecutive heads, the first a multiple of their number, in the numbers of Table 06-12. -/
def headsOk (s : State) (c : Nat) (l : Lane) (sp : LaunchSpec) : Bool :=
  sp.heads.2 == 0 ||
    (sp.heads.1 % sp.heads.2 == 0 && (sp.strands.flatMap StrandLaunch.rows).all (fun w =>
      ((rowDecision s l w).map (rowHeadsOk c sp.lane sp)).getD true))

/-- Two ranges of heads share a head; launches that work no heads share their rows. -/
def headsMeet (a b : Nat × Nat) : Bool :=
  (a.2 == 0 && b.2 == 0) || (decide (a.1 < b.1 + b.2) && decide (b.1 < a.1 + a.2))

/-- Position shards of one row lie on clusters whose LOUPE bits are equal (06 R249): launches of the step that share a row,
a layer and a head are its shards (log entry 156). -/
def shardsOk (s : State) (k r step : Nat) (sp : LaunchSpec) : Bool :=
  let x := imgField r 64 16
  s.comp.cores.all (fun p =>
    match p.2.launch with
    | none => true
    | some l =>
      l.lane != sp.lane || l.step != step || !headsMeet l.heads sp.heads || natBits x 9 8 < l.first || l.last < natBits x 1 8
        || clusterLoupe s (clusterOfCore p.1) == clusterLoupe s k
        || l.rows.all (fun w => (sp.strands.flatMap StrandLaunch.rows).all (fun v => v.ward != w.ward || v.first != w.first)))

/-- The presets of an entry point apply before any strand of the step issues on the cluster (04 R158): an entry point whose
presets have not joined yet is not launched after that. -/
def presetsOk (s : State) (k r step : Nat) (sp : LaunchSpec) : Bool :=
  let others := clusterLaunches s k sp.lane step
  epPresets r == [] || others.any (fun o => o.tset == sp.tset && o.ep == sp.ep) || !others.any (fun o => o.issued)

/-- Completions of a cluster's earlier work no longer lower its cluster latches (03 R139). -/
def forgetClusterLatches (s : State) (k : Nat) : State :=
  { s with comp := { s.comp with cores := s.comp.cores.map (fun p =>
      if clusterOfCore p.1 = k then
        (p.1, { p.2 with ops := p.2.ops.map (fun o =>
          match o.latch with
          | some (true, _) => { o with latch := none }
          | _ => o) })
      else p) } }

/-- A launch takes place on a core. -/
def launchOn (s : State) (c r : Nat) (sp : LaunchSpec) : State :=
  let k := clusterOfCore c
  let l := getLane s sp.lane
  let x := imgField r 64 16
  let sys := launchSys s k r
  let newVer := swapPhase s == 4 && decide (getF s fHNG_WAVE_H_STEP ≤ l.step % 2 ^ 32)
  let s := wakeCluster s k
  let others := clusterLaunches s k sp.lane l.step
  let s := if others = [] then forgetClusterLatches (modCluster s k (fun c => { c with clatch := [] })) k else s
  let s := if others.any (fun o => o.tset == sp.tset && o.ep == sp.ep) then s else applyPresets s k r
  let i := indexOfCore c
  let s := (sp.strands.flatMap StrandLaunch.rows).foldl (fun s w =>
    if w.shards = [] then s else modList s w.ward (fun l => { l with shards := w.shards })) s
  let s := setF (setF (setF s (fCLU_CORE_STAT_FAULT_CAUSE k i) 0) (fCLU_CORE_STAT_FAULT_STRAND k i) 0)
    (fCLU_CORE_STAT_SRAM_CORR k i) 0
  let noRows : StrandLaunch := ⟨ctxSYS, 0, 0, []⟩
  let rows := sp.strands.flatMap StrandLaunch.rows
  let old := getCore s c
  let bufs := (List.range 4).map (fun b =>
    match sp.streams.find? (fun t => t.buffer == b) with
    | some t => if isCulet c → natBits x (17 + b) 1 = 1 then { StreamBuf.empty with bound := some t } else StreamBuf.empty
    | none => StreamBuf.empty)
  setCore s c {
    strands := (List.range 4).map (fun j =>
      if natBits r (12 * j + 11) 1 = 1 then startStrand s c j r sp (sp.strands.getD j noRows) sys else Strand.idle)
    last := 3
    latches := []
    ops := []
    nextOp := old.nextOp
    tiles := []
    bufs := bufs
    launch := some {
      tset := sp.tset, ep := sp.ep, lane := sp.lane, step := l.step
      context := if sys then ctxSYS else ((sp.strands.head?).map StrandLaunch.context).getD ctxSYS
      first := natBits x 1 8, last := natBits x 9 8, newVer := newVer, faulted := false, done := false, applied := false
      issued := false, heads := sp.heads
      disp := sp.disp
      rows := rows.map (fun w =>
        ⟨w.ward, (getWard s w.ward).aseq, w.first, w.count, (getWard s w.ward).committed, (getWard s w.ward).epoch⟩)
      apBase := sp.aperture, slots := sp.slots, apMem := [], apLines := []
      lists := (sp.strands.zipIdx).map (fun p => (p.2, p.1.rowList, rowListBytes s l p.1.rows)) } }

/-- The record of the entry point that a launch names, where the core's cluster holds its table set. -/
def launchRecord (s : State) (c : Nat) (sp : LaunchSpec) : Option Nat :=
  s.cfg.active.bind (fun i => if i.tsetOf (clusterOfCore c) = sp.tset then i.entryPoint sp.tset sp.ep else none)

/-- The Warden launches entry point record `r` on a core: the step is in flight, the cluster is the lane's and powered, the
core free, the gates of the layers open, and the rows, heads and presets as the rules ask. -/
def launchOk (s : State) (c r : Nat) (sp : LaunchSpec) : Bool :=
  let k := clusterOfCore c
  let l := getLane s sp.lane
  let x := imgField r 64 16
  let newVer := swapPhase s == 4 && decide (getF s fHNG_WAVE_H_STEP ≤ l.step % 2 ^ 32)
  serving s && !stopped s && decide (sp.lane < 3) && l.step != 0 && !l.sent && pstate s k != 3
    && coreFree (getCore s c) && gateOpen s newVer (natBits x 1 8) (natBits x 9 8)
    && roleOk s k sp.lane && rowsOk s k r l sp && headsOk s c l sp && shardsOk s k r l.step sp && presetsOk s k r l.step sp
    && streamsOk s sp

/-- CORE_LAUNCH (R385-R388). -/
def execCoreLaunch (core : Fin 98304) (spec : LaunchSpec) (s : State) : Host.Outcome State Fault Refusal :=
  .next (match launchRecord s core spec with
  | none => s
  | some r => if launchOk s core r spec then launchOn s core r spec else s)

end Sys2Proof.Machine
end

