-- ==== Sys2Proof/Machine/Access.lean ====
section
/-!
DEFINITION. Device-virtual accesses of strands and cluster DMA (11 R400-R410, 10 R381, 14 R493-R501): translation,
what a launch maps for itself, bytes read and written, heat and dirty blocks, bandwidth buckets, fabric requests.
-/
namespace Sys2Proof.Machine

open Sys2Proof

/-! ### What a launch maps (10 R386) -/

/-- A range lies in the launch's KV write aperture. -/
def inAperture (s : State) (l : Launch) (a n : Nat) : Bool :=
  l.apBase != 0 && decide (l.apBase ≤ a) && decide (a + n ≤ l.apBase + l.slots.length * recordBytes s)

/-- The row list of a strand that holds a range: its base and bytes. -/
def rowListAt (l : Launch) (strand a n : Nat) : Option (Nat × List Byte) :=
  (l.lists.find? (fun x => x.1 == strand && decide (x.2.1 ≤ a) && decide (a + n ≤ x.2.1 + x.2.2.length) &&
    x.2.2 != [])).map Prod.snd

/-- A range that the launch maps: whether the access is allowed there. -/
def launchMaps (s : State) (c strand : Nat) (need : Need) (a n : Nat) : Option Bool :=
  match (getCore s c).launch with
  | none => none
  | some l =>
    if inAperture s l a n then some true
    else (rowListAt l strand a n).map (fun _ => need == .read)

/-! ### Translation (R401, 14 R501) -/

/-- What translation answers; `window` names the destination of a refused window check. -/
inductive Xlat where
  | ok | refused
  | window (dest : Nat)
  deriving DecidableEq, Repr

/-- The bit of a window entry that an access needs. -/
def Need.bitOf : Need → Nat
  | .read => 3
  | .write => 4
  | .atomic => 5

/-- The loan window allows the access (R501). -/
def loanWindowOk (s : State) (need : Need) (frame : Nat) : Bool :=
  let e := tabGet 0 s.fab.windows (frame / 512)
  natBits e 0 1 == 1 && natBits e need.bitOf 1 == 1 && natBits e 8 1 == 1 && decide (frame % 512 < natBits e 84 32)

/-- Translation of one page. -/
def pageXlat (s : State) (ctx : Nat) (need : Need) (vpn : Nat) : Xlat :=
  match leafOf s ctx vpn with
  | none => .refused
  | some l =>
    if l.lost || (need != .read && !l.write) then .refused
    else if l.tier == .neighbour && !loanWindowOk s need l.frame then
      .window (natBits (tabGet 0 s.fab.windows (l.frame / 512)) 16 16)
    else .ok

/-- The first answer that is not ok. -/
def firstBad : List Xlat → Xlat
  | [] => .ok
  | x :: xs => if x = .ok then firstBad xs else x

/-- Translation of a range under a context. -/
def rangeXlat (s : State) (ctx : Nat) (need : Need) (va n : Nat) : Xlat :=
  firstBad ((partsOf va n).map (fun p => pageXlat s ctx need p.1))

/-- Translation of an access of a strand. -/
def strandXlat (s : State) (c strand ctx : Nat) (need : Need) (va n : Nat) : Xlat :=
  match launchMaps s c strand need va n with
  | some ok => if ok then .ok else .refused
  | none => rangeXlat s ctx need va n

/-- A refusal recorded: a window refusal sets FAB_ERR (R501). -/
def noteRefusal (s : State) (x : Xlat) : State :=
  match x with
  | .window d => fabError s fFAB_ERR_WINDOW_REFUSED d
  | _ => s

/-! ### Bytes -/

/-- Bytes of a translated range. -/
def virtBytes (s : State) (ctx va n : Nat) : List Byte := (List.range n).map (fun i => (virtByte s ctx (va + i)).getD 0#8)

/-- Bytes that a strand reads; an aperture reads as the launch wrote it. -/
def strandBytes (s : State) (c strand ctx va n : Nat) : List Byte :=
  match (getCore s c).launch with
  | none => virtBytes s ctx va n
  | some l =>
    if inAperture s l va n then memBytes l.apMem (va - l.apBase) n
    else
      match rowListAt l strand va n with
      | some x => (x.2.drop (va - x.1)).take n
      | none => virtBytes s ctx va n

/-- The poisoned 64-byte units of a translated range, by start. -/
def virtPoison (s : State) (ctx va n : Nat) : List Nat :=
  ((granulesOf va n).map (fun g => g * 64)).filter (fun a => virtPoisoned s ctx a)

/-- A poisoned HBM granule of this package in a range: its device-physical address (18 R609). -/
def virtHbmPoison (s : State) (ctx va n : Nat) : Option Nat :=
  (virtPoison s ctx va n).findSome? (fun a =>
    match leafOf s ctx (a / 2097152) with
    | some l => if l.tier = .hbm then some (l.frame * 2097152 + a % 2097152) else none
    | none => none)

/-- Write bytes that lie in one page. -/
def pagePut (s : State) (ctx va : Nat) (bs : List Byte) : State :=
  match leafOf s ctx (va / 2097152) with
  | none => s
  | some l =>
    let a := l.frame * 2097152 + va % 2097152
    match l.tier with
    | .hbm => hbmStoreBytes s a bs
    | .neighbour =>
      let full := (granulesOf a bs.length).filter (fun g => decide (a ≤ g * 64) && decide (g * 64 + 64 ≤ a + bs.length))
      { s with tiers := { s.tiers with
          loanMem := memSetBytes s.tiers.loanMem a bs
          loanPoison := s.tiers.loanPoison.filter (fun g => !full.contains g) } }
    | .flash => flashStoreBytes s a bs ctx false

/-- Write bytes to a translated range. -/
def virtPut (s : State) (ctx va : Nat) (bs : List Byte) : State :=
  (partsOf va bs.length).foldl (fun s p => pagePut s ctx p.2.1 ((bs.drop (p.2.1 - va)).take p.2.2)) s

/-- Poison the 64-byte unit at a device-virtual address. -/
def virtMark (s : State) (ctx va : Nat) : State := poisonSink s ⟨0, 0, 0, 0, 64, .tiers, .virt ctx va⟩

/-- Write to the launch's aperture: its bytes, and the lines that now count as written. -/
def aperturePut (s : State) (c a : Nat) (bs : List Byte) : State :=
  modCore s c (fun k =>
    match k.launch with
    | none => k
    | some l => { k with launch := some { l with
        apMem := memSetBytes l.apMem (a - l.apBase) bs
        apLines := (granulesOf (a - l.apBase) bs.length).foldl nsInsert l.apLines } })

/-- Bytes that a strand writes. -/
def strandPut (s : State) (c strand ctx va : Nat) (bs : List Byte) : State :=
  match launchMaps s c strand .write va bs.length with
  | some _ => aperturePut s c va bs
  | none => virtPut s ctx va bs

/-! ### One access -/

/-- An access of a strand's operation: the operation, its context, what it needs, its range, whether its requests are
ordered, the bytes that it writes (operand and compare value for an atomic), AOP and SIGNED, and where read data goes. -/
structure DvAccess where
  core   : Nat
  strand : Nat
  op     : Nat
  ctx    : Nat
  need   : Need
  va     : Nat
  len    : Nat
  ord    : Bool
  data   : List Byte
  aop    : Nat
  sink   : Sink
  deriving DecidableEq, Repr

/-- The traffic of an access; a range that the launch maps has none. -/
def DvAccess.dispatch (x : DvAccess) (s : State) : Nat × State :=
  if (launchMaps s x.core x.strand x.need x.va x.len).isSome then (0, s)
  else Flow.run ⟨.coreOp x.core x.op, x.ctx, x.need, x.ord, x.va, x.data, x.aop, x.sink⟩ x.len s

/-- The phase of an operation that waits for `n` responses or buckets. -/
def phaseOf (n : Nat) : OpPhase := if n = 0 then .done else .fabric n

/-! ### Pages held for the final copy of a migration (11 R409) -/

/-- The page is held at its translation point: what would touch it waits (log entry 178). -/
def pageHeld (s : State) (ctx vpn : Nat) : Bool :=
  s.tiers.migs.any (fun m => m.held && m.page == pageKey ctx vpn)

/-- Some page of a range is held. -/
def rangeHeld (s : State) (ctx va n : Nat) : Bool := (partsOf va n).any (fun p => pageHeld s ctx p.1)

/-- An access of a strand finds its page held; what the launch maps is not. -/
def strandHeld (s : State) (c i ctx : Nat) (need : Need) (a : Word) (n : Nat) : Bool :=
  aSPACE a == spDV && n != 0 && (launchMaps s c i need (aADDR a) n).isNone && rangeHeld s ctx (aADDR a) n

/-! ### Writes of the package's own engines -/

/-- A write of an engine under a context: refused by translation, it writes nothing; the engines' chapters report nothing
else (11 R401, log entry 167). -/
def engineWrite (s : State) (agent : Agent) (ctx va : Nat) (bs : List Byte) : State :=
  let x := rangeXlat s ctx .write va bs.length
  if x = .ok then virtPut (Flow.run ⟨agent, ctx, .write, true, va, bs, 0, .none⟩ bs.length s).2 ctx va bs
  else noteRefusal s x

/-! ### Atomics (R98, R165) -/

/-- The new value of an atomic on an 8-byte word. -/
def atomicNew (aop : Nat) (signed : Bool) (old x cmp : Nat) : Nat :=
  let less := if signed then decide (natToInt 64 x < natToInt 64 old) else decide (x < old)
  let more := if signed then decide (natToInt 64 old < natToInt 64 x) else decide (old < x)
  match aop with
  | 0 => (old + x) % 2 ^ 64
  | 1 => if less then x else old
  | 2 => if more then x else old
  | 3 => x
  | 4 => if old = cmp then x else old
  | 5 => natSetBits old 0 32 (add32 (natBits old 0 32) (natBits x 0 32)).1
  | _ => old

/-! ### Streams (03 R121, 07 R276) -/

/-- The 64 bytes of a line. -/
def lineBytes (l : Line) : List Byte := leBytes 64 l.toNat

/-- A producer writes the line of a stream: into the buffer for one credit, or on a Facet core into the launch's scratch
range, without credits (log entry 161). -/
def putLine (s : State) (c b : Nat) (t : StreamSpec) (line : Line) : State :=
  let x := (getCore s c).bufs.getD b StreamBuf.empty
  let put := fun (s : State) (x : StreamBuf) => modCore s c (fun k => { k with bufs := k.bufs.set b x })
  if isCulet c then put s { x with lines := x.lines ++ [line], credits := x.credits - 1, sent := x.sent + 1 }
  else
    let ctx := (((getCore s c).launch).map Launch.context).getD ctxSYS
    put (engineWrite s .bezel ctx (t.scratch + 64 * x.sent) (lineBytes line)) { x with sent := x.sent + 1 }

/-- STREAM_LINE_WRITE (03 R121, 07 R276): the producer of a bound buffer that holds a credit writes the next line of its
stream. Its reads wait while a bucket of the tenant that they need is empty (10 R381). -/
def execStreamLineWrite (core : Fin 98304) (buffer : Fin 4) (expander : Fin 32) (s : State) :
    Host.Outcome State Fault Refusal :=
  let b := (getCore s core).bufs.getD buffer StreamBuf.empty
  match b.bound with
  | none => .next s
  | some t =>
    if b.credits = 0 || decide (streamLines (kvLayout s) t ≤ b.sent) then .next s
    else if !streamGenOk s t then .next (genMismatch s t.ward)
    else
      let cs := hbmCharges s (getWard s t.ward).ctx (streamRanges s t b.sent)
      if !allOpen s cs then .next s
      else
        let (line, s) := nextLine (spendAll s cs) expander t b.sent
        .next (putLine s core buffer t line)

end Sys2Proof.Machine
end

