-- ==== Sys2Proof/Machine/Issue.lean ====
section
/-!
DEFINITION. Issue of Tumbler entries (04 R160-R176): the fetch from the stores, what holds a strand back, the checks
of an entry that reaches issue, and the raising and lowering of done latches.
-/
namespace Sys2Proof.Machine

open Sys2Proof

/-! ### Strand registers -/

def getS (s : State) (c i r : Nat) : Word := (getStrand s c i).sreg.getD r 0

def setS (s : State) (c i r : Nat) (v : Word) : State := modStrand s c i (fun t => { t with sreg := t.sreg.set r v })

def getA (s : State) (c i r : Nat) : Word := (getStrand s c i).areg.getD r 0

def setA (s : State) (c i r : Nat) (v : Word) : State := modStrand s c i (fun t => { t with areg := t.areg.set r v })

def ctxOf (s : State) (c i : Nat) : Nat :=
  let v := (getStrand s c i).context
  if natBits v 12 1 = 1 then ctxSYS else v

/-- The successor of a program position (R152). -/
def nextPos (p : Nat) : Option Nat := if p % 1024 = 1023 then none else some (p + 1)

def setPc (s : State) (c i : Nat) (p : Option Nat) : State := modStrand s c i (fun t => { t with pc := p })

def setPhase (s : State) (c i : Nat) (ph : StrandPhase) : State := modStrand s c i (fun t => { t with phase := ph })

/-! ### Fetch (R150-R154, 18 R611) -/

/-- The number of a store slot of a cluster: core stores, then the cluster store, then micro-ops of the slots. -/
def storeSlot (index p : Nat) : Nat := if p < 1024 then index * 1024 + p else 192 * 1024 + (p - 1024)

/-- The entry at a program position; the successor of index 1,023 is EMPTY. -/
def entryAt (s : State) (c : Nat) : Option Nat → Entry
  | none => 0#128
  | some p =>
    if p < 1024 then tabGet 0#128 s.comp.coreStore (c * 1024 + p)
    else tabGet 0#128 s.comp.clusterStore (clusterOfCore c * 1024 + (p - 1024))

/-- The entry can be fetched now: a cluster-store entry must lie in the strand's line buffer (R154). -/
def lineHeld (t : Strand) : Bool :=
  match t.pc with
  | none => true
  | some p => p < 1024 || t.line == some ((p - 1024) / 4)

/-- The entry's slot is poisoned. -/
def entryPoisoned (s : State) (c : Nat) (t : Strand) : Bool :=
  match t.pc with
  | none => false
  | some p => (getCluster s (clusterOfCore c)).poisonedStore.contains (storeSlot (indexOfCore c) p)

/-! ### Pending registers (R176, R177) -/

/-- The S registers of the score fields: SQ and SW are ignored in the mask modes that do not use them (R236). -/
def scoreRegs (e : Entry) : List Nat :=
  let m := fld e 68 3
  [fld e 51 4, fld e 60 4, fld e 64 4] ++ (if m = 0 ∨ m = 3 then [] else [fld e 55 4])
    ++ (if m = 2 ∨ m = 5 then [fld e 71 4] else [])

/-- The S registers that an entry reads or writes. -/
def entryRegs (e : Entry) : List Nat :=
  let opt (b : Bool) (r : Nat) : List Nat := if b then [r] else []
  match eOP e with
  | 0x03 => fld e 36 4 :: opt (!flag e 47) (fld e 40 4)
  | 0x04 => opt (flag e 38) (fld e 63 4)
  | 0x10 => [fld e 36 4]
  | 0x11 => [fld e 36 4, fld e 40 4] ++ opt (!flag e 48) (fld e 44 4)
  | 0x12 => [fld e 36 4]
  | 0x13 => [fld e 36 4]
  | 0x14 => opt (!flag e 39) (fld e 40 4)
  | 0x15 => opt (!flag e 43) (fld e 39 4)
  | 0x16 => [fld e 36 4]
  | 0x20 => opt (flag e 42) (fld e 67 4)
  | 0x22 => fld e 39 4 :: (opt (fld e 52 3 == 4) (fld e 43 4) ++ opt (flag e 51) (fld e 47 4))
  | 0x41 => opt (flag e 73) (fld e 74 4) ++ opt (flag e 73) (fld e 78 4)
  | 0x60 => scoreRegs e
  | 0x63 => scoreRegs e
  | 0x64 => scoreRegs e
  | 0x65 => scoreRegs e
  | 0x70 => [fld e 47 4]
  | 0x71 => [fld e 51 4]
  | 0x72 => [fld e 39 4, fld e 43 4, fld e 47 4]
  | 0x73 => [fld e 48 4, fld e 52 4]
  | 0x74 => [fld e 52 4, fld e 56 4]
  | _ => []

/-- The operation that will write a register of a strand. -/
def pendingOp (k : Core) (i r : Nat) : Option OutOp := k.ops.find? (fun o => o.strand == i && o.dest == some r)

/-- Outstanding device-virtual loads and returning atomics of a strand. -/
def remoteCount (k : Core) (i : Nat) : Nat := (k.ops.filter (fun o => o.strand == i && o.remote)).length

/-- An entry that would be a device-virtual load or a returning atomic. -/
def entryRemote (s : State) (c i : Nat) (e : Entry) : Bool :=
  (eOP e == 0x12 && aSPACE (getA s c i (fld e 40 3)) == spDV) || (eOP e == 0x22 && flag e 51)

/-! ### Checks shared by entries -/

/-- A local access checked at issue: LOCAL, or another space that the entry allows. -/
def localFaults (c : Nat) (a : Word) (n al : Nat) : List CoreFault := accessFaults (sramSize c) [spLOCAL] a n al

/-- The check at issue of the addresses that a Lustre or attention entry uses: all are LOCAL (R715). What else is wrong
with an access faults at the access (05 R717, log entry 155). -/
def spaceFaults (as : List Word) : List CoreFault :=
  if as.any (fun a => natBits a.toNat 60 4 != 0 || aSPACE a != spLOCAL) then [.spaceReserved] else []

/-- What holds a strand, or lets its entry issue. -/
inductive Gate where
  /-- nothing happens: no such entry is at issue, or it is passed over -/
  | pass
  | hold (ph : StrandPhase)
  | fault (f : CoreFault)
  /-- the fetch found a poisoned slot -/
  | poison
  | go (e : Entry)
  deriving DecidableEq, Repr

/-- The waits of an entry whose checks hold (R167, R136, R176, R177). `short` says that a stream buffer lacks lines; a
strand that is only passed over is READY. -/
def waitGate (s : State) (c i : Nat) (e : Entry) (short busy : Bool) : Gate :=
  let k := getCore s c
  if (windowLatches e ++ cmaskLatches e).any (fun l => latchGet s c l.1 l.2 != 0) then .hold .waiting
  else
    let pend := (entryRegs e).filterMap (pendingOp k i)
    if pend.any (fun o => o.remote) then .hold .remote
    else if pend ≠ [] then .hold .ready
    else if entryRemote s c i e && decide (8 ≤ remoteCount k i) then .hold .remote
    else if (doneLatch e).any (fun l => decide (latchMax l.1 ≤ latchGet s c l.1 l.2)) then .hold .stalled
    else if busy then .hold .ready
    else if short then .hold .stalled
    else .go e

/-- The strands that the sequencer tries before strand `i`, `last` having issued most recently (03 R131). -/
def triedBefore (last i : Nat) : List Nat := (List.range ((i + 7 - last) % 4)).map (fun d => (last + 1 + d) % 4)

/-- A strand that would issue, or fault at issue, when the sequencer chooses it: its entry needs no unit, or is reserved.
Whether the unit of another entry is free is the command's to say (log entry 153). -/
def takesTurn (s : State) (c j : Nat) : Bool :=
  let t := getStrand s c j
  let e := entryAt s c t.pc
  t.phase != .idle && t.phase != .faulted && lineHeld t && !entryPoisoned s c t &&
    (!entryOk (isCulet c) e || (noDoneLatch (eOP e) && waitGate s c j e false false == .go e))

/-- What an entry of opcode `op` at a strand meets: `chk` are the faults of its checks at issue, `short` and `busy` its
own conditions. -/
def gate (s : State) (c i op : Nat) (chk : Entry → List CoreFault) (short busy : Entry → Bool) : Gate :=
  let t := getStrand s c i
  let e := entryAt s c t.pc
  if t.phase == .idle || t.phase == .faulted || pstate s (clusterOfCore c) != 0 || !lineHeld t
      || (triedBefore (getCore s c).last i).any (takesTurn s c) then .pass
  else if entryPoisoned s c t then .poison
  else if eOP e != op then .pass
  else if !entryOk (isCulet c) e then .fault .entryReserved
  else
    match waitGate s c i e (short e) (busy e) with
    | .go e =>
      match firstCause (chk e) with
      | some f => .fault f
      | none => .go e
    | g => g

/-! ### SRAM reads of an access (R117, R609) -/

/-- A strand's access has met a poisoned word: the core faults, and so does the package that holds the memory. -/
def poisonedRead (s : State) (c i tc ta : Nat) : State := sramFault (coreFault s c i .sramUncorrectable) tc i ta

/-! ### Running an entry -/

/-- An entry issues: the strand is READY and its position moves on; it is the one that issued most recently (03 R131). -/
def advance (s : State) (c i : Nat) : State :=
  modCore (modStrand s c i (fun t => { t with phase := .ready, pc := t.pc.bind nextPos })) c
    (fun k => { k with last := i, launch := k.launch.map (fun l => { l with issued := true }) })

/-- Run an entry of opcode `op` of a strand: `body` is its effect, on the state after the position has moved on. -/
def runEntry (op : Nat) (chk : State → Entry → List CoreFault) (short busy : State → Entry → Bool)
    (body : Entry → State → State) (c i : Nat) (s : State) : State :=
  match gate s c i op (chk s) (short s) (busy s) with
  | .pass => s
  | .hold ph => setPhase s c i ph
  | .fault f => if f = .sramUncorrectable then poisonedRead s c i c 0 else coreFault s c i f
  | .poison => declareFault s 0x0003 (FaultAt.ofCore c i 0)
  | .go e => body e (advance s c i)

def noFaults (_ : State) (_ : Entry) : List CoreFault := []
def notShort (_ : State) (_ : Entry) : Bool := false

/-! ### Issued operations (R169, R170) -/

/-- The id that the next operation of a core takes. -/
def nextId (s : State) (c : Nat) : Nat := (getCore s c).nextOp

/-- The entries that read SRAM of their own core. -/
def readsSram (op : Nat) : Bool := decide (0x30 ≤ op) && op != 0x53

/-- Record an issued operation and raise its done latch. -/
def issueOp (s : State) (c i : Nat) (e : Entry) (dest : Option Nat) (value : Word) (remote : Bool) (ph : OpPhase) : State :=
  let s := match doneLatch e with
    | some l => latchRaise s c l.1 l.2
    | none => s
  modCore s c (fun k => { k with
    nextOp := k.nextOp + 1
    ops := k.ops ++ [⟨k.nextOp, i, eOP e, doneLatch e, dest, value, remote, ph, if readsSram (eOP e) then some c else none⟩] })

/-- The operation issued last reads SRAM of core `t`. -/
def readsFrom (s : State) (c t : Nat) : State :=
  modCore s c (fun k => { k with ops := k.ops.dropLast ++ (k.ops.getLast?.map (fun o => { o with sram := some t })).toList })

/-- An operation whose effect has taken place and that has nothing to write. -/
def issueDone (s : State) (c i : Nat) (e : Entry) : State := issueOp s c i e none 0 false .done

/-- The operation of an id. -/
def findOp (s : State) (c id : Nat) : Option OutOp := (getCore s c).ops.find? (fun o => o.id == id)

/-- An operation ends: its done latch falls (R170). -/
def endOp (s : State) (c : Nat) (o : OutOp) : State :=
  let s := modCore s c (fun k => { k with ops := k.ops.filter (fun x => x.id != o.id) })
  match o.latch with
  | some l => latchLower s c l.1 l.2 (getStrand s c o.strand).context
  | none => s

/-- A strand in REMOTE still waits for a value, or for one of its 8 outstanding accesses to complete (R176, R177). -/
def stillRemote (s : State) (c i : Nat) : Bool :=
  let e := entryAt s c (getStrand s c i).pc
  let k := getCore s c
  ((entryRegs e).filterMap (pendingOp k i)).any (fun o => o.remote) || (entryRemote s c i e && decide (8 ≤ remoteCount k i))

/-- The words that an operation's reads of SRAM have corrected, written back and counted (03 R117): how many is a free
value (log entry 154). -/
def countCorrected (s : State) (o : OutOp) : State :=
  match o.sram with
  | none => s
  | some t =>
    let (n, s) := s.takeFree
    count (bumpF s (fCLU_CORE_STAT_SRAM_CORR (clusterOfCore t) (indexOfCore t)) n) (0x1000 + 8 * clusterOfCore t + 6) n

/-- An operation completes: its value is written, its latch falls, and a strand in REMOTE whose value has come is READY
again (R176). -/
def completeOp (s : State) (c : Nat) (o : OutOp) : State :=
  let s := match o.dest with
    | some r => setS s c o.strand r o.value
    | none => s
  let s := endOp (countCorrected s o) c o
  if o.remote && (getStrand s c o.strand).phase == .remote && !stillRemote s c o.strand then setPhase s c o.strand .ready else s

/-- The faults of one access within an entry (R717): those of its address, then a poisoned word that it reads. -/
def accessFault (s : State) (c : Nat) (a : Word) (n al : Nat) (reads : Bool) : Option CoreFault :=
  match firstCause (localFaults c a n al) with
  | some f => some f
  | none => if reads && sramPoisoned s c (aADDR a) n then some .sramUncorrectable else none

/-- The core fault of an access within an entry. -/
def raiseAccess (s : State) (c i : Nat) (f : CoreFault) (a : Word) : State :=
  if f = .sramUncorrectable then poisonedRead s c i c (aADDR a) else coreFault s c i f

/-- The tile of a number, in FP32 +0 where nothing has addressed it (R111). -/
def getTile (s : State) (c n : Nat) : Tile := tabGet ⟨false, []⟩ (getCore s c).tiles n

/-- Cell `j` of a tile. -/
def Tile.cell (t : Tile) (j : Nat) : Nat := t.cells.getD j 0

end Sys2Proof.Machine
end

