-- ==== Sys2Proof/Machine/Control.lean ====
section
/-!
DEFINITION. The control and scalar entries (04 Tables 04-4, 04-5; R162-R164, R171-R175).
-/
namespace Sys2Proof.Machine

open Sys2Proof

/-- An entry with no check at issue beyond its encoding. -/
def runPlain (op : Nat) (body : Entry → State → State) (core : Fin 98304) (strand : Fin 4) (s : State) :
    Host.Outcome State Fault Refusal :=
  .next (runEntry op noFaults notShort notShort body core strand s)

/-- EMPTY (R153): it faults with ENTRY_RESERVED when it reaches issue. -/
def execEmpty (core : Fin 98304) (strand : Fin 4) (s : State) : Host.Outcome State Fault Refusal :=
  runPlain 0x00 (fun _ s => s) core strand s

/-- NOP. -/
def execNop (core : Fin 98304) (strand : Fin 4) (s : State) : Host.Outcome State Fault Refusal :=
  runPlain 0x01 (fun _ s => s) core strand s

/-- JUMP. -/
def execJump (core : Fin 98304) (strand : Fin 4) (s : State) : Host.Outcome State Fault Refusal :=
  runPlain 0x02 (fun e s => setPc s core strand (some (fld e 36 11))) core strand s

/-- BRANCH's comparison (Table 04-4 COND). -/
def condHolds (cond : Nat) (a b : Word) : Bool :=
  match cond with
  | 0 => a == b
  | 1 => a != b
  | 2 => a.slt b
  | 3 => !a.slt b
  | 4 => a.ult b
  | _ => !a.ult b

/-- A 32-bit immediate, sign-extended. -/
def imm32 (e : Entry) (lo : Nat) : Word := BitVec.ofInt 64 (sfld e lo 32)

/-- BRANCH. -/
def execBranch (core : Fin 98304) (strand : Fin 4) (s : State) : Host.Outcome State Fault Refusal :=
  runPlain 0x03 (fun e s =>
    let a := getS s core strand (fld e 36 4)
    let b := if flag e 47 then imm32 e 48 else getS s core strand (fld e 40 4)
    if condHolds (fld e 44 3) a b then setPc s core strand (some (fld e 80 11)) else s) core strand s

def setL (s : State) (c i r v : Nat) : State := modStrand s c i (fun t => { t with lreg := t.lreg.set r v })

/-- LOOP (R175). -/
def execLoop (core : Fin 98304) (strand : Fin 4) (s : State) : Host.Outcome State Fault Refusal :=
  runPlain 0x04 (fun e s =>
    let v := if flag e 38 then (getS s core strand (fld e 63 4)).toNat else fld e 39 24
    let s := if 2 ^ 24 < v then raiseCoreFlags s core flOvfSat else s
    let s := setL s core strand (fld e 36 2) (min v (2 ^ 24))
    if v = 0 then setPc s core strand (some (fld e 67 11)) else s) core strand s

/-- ENDLOOP (R175). -/
def execEndloop (core : Fin 98304) (strand : Fin 4) (s : State) : Host.Outcome State Fault Refusal :=
  runPlain 0x05 (fun e s =>
    let v := (getStrand s core strand).lreg.getD (fld e 36 2) 0
    let s := setL s core strand (fld e 36 2) (v - 1)
    if 2 ≤ v then setPc s core strand (some (fld e 38 11)) else s) core strand s

/-- CALL (R175): a fifth position on the stack is a reserved encoding. -/
def execCall (core : Fin 98304) (strand : Fin 4) (s : State) : Host.Outcome State Fault Refusal :=
  .next (runEntry 0x06
    (fun s _ => if 4 ≤ (getStrand s core strand).stack.length then [.entryReserved] else []) notShort notShort
    (fun e s => modStrand s core strand (fun t => { t with stack := t.pc :: t.stack, pc := some (fld e 36 11) }))
    core strand s)

/-- RETURN (R175): an empty stack is a reserved encoding. -/
def execReturn (core : Fin 98304) (strand : Fin 4) (s : State) : Host.Outcome State Fault Refusal :=
  .next (runEntry 0x07
    (fun s _ => if (getStrand s core strand).stack = [] then [.entryReserved] else []) notShort notShort
    (fun _ s => modStrand s core strand (fun t => { t with pc := t.stack.headD none, stack := t.stack.tail }))
    core strand s)

/-- WAIT: the header window and CMASK hold the strand (R167); issue has no other effect. -/
def execWait (core : Fin 98304) (strand : Fin 4) (s : State) : Host.Outcome State Fault Refusal :=
  runPlain 0x08 (fun _ s => s) core strand s

/-- END (R173). -/
def execEnd (core : Fin 98304) (strand : Fin 4) (s : State) : Host.Outcome State Fault Refusal :=
  runPlain 0x09 (fun _ s => setPhase s core strand .idle) core strand s

/-- NOTIFY (R172). -/
def execNotify (core : Fin 98304) (strand : Fin 4) (s : State) : Host.Outcome State Fault Refusal :=
  runPlain 0x0A (fun e s => latchLower s core (flag e 36) (fld e 37 6) (getStrand s core strand).context) core strand s

/-- SIMM. -/
def execSimm (core : Fin 98304) (strand : Fin 4) (s : State) : Host.Outcome State Fault Refusal :=
  runPlain 0x10 (fun e s =>
    let d := fld e 36 4
    let old := (getS s core strand d).toNat
    let v := if flag e 40 then BitVec.ofNat 64 (old % 2 ^ 32 + fld e 41 32 * 2 ^ 32) else imm32 e 41
    setS s core strand d v) core strand s

/-- The scalar functions of SALU (Table 04-5 FN). -/
def salu (fn : Nat) (a b : Word) : Word :=
  let k := natBits b.toNat 0 6
  match fn with
  | 0x0 => a + b
  | 0x1 => a - b
  | 0x2 => a &&& b
  | 0x3 => a ||| b
  | 0x4 => a ^^^ b
  | 0x5 => a <<< k
  | 0x6 => a >>> k
  | 0x7 => a.sshiftRight k
  | 0x8 => a * b
  | 0x9 => if a.slt b then a else b
  | 0xA => if a.slt b then b else a
  | 0xB => if a.ult b then a else b
  | _ => if a.ult b then b else a

/-- SALU. -/
def execSalu (core : Fin 98304) (strand : Fin 4) (s : State) : Host.Outcome State Fault Refusal :=
  runPlain 0x11 (fun e s =>
    let a := getS s core strand (fld e 40 4)
    let b := if flag e 48 then imm32 e 49 else getS s core strand (fld e 44 4)
    setS s core strand (fld e 36 4) (salu (fld e 81 4) a b)) core strand s

/-- AMOV. -/
def execAmov (core : Fin 98304) (strand : Fin 4) (s : State) : Host.Outcome State Fault Refusal :=
  runPlain 0x14 (fun e s =>
    let v := if flag e 39 then BitVec.ofNat 64 (fld e 44 57 + fld e 101 3 * 2 ^ 57)
      else getS s core strand (fld e 40 4)
    setA s core strand (fld e 36 3) v) core strand s

/-- AADD (R164). -/
def execAadd (core : Fin 98304) (strand : Fin 4) (s : State) : Host.Outcome State Fault Refusal :=
  runPlain 0x15 (fun e s =>
    let r := fld e 36 3
    let v : Int := if flag e 43 then sfld e 44 32 else ((getS s core strand (fld e 39 4)).toNat : Int)
    setA s core strand r (aAdvance (getA s core strand r) v)) core strand s

/-- Clear sticky flags of a core. -/
def clearCoreFlags (s : State) (c mask : Nat) : State :=
  let r := rCLU_CORE_STAT (clusterOfCore c) (indexOfCore c)
  setReg s r (getReg s r &&& ~~~(BitVec.ofNat 64 (mask % 32)))

/-- FLAGS (R174): the flags at the start of the cycle, then the clear. -/
def execFlags (core : Fin 98304) (strand : Fin 4) (s : State) : Host.Outcome State Fault Refusal :=
  runPlain 0x16 (fun e s =>
    clearCoreFlags (setS s core strand (fld e 36 4) (BitVec.ofNat 64 (coreFlags s core))) core (fld e 40 5)) core strand s

end Sys2Proof.Machine
end

