-- ==== Sys2Proof/Machine/Move.lean ====
section
/-!
DEFINITION. The memory entries (04 R164-R166, R170, R176-R179): SLOAD, SSTORE, ATOMIC, DMA and MOVE.
-/
namespace Sys2Proof.Machine

open Sys2Proof

/-- The spaces of SLOAD, SSTORE and DMA (R715). -/
def anySpace : List Nat := [spLOCAL, spPEER, spDV]

/-- The effective address of SLOAD and SSTORE (R164). -/
def effAddr (s : State) (c i : Nat) (e : Entry) : Word := aAdvance (getA s c i (fld e 40 3)) (sfld e 43 32)

/-- Bytes of a SIZE code. -/
def sizeBytes (code : Nat) : Nat := if code = 1 then 8 else 4

def loadStoreFaults (c i : Nat) (s : State) (e : Entry) : List CoreFault :=
  let n := sizeBytes (fld e 75 2)
  accessFaults (sramSize c) anySpace (effAddr s c i e) n n

/-- A device-virtual access: a refusal, or its effect with its traffic. `put` writes what it writes. -/
def dvIssue (x : DvAccess) (e : Entry) (dest : Option Nat) (value : Word) (remote : Bool) (put : State → State) (s : State) :
    State :=
  match strandXlat s x.core x.strand x.ctx x.need x.va x.len with
  | .ok =>
    let r := x.dispatch s
    issueOp (put r.2) x.core x.strand e dest value remote (phaseOf r.1)
  | r => issueOp (noteRefusal s r) x.core x.strand e dest value remote .refused

/-- A strand that reads poisoned HBM (18 R609): the fault of the package, and a free value in place of the data. -/
def readValue (s : State) (c i ctx va n : Nat) : Nat × State :=
  match if (launchMaps s c i .read va n).isSome then none else virtHbmPoison s ctx va n with
  | some a =>
    let (v, s) := s.takeFree
    (v % 2 ^ (8 * n), hbmFault s a)
  | none => (leNat (strandBytes s c i ctx va n), s)

/-- A loaded value extended by SIZE. -/
def extend (code v : Nat) : Word := if code = 2 then BitVec.ofInt 64 (natToInt 32 v) else BitVec.ofNat 64 v

/-- The effect of SLOAD at issue. -/
def sloadBody (c i : Nat) (e : Entry) (s : State) : State :=
  let a := effAddr s c i e
  let code := fld e 75 2
  let n := sizeBytes code
  let d := fld e 36 4
  if aSPACE a = spDV then
    let ctx := ctxOf s c i
    let x : DvAccess := ⟨c, i, nextId s c, ctx, .read, aADDR a, n, true, [], 0, .reg⟩
    match strandXlat s c i ctx .read (aADDR a) n with
    | .ok =>
      let (v, s) := readValue s c i ctx (aADDR a) n
      dvIssue x e (some d) (extend code v) true id s
    | _ => dvIssue x e (some d) 0 true id s
  else
    let bad := sramPoisoned s (targetCore c a) (targetAddr a) n
    let s := readsFrom (issueOp s c i e (some d) (extend code (sramLoad s (targetCore c a) (targetAddr a) n)) false .done) c
      (targetCore c a)
    if bad then poisonedRead s c i (targetCore c a) (targetAddr a) else s

/-- SLOAD or SSTORE finds its page held (11 R409). -/
def loadStoreHeld (need : Need) (c i : Nat) (s : State) (e : Entry) : Bool :=
  strandHeld s c i (ctxOf s c i) need (effAddr s c i e) (sizeBytes (fld e 75 2))

/-- SLOAD. -/
def execSload (core : Fin 98304) (strand : Fin 4) (s : State) : Host.Outcome State Fault Refusal :=
  .next (runEntry 0x12 (loadStoreFaults core strand) notShort (loadStoreHeld .read core strand) (sloadBody core strand) core strand s)

/-- The effect of SSTORE at issue. -/
def sstoreBody (c i : Nat) (e : Entry) (s : State) : State :=
  let a := effAddr s c i e
  let n := sizeBytes (fld e 75 2)
  let bs := leBytes n (getS s c i (fld e 36 4)).toNat
  if aSPACE a = spDV then
    let ctx := ctxOf s c i
    dvIssue ⟨c, i, nextId s c, ctx, .write, aADDR a, n, true, bs, 0, .none⟩ e none 0 false
      (fun s => strandPut s c i ctx (aADDR a) bs) s
  else issueDone (sramStoreBytes s (targetCore c a) (targetAddr a) bs) c i e

/-- SSTORE. -/
def execSstore (core : Fin 98304) (strand : Fin 4) (s : State) : Host.Outcome State Fault Refusal :=
  .next (runEntry 0x13 (loadStoreFaults core strand) notShort (loadStoreHeld .write core strand) (sstoreBody core strand) core strand s)

def atomicFaults (c i : Nat) (s : State) (e : Entry) : List CoreFault :=
  accessFaults (sramSize c) [spDV] (getA s c i (fld e 36 3)) 8 8

/-- The effect of ATOMIC at issue. -/
def atomicBody (c i : Nat) (e : Entry) (s : State) : State :=
  let va := aADDR (getA s c i (fld e 36 3))
  let ctx := ctxOf s c i
  let x := (getS s c i (fld e 39 4)).toNat
  let cmp := (getS s c i (fld e 43 4)).toNat
  let ret := flag e 51
  let dest := if ret then some (fld e 47 4) else none
  let aop := fld e 52 3
  let acc : DvAccess :=
    ⟨c, i, nextId s c, ctx, .atomic, va, 8, true, leBytes 8 x ++ leBytes 8 cmp, aop + 8 * fld e 55 1, if ret then .reg else .none⟩
  match strandXlat s c i ctx .atomic va 8 with
  | .ok =>
    let (old, s) := readValue s c i ctx va 8
    dvIssue acc e dest (BitVec.ofNat 64 old) ret
      (fun s => strandPut s c i ctx va (leBytes 8 (atomicNew aop (flag e 55) old x cmp))) s
  | _ => dvIssue acc e dest 0 ret id s

/-- ATOMIC finds its page held. -/
def atomicHeld (c i : Nat) (s : State) (e : Entry) : Bool :=
  strandHeld s c i (ctxOf s c i) .atomic (getA s c i (fld e 36 3)) 8

/-- ATOMIC. -/
def execAtomic (core : Fin 98304) (strand : Fin 4) (s : State) : Host.Outcome State Fault Refusal :=
  .next (runEntry 0x22 (atomicFaults core strand) notShort (atomicHeld core strand) (atomicBody core strand) core strand s)

/-! ### DMA (R141, R165, R166) -/

/-- The length of a DMA. -/
def dmaLen (s : State) (c i : Nat) (e : Entry) : Nat :=
  if flag e 42 then (getS s c i (fld e 67 4)).toNat else fld e 43 24

def dmaFaults (c i : Nat) (s : State) (e : Entry) : List CoreFault :=
  let n := dmaLen s c i e
  let src := getA s c i (fld e 36 3)
  let dst := getA s c i (fld e 39 3)
  if n = 0 then []
  else
    accessFaults (sramSize c) anySpace src n 64 ++ accessFaults (sramSize c) anySpace dst n 64 ++
      (if n % 64 ≠ 0 then [.align] else []) ++
      (if aSPACE src ≠ spDV ∧ aSPACE src = aSPACE dst ∧ aADDR src = aADDR dst then [.align] else [])

/-- The poisoned parts of a DMA source: offset and length of each. -/
def dmaPoison (s : State) (c i ctx : Nat) (src : Word) (n : Nat) : List (Nat × Nat) :=
  if aSPACE src = spDV then
    if (launchMaps s c i .read (aADDR src) n).isSome then []
    else (virtPoison s ctx (aADDR src) n).map (fun a => (a - aADDR src, 64))
  else
    let key := sramKey (targetCore c src) (targetAddr src)
    ((wordsOf key n).filter (fun w => s.comp.sramPoison.contains w)).map (fun w => (w * 8 - key, 8))

/-- Write a DMA's bytes and its poison at the destination. -/
def dmaPut (c i ctx : Nat) (dst : Word) (bs : List Byte) (bad : List (Nat × Nat)) (s : State) : State :=
  if aSPACE dst = spDV then
    let s := strandPut s c i ctx (aADDR dst) bs
    bad.foldl (fun s p => virtMark s ctx (aADDR dst + p.1)) s
  else
    let s := sramStoreBytes s (targetCore c dst) (targetAddr dst) bs
    bad.foldl (fun s p => sramPoisonRange s (targetCore c dst) (targetAddr dst + p.1) p.2) s

/-- The faults of a DMA that has read poison (R117, 18 R609). -/
def dmaPoisonFault (s : State) (c i ctx : Nat) (src : Word) (n : Nat) (bad : List (Nat × Nat)) : State :=
  match bad with
  | [] => s
  | p :: _ =>
    if aSPACE src = spDV then
      match virtHbmPoison s ctx (aADDR src) n with
      | some a => hbmFault s a
      | none => s
    else poisonedRead s c i (targetCore c src) (targetAddr src + p.1)

/-- Translation of one end of a DMA; a local end needs none. -/
def dmaXlat (s : State) (c i ctx : Nat) (need : Need) (a : Word) (n : Nat) : Xlat :=
  if aSPACE a = spDV then strandXlat s c i ctx need (aADDR a) n else .ok

/-- The effect of DMA at issue; one that translation refuses in part moves nothing (log entry 85). DESIGN CHOICE (log
entry 148): the whole source is read before anything is written, so ranges that overlap without being equal behave as if
they did not. -/
def dmaBody (c i : Nat) (e : Entry) (s : State) : State :=
  let n := dmaLen s c i e
  let src := getA s c i (fld e 36 3)
  let dst := getA s c i (fld e 39 3)
  let ctx := ctxOf s c i
  if n = 0 then s
  else
    match firstBad [dmaXlat s c i ctx .read src n, dmaXlat s c i ctx .write dst n] with
    | .ok =>
      let bad := dmaPoison s c i ctx src n
      let bs := if aSPACE src = spDV then strandBytes s c i ctx (aADDR src) n
        else memBytes s.comp.sram (sramKey (targetCore c src) (targetAddr src)) n
      let id := nextId s c
      let sink : Sink := if aSPACE dst = spDV then .virt ctx (aADDR dst) else .sram (targetCore c dst) (targetAddr dst)
      let (n1, s) := if aSPACE src = spDV then
          (DvAccess.mk c i id ctx .read (aADDR src) n false [] 0 sink).dispatch s else (0, s)
      let (n2, s) := if aSPACE dst = spDV then
          (DvAccess.mk c i id ctx .write (aADDR dst) n false bs 0 .none).dispatch s else (0, s)
      let s := dmaPut c i ctx dst bs bad s
      let s := issueOp s c i e none 0 false (phaseOf (n1 + n2))
      let s := if aSPACE src = spDV then s else readsFrom s c (targetCore c src)
      dmaPoisonFault s c i ctx src n bad
    | r => issueOp (noteRefusal s r) c i e none 0 false .refused

/-- A DMA finds a page of either end held. -/
def dmaHeld (c i : Nat) (s : State) (e : Entry) : Bool :=
  let n := dmaLen s c i e
  strandHeld s c i (ctxOf s c i) .read (getA s c i (fld e 36 3)) n || strandHeld s c i (ctxOf s c i) .write (getA s c i (fld e 39 3)) n

/-- DMA. -/
def execDma (core : Fin 98304) (strand : Fin 4) (s : State) : Host.Outcome State Fault Refusal :=
  .next (runEntry 0x20 (dmaFaults core strand) notShort (dmaHeld core strand) (dmaBody core strand) core strand s)

/-! ### MOVE and stream buffers (03 R120-R124) -/

def getBuf (s : State) (c b : Nat) : StreamBuf := (getCore s c).bufs.getD b StreamBuf.empty

/-- Pop lines of a buffer; each returns a credit to the producer, unless it has been returned already. -/
def popLines (s : State) (c b n : Nat) : State :=
  modCore s c (fun k => { k with bufs := listMod k.bufs b (fun x =>
    { x with lines := x.lines.drop n, credits := x.credits + ((x.lines.take n).length - x.paid), paid := x.paid - n }) })

/-- An entry that needs more lines than the buffer holds takes up those that have come, whose credits go back to the
producer (R122). -/
def takeUp (s : State) (c b need : Nat) : State :=
  modCore s c (fun k => { k with bufs := listMod k.bufs b (fun x =>
    let n := min x.lines.length need
    { x with credits := x.credits + (n - x.paid), paid := max x.paid n }) })

def moveFaults (c i : Nat) (s : State) (e : Entry) : List CoreFault :=
  (if (getBuf s c (fld e 36 2)).bound.isNone then [.streamInvalid] else []) ++
    localFaults c (getA s c i (fld e 38 3)) (64 * fld e 41 7) 64

/-- MOVE finds the buffer short of lines; an unbound buffer faults instead. -/
def moveShort (c : Nat) (s : State) (e : Entry) : Bool :=
  (getBuf s c (fld e 36 2)).bound.isSome && decide ((getBuf s c (fld e 36 2)).lines.length < fld e 41 7)

/-- The effect of MOVE at issue. -/
def moveBody (c i : Nat) (e : Entry) (s : State) : State :=
  let b := fld e 36 2
  let n := fld e 41 7
  let bs := ((getBuf s c b).lines.take n).flatMap lineBytes
  issueDone (popLines (sramStoreBytes s c (aADDR (getA s c i (fld e 38 3))) bs) c b n) c i e

/-- MOVE. -/
def execMove (core : Fin 98304) (strand : Fin 4) (s : State) : Host.Outcome State Fault Refusal :=
  .next (runEntry 0x21 (moveFaults core strand) (moveShort core) notShort (moveBody core strand) core strand s)

end Sys2Proof.Machine
end

