-- ==== Sys2Proof/Machine/Matrix.lean ====
section
/-!
DEFINITION. The matrix unit and the Lustre unit's general entries: MATMUL (04 R181-R186, 02 R82-R87), EPILOGUE (05
R207-R210) and LUSTRE (05 R198-R201).
-/
namespace Sys2Proof.Machine

open Sys2Proof

/-! ### MATMUL operands (R183-R186) -/

/-- The operand descriptor at local address `d * 32` (Table 04-9). -/
def descAt (s : State) (c d : Nat) : Nat := sramLoad s c (d * 32) 32

/-- Bytes of `k` elements of a format, packed. -/
def rowBytes (code k : Nat) : Nat := (k * widthOfCode code + 7) / 8

/-- The alignment of a row start (R184, R70). -/
def rowAlign (code : Nat) : Nat := if isMxCode code then 32 * widthOfCode code / 8 else max 1 (widthOfCode code / 8)

/-- One operand of a MATMUL: format, rows, K, block length, address register value, descriptor, scale base. -/
structure Operand where
  code  : Nat
  rows  : Nat
  k     : Nat
  len   : Nat
  addr  : Word
  desc  : Nat
  scale : Word
  deriving DecidableEq, Repr

def Operand.stream (o : Operand) : Bool := aSPACE o.addr == spSTREAM

def Operand.rowAddr (o : Operand) (r : Nat) : Word := aAdvance o.addr ((r * natBits o.desc 0 32 : Nat) : Int)

def Operand.scaleAddr (o : Operand) (r : Nat) : Word := aAdvance o.scale ((r * natBits o.desc 32 32 : Nat) : Int)

/-- The operands A and B of an entry. -/
def matOperand (s : State) (c i : Nat) (e : Entry) (isB : Bool) : Operand :=
  let (m, n) := shapeOf (fld e 44 2)
  let a := fld e 62 4
  let b := fld e 66 4
  let d := descAt s c (if isB then fld e 92 13 else fld e 79 13)
  ⟨if isB then b else a, if isB then n else m, fld e 46 16, (blockLen a b).getD 32,
    getA s c i (if isB then fld e 73 3 else fld e 70 3), d, getA s c i (natBits d 64 3)⟩

/-- Whole and part blocks of K: bytes of a full block's field and of the last one's. -/
def Operand.fieldBytes (o : Operand) : Nat := rowBytes o.code o.len
def Operand.streamSize (o : Operand) : Nat :=
  o.rows * (o.k / o.len * o.fieldBytes + rowBytes o.code (o.k % o.len))

/-- The lines that an operand takes from its stream buffer. -/
def Operand.lines (o : Operand) : Nat := if o.stream then (o.streamSize + 63) / 64 else 0

def Operand.buf (o : Operand) : Nat := aADDR o.addr % 4

/-- The checks of an operand at issue (R183, R184, R124, R128). -/
def operandFaults (s : State) (c : Nat) (o : Operand) (desc : Nat) : List CoreFault :=
  localFaults c (BitVec.ofNat 64 (desc * 32)) 32 32 ++
    (if sramPoisoned s c (desc * 32) 32 then [.sramUncorrectable] else []) ++
    (if natBits o.desc 67 189 ≠ 0 then [.entryReserved] else []) ++
    (if o.stream then
      (if natBits o.addr.toNat 60 4 ≠ 0 ∨ aADDR o.addr / 4 ≠ 0 then [.spaceReserved] else []) ++
        (if !isCulet c || (getBuf s c o.buf).bound.isNone then [.streamInvalid] else [])
    else (List.range o.rows).flatMap (fun r => localFaults c (o.rowAddr r) (rowBytes o.code o.k) (rowAlign o.code))) ++
    (if isMxCode o.code then (List.range o.rows).flatMap (fun r => localFaults c (o.scaleAddr r) (o.k / 32) 1) else [])

/-- The bytes waiting in a buffer from line `skip` on, as one number. -/
def bufNat (s : State) (c b skip n : Nat) : Nat := leNat (((getBuf s c b).lines.drop skip).take n |>.flatMap lineBytes)

/-- Element `k` of row `r` of a stream operand whose bytes are `v` (R186). -/
def Operand.streamElem (o : Operand) (v r k : Nat) : Nat :=
  let b := k / o.len
  let full := o.k / o.len
  let f := if b < full then o.fieldBytes else rowBytes o.code (o.k % o.len)
  natBits v (8 * (b * o.rows * o.fieldBytes + r * f) + k % o.len * widthOfCode o.code) (widthOfCode o.code)

/-- The rows of an operand: raw elements in ascending k; `skip` lines of its buffer are another operand's. -/
def Operand.elems (o : Operand) (s : State) (c skip : Nat) : List (List Nat) :=
  let w := widthOfCode o.code
  if o.stream then
    let v := bufNat s c o.buf skip o.lines
    (List.range o.rows).map (fun r => (List.range o.k).map (fun k => o.streamElem v r k))
  else
    (List.range o.rows).map (fun r =>
      let v := sramLoad s c (aADDR (o.rowAddr r)) (rowBytes o.code o.k)
      (List.range o.k).map (fun k => natBits v (k * w) w))

/-- The scale byte of block `j` of row `r`. -/
def Operand.scaleOf (o : Operand) (s : State) (c r j : Nat) : Nat :=
  if isMxCode o.code then sramLoad s c (aADDR (o.scaleAddr r) + j) 1 else 127

/-- The values of a row with its scales applied. -/
def Operand.values (o : Operand) (s : State) (c r : Nat) (es : List Nat) : List FVal :=
  es.zipIdx.map (fun p => scaledElem o.code (o.scaleOf s c r (p.2 / 32)) p.1)

/-- A poisoned word among what an operand reads. -/
def Operand.poison (o : Operand) (s : State) (c : Nat) : Option Nat :=
  let rows := if o.stream then [] else (List.range o.rows).map (fun r => (aADDR (o.rowAddr r), rowBytes o.code o.k))
  let scales := if isMxCode o.code then (List.range o.rows).map (fun r => (aADDR (o.scaleAddr r), o.k / 32)) else []
  ((rows ++ scales).find? (fun p => sramPoisoned s c p.1 p.2)).map Prod.fst

/-- A cell of an integer product (R87). -/
def intCell (len : Nat) (a b : List Int) (c : Nat) : Nat × FlagSet :=
  (blocksOf len (a.zip b)).foldl (fun (x : Nat × FlagSet) ps =>
    let (v, f) := intBlock ps x.1
    (v, x.2 ||| f)) (c, flNone)

/-- The product of a MATMUL: the cells and the flags. -/
def matProduct (s : State) (c : Nat) (a b : Operand) (init : List Nat) : List Nat × FlagSet :=
  let ea := a.elems s c 0
  let eb := b.elems s c (if a.stream && b.stream && a.buf == b.buf then a.lines else 0)
  let cell (r q : Nat) : Nat × FlagSet :=
    let x := ea.getD r []
    let y := eb.getD q []
    let z := init.getD (r * b.rows + q) 0
    if isIntCode a.code then
      intCell a.len (x.map (natToInt (widthOfCode a.code))) (y.map (natToInt (widthOfCode b.code))) z
    else floatCell a.len (a.values s c r x) (b.values s c q y) z
  let out := (List.range (a.rows * b.rows)).map (fun j => cell (j / b.rows) (j % b.rows))
  (out.map Prod.fst, out.foldl (fun f p => f ||| p.2) flNone)

def matmulFaults (c i : Nat) (s : State) (e : Entry) : List CoreFault :=
  let a := matOperand s c i e false
  let b := matOperand s c i e true
  operandFaults s c a (fld e 79 13) ++ operandFaults s c b (fld e 92 13) ++
    (if fld e 42 2 = 2 then localFaults c (getA s c i (fld e 76 3)) (4 * (a.rows * b.rows)) 4 else [])

/-- The lines that a MATMUL takes from buffer `n`. -/
def matmulNeed (s : State) (c i : Nat) (e : Entry) (n : Nat) : Nat :=
  let a := matOperand s c i e false
  let b := matOperand s c i e true
  (if a.stream && a.buf == n then a.lines else 0) + (if b.stream && b.buf == n then b.lines else 0)

/-- A bound buffer of an operand lacks lines (R122). -/
def matmulShort (c i : Nat) (s : State) (e : Entry) : Bool :=
  (List.range 4).any (fun n => (getBuf s c n).bound.isSome && decide ((getBuf s c n).lines.length < matmulNeed s c i e n))

/-- A MATMUL that is held for lines of an operand larger than its 4 KiB buffer takes up the lines that have come (R122). -/
def matmulTakeUp (c i : Nat) (s : State) : State :=
  let t := getStrand s c i
  let e := entryAt s c t.pc
  if matmulShort c i s e then
    (List.range 4).foldl (fun s n => if 64 < matmulNeed s c i e n then takeUp s c n (matmulNeed s c i e n) else s) s
  else s

/-- POSTINC (R185): advances of the address and scale registers. -/
def postInc (c i : Nat) (e : Entry) (s : State) : State :=
  let step (o : Operand) (r : Nat) (s : State) : State :=
    let s := setA s c i r (aAdvance (getA s c i r) ((rowBytes o.code o.k : Nat) : Int))
    if isMxCode o.code then
      let q := natBits o.desc 64 3
      setA s c i q (aAdvance (getA s c i q) ((o.k / 32 : Nat) : Int))
    else s
  let a := matOperand s c i e false
  let b := matOperand s c i e true
  let s := if flag e 105 then step a (fld e 70 3) s else s
  if flag e 106 then step b (fld e 73 3) s else s

/-- The effect of MATMUL. DESIGN CHOICE (log entry 144): a product that accumulates onto a tile last written in the other
kind takes the raw 32 bits of each cell as they stand. -/
def matmulBody (c i : Nat) (e : Entry) (s : State) : State :=
  let a := matOperand s c i e false
  let b := matOperand s c i e true
  let n := a.rows * b.rows
  let t := fld e 36 6
  let creg := aADDR (getA s c i (fld e 76 3))
  let init := match fld e 42 2 with
    | 0 => (List.range n).map (getTile s c t).cell
    | 1 => List.replicate n 0
    | _ => (List.range n).map (fun j => sramLoad s c (creg + 4 * j) 4)
  let bad := if fld e 42 2 = 2 ∧ sramPoisoned s c creg (4 * n) then some creg
    else if (a.poison s c).isSome then a.poison s c else b.poison s c
  let (cells, fl) := matProduct s c a b init
  let s := modCore s c (fun k => { k with tiles := tabSet k.tiles t ⟨isIntCode a.code, cells⟩ })
  let s := popLines (popLines s c a.buf a.lines) c b.buf b.lines
  let s := raiseCoreFlags (postInc c i e s) c fl
  let s := issueDone s c i e
  match bad with
  | some x => poisonedRead s c i c x
  | none => s

/-- MATMUL; one that only lines hold back takes up those that have come. -/
def execMatmul (core : Fin 98304) (strand : Fin 4) (s : State) : Host.Outcome State Fault Refusal :=
  .next (
    let t := runEntry 0x30 (matmulFaults core strand) (matmulShort core strand) notShort (matmulBody core strand) core strand s
    if gate s core strand 0x30 (matmulFaults core strand s) (matmulShort core strand s) (notShort s) = .hold .stalled ∧
        gate s core strand 0x30 (matmulFaults core strand s) (notShort s) (notShort s) ≠ .hold .stalled then
      matmulTakeUp core strand t
    else t)

/-! ### Accesses of Lustre entries (R200, R209, R717) -/

/-- A refused access: the cause and its address. -/
abbrev LocalError := CoreFault × Word

/-- Read `n` bytes. -/
def readLocal (s : State) (c : Nat) (a : Word) (n al : Nat) : Except LocalError Nat :=
  match accessFault s c a n al true with
  | some f => .error (f, a)
  | none => .ok (sramLoad s c (aADDR a) n)

/-- Write bytes. -/
def writeLocal (s : State) (c : Nat) (a : Word) (al : Nat) (bs : List Byte) : Except LocalError State :=
  match accessFault s c a bs.length al false with
  | some f => .error (f, a)
  | none => .ok (sramStoreBytes s c (aADDR a) bs)

/-- An address register advanced by a count of bytes. -/
def plusBytes (a : Word) (n : Nat) : Word := aAdvance a (n : Int)

/-- Process items in order; the first refused access ends the entry, and what came before it stays (R717). -/
def inOrder {α : Type} (f : α → State → Except LocalError State) : List α → State → Option LocalError × State
  | [], s => (none, s)
  | x :: xs, s =>
    match f x s with
    | .ok s => inOrder f xs s
    | .error e => (some e, s)

/-- Run an entry's items, let the entry be issued and raise the fault that ended it. -/
def runItems {α : Type} (c i : Nat) (e : Entry) (f : α → State → Except LocalError State) (xs : List α) (s : State) : State :=
  let (r, s) := inOrder f xs s
  let s := issueDone s c i e
  match r with
  | none => s
  | some (g, a) => raiseAccess s c i g a

/-! ### Functions (R197, R218, R221) -/

/-- A micro-program slot is valid. -/
def slotValid (s : State) (c slot : Nat) : Bool := natBits (getF s (fCLU_LUS_STAT_VALID (clusterOfCore c))) slot 1 == 1

/-- The micro-ops of a slot. -/
def slotOps (s : State) (c slot : Nat) : List Nat := tabGet [] (getCluster s (clusterOfCore c)).slots slot

/-- A function code at FP32 bits. -/
def evalFn (s : State) (c : Nat) (g2 : Bool) (fn t : Nat) : Eval :=
  if fn < 0x10 then builtinFn g2 fn t else microProgram (slotOps s c (fn - 0x10)) t

/-- An entry that names an invalid slot (R218). -/
def fnFaults (c lo : Nat) (s : State) (e : Entry) : List CoreFault :=
  if 0x10 ≤ fld e lo 5 ∧ !slotValid s c (fld e lo 5 - 0x10) then [.entryReserved] else []

/-- A fetch of a poisoned micro-op (18 R611): STORE_UNCORRECTABLE. -/
def fnFetch (c i fn : Nat) (s : State) : State :=
  let lo := 193 * 1024 + (fn - 0x10) * 64
  if 0x10 ≤ fn ∧ (getCluster s (clusterOfCore c)).poisonedStore.any (fun x => decide (lo ≤ x) && decide (x < lo + 64)) then
    declareFault s 0x0003 (FaultAt.ofCore c i 0)
  else s

/-! ### LUSTRE -/

/-- One element of a LUSTRE entry (R199). -/
def lustreElem (c i : Nat) (e : Entry) (a b : Nat) (n : Nat) (s : State) : Except LocalError State := do
  let inw := widthOfCode (fld e 58 4) / 8
  let outw := widthOfCode (fld e 62 4) / 8
  let x ← readLocal s c (plusBytes (getA s c i (fld e 36 3)) (n * inw)) inw inw
  let x := widen32 (fld e 58 4) x
  let (t, f1) := if flag e 73 then fma32 a x b else (x, flNone)
  let (v, f2) := evalFn s c (flag e 71) (fld e 66 5) t
  let (r, f3) := convertOut (fld e 62 4) (flag e 72) v
  let s' ← writeLocal s c (plusBytes (getA s c i (fld e 39 3)) (n * outw)) outw (leBytes outw r)
  return raiseCoreFlags s' c (f1 ||| f2 ||| f3)

/-- Overlapping input and output leave the bytes that they share open (R200). -/
def lustreOverlap (c i : Nat) (e : Entry) (s : State) : State :=
  let n := fld e 42 16
  let inw := widthOfCode (fld e 58 4) / 8
  let outw := widthOfCode (fld e 62 4) / 8
  let src := aADDR (getA s c i (fld e 36 3))
  let dst := aADDR (getA s c i (fld e 39 3))
  if src = dst ∧ inw = outw then s
  else
    let lo := max src dst
    let hi := min (src + n * inw) (dst + n * outw)
    let k := hi - lo
    if k = 0 then s
    else { sramStoreBytes s c lo ((List.range k).map (fun j => Config.overlapByte (s.fresh + j))) with fresh := s.fresh + k }

/-- The effect of LUSTRE. -/
def lustreBody (c i : Nat) (e : Entry) (s : State) : State :=
  let a := natBits (getS s c i (fld e 74 4)).toNat 0 32
  let b := natBits (getS s c i (fld e 78 4)).toNat 0 32
  let s := fnFetch c i (fld e 66 5) s
  let (r, s) := inOrder (lustreElem c i e a b) (List.range (fld e 42 16)) s
  match r with
  | none => issueDone (lustreOverlap c i e s) c i e
  | some (g, x) => raiseAccess (issueDone s c i e) c i g x

/-- The checks of LUSTRE at issue: its function, and the space of SRC and DST (04 R715). -/
def lustreFaults (c i : Nat) (s : State) (e : Entry) : List CoreFault :=
  fnFaults c 66 s e ++ spaceFaults [getA s c i (fld e 36 3), getA s c i (fld e 39 3)]

/-- LUSTRE. -/
def execLustre (core : Fin 98304) (strand : Fin 4) (s : State) : Host.Outcome State Fault Refusal :=
  .next (runEntry 0x41 (lustreFaults core strand) notShort notShort (lustreBody core strand) core strand s)

/-! ### EPILOGUE -/

/-- Multiply FP32 bits by FP32 bits where a condition asks for it. -/
def mulIf (b : Bool) (x y : Nat) : Eval := if b then mul32 x y else (x, flNone)

/-- Convert FP32 bits to an output code of Table 05-6. -/
def epiOut (code : Nat) (sat : Bool) (v : Nat) : Eval :=
  if isIntCode code then toInt (widthOfCode code) (dec32 v) else convertOut code sat v

/-- Put a result of `w` bits at bit offset `lo` of an output row (R209). -/
def putBits (s : State) (c : Nat) (row : Word) (al lo w v : Nat) : Except LocalError State :=
  if 8 ≤ w then
    match accessFault s c row al al false with
    | some f => .error (f, row)
    | none => writeLocal s c (plusBytes row (lo / 8)) 1 (leBytes (w / 8) v)
  else
    match accessFault s c row al al false with
    | some f => .error (f, row)
    | none =>
      let old := sramLoad s c (aADDR row + lo / 8) 1
      .ok (sramStore s c (aADDR row + lo / 8) 1 (natSetBits old (lo % 8) w v))

/-- Cell `j` of an EPILOGUE in row-major order (R208). -/
def epiCell (c i : Nat) (e : Entry) (t : Tile) (j : Nat) (s : State) : Except LocalError State := do
  let (_, n) := shapeOf (fld e 42 2)
  let r := j / n
  let col := j % n
  let q ← if flag e 68 then readLocal s c (plusBytes (getA s c i (fld e 69 3)) (4 * col)) 4 4 else .ok 0x3F800000
  let x : FVal := if t.isInt then FVal.ofInt (natToInt 32 (t.cell j)) else dec32 (t.cell j)
  let (p, f0) := mulExact x (dec32 q)
  let (v, f1) := round32 p
  let breg := getA s c i (fld e 74 3)
  let bias ← match fld e 72 2 with
    | 1 => readLocal s c (plusBytes breg (4 * col)) 4 4
    | 2 => readLocal s c (plusBytes breg (2 * col)) 2 2
    | _ => .ok 0
  let (v, f2) := match fld e 72 2 with
    | 0 => (v, flNone)
    | 1 => add32 v bias
    | _ => add32 v (widen32 2 bias)
  let (v, f3) := if fld e 77 5 = 0 then (v, flNone) else evalFn s c (flag e 82) (fld e 77 5) v
  let sreg := getA s c i (fld e 85 3)
  let sc ← match fld e 83 2 with
    | 1 => readLocal s c sreg 4 4
    | 2 => readLocal s c (plusBytes sreg (4 * col)) 4 4
    | 3 => readLocal s c (plusBytes sreg (4 * r)) 4 4
    | _ => .ok 0
  let (v, f4) := mulIf (fld e 83 2 != 0) v sc
  let (o, f5) := epiOut (fld e 63 4) (flag e 67) v
  let w := widthOfCode (fld e 63 4)
  let row := plusBytes (getA s c i (fld e 44 3)) (r * fld e 47 16)
  let s' ← putBits s c row (max 1 (n * w / 8)) (w * col) w o
  return raiseCoreFlags s' c (f0 ||| f1 ||| f2 ||| f3 ||| f4 ||| f5)

/-- The effect of EPILOGUE; the tile stays. -/
def epilogueBody (c i : Nat) (e : Entry) (s : State) : State :=
  let (m, n) := shapeOf (fld e 42 2)
  runItems c i e (epiCell c i e (getTile s c (fld e 36 6))) (List.range (m * n)) (fnFetch c i (fld e 77 5) s)

/-- The checks of EPILOGUE at issue: its function, and the space of the output and of the vectors that it reads (04 R715). -/
def epilogueFaults (c i : Nat) (s : State) (e : Entry) : List CoreFault :=
  fnFaults c 77 s e ++ spaceFaults (getA s c i (fld e 44 3) :: ((if flag e 68 then [getA s c i (fld e 69 3)] else []) ++
    (if fld e 72 2 ≠ 0 then [getA s c i (fld e 74 3)] else []) ++ (if fld e 83 2 ≠ 0 then [getA s c i (fld e 85 3)] else [])))

/-- EPILOGUE. -/
def execEpilogue (core : Fin 98304) (strand : Fin 4) (s : State) : Host.Outcome State Fault Refusal :=
  .next (runEntry 0x40 (epilogueFaults core strand) notShort notShort (epilogueBody core strand) core strand s)

end Sys2Proof.Machine
end

