-- ==== Sys2Proof/Machine/Wide.lean ====
section
/-!
DEFINITION. The wide-accumulator entries (04 R187, R188; 02 R88-R97).
-/
namespace Sys2Proof.Machine

open Sys2Proof

/-- The cells of an entry: the register value, count, anchor. -/
def wideCells (s : State) (c i : Nat) (e : Entry) : Word := getA s c i (fld e 39 3)
def wideCount (e : Entry) : Nat := fld e 42 14
def wideAnchor (e : Entry) : Int := sfld e 60 10

/-- The cells at a LOCAL or DEVICE_VIRTUAL address. -/
def cellsAt (s : State) (c i : Nat) (a : Word) (n : Nat) : List Nat :=
  let bs := if aSPACE a = spDV then strandBytes s c i (ctxOf s c i) (aADDR a) (16 * n)
    else memBytes s.comp.sram (sramKey c (aADDR a)) (16 * n)
  (List.range n).map (fun j => leNat ((bs.drop (16 * j)).take 16))

def cellBytes (l : List Nat) : List Byte := l.flatMap (leBytes 16)

/-- The faults of the cells and of `n` bytes at SRC (R187, R715). -/
def wideFaults (srcBytes srcAlign : Entry → Nat) (c i : Nat) (s : State) (e : Entry) : List CoreFault :=
  accessFaults (sramSize c) [spLOCAL, spDV] (wideCells s c i e) (16 * wideCount e) 16 ++
    (if srcBytes e = 0 then [] else localFaults c (getA s c i (fld e 36 3)) (srcBytes e) (srcAlign e))

/-- What poison an entry meets in its cells or at SRC (R117, 18 R609). -/
inductive WidePoison where
  | none
  | hbm (addr : Nat)
  | sram (addr : Nat)
  deriving DecidableEq, Repr

/-- The first poison among `n` cells and `srcBytes` at SRC. -/
def widePoison (s : State) (c i : Nat) (cells src : Word) (n srcBytes : Nat) : WidePoison :=
  if srcBytes ≠ 0 ∧ sramPoisoned s c (aADDR src) srcBytes then .sram (aADDR src)
  else if n = 0 then .none
  else if aSPACE cells = spDV then
    match virtHbmPoison s (ctxOf s c i) (aADDR cells) (16 * n) with
    | some a => .hbm a
    | none => .none
  else if sramPoisoned s c (aADDR cells) (16 * n) then .sram (aADDR cells)
  else .none

/-- The fault of a poison that was read. -/
def WidePoison.raise (p : WidePoison) (c i : Nat) (s : State) : State :=
  match p with
  | .none => s
  | .hbm a => hbmFault s a
  | .sram a => poisonedRead s c i c a

/-- DESIGN CHOICE (log entry 149): sources and cells are all read before any cell is written, so an entry whose SRC bytes
overlap its cells sees none of its own writes. Apply an operation that leaves `new` in the cells; `reads` says that it reads them, `put` what else it writes. -/
def wideRun (need : Need) (c i : Nat) (e : Entry) (new : Option (List Nat)) (srcBytes : Nat) (reads : Bool)
    (put : State → State) (s : State) : State :=
  let a := wideCells s c i e
  let n := wideCount e
  let bad := widePoison s c i a (getA s c i (fld e 36 3)) (if reads then n else 0) srcBytes
  if aSPACE a = spDV then
    let ctx := ctxOf s c i
    let bs := cellBytes (new.getD [])
    let ok := strandXlat s c i ctx need (aADDR a) (16 * n) == .ok
    let s := dvIssue ⟨c, i, nextId s c, ctx, need, aADDR a, 16 * n, false, bs, 0, .none⟩ e none 0 false
      (fun s => put (if new.isSome then strandPut s c i ctx (aADDR a) bs else s)) s
    if ok then bad.raise c i s else s
  else
    let s := match new with
      | some l => sramStoreBytes s c (aADDR a) (cellBytes l)
      | none => s
    bad.raise c i (issueDone (put s) c i e)

/-- A wide entry finds a page of its cells held (11 R409). -/
def wideHeld (need : Need) (c i : Nat) (s : State) (e : Entry) : Bool :=
  strandHeld s c i (ctxOf s c i) need (wideCells s c i e) (16 * wideCount e)

def addendBytes (e : Entry) : Nat := widthOfCode (fld e 56 4) / 8

/-- WADD (R90, R91, R187). -/
def waddBody (c i : Nat) (e : Entry) (s : State) : State :=
  let n := wideCount e
  let w := addendBytes e
  let src := aADDR (getA s c i (fld e 36 3))
  let old := cellsAt s c i (wideCells s c i e) n
  let new := (List.range n).map (fun j =>
    cellAdd (wideAnchor e) (old.getD j 0) (elemVal (fld e 56 4) (sramLoad s c (src + j * w) w)))
  wideRun .write c i e (some new) (n * w) true id s

/-- WADD. -/
def execWadd (core : Fin 98304) (strand : Fin 4) (s : State) : Host.Outcome State Fault Refusal :=
  .next (runEntry 0x50 (wideFaults (fun e => wideCount e * addendBytes e) addendBytes core strand) notShort (wideHeld .write core strand)
    (waddBody core strand) core strand s)

/-- WMERGE (R93). -/
def wmergeBody (c i : Nat) (e : Entry) (s : State) : State :=
  let n := wideCount e
  let old := cellsAt s c i (wideCells s c i e) n
  let src := cellsAt s c i (getA s c i (fld e 36 3)) n
  wideRun .write c i e (some ((List.range n).map (fun j => cellMerge (old.getD j 0) (src.getD j 0)))) (16 * n) true id s

/-- WMERGE. -/
def execWmerge (core : Fin 98304) (strand : Fin 4) (s : State) : Host.Outcome State Fault Refusal :=
  .next (runEntry 0x51 (wideFaults (fun e => 16 * wideCount e) (fun _ => 16) core strand) notShort (wideHeld .write core strand)
    (wmergeBody core strand) core strand s)

/-- Bytes of a read-out element. -/
def readoutBytes (e : Entry) : Nat := widthOfCode (fld e 56 4) / 8

/-- WREAD (R97). -/
def wreadBody (c i : Nat) (e : Entry) (s : State) : State :=
  let n := wideCount e
  let f := fld e 56 4
  let cells := cellsAt s c i (wideCells s c i e) n
  let outs := cells.map (fun x => if f = 0xD then (x, flNone) else cellRead f (flag e 70) (wideAnchor e) x)
  let bs := (outs.map Prod.fst).flatMap (leBytes (readoutBytes e))
  let fl := outs.foldl (fun a p => a ||| p.2) flNone
  wideRun .read c i e none 0 true
    (fun s => raiseCoreFlags (sramStoreBytes s c (aADDR (getA s c i (fld e 36 3))) bs) c fl) s

/-- WREAD. -/
def execWread (core : Fin 98304) (strand : Fin 4) (s : State) : Host.Outcome State Fault Refusal :=
  .next (runEntry 0x52 (wideFaults (fun e => wideCount e * readoutBytes e) readoutBytes core strand) notShort (wideHeld .read core strand)
    (wreadBody core strand) core strand s)

/-- WCLEAR (R187). -/
def wclearBody (c i : Nat) (e : Entry) (s : State) : State :=
  wideRun .write c i e (some (List.replicate (wideCount e) 0)) 0 false id s

/-- WCLEAR. -/
def execWclear (core : Fin 98304) (strand : Fin 4) (s : State) : Host.Outcome State Fault Refusal :=
  .next (runEntry 0x53 (wideFaults (fun _ => 0) (fun _ => 1) core strand) notShort (wideHeld .write core strand)
    (wclearBody core strand) core strand s)

end Sys2Proof.Machine
end

