-- ==== Sys2Proof/Machine/Attention.lean ====
section
/-!
DEFINITION. The attention entries (06 R226-R252): their score blocks, masks, row records and vectors in local SRAM.
-/
namespace Sys2Proof.Machine

open Sys2Proof

/-! ### Score blocks (Table 06-5) -/

/-- The scores of row `r` of a block, column by column (R236). -/
def scoreRow (s : State) (c : Nat) (e : Entry) (r : Nat) : List Nat :=
  let (_, n) := shapeOf (fld e 46 2)
  (List.range (n * (fld e 42 4 + 1))).map (fun q => (getTile s c (fld e 36 6 + q / n)).cell (r * n + q % n))

def scoreRows (e : Entry) : Nat := (shapeOf (fld e 46 2)).1

/-- sigma (R226). -/
def scoreSigma (s : State) (c i : Nat) (e : Entry) : Nat := natBits (getS s c i (fld e 51 4)).toNat 0 32

/-- The address of row `r`'s record (R231). -/
def recAddr (s : State) (c i : Nat) (reg r : Nat) : Word := plusBytes (getA s c i reg) (16 * r)

/-- Read row `r`'s record; FIRST treats it as initial. -/
def readRec (s : State) (c i reg r : Nat) (first : Bool) : Except LocalError Nat :=
  let a := recAddr s c i reg r
  match accessFault s c a 16 16 (!first) with
  | some f => .error (f, a)
  | none => .ok (if first then recInit else sramLoad s c (aADDR a) 16)

/-- Write row `r`'s record, where there is one to write. -/
def writeRec (s : State) (c i reg r : Nat) (v : Option Nat) : Except LocalError State :=
  match v with
  | some v => writeLocal s c (recAddr s c i reg r) 16 (leBytes 16 v)
  | none => .ok s

/-- The mask inputs of row `r` (R229, R230). -/
def maskIn (s : State) (c i : Nat) (e : Entry) (r : Nat) : Except LocalError MaskIn := do
  let m := fld e 68 3
  let w ← if 3 ≤ m then readLocal s c (plusBytes (getA s c i (fld e 75 3)) (8 * r)) 8 8 else .ok 0
  return ⟨m, ((getS s c i (fld e 55 4)).toNat + (if flag e 59 then r else 0)) % 2 ^ 64, (getS s c i (fld e 60 4)).toNat,
    (getS s c i (fld e 64 4)).toNat, (getS s c i (fld e 71 4)).toNat, w⟩

/-- Write a row of elements of a format at an address. -/
def writeRow (s : State) (c : Nat) (a : Word) (code : Nat) (es : List Nat) : Except LocalError State :=
  let w := widthOfCode code / 8
  writeLocal s c a w (es.flatMap (leBytes w))

/-- The space checks at issue of an attention entry over a score block: its record, its mask words and the registers
`more` (04 R715). -/
def scoreFaults (more : Entry → List Nat) (c i : Nat) (s : State) (e : Entry) : List CoreFault :=
  spaceFaults ((fld e 48 3 :: ((if 3 ≤ fld e 68 3 then [fld e 75 3] else []) ++ more e)).map (getA s c i))

/-- The space checks at issue of the registers that an attention entry uses (04 R715). -/
def regSpaces (regs : Entry → List Nat) (c i : Nat) (s : State) (e : Entry) : List CoreFault :=
  spaceFaults ((regs e).map (getA s c i))

/-- Row `r` of ASTEP (R239). -/
def astepItem (c i : Nat) (e : Entry) (r : Nat) (s : State) : Except LocalError State := do
  let rcd ← readRec s c i (fld e 48 3) r (flag e 78)
  let m ← maskIn s c i e r
  let o := astepRow (flag e 79) (fld e 83 4) (scoreSigma s c i e) m rcd (scoreRow s c e r)
  let s' ← writeRec s c i (fld e 48 3) r o.rcd
  let s' ← writeRow s' c (plusBytes (getA s c i (fld e 80 3)) (r * fld e 87 16)) (fld e 83 4) o.probs
  return raiseCoreFlags s' c o.flags

/-- ASTEP. -/
def execAstep (core : Fin 98304) (strand : Fin 4) (s : State) : Host.Outcome State Fault Refusal :=
  .next (runEntry 0x60 (scoreFaults (fun e => [fld e 80 3]) core strand) notShort notShort
    (fun e s => runItems core strand e (astepItem core strand e) (List.range (scoreRows e)) s) core strand s)

/-- Row `r` of ALMAX (R244). -/
def almaxItem (c i : Nat) (e : Entry) (r : Nat) (s : State) : Except LocalError State := do
  let rcd ← readRec s c i (fld e 48 3) r (flag e 78)
  let m ← maskIn s c i e r
  let o := almaxRow (flag e 78) (scoreSigma s c i e) m rcd (scoreRow s c e r)
  let s' ← writeRec s c i (fld e 48 3) r o.rcd
  return raiseCoreFlags s' c o.flags

/-- ALMAX. -/
def execAlmax (core : Fin 98304) (strand : Fin 4) (s : State) : Host.Outcome State Fault Refusal :=
  .next (runEntry 0x63 (scoreFaults (fun _ => []) core strand) notShort notShort
    (fun e s => runItems core strand e (almaxItem core strand e) (List.range (scoreRows e)) s) core strand s)

/-- Row `r` of ALSUM (R245). -/
def alsumItem (c i : Nat) (e : Entry) (r : Nat) (s : State) : Except LocalError State := do
  let rcd ← readRec s c i (fld e 48 3) r false
  let m ← maskIn s c i e r
  let (xs, fl) := alsumRow (flag e 79) (fld e 93 4) (scoreSigma s c i e) m rcd (scoreRow s c e r)
  let a := plusBytes (getA s c i (fld e 80 3)) (16 * r)
  let cell ← readLocal s c a 16 16
  let s' ← writeLocal s c a 16 (leBytes 16 (xs.foldl (cellAdd (sfld e 83 10)) cell))
  return raiseCoreFlags s' c fl

/-- ALSUM. -/
def execAlsum (core : Fin 98304) (strand : Fin 4) (s : State) : Host.Outcome State Fault Refusal :=
  .next (runEntry 0x64 (scoreFaults (fun e => [fld e 80 3]) core strand) notShort notShort
    (fun e s => runItems core strand e (alsumItem core strand e) (List.range (scoreRows e)) s) core strand s)

/-- Row `r` of ALPROB (R246). -/
def alprobItem (c i : Nat) (e : Entry) (r : Nat) (s : State) : Except LocalError State := do
  let rcd ← readRec s c i (fld e 48 3) r false
  let m ← maskIn s c i e r
  let l ← if flag e 106 then (readLocal s c (plusBytes (getA s c i (fld e 103 3)) (4 * r)) 4 4).map some else .ok none
  let o := alprobRow (flag e 79) (fld e 83 4) (scoreSigma s c i e) m l rcd (scoreRow s c e r)
  let s' ← writeRec s c i (fld e 48 3) r o.rcd
  let s' ← writeRow s' c (plusBytes (getA s c i (fld e 80 3)) (r * fld e 87 16)) (fld e 83 4) o.probs
  return raiseCoreFlags s' c o.flags

/-- ALPROB. -/
def execAlprob (core : Fin 98304) (strand : Fin 4) (s : State) : Host.Outcome State Fault Refusal :=
  .next (runEntry 0x65 (scoreFaults (fun e => fld e 80 3 :: (if flag e 106 then [fld e 103 3] else [])) core strand) notShort notShort
    (fun e s => runItems core strand e (alprobItem core strand e) (List.range (scoreRows e)) s) core strand s)

/-! ### AFOLD and ANORM -/

/-- Element `q` of row `r` of AFOLD (R240). -/
def afoldElemAt (c i : Nat) (e : Entry) (r alpha q : Nat) (s : State) : Except LocalError State := do
  let (_, n) := shapeOf (fld e 46 2)
  let a := plusBytes (getA s c i (fld e 48 3)) (r * fld e 51 16 + 4 * q)
  let pv := (getTile s c (fld e 36 6 + q / n)).cell (r * n + q % n)
  let o ← if flag e 70 || alpha == 0 then .ok 0 else readLocal s c a 4 4
  let (v, fl) := afoldElem (flag e 70) alpha o pv
  let s' ← writeLocal s c a 4 (leBytes 4 v)
  return raiseCoreFlags s' c fl

/-- Row `r` of AFOLD; `alpha` was read before the first tile. -/
def afoldItem (c i : Nat) (e : Entry) (x : Nat × Except LocalError Nat) (s : State) : Except LocalError State :=
  match x.2 with
  | .error f => .error f
  | .ok rcd =>
    let (_, n) := shapeOf (fld e 46 2)
    (List.range (n * (fld e 42 4 + 1))).foldlM (fun s q => afoldElemAt c i e x.1 (if flag e 70 then 0 else recALPHA rcd) q s) s

/-- The effect of AFOLD. -/
def afoldBody (c i : Nat) (e : Entry) (s : State) : State :=
  let rows := (List.range (scoreRows e)).map (fun r => (r, readRec s c i (fld e 67 3) r (flag e 70)))
  runItems c i e (afoldItem c i e) rows s

/-- AFOLD. -/
def execAfold (core : Fin 98304) (strand : Fin 4) (s : State) : Host.Outcome State Fault Refusal :=
  .next (runEntry 0x61 (regSpaces (fun e => [fld e 48 3, fld e 67 3]) core strand) notShort notShort (afoldBody core strand) core strand s)

/-- `n` FP32 elements from an address on. -/
def readF32s (s : State) (c : Nat) (a : Word) (n : Nat) : Except LocalError (List Nat) :=
  (List.range n).mapM (fun q => readLocal s c (plusBytes a (4 * q)) 4 4)

/-- Row `r` of ANORM (R241). -/
def anormItem (c i : Nat) (e : Entry) (r : Nat) (s : State) : Except LocalError State := do
  let n := fld e 45 13
  let rcd ← readRec s c i (fld e 42 3) r false
  let os ← if recNan rcd || recM rcd == f32NegInf then .ok (List.replicate n 0)
    else readF32s s c (plusBytes (getA s c i (fld e 36 3)) (r * fld e 62 16)) n
  let (row, rcd', fl) := anormRow (fld e 94 4) (flag e 98) rcd os
  let s' ← writeRow s c (plusBytes (getA s c i (fld e 39 3)) (r * fld e 78 16)) (fld e 94 4) row
  let s' ← writeRec s' c i (fld e 42 3) r rcd'
  return raiseCoreFlags s' c fl

/-- ANORM. -/
def execAnorm (core : Fin 98304) (strand : Fin 4) (s : State) : Host.Outcome State Fault Refusal :=
  .next (runEntry 0x62 (regSpaces (fun e => [fld e 36 3, fld e 39 3, fld e 42 3]) core strand) notShort notShort
    (fun e s => runItems core strand e (anormItem core strand e) (List.range (fld e 58 4 + 1)) s) core strand s)

/-! ### AMERGE (R250-R252) -/

/-- Row `r` of AMERGE. -/
def amergeItem (c i : Nat) (e : Entry) (r : Nat) (s : State) : Except LocalError State := do
  let np := fld e 48 6 + 1
  let rows := fld e 54 4 + 1
  let cols := fld e 58 13
  let recs ← (List.range np).mapM (fun p => readLocal s c (plusBytes (getA s c i (fld e 36 3)) ((p * rows + r) * 16)) 16 16)
  let drec := plusBytes (getA s c i (fld e 42 3)) (16 * r)
  if flag e 87 then
    writeLocal s c drec 16 (leBytes 16 (amergeMax recs))
  else
    let outs ← (List.range np).mapM (fun p => readF32s s c (plusBytes (getA s c i (fld e 39 3)) ((p * rows + r) * fld e 71 16)) cols)
    let l ← if flag e 89 then (readLocal s c (plusBytes (getA s c i (fld e 90 3)) (4 * r)) 4 4).map some else .ok none
    let (rcd, row, fl) := amergeState (flag e 88) l cols (recs.zip outs)
    let s' ← writeLocal s c drec 16 (leBytes 16 rcd)
    let s' ← writeRow s' c (plusBytes (getA s c i (fld e 45 3)) (r * fld e 71 16)) 0 row
    return raiseCoreFlags s' c fl

/-- AMERGE. -/
def execAmerge (core : Fin 98304) (strand : Fin 4) (s : State) : Host.Outcome State Fault Refusal :=
  .next (runEntry 0x66 (regSpaces
    (fun e => fld e 36 3 :: fld e 42 3 :: (if flag e 87 then [] else fld e 39 3 :: fld e 45 3 :: (if flag e 89 then [fld e 90 3] else [])))
    core strand) notShort notShort
    (fun e s => runItems core strand e (amergeItem core strand e) (List.range (fld e 54 4 + 1)) s) core strand s)

end Sys2Proof.Machine
end

