-- ==== Sys2Proof/Machine/CoreEvents.lean ====
section
/-!
DEFINITION. Events of the compute dies that no entry commands: completions and refusals of issued operations (04 R170,
R176, R179), the end of a launch (R173), line arrivals (R154), wait timeouts (03 R138), the SRAM scrubber (R118, 18
R611) and the Girdle links (R146).
-/
namespace Sys2Proof.Machine

open Sys2Proof

/-! ### Completions -/

/-- The dispatch that made a claim, with its layer and the claim's slot, in a list of groups. -/
def claimIn (gs : List SrcGroup) (order : Nat) : Option (SrcGroup × Dispatch × SlotState) :=
  gs.findSome? (fun g => g.disps.findSome? (fun d =>
    (d.slots.find? (fun x => x.order == order)).map (fun x => (g, d, x))))

/-- A claim of an open group of an engine. -/
def openClaim (e : Engine) (order : Nat) : Option (SrcGroup × Dispatch × SlotState) := claimIn e.src order

/-- A claim of an open group, or of the latest closed one of its layer. -/
def findClaim (e : Engine) (order : Nat) : Option (SrcGroup × Dispatch × SlotState) :=
  (openClaim e order).or (claimIn e.past order)

/-- The row returned for a claim of this package has been applied at its cells. -/
def rowApplied (s : State) (x : Nat × Nat) : Bool :=
  ((openClaim (getEngine s x.1) x.2).map (fun y => y.2.2.applied)).getD true

/-- An operation may complete: its effect has taken place. An XRETURN completes once its rows are applied at their cells (08
R322): those of this package's claims are known, and of the others the event itself says so (log entry 95). -/
def mayComplete (s : State) (o : OutOp) : Bool :=
  !o.remote && (match o.phase with
    | .done => true
    | .returns own => own.all (rowApplied s)
    | _ => false)

/-- OPERATION_COMPLETE (R170): an issued operation completes; loads and returning atomics of device-virtual memory
complete by REMOTE_DATA_RETURN. -/
def execOperationComplete (core : Fin 98304) (op : Nat) (s : State) : Host.Outcome State Fault Refusal :=
  .next (match findOp s core op with
  | some o => if mayComplete s o then completeOp s core o else s
  | none => s)

/-- REMOTE_DATA_RETURN (R176). -/
def execRemoteDataReturn (core : Fin 98304) (op : Nat) (s : State) : Host.Outcome State Fault Refusal :=
  .next (match findOp s core op with
  | some o => if o.phase = .done ∧ o.remote then completeOp s core o else s
  | none => s)

/-- TRANSLATION_REFUSAL_RETURN (R179): the operation ends without data and its core faults with TRANSLATION. -/
def execTranslationRefusalReturn (core : Fin 98304) (op : Nat) (s : State) : Host.Outcome State Fault Refusal :=
  .next (match findOp s core op with
  | some o => if o.phase = .refused then coreFault (endOp s core o) core o.strand .translation else s
  | none => s)

/-- LAUNCH_COMPLETE (R173): every strand is IDLE and every operation complete; the Warden unbinds the stream buffers
(10 R387), which discards their lines, and passes on what waited for old-version launches (12 R448). -/
def execLaunchComplete (core : Fin 98304) (s : State) : Host.Outcome State Fault Refusal :=
  .next (
    let k := getCore s core
    match k.launch with
    | some l =>
      if k.allIdle && k.ops == [] && !l.done && !l.faulted then
        let s := setCore s core { k with launch := some { l with done := true }, bufs := List.replicate 4 StreamBuf.empty }
        sendPassed (s.emit .report [core])
      else s
    | none => s)

/-! ### Fetch and waits -/

/-- CLUSTER_STORE_LINE_ARRIVAL (R154): the line of a strand's next entry is in its line buffer. -/
def execClusterStoreLineArrival (core : Fin 98304) (strand : Fin 4) (s : State) : Host.Outcome State Fault Refusal :=
  .next (
    let t := getStrand s core strand
    match t.pc with
    | some p => if 1024 ≤ p then modStrand s core strand (fun t => { t with line := some ((p - 1024) / 4) }) else s
    | none => s)

/-- The condition that put a strand into WAITING or STALLED still holds. -/
def stillHeld (s : State) (c i : Nat) : Bool :=
  let t := getStrand s c i
  let e := entryAt s c t.pc
  let short := if eOP e = 0x21 then moveShort c s e else if eOP e = 0x30 then matmulShort c i s e else false
  match waitGate s c i e short false with
  | .hold .waiting => true
  | .hold .stalled => true
  | _ => false

/-- WAIT_TIMEOUT (R138): a strand has been WAITING or STALLED for more than 10 ms. -/
def execWaitTimeout (core : Fin 98304) (strand : Fin 4) (s : State) : Host.Outcome State Fault Refusal :=
  .next (
    let ph := (getStrand s core strand).phase
    if (ph == .waiting || ph == .stalled) && stillHeld s core strand then
      declareFault s 0x0006 (FaultAt.ofCore core strand (getStrand s core strand).context)
    else s)

/-! ### The SRAM scrubber -/

/-- The scrubber of a cluster runs: it pauses in DEEP and OFF (R119). -/
def scrubRuns (s : State) (k : Nat) : Bool := decide (pstate s k ≤ 1)

/-- The overdue banks of a cluster, by (enabled index, bank), with CLU_STATE.SCRUB_OVERDUE. -/
def setOverdue (s : State) (k : Nat) (l : List (Nat × Nat)) : State :=
  setF (modCluster s k (fun c => { c with scrub := l })) (fCLU_STATE_SCRUB_OVERDUE k) (bit (l != []))

/-- SRAM_SCRUB_READ: the scrubber reads word `index` of a core's SRAM, or with `store` set the program position or, from
2,048, the micro-op `index` of its stores; `error` 0 none, 1 corrected, 2 uncorrectable (log entry 47). The scrubber
faults no strand and no package (18 R609). -/
def execSramScrubRead (core : Fin 98304) (store : Bool) (index : Nat) (error : Fin 3) (s : State) :
    Host.Outcome State Fault Refusal :=
  .next (
    let k := clusterOfCore core
    let i := indexOfCore core
    if !scrubRuns s k then s
    else if store then
      let slot := if index < 2048 then storeSlot i index else 193 * 1024 + (index - 2048)
      if error = 2 ∧ index < 3072 then modCluster s k (fun c => { c with poisonedStore := nsInsert c.poisonedStore slot }) else s
    else if sramSize core ≤ index * 8 then s
    else
      let s := setOverdue s k ((getCluster s k).scrub.filter (fun p => p != (i, index / 8 % 16)))
      if error = 1 then count (bumpF s (fCLU_CORE_STAT_SRAM_CORR k i) 1) (0x1000 + 8 * k + 6) 1
      else if error = 2 then
        { s with comp := { s.comp with sramPoison := nsInsert s.comp.sramPoison (sramKey core (index * 8) / 8) } }
      else s)

/-- SRAM_SCRUB_OVERDUE: the scrub read of a bank has waited 4,096 cycles; the next scrub read takes the bank first. -/
def execSramScrubOverdue (core : Fin 98304) (bank : Fin 16) (s : State) : Host.Outcome State Fault Refusal :=
  .next (
    let k := clusterOfCore core
    let x := (indexOfCore core, bank.val)
    if scrubRuns s k && !(getCluster s k).scrub.contains x then setOverdue s k (x :: (getCluster s k).scrub) else s)

/-! ### Girdle links (R146) -/

def getGirdle (s : State) (n : Nat) : Girdle := tabGet Girdle.fresh s.comp.girdle n

def setGirdle (s : State) (n : Nat) (g : Girdle) : State :=
  { s with comp := { s.comp with girdle := tabSet s.comp.girdle n g } }

/-- The dies that a link joins, by die code, in the order of 01 Table 01-3. -/
def girdleDies (link : Nat) : Nat × Nat :=
  [(0, 1), (1, 2), (2, 12), (12, 13), (13, 3), (3, 4), (4, 5),
   (6, 7), (7, 8), (8, 14), (14, 15), (15, 9), (9, 10), (10, 11),
   (0, 6), (1, 7), (12, 14), (13, 15), (4, 10), (5, 11),
   (16, 0), (17, 6), (18, 5), (19, 11)].getD link (16, 16)

/-- The die whose receiver a direction ends at. -/
def girdleReceiver (link : Nat) (back : Bool) : Nat := if back then (girdleDies link).1 else (girdleDies link).2

/-- A link that is down carries nothing in either direction. -/
def girdleIsDown (s : State) (link : Nat) : Bool := (getGirdle s (2 * link)).down || (getGirdle s (2 * link + 1)).down

/-- The link is down, both directions of it: an uncorrectable fault of the package, detected at the receiver of the
direction that failed. -/
def girdleDown (s : State) (link : Nat) (back : Bool) : State :=
  let s := setGirdle s (2 * link) { getGirdle s (2 * link) with down := true }
  let s := setGirdle s (2 * link + 1) { getGirdle s (2 * link + 1) with down := true }
  declareFault s 0x0005 (FaultAt.onDie (girdleReceiver link back) link)

/-- GIRDLE_FLIT_RECEIVE: the flit's CRC and sequence are `good` or a replay from the last acknowledged flit is asked for;
a flit that fails three replays in a row takes the link down. -/
def execGirdleFlitReceive (link : Fin 24) (back : Bool) (good : Bool) (s : State) : Host.Outcome State Fault Refusal :=
  .next (
    let n := 2 * link.val + bit back
    let g := getGirdle s n
    if girdleIsDown s link then s
    else if good then setGirdle s n { g with seq := g.seq + 1, fails := 0, replay := false }
    else
      let fails := if g.replay then g.fails + 1 else 0
      let s := setGirdle s n { g with fails := fails, replay := true }
      if 3 ≤ fails then girdleDown s link back else s)

/-- GIRDLE_LANE_REPAIR: a lane of a module goes onto a spare; with none left the link is down. -/
def execGirdleLaneRepair (link : Fin 24) (back : Bool) (lanes : Fin 16) (s : State) : Host.Outcome State Fault Refusal :=
  .next (
    let n := 2 * link.val + bit back
    let g := getGirdle s n
    if girdleIsDown s link then s
    else if tabGet 0 g.repairs lanes < Config.girdleSpares then
      setGirdle s n { g with repairs := tabMod 0 g.repairs lanes (· + 1) }
    else girdleDown s link back)

/-- GIRDLE_LINK_DOWN: the link goes down for what one of its directions met. -/
def execGirdleLinkDown (link : Fin 24) (back : Bool) (s : State) : Host.Outcome State Fault Refusal :=
  .next (if girdleIsDown s link then s else girdleDown s link back)

end Sys2Proof.Machine
end

