-- ==== Sys2Proof/Machine/EgressOps.lean ====
section
/-!
DEFINITION. Egress windows (14 R504, R505): blocks that gather writes, fetches that serve reads, and their RDMA operations.
-/
namespace Sys2Proof.Machine

open Sys2Proof

/-! ### Answers to requests -/

/-- Answer a request: to its requester's package, or to this package's own table of requests. -/
def answer (s : State) (src tag op status : Nat) (data : List Line) : State :=
  if src = ownPkg s then completeReq s tag status
  else sendResponse s ⟨op, false, false, max 1 data.length, status, src, ownPkg s, tag, 0, 0, 0, 0, false, data⟩

/-! ### Window fields (Table 14-11) -/

def ewinRec (s : State) (w : Nat) : Nat := tabGet 0 s.fab.ewins w

/-- The queue pair of an egress window. -/
def ewinQp (s : State) (w : Nat) : Nat := natBits (ewinRec s w) 8 20

/-- The remote address of a window offset. -/
def ewinAddr (s : State) (w off : Nat) : Nat := natBits (ewinRec s w) 32 64 + off

def ewinKey (s : State) (w : Nat) : Nat := natBits (ewinRec s w) 96 32

/-- A range of offsets lies in a valid window that allows the access (bit 3 reads, bit 4 writes). -/
def ewinAllows (s : State) (w bit_ off n : Nat) : Bool :=
  natBits (ewinRec s w) 2 1 == 1 && natBits (ewinRec s w) bit_ 1 == 1 && decide (off + n ≤ natBits (ewinRec s w) 128 40)

/-! ### Blocks -/

def setEgress (s : State) (l : List EgressBlock) : State := { s with fab := { s.fab with egress := l } }

/-- Replace the first block that meets a condition. -/
def replaceFirst (p : EgressBlock → Bool) (f : EgressBlock → Option EgressBlock) : List EgressBlock → List EgressBlock
  | [] => []
  | b :: bs =>
    if p b then
      match f b with
      | some b' => b' :: bs
      | none => bs
    else b :: replaceFirst p f bs

/-- Requests of a block that no other block of the list also holds. -/
def onlyHere (l : List EgressBlock) (x : Nat × Nat) : Bool :=
  !l.any (fun b => b.acks.contains x || b.reads.any (fun r => r.1 == x.1 && r.2.1 == x.2))

/-- Every request of a failed block is answered ETH_FAILED, and leaves every block that holds it. -/
def failEgress (s : State) (b : EgressBlock) : State :=
  let same (x : EgressBlock) : Bool := x.ewin == b.ewin && x.block == b.block && x.sent == b.sent && x.fetch == b.fetch
  match s.fab.egress.find? same with
  | none => s
  | some b =>
    let rs := b.reads.map (fun r => (r.1, r.2.1))
    let drop (x : EgressBlock) : EgressBlock := { x with
      acks := x.acks.filter (fun a => !b.acks.contains a)
      reads := x.reads.filter (fun r => !rs.contains (r.1, r.2.1)) }
    let s := setEgress s ((replaceFirst same (fun _ => none) s.fab.egress).map drop)
    let s := b.acks.foldl (fun s x => answer s x.1 x.2 opWRITEACK 4 []) s
    rs.foldl (fun s x => answer s x.1 x.2 opREADRSP 4 []) s

/-- The contiguous runs of written bytes, as (offset, bytes), ascending. -/
def runsOf : List (Nat × Byte) → List (Nat × List Byte)
  | [] => []
  | (a, b) :: t =>
    match runsOf t with
    | (a', bs) :: rest => if a' = a + 1 then (a, b :: bs) :: rest else (a, [b]) :: (a', bs) :: rest
    | [] => [(a, [b])]

/-- Send an open block: one RDMA WRITE for each run; a queue pair in ERROR reports failure at once. -/
def sendBlock (s : State) (b : EgressBlock) : State :=
  let q := ewinQp s b.ewin
  let runs := runsOf b.bytes
  let b' := { b with sent := true, ops := runs.length }
  let s := setEgress s (replaceFirst (fun x => x == b) (fun _ => some b') s.fab.egress)
  if !qpValid s q || (getQP s q).err then failEgress s b'
  else runs.foldl (fun s r =>
    rdmaPut s q (ewinAddr s b.ewin (b.block * 4096 + r.1)) (ewinKey s b.ewin) r.2.length (leNat r.2)) (count s 0x0606 1)

/-- The open block that gathers writes of a range. -/
def openBlock (s : State) (w n : Nat) : Option EgressBlock :=
  s.fab.egress.find? (fun b => b.ewin == w && b.block == n && !b.sent && !b.fetch)

/-- Make room for a new block: with 512 open, the oldest goes. -/
def makeRoom (s : State) : State :=
  let l := s.fab.egress.filter (fun b => !b.sent && !b.fetch)
  match l with
  | b :: _ => if 512 ≤ l.length then sendBlock s b else s
  | [] => s

/-- Gather bytes of one block, with the acknowledgement that they owe. -/
def gatherWrite (s : State) (w n src tag : Nat) (bs : List (Nat × Byte)) : State :=
  let s := if (openBlock s w n).isSome then s
    else
      let s := makeRoom s
      setEgress s (s.fab.egress ++ [⟨w, n, [], [], [], false, false, 0⟩])
  match openBlock s w n with
  | none => s
  | some b =>
    let b' := { b with
      bytes := bs.foldl (fun (m : List (Nat × Byte)) p => tabSet m p.1 p.2) b.bytes
      acks := if b.acks.contains (src, tag) then b.acks else b.acks ++ [(src, tag)] }
    let s := setEgress s (replaceFirst (fun x => x == b) (fun _ => some b') s.fab.egress)
    if b'.bytes.length = 4096 then sendBlock s b' else s

/-- A read of one block: written bytes go first, and a fetch starts unless one is under way. -/
def fetchRead (s : State) (w n : Nat) (r : Nat × Nat × Nat × Nat) : State :=
  let s := match openBlock s w n with
    | some b => sendBlock s b
    | none => s
  let isFetch (b : EgressBlock) : Bool := b.ewin == w && b.block == n && b.fetch
  if s.fab.egress.any isFetch then
    setEgress s (replaceFirst isFetch (fun b => some { b with reads := b.reads ++ [r] }) s.fab.egress)
  else
    let b : EgressBlock := ⟨w, n, [], [], [r], true, true, 1⟩
    let s := setEgress s (s.fab.egress ++ [b])
    let q := ewinQp s w
    if !qpValid s q || (getQP s q).err then failEgress s b
    else
      let len := min 4096 (natBits (ewinRec s w) 128 40 - n * 4096)
      s.emit .rdmaRead [q, ewinAddr s w (n * 4096), ewinKey s w, len]

end Sys2Proof.Machine
end

