-- ==== Sys2Proof/Machine/Faults.lean ====
section
/-!
DEFINITION. Faults and dumps as commands (spec 18): an episode announced by another package, the end of the stop's
grace and of the delivery window, dumps written and released, and the warm reset of recovery.
-/
namespace Sys2Proof.Machine

open Sys2Proof

/-! ### JOB_FAULT -/

/-- JOB_FAULT (R616): a newer episode is adopted, with PEER_FAULT and its sender as ORIGIN, and announced once; an
episode no newer is discarded. A package that has already stopped only adopts the number (log entry 68). -/
def execJobFault (episode : Fin 4294967296) (pkg : Fin 65536) (s : State) : Host.Outcome State Fault Refusal :=
  .next (
    if episode.val ≤ getF s fGLB_FAULT_STAT_EPISODE ∨ s.fault.lostGw.contains 0 then s
    else
      let was := stopped s
      let s := setF (setF s fGLB_FAULT_STAT_EPISODE episode) fGLB_FAULT_STAT_ORIGIN pkg
      let s := sendAll s .jobFault [episode, 0x0100, ownPkg s]
      if was then
        if getF s fGLB_FAULT_STAT_OWN = 0 then latchCause s 0x0100 ⟨0, 0, 0, 0, 0⟩ else s
      else
        let s := latchCause { s with fault := { s.fault with recs := [] } } 0x0100 ⟨0, 0, 0, 0, 0⟩
        let s := setF s fGLB_FAULT_STAT_OWN 0
        let s := setReg s rGLB_FAULT_TIME (BitVec.ofNat 64 s.now)
        enterEpisode (count s 0x0A00 1) 0 0x0100 pkg)

/-! ### The end of the grace and of the delivery window (R617, R618) -/

/-- Every operation still in flight is abandoned. -/
def abandonOps (s : State) : State :=
  { s with
    comp := { s.comp with cores := tabMap s.comp.cores (fun k => { k with ops := [] }) }
    warden := { s.warden with buckets := tabMap s.warden.buckets (fun b => { b with held := b.held.filter (fun h =>
      match h.agent with
      | .coreOp _ _ => false
      | _ => true) }) }
    fab := { s.fab with reqs := s.fab.reqs.filter (fun r =>
      match r.agent with
      | .coreOp _ _ => false
      | _ => true) } }

/-- CORE_STOP_GRACE_EXPIRY: 100 us after the stop. The dump due then begins. -/
def execCoreStopGraceExpiry (s : State) : Host.Outcome State Fault Refusal :=
  .next (
    if !stopped s || s.fault.graceEnd then s
    else
      let s := abandonOps { s with fault := { s.fault with graceEnd := true } }
      match s.fault.want with
      | none => s
      | some own => beginDump s own)

/-- DELIVERY_WINDOW_EXPIRY: 5 ms after the stop. What has not been delivered is lost. -/
def execDeliveryWindowExpiry (s : State) : Host.Outcome State Fault Refusal :=
  .next (
    if !stopped s || s.fault.windowEnd then s
    else { s with
      fault := { s.fault with windowEnd := true }
      ward := { s.ward with deliv := tabMap s.ward.deliv (fun d => { d with failed := true }) } })

/-! ### Writing a dump (R627, Tables 18-4 to 18-6) -/

/-- The sections of a dump, in table order: TYPE and items. A peer dump leaves out STRANDS and BEZEL. -/
def dumpItems (s : State) (own : Nat) : List (Nat × List Nat) :=
  let held (p : Nat × Word) : List Nat := [p.1, p.2.toNat]
  let all : List (Nat × List Nat) :=
  [(1, s.fault.recs.flatMap (fun r => [r.cause, r.time, r.die, r.cluster, r.core, r.strand, r.detail])),
   (2, [rGLB_ERR, rGLB_ERR_INFO, rGLB_LATCH_ERR, rGLB_FAULT_STAT, rGLB_FAULT_CAUSE, rGLB_FAULT_TIME, rCFG_ERR, rBZL_ERR,
        rXRT_ENG_ERR 0, rXRT_ENG_ERR 1, rXRT_ENG_ERR 2,
        rXRT_ENG_ERR 3, rWRD_ERR, rWDN_ERR, rMEM_ERR, rFLS_ERR, rHNG_ERR, rFAB_ERR, rETH_ERR, rPTC_ERR, rPTC_TRIP,
        rGLB_TIME_STAT, rGLB_HOST_ERR 0].map
        (fun a => (getReg s a).toNat)),
   (3, s.tel.trace),
   (4, (s.regs.filter (fun (p : Nat × Word) => decide (p.1 < rPDL_LIFE) || decide (rPDL_LIFE + 0x800 ≤ p.1))).flatMap held),
   (5, (tabGet [] s.tel.hold 3).flatMap (fun p => [p.1, p.2])),
   (6, s.comp.cores.flatMap (fun (p : Nat × Core) =>
      p.1 :: p.2.strands.flatMap (fun t =>
        (match t.phase with
          | .idle => 0 | .ready => 1 | .waiting => 2 | .remote => 3 | .stalled => 4 | .faulted => 5) ::
        t.pc.getD 0x100000 :: t.context :: (t.areg.map BitVec.toNat ++ t.lreg ++ t.stack.map (fun r => r.getD 0x100000))))),
   (7, s.ward.entries.flatMap (fun p => [p.1, p.2.pack])),
   (8, s.fault.digests.flatMap (fun p => [p.1, leNat p.2])),
   (9, s.fault.batches.flatMap (fun b => [b.number, b.apply, b.first, b.recs.length])),
   (10, s.fab.ports.flatMap (fun p => [p.1, p.2.replay.foldl (fun m f => max m f.resent) 0]) ++ s.fab.routes.flatMap (fun p => [p.1, p.2])
      ++ s.fab.windows.flatMap (fun p => [p.1, p.2])),
   (11, s.tiers.corrLog.map Prod.fst ++ s.fault.retired ++ s.tiers.migs.map Migration.page),
   (12, s.tel.history.flatMap (fun p => [p.1, p.2])),
   (13, s.bezel.pages.map Prod.fst)]
  if own = 0 then all.filter (fun p => p.1 != 6 && p.1 != 13) else all

/-- A section list under way: next free offset, the bytes placed (offset, bytes), entries, and whether a section did
not fit. -/
structure DumpBuild where
  next    : Nat
  placed  : List (Nat × List Byte)
  entries : List Byte
  short   : Bool
  deriving DecidableEq, Repr

/-- Place a section of a slot of `size` bytes; `bad` are the TYPEs whose sources held a poisoned word. -/
def placeSection (size : Nat) (bad : BitVec 16) (d : DumpBuild) (sec : Nat × List Nat) : DumpBuild :=
  let off := (d.next + 4095) / 4096 * 4096
  if d.short then
    { d with entries := d.entries ++ leBytes 2 sec.1 ++ leBytes 1 2 ++ leBytes 29 0 }
  else
    let body := Config.dumpBytes sec.1 sec.2
    let kept := body.take (size - off)
    let cut := decide (kept.length < body.length)
    { next := off + kept.length
      placed := d.placed ++ [(off, kept)]
      entries := d.entries ++ leBytes 2 sec.1 ++ leBytes 1 (bit cut + 4 * bit (bad.getLsbD sec.1)) ++ leBytes 1 0
        ++ leBytes 4 (crc32c kept) ++ leBytes 8 off ++ leBytes 8 kept.length ++ leBytes 8 0
      short := cut }

/-- The header of a dump (Table 18-4). -/
def dumpHeader (s : State) (x : DumpSlot) (part : Nat) (n : Nat) (d : DumpBuild) : List Byte :=
  let front : List Byte :=
    [0x41#8, 0x5A#8, 0x58#8, 0x46#8, 0x44#8, 0x55#8, 0x4D#8, 0x50#8] ++ leBytes 2 1 ++ leBytes 2 x.cause
    ++ leBytes 2 (ownPkg s) ++ leBytes 1 part ++ leBytes 1 x.own ++ leBytes 4 x.episode ++ leBytes 4 (activeGen s)
    ++ leBytes 8 x.time ++ leBytes 8 (getF s fWDN_STEP_STEP) ++ leBytes 2 (getF s fGLB_FAULT_STAT_ORIGIN)
    ++ leBytes 1 n ++ leBytes 1 (if d.short then 2 else 1) ++ leBytes 8 d.next
  let tail : List Byte := leBytes 8 0 ++ d.entries
  let tail := tail ++ List.replicate (4096 - 56 - tail.length) 0#8
  front ++ leBytes 4 (crc32c (front ++ leBytes 4 0 ++ tail)) ++ tail

/-- The device-physical base and the bytes of a dump slot (16 Table 16-3, kinds 0x0A and 0x0B). -/
def dumpPlace (s : State) (n : Nat) : Option (Nat × Nat) :=
  (carveOut s (0x0A + n)).map (fun p => (p.1 * 0x200000, p.2 * 0x200000))

/-- The dump of slot `n` is written, header last. -/
def writeDump (s : State) (n : Nat) (x : DumpSlot) (bad : BitVec 16) : State × Bool :=
  match dumpPlace s n with
  | none => (s, false)
  | some (base, size) =>
    let secs := dumpItems s x.own
    let d := secs.foldl (placeSection size bad) ⟨4096, [], [], false⟩
    let part := match s.cfg.active with | some i => i.partition | none => 0
    let hdr := dumpHeader s x part secs.length d
    let s := d.placed.foldl (fun s p => hbmStoreBytes s (base + p.1) p.2) s
    let s := hbmStoreBytes s base hdr
    ({ s with fault := { s.fault with slots := tabSet s.fault.slots n { x with bytes := hdr } } }, d.short)

/-- DUMP_COMPLETE: slot `slot` is written. A first own dump or a peer dump is PINNED, a second-fault dump READY, and
the second fault then escalates (R623, R626). `bad` are the sections whose sources held a poisoned word. -/
def execDumpComplete (slot : Fin 2) (bad : BitVec 16) (s : State) : Host.Outcome State Fault Refusal :=
  .next (
    let n := slot.val
    match tabFind s.fault.dumping n, tabFind s.fault.slots n with
    | some own, some x =>
      let (s, cut) := writeDump s n x bad
      let s := setF s (fGLB_DUMP_STAT_STATE n) (if own = 2 then 3 else 2)
      let s := setF s (fGLB_DUMP_STAT_TRUNC n) (bit cut)
      let s := postPF s 0x74 (bit cut) n 0 x.episode
      let s := { s with fault := { s.fault with dumping := tabDel s.fault.dumping n } }
      let s := { s with fault := { s.fault with dumped := s.fault.dumping == [] && s.fault.want.isNone } }
      if own = 2 then escalate s else s
    | _, _ => s)

/-! ### Recovery and release -/

/-- RECOVERY_WARM_RESET (R619): dump complete, delivery window ended, not escalated; only a cold reset leaves FAILED (16
R564). -/
def execRecoveryWarmReset (s : State) : Host.Outcome State Fault Refusal :=
  .next (
    let ph := getF s fGLB_FAULT_STAT_PHASE
    if (ph = 1 ∨ ph = 2) && s.fault.dumped && cfgStage s != 0xF && s.fault.windowEnd && s.fault.graceEnd && s.cfg.active.isSome then
      warmReset s
    else s)

/-- Return a READY slot to EMPTY; a slot in another state stays. -/
def releaseSlot (s : State) (n : Nat) : State :=
  if dumpState s n = 3 then
    { setF s (fGLB_DUMP_STAT_STATE n) 0 with fault := { s.fault with slots := tabDel s.fault.slots n } }
  else s

/-- A write of GLB_DUMP_CTL by the PF: RELEASE0, RELEASE1 act; KEEP0 and KEEP1 are stored. -/
def dumpCtl (s : State) (v : Word) : State :=
  let s := setF (setF s fGLB_DUMP_CTL_KEEP0 (natBits v.toNat 2 1)) fGLB_DUMP_CTL_KEEP1 (natBits v.toNat 3 1)
  let s := if natBits v.toNat 0 1 = 1 then releaseSlot s 0 else s
  if natBits v.toNat 1 1 = 1 then releaseSlot s 1 else s

/-- DUMP_RELEASE: a write of GLB_DUMP_CTL; from a VF it is discarded and recorded (R629). -/
def execDumpRelease (fn : Fin 64) (value : Word) (s : State) : Host.Outcome State Fault Refusal :=
  .next (if fn.val ≠ 0 then errVfAccess s rGLB_DUMP_CTL fn else dumpCtl s value)

end Sys2Proof.Machine
end

