-- ==== Sys2Proof/Machine/Host.lean ====
section
/-!
DEFINITION. The PCIe endpoint (spec 15, R509-R526): queue set-up, doorbells, descriptor fetch, MSI-X messages,
function-level reset and PERST#, and the BAR2 window.
-/
namespace Sys2Proof.Machine

open Sys2Proof

/-! ### Queue set-up (R515, R521) -/

def queueOn (s : State) (fn q : Nat) : Bool := bitF s (fGLB_Q_CFG_EN fn q)

/-- ACTIVE: EN set, or completions owed. -/
def queueActive (s : State) (fn q : Nat) : Bool := queueOn s fn q || decide (0 < (getHQ s fn q).owed)

/-- A ring size field as a write leaves it: 9-15 are reserved (00 R33). -/
def logField (old new : Nat) : Nat := if 9 ≤ new then old else new

/-- A write of GLB_Qq_CFG. -/
def queueCfg (s : State) (fn q v : Nat) : State :=
  let sq := logField (getF s (fGLB_Q_CFG_SQ_LOG fn q)) (natBits v 0 4)
  let cq := logField (getF s (fGLB_Q_CFG_CQ_LOG fn q)) (natBits v 4 4)
  let moved := decide (sq ≠ getF s (fGLB_Q_CFG_SQ_LOG fn q)) || decide (cq ≠ getF s (fGLB_Q_CFG_CQ_LOG fn q))
  let s :=
    if queueActive s fn q then (if moved then raiseF s (fGLB_HOST_ERR_CFG_BUSY fn) else s)
    else setF (setF s (fGLB_Q_CFG_SQ_LOG fn q) sq) (fGLB_Q_CFG_CQ_LOG fn q) cq
  let was := queueOn s fn q
  let s := setF (setF s (fGLB_Q_CFG_IEN fn q) (natBits v 9 1)) (fGLB_Q_CFG_EN fn q) (natBits v 8 1)
  let h := getHQ s fn q
  if natBits v 8 1 = 0 then setHQ s fn q { h with resetAt := false }
  else if was then s
  else if h.owed = 0 then setHQ s fn q HostQueue.enable
  else setHQ s fn q { h with resetAt := true }

/-- QUEUE_CFG_WRITE. -/
def execQueueCfgWrite (fn : Fin 64) (q : Fin 64) (value : Word) (s : State) : Host.Outcome State Fault Refusal :=
  .next (queueCfg s fn q value.toNat)

/-- QUEUE_DEFERRED_RESET: a queue enabled again with completions owed is reset once none is owed. -/
def execQueueDeferredReset (fn : Fin 64) (q : Fin 64) (s : State) : Host.Outcome State Fault Refusal :=
  .next (
    let h := getHQ s fn q
    if h.resetAt ∧ h.owed = 0 then setHQ s fn q HostQueue.enable else s)

/-- A write of GLB_SQq_BASE or GLB_CQq_BASE. -/
def queueBase (s : State) (fn q : Nat) (f : Field) (v : Nat) : State :=
  if queueActive s fn q then raiseF s (fGLB_HOST_ERR_CFG_BUSY fn) else setF s f (natBits v 12 52)

/-- A write of GLB_EQ_CFG. -/
def eqCfg (s : State) (fn v : Nat) : State :=
  let was := bitF s (fGLB_EQ_CFG_EN fn)
  let s := setF s (fGLB_EQ_CFG_LOG fn) (logField (getF s (fGLB_EQ_CFG_LOG fn)) (natBits v 0 4))
  let s := setF (setF s (fGLB_EQ_CFG_EN fn) (natBits v 4 1)) (fGLB_EQ_CFG_IEN fn) (natBits v 5 1)
  if !was ∧ natBits v 4 1 = 1 then setRing s fn Ring.reset else s

/-- EQ_CFG_WRITE. -/
def execEqCfgWrite (fn : Fin 64) (value : Word) (s : State) : Host.Outcome State Fault Refusal :=
  .next (eqCfg s fn value.toNat)

/-- A write of GLB_HREQ_CFG by the PF. -/
def hreqCfg (s : State) (v : Nat) : State :=
  let was := bitF s (fGLB_HREQ_CFG_EN 0)
  let s := setF s (fGLB_HREQ_CFG_LOG 0) (logField (getF s (fGLB_HREQ_CFG_LOG 0)) (natBits v 0 4))
  let s := setF (setF s (fGLB_HREQ_CFG_EN 0) (natBits v 4 1)) (fGLB_HREQ_CFG_IEN 0) (natBits v 5 1)
  if !was ∧ natBits v 4 1 = 1 then { s with host := { s.host with hreq := Ring.reset } } else s

/-- HREQ_CFG_WRITE: the PF alone (R541). -/
def execHreqCfgWrite (fn : Fin 64) (value : Word) (s : State) : Host.Outcome State Fault Refusal :=
  .next (if fn.val ≠ 0 then errVfAccess s 0x8828 fn else hreqCfg s value.toNat)

/-! ### Doorbells (R513, R516, R521) -/

/-- A doorbell to a disabled queue. -/
def dbDisabled (s : State) (fn q : Nat) : State :=
  setF (raiseF s (fGLB_HOST_ERR_DB_DISABLED fn)) (fGLB_HOST_ERR_LAST_Q fn) q

/-- An index out of range stops the queue. -/
def dbRange (s : State) (fn q : Nat) : State :=
  let s := setF (raiseF s (fGLB_HOST_ERR_DB_RANGE fn)) (fGLB_HOST_ERR_LAST_Q fn) q
  setHQ s fn q { getHQ s fn q with stopped := true }

/-- SQ_TAIL_DOORBELL: `whole` says that the write is a naturally aligned 64-bit write. -/
def execSqTailDoorbell (fn : Fin 64) (q : Fin 64) (value : Word) (whole : Bool) (s : State) :
    Host.Outcome State Fault Refusal :=
  .next (
    let v := natBits value.toNat 0 12
    if !whole then raiseF s (fGLB_HOST_ERR_DB_WIDTH fn)
    else if !queueOn s fn q || (getHQ s fn q).resetAt then dbDisabled s fn q
    else if ringSize (getF s (fGLB_Q_CFG_SQ_LOG fn q)) ≤ v then dbRange s fn q
    else setHQ s fn q { getHQ s fn q with tail := v })

/-- CQ_HEAD_DOORBELL: the completions up to the new head are consumed. -/
def execCqHeadDoorbell (fn : Fin 64) (q : Fin 64) (value : Word) (whole : Bool) (s : State) :
    Host.Outcome State Fault Refusal :=
  .next (
    let v := natBits value.toNat 0 12
    let n := ringSize (getF s (fGLB_Q_CFG_CQ_LOG fn q))
    let h := getHQ s fn q
    if !whole then raiseF s (fGLB_HOST_ERR_DB_WIDTH fn)
    else if !queueOn s fn q || h.resetAt then dbDisabled s fn q
    else if n ≤ v then dbRange s fn q
    else setHQ s fn q { h with cqHead := v, unread := (h.cqTail + n - v) % n })

/-- EQ_HEAD_DOORBELL: a disabled ring or an index out of range discards it (log entry 71). -/
def execEqHeadDoorbell (fn : Fin 64) (value : Word) (whole : Bool) (s : State) : Host.Outcome State Fault Refusal :=
  .next (
    let v := natBits value.toNat 0 12
    if !whole then raiseF s (fGLB_HOST_ERR_DB_WIDTH fn)
    else if !bitF s (fGLB_EQ_CFG_EN fn) then raiseF s (fGLB_HOST_ERR_DB_DISABLED fn)
    else if ringSize (getF s (fGLB_EQ_CFG_LOG fn)) ≤ v then raiseF s (fGLB_HOST_ERR_DB_RANGE fn)
    else setRing s fn { getRing s fn with head := v })

/-! ### Descriptor fetch (R517) -/

/-- The queue may fetch: enabled, not stopped, something to fetch, no STOP applied (16 R558), and F + U < N - 1. -/
def mayFetch (s : State) (fn q : Nat) : Bool :=
  let h := getHQ s fn q
  queueOn s fn q && !h.resetAt && !h.stopped && h.head != h.tail && !stopped s && !bitF s fCFG_STAT_STOPPING &&
    decide (h.owed + h.unread + 1 < ringSize (getF s (fGLB_Q_CFG_CQ_LOG fn q)))

/-- A fetch fails: FETCH_FAIL, and the queue stops. -/
def fetchFail (s : State) (fn q : Nat) : State :=
  let s := setF (raiseF s (fGLB_HOST_ERR_FETCH_FAIL fn)) (fGLB_HOST_ERR_LAST_Q fn) q
  setHQ s fn q { getHQ s fn q with stopped := true }

/-- DESCRIPTOR_FETCH: `data` is what the DMA read returned. The descriptor takes the queue's next SUBSEQ; its checks are
those of ADMIT_DESCRIPTOR, PAUSE, RESUME and CANCEL, and an OP that names none of them is refused here (09 R337). -/
def execDescriptorFetch (fn : Fin 64) (q : Fin 64) (data : Option (BitVec 512)) (s : State) :
    Host.Outcome State Fault Refusal :=
  .next (
    if !mayFetch s fn q then s
    else
      let s := s.emit .hostRead [fn, getF s (fGLB_SQ_BASE_ADDR fn q) * 4096 + 64 * (getHQ s fn q).head, 64]
      match data with
      | none => fetchFail s fn q
      | some d =>
        let h := getHQ s fn q
        let op := natBits d.toNat 0 8
        let s := setHQ s fn q { h with
          head := (h.head + 1) % ringSize (getF s (fGLB_Q_CFG_SQ_LOG fn q))
          subseq := (h.subseq + 1) % 2 ^ 32
          owed := h.owed + 1 }
        let s := count s 0x0800 1
        if 1 ≤ op ∧ op ≤ 4 then s else complete s (.pcie fn q) h.subseq op stBAD_DESCRIPTOR 0 0)

/-! ### MSI-X (R520) -/

/-- MSIX_MESSAGE: one message covers every entry written since the vector's last. -/
def execMsixMessage (fn : Fin 64) (vector : Fin 66) (s : State) : Host.Outcome State Fault Refusal :=
  .next (
    let k := fn.val * 128 + vector.val
    if s.host.msixPend.contains k then
      { s.emit .msix [fn, vector] with host := { s.host with msixPend := nsErase s.host.msixPend k } }
    else s)

/-! ### Function-level reset (R526) and PERST# (16 R561) -/

/-- The origin is a queue of a function. -/
def fromFn (fn : Nat) : Origin → Bool
  | .pcie f _ => f == fn
  | .qp _ _ => false

/-- Drop the descriptors of a function that have been fetched and not sent. -/
def dropUnsent (s : State) (fn : Nat) : State :=
  (s.ward.reads.filter (fun r => fromFn fn r.origin)).foldl (fun s r =>
    let s := { s with ward := { s.ward with reads := s.ward.reads.erase r } }
    let s := if dOP r.desc = 1 then freeExtent s r.extent else s
    match r.origin with
    | .pcie f q => setHQ s f q { getHQ s f q with owed := (getHQ s f q).owed - 1 }
    | .qp _ _ => s) s

/-- The completions that a function's queues still owe: those of descriptors whose record has been sent (R526). -/
def recountOwed (s : State) (fn : Nat) : State :=
  (List.range 64).foldl (fun s q =>
    let h := getHQ s fn q
    if h.owed = 0 then s else setHQ s fn q { h with owed := (s.ward.owed.filter (fun x => x.origin == .pcie fn q)).length }) s

/-- The effects of a reset on one function. -/
def resetFn (s : State) (fn : Nat) : State :=
  let s := (List.range 64).foldl (fun s q =>
    if queueOn s fn q then setHQ (setF s (fGLB_Q_CFG_EN fn q) 0) fn q { getHQ s fn q with resetAt := false } else s) s
  let s := if bitF s (fGLB_EQ_CFG_EN fn) then setF s (fGLB_EQ_CFG_EN fn) 0 else s
  let s := if fn = 0 && bitF s (fGLB_HREQ_CFG_EN 0) then setF s (fGLB_HREQ_CFG_EN 0) 0 else s
  let s := recountOwed (dropUnsent s fn) fn
  let s := { s with ward := { s.ward with
    owed := s.ward.owed.map (fun x => if fromFn fn x.origin then { x with lost := true } else x) } }
  (wards s).foldl (fun s p =>
    if fromFn fn p.2.origin && p.2.home == ownPkg s && p.2.phase != .free && !(getDeliv s p.1).failed then
      deliveryFailure s p.1
    else s) s

/-- A reset of the PF reaches every function. -/
def functionReset (s : State) (fn : Nat) : State :=
  if fn = 0 then (List.range 64).foldl resetFn s else resetFn s fn

/-- FUNCTION_LEVEL_RESET. -/
def execFunctionLevelReset (fn : Fin 64) (s : State) : Host.Outcome State Fault Refusal := .next (functionReset s fn)

/-- PERST: the link and every queue go, and GLB_BAR2_BASE; a running job continues. -/
def execPerst (s : State) : Host.Outcome State Fault Refusal :=
  .next (
    let s := functionReset s 0
    let s := setF s (fGLB_BAR2_BASE_BASE 0) 0
    { s with host := { s.host with linkUp := false, perst := true } })

/-- RAILS has ended: the stage of a running package, or a FAILED package that had passed it. -/
def railsEnded (s : State) : Bool :=
  let n := cfgStage s
  (decide (4 ≤ n) && n != 0xF) || (n == 0xF && decide (3 ≤ getF s fCFG_STAT_FAIL)) || s.cfg.warm

/-- PERST_DEASSERTION (22 R704): the link trains once stage RAILS has ended. -/
def execPerstDeassertion (s : State) : Host.Outcome State Fault Refusal :=
  .next { s with host := { s.host with perst := false, linkUp := railsEnded s } }

/-- CONFIGURATION_REQUEST (16 R564): 0 is Request Retry Status, 1 an answer, whose content is the standard's. -/
def execConfigurationRequest (fn : Fin 64) (s : State) : Host.Outcome State Fault Refusal :=
  .next (s.emit .pcie [fn, bit (railsEnded s)])

/-! ### BAR2 (R512) -/

/-- The range lies within one HOST_VISIBLE carve-out. -/
def hostVisible (s : State) (a n : Nat) : Bool :=
  (activeRecs s 1 1).any (fun r =>
    natBits r 8 1 == 1 && decide (natBits r 32 20 * 0x200000 ≤ a) &&
    decide (a + n ≤ (natBits r 32 20 + natBits r 64 32) * 0x200000))

/-- BAR2_ACCESS: a read of `len` bytes, or a write of `data`. -/
def execBar2Access (offset : Fin 68719476736) (len : Nat) (data : Option (List Byte)) (s : State) :
    Host.Outcome State Fault Refusal :=
  .next (
    let a := getF s (fGLB_BAR2_BASE_BASE 0) * 2 ^ 30 + offset.val
    match data with
    | none =>
      if hostVisible s a len then s.emit .readData [hbmLoad s a len]
      else (raiseF s (fGLB_HOST_ERR_BAR2_REFUSED 0)).emit .readData [0]
    | some bs =>
      if hostVisible s a bs.length then hbmStoreBytes s a bs else raiseF s (fGLB_HOST_ERR_BAR2_REFUSED 0))

end Sys2Proof.Machine
end

