-- ==== Sys2Proof/Machine/Ether.lean ====
section
/-!
DEFINITION. The Ethernet gateway (spec 15, R527-R534, R539, R540): ingress writes, RoCEv2 queue pairs and PTP frames.
-/
namespace Sys2Proof.Machine

open Sys2Proof

/-! ### Ingress (R530, R531) -/

/-- The rate of a queue pair's port or sub-port, in Mb/s (R527). -/
def qpPortRate (s : State) (i : Nat) : Nat :=
  if bitF s (fETH_PORT_CFG_BREAKOUT (natBits (qpEntry s i) 1 2)) then 800000 else 1600000

/-- Record an error of a queue pair. -/
def ethError (s : State) (f : Field) (i : Nat) : State := setF (raiseF s f) fETH_ERR_LAST_QP i

/-- Answer on a queue pair: 0 acknowledge, 1 invalid-request NAK, 2 remote-access NAK, 3 congestion notification,
4 retransmission from a PSN. -/
def roceSend (s : State) (i kind psn : Nat) : State := s.emit .roce [i, kind, psn]

/-- Completions written and not consumed (R531). -/
def qpUnread (s : State) (i : Nat) : Nat :=
  let n := ringSize (natBits (qpEntry s i) 320 4)
  let p := getQP s i
  (p.written % n + n - p.cqHead % n) % n

/-- One completely written descriptor slot; once a STOP is applied it is discarded and counted (16 R558). -/
def takeSlot (s : State) (i d : Nat) : State :=
  let p := getQP s i
  let n := ringSize (natBits (qpEntry s i) 320 4)
  if stopped s then s
  else if bitF s fCFG_STAT_STOPPING then count s 0x080C 1
  else if n ≤ p.owed + qpUnread s i + 1 then ethError s fETH_ERR_INGRESS_OVER i
  else
    let op := natBits d 0 8
    let s := setQP s i { p with owed := p.owed + 1, subseq := (p.subseq + 1) % 2 ^ 32 }
    let s := count s 0x0800 1
    if 1 ≤ op ∧ op ≤ 4 then s else complete s (.qp i (qpPort s i)) p.subseq op stBAD_DESCRIPTOR 0 0

/-- A Keyring acknowledgement (09 R352). -/
def keyringAck (s : State) (origin : Origin) (value : Word) : State :=
  match execKeyringAck origin value s with
  | .next t => t
  | _ => s

/-- The descriptor slots that a write of `bs` at `a` touches, in ascending order. -/
def ingressSlots (s : State) (i a : Nat) (bs : List Byte) : State :=
  let first := a / 64
  let last := (a + bs.length + 63) / 64
  (List.range (if bs = [] then 0 else min last 256 - first)).foldl (fun s k =>
    let lo := (first + k) * 64
    if a ≤ lo ∧ lo + 64 ≤ a + bs.length then takeSlot s i (leNat ((bs.drop (lo - a)).take 64))
    else ethError s fETH_ERR_INGRESS_PARTIAL i) s

/-- The words above the slots: ACK, CQ_HEAD, EQ_HEAD, whole words only. -/
def ingressWords (s : State) (i a : Nat) (bs : List Byte) : State :=
  let word (at_ : Nat) : Option Nat :=
    if a ≤ at_ ∧ at_ + 8 ≤ a + bs.length then some (leNat ((bs.drop (at_ - a)).take 8)) else none
  let s := match word 0x4000 with
    | some v => keyringAck s (.qp i (qpPort s i)) (BitVec.ofNat 64 v)
    | none => s
  let s := match word 0x4008 with
    | some v => setQP s i { getQP s i with cqHead := natBits v 0 12 }
    | none => s
  match word 0x4010 with
  | some v => setQP s i { getQP s i with eqHead := natBits v 0 12 }
  | none => s

/-- A congestion notification for a marked packet, at most one per 50 us (R534). -/
def congestionNotice (s : State) (i : Nat) : State :=
  let p := getQP s i
  match p.lastCnp with
  | some t => if s.now < t + 50000 then s else setQP (roceSend s i 3 0) i { p with lastCnp := some s.now }
  | none => setQP (roceSend s i 3 0) i { p with lastCnp := some s.now }

/-- INGRESS_WRITE: an RDMA WRITE of `data` at `addr` under `key`; `marked` says congestion experienced. -/
def execIngressWrite (qp : Fin 16384) (key : Fin 4294967296) (addr : Fin 18446744073709551616) (data : List Byte)
    (marked : Bool) (s : State) : Host.Outcome State Fault Refusal :=
  .next (
    let i := qp.val
    let p := getQP s i
    if !qpValid s i || p.err then s
    else
      let s := if marked then congestionNotice s i else s
      if key.val ≠ natBits (qpEntry s i) 192 32 ∨ 0x4040 < addr.val + data.length then roceSend s i 2 p.recvPsn
      else
        let p := getQP s i
        let s := setQP s i { p with recvPsn := (p.recvPsn + max 1 ((data.length + 4095) / 4096)) % 2 ^ 24 }
        let s := roceSend s i 0 p.recvPsn
        ingressWords (ingressSlots s i addr data) i addr data)

/-- ROCE_OTHER_OPCODE (R530): a request that is not a WRITE gets an invalid-request NAK, one with a bad key or address a
remote-access NAK. -/
def execRoceOtherOpcode (qp : Fin 16384) (access : Bool) (s : State) : Host.Outcome State Fault Refusal :=
  .next (
    if !qpValid s qp || (getQP s qp).err then s
    else roceSend s qp (if access then 2 else 1) (getQP s qp).recvPsn)

/-- ETHERNET_FRAME_DROP (R528): a frame that is neither RoCEv2 nor PTP, or not addressed to the port. -/
def execEthernetFrameDrop (port : Fin 4) (s : State) : Host.Outcome State Fault Refusal :=
  .next (if ethLost s port then s else count s (0x0804 + port.val) 1)

/-! ### Errors of the requester (R533) -/

/-- The queue pair enters ERROR. -/
def qpFail (s : State) (i : Nat) : State :=
  if (getQP s i).err then s
  else
    let s := ethError (setQP s i { getQP s i with err := true }) fETH_ERR_QP_ERROR i
    let s := (s.fab.egress.filter (fun b => ewinQp s b.ewin == i && (b.sent || b.fetch))).foldl failEgress s
    let s := (s.ward.deliv.filter (fun p => p.2.destQp == i && !p.2.failed)).foldl (fun s p =>
      match (getWard s p.1).origin with
      | .qp _ _ => deliveryFailure s p.1
      | .pcie _ _ => s) s
    (s.ward.reads.filter (fun r => !originPcie r.origin && !promptPathOk s r)).foldl (fun s r =>
      let s := { s with ward := { s.ward with reads := s.ward.reads.erase r } }
      let isAdmit := dOP r.desc = 1
      let s := if isAdmit then freeExtent s r.extent else s
      complete s r.origin r.subseq (dOP r.desc) stBAD_DESCRIPTOR (if isAdmit then 0 else dWARD r.desc)
        (if isAdmit then 0 else dASEQ r.desc)) s

/-- Go back to a PSN, up to 7 times without progress. -/
def goBack (s : State) (i psn : Nat) : State :=
  let p := getQP s i
  let n := if p.ackPsn = psn then p.retries else 0
  if 7 ≤ n then qpFail s i
  else count (roceSend (setQP s i { p with retries := n + 1, ackPsn := psn }) i 4 psn) 0x0802 1

/-- ROCE_ACK_TIMEOUT: the packet of `psn` has not been acknowledged for 4.096 us * 2^TIMEOUT. -/
def execRoceAckTimeout (qp : Fin 16384) (psn : Fin 16777216) (s : State) : Host.Outcome State Fault Refusal :=
  .next (if !qpValid s qp || (getQP s qp).err then s else goBack s qp psn)

/-- ROCE_NAK: kind 0 asks for retransmission from `psn`; 1 is invalid request, 2 remote access. -/
def execRoceNak (qp : Fin 16384) (kind : Fin 3) (psn : Fin 16777216) (s : State) : Host.Outcome State Fault Refusal :=
  .next (
    if !qpValid s qp || (getQP s qp).err then s
    else if kind.val = 0 then goBack s qp psn
    else qpFail s qp)

/-- A write of ETH_QP_CTL by the PF. -/
def qpCtl (s : State) (v : Nat) : State :=
  let i := natBits v 0 14
  if natBits v 14 1 = 1 ∧ (getQP s i).err then
    setQP s i { getQP s i with err := false, sendPsn := 0, recvPsn := 0, ackPsn := 0, retries := 0 }
  else s

/-- QP_RESET. -/
def execQpReset (fn : Fin 64) (value : Word) (s : State) : Host.Outcome State Fault Refusal :=
  .next (pfWrite s rETH_QP_CTL fn (fun s => qpCtl s value.toNat))

/-! ### Rate (R534) -/

/-- CNP_RECEIVE: the rate is halved, to a floor of 1 Gb/s. -/
def execCnpReceive (qp : Fin 16384) (s : State) : Host.Outcome State Fault Refusal :=
  .next (
    if !qpValid s qp then s
    else
      let p := getQP s qp
      count (setQP s qp { p with rate := max 1000 (min p.rate (qpPortRate s qp) / 2) }) 0x0803 1)

/-- ROCE_RATE_INCREASE: 55 us without a notification raise the rate by 5 % of the port's. -/
def execRoceRateIncrease (qp : Fin 16384) (s : State) : Host.Outcome State Fault Refusal :=
  .next (
    if !qpValid s qp then s
    else
      let p := getQP s qp
      setQP s qp { p with rate := min (p.rate + qpPortRate s qp / 20) (qpPortRate s qp) })

/-! ### PTP (R539, R540) -/

/-- A write of ETH_PTPn_TXCTL by the PF. -/
def ptpTxCtl (s : State) (n v : Nat) : State :=
  let len := natBits v 0 9
  let s := if 14 ≤ len ∧ len ≤ 256 then setF s (fETH_PTP_TXCTL_LEN n) len else s
  let s := setF s (fETH_PTP_TXCTL_TS n) (natBits v 9 1)
  let s := if natBits v 12 1 = 1 then setF s (fETH_PTP_TXCTL_DONE n) 0 else s
  if natBits v 10 1 = 0 ∨ bitF s (fETH_PTP_TXCTL_BUSY n) ∨ ethLost s n then s
  else
    let buf := tabGet [] s.host.ptpTx n
    let bytes := (buf ++ List.replicate (256 - buf.length) 0#8).take (getF s (fETH_PTP_TXCTL_LEN n))
    raiseF { s with host := { s.host with ptpSend := tabSet s.host.ptpSend n bytes } } (fETH_PTP_TXCTL_BUSY n)

/-- PTP_TX_GO. -/
def execPtpTxGo (fn : Fin 64) (port : Fin 4) (value : Word) (s : State) : Host.Outcome State Fault Refusal :=
  .next (pfWrite s (rETH_PTP_TXCTL port) fn (fun s => ptpTxCtl s port value.toNat))

/-- PTP_TX_DONE: the frame leaves; with TS set its egress timestamp is written. -/
def execPtpTxDone (port : Fin 4) (s : State) : Host.Outcome State Fault Refusal :=
  .next (
    let n := port.val
    if !bitF s (fETH_PTP_TXCTL_BUSY n) || ethLost s n then s
    else
      let s := s.emit .ptp (n :: (tabGet [] s.host.ptpSend n).map BitVec.toNat)
      let s := { s with host := { s.host with ptpSend := tabDel s.host.ptpSend n } }
      let s := count (setF s (fETH_PTP_TXCTL_BUSY n) 0) (0x0808 + n) 1
      if bitF s (fETH_PTP_TXCTL_TS n) then
        raiseF (setReg s (rETH_PTP_TXTS n) (BitVec.ofNat 64 s.now)) (fETH_PTP_TXCTL_DONE n)
      else s)

/-- PTP_FRAME_RECEIVE: timestamped into the 16-frame FIFO, or dropped. -/
def execPtpFrameReceive (port : Fin 4) (sub : Bool) (bytes : List Byte) (s : State) :
    Host.Outcome State Fault Refusal :=
  .next (
    let n := port.val
    let q := tabGet [] s.host.ptpRx n
    if ethLost s n then s
    else if 16 ≤ q.length then raiseF s (fETH_PTP_RXSTAT_DROP n)
    else
      count { s with host := { s.host with ptpRx := tabSet s.host.ptpRx n (q ++ [⟨bytes, s.now, sub⟩]) } }
        (0x0808 + n) 1)

/-- A write of ETH_PTPn_RXSTAT by the PF. -/
def ptpRxStat (s : State) (n v : Nat) : State :=
  let s := if natBits v 15 1 = 1 then setF s (fETH_PTP_RXSTAT_DROP n) 0 else s
  if natBits v 14 1 = 1 then
    { s with host := { s.host with ptpRx := tabSet s.host.ptpRx n ((tabGet [] s.host.ptpRx n).drop 1) } }
  else s

/-- PTP_RX_POP. -/
def execPtpRxPop (fn : Fin 64) (port : Fin 4) (value : Word) (s : State) : Host.Outcome State Fault Refusal :=
  .next (pfWrite s (rETH_PTP_RXSTAT port) fn (fun s => ptpRxStat s port value.toNat))

end Sys2Proof.Machine
end

