-- ==== Sys2Proof/Machine/Padlock.lean ====
section
/-!
DEFINITION. The Padlock island's commands (spec 19): key slots and lifecycle, nonces, debug access and its transition.
The island performs one operation at a time, in order of arrival (R631): a command waits in its queue until
PADLOCK_COMMAND_COMPLETE.
-/
namespace Sys2Proof.Machine

open Sys2Proof

/-! ### Taking commands (R631, R649) -/

/-- PROGRAM reads a pair of keys and a debug command its token, in the PF's DMA space at PDL_CMD_ADDR (R636, R643). -/
def padlockFetch (s : State) (op : Nat) : State :=
  if op = 1 then s.emit .hostRead [0, getF s fPDL_CMD_ADDR_ADDR * 8, 2689]
  else if op = 7 then s.emit .hostRead [0, getF s fPDL_CMD_ADDR_ADDR * 8, 4800]
  else s

/-- An operation joins the island's queue. -/
def padlockTake (s : State) (x : PdlOp) : State :=
  let s := setPad s { s.padlock with queue := s.padlock.queue ++ [x] }
  if x.src = 0 then padlockFetch (raiseF s fPDL_STAT_BUSY) x.op else s

/-- A write of PDL_CMD: from a VF (which is recorded, 15 R511), or while BUSY, it is discarded; a reserved OP commands nothing. -/
def padlockCmd (s : State) (fn op slot key : Nat) : State :=
  if fn ≠ 0 then raiseF (errVfAccess s rPDL_CMD fn) fPDL_STAT_DISCARDED
  else if bitF s fPDL_STAT_BUSY then raiseF s fPDL_STAT_DISCARDED
  else if op = 0 ∨ 8 < op then s
  else padlockTake s ⟨op, slot, key, 0, []⟩

/-- PROGRAM. -/
def execProgram (fn : Fin 64) (slot : Fin 4) (s : State) : Host.Outcome State Fault Refusal :=
  .next (padlockCmd s fn 1 slot 0)

/-- REVOKE. -/
def execRevoke (fn : Fin 64) (slot : Fin 4) (s : State) : Host.Outcome State Fault Refusal :=
  .next (padlockCmd s fn 2 slot 0)

/-- LOCK. -/
def execLock (fn : Fin 64) (s : State) : Host.Outcome State Fault Refusal := .next (padlockCmd s fn 3 0 0)

/-- ADVANCE_SVN. -/
def execAdvanceSvn (fn : Fin 64) (s : State) : Host.Outcome State Fault Refusal := .next (padlockCmd s fn 4 0 0)

/-- RETIRE, with its KEY. -/
def execRetire (fn : Fin 64) (key : Fin 65536) (s : State) : Host.Outcome State Fault Refusal :=
  .next (padlockCmd s fn 5 0 key)

/-- NONCE. -/
def execNonce (fn : Fin 64) (s : State) : Host.Outcome State Fault Refusal := .next (padlockCmd s fn 6 0 0)

/-- OPEN_DEBUG. -/
def execOpenDebug (fn : Fin 64) (s : State) : Host.Outcome State Fault Refusal := .next (padlockCmd s fn 7 0 0)

/-- CLOSE_DEBUG. -/
def execCloseDebug (fn : Fin 64) (s : State) : Host.Outcome State Fault Refusal := .next (padlockCmd s fn 8 0 0)

/-! ### Running them -/

/-- Status codes of PDL_STAT. -/
def pdlOK : Nat := 0
def pdlSTATE : Nat := 1
def pdlBUSY : Nat := 2
def pdlFORMAT : Nat := 3
def pdlTARGET : Nat := 4
def pdlNONCE : Nat := 5
def pdlSLOT : Nat := 6
def pdlSIGNATURE : Nat := 7
def pdlREAD_FAIL : Nat := 8

/-- Blow a bit of the FUSED field of PDL_SLOTS. -/
def blowSlot (s : State) (b : Nat) : State :=
  let v := voteList s.padlock.fused ||| 2 ^ b
  setPad s { s.padlock with fused := [v, v, v] }

/-- Re-check the slots and say which are usable (R635). -/
def usableSlots (s : State) : List Nat × State :=
  ((List.range 4).filter (slotUsable s), (List.range 4).foldl (fun s n => (useSlot s n).2) s)

/-- Table 19-3 PROGRAM. -/
def runProgram (s : State) (n : Nat) (data : Option (List Byte)) : Nat × State :=
  if lifeCode s ≠ 0x5A5A ∨ slotProg s n then (pdlSTATE, s)
  else
    match data with
    | none => (pdlREAD_FAIL, s)
    | some bs =>
      if bs.length ≠ 2689 then (pdlREAD_FAIL, s)
      else
        let s := setPad s { s.padlock with
          pairs := tabSet s.padlock.pairs n bs
          digests := tabSet s.padlock.digests n (Config.sha384 bs) }
        (pdlOK, blowSlot s (2 * n))

/-- Table 19-3 REVOKE. -/
def runRevoke (s : State) (n : Nat) : Nat × State :=
  let (us, s) := usableSlots s
  if lifeCode s = 0x6996 ∨ !us.any (fun m => m != n) then (pdlSTATE, s) else (pdlOK, blowSlot s (2 * n + 1))

/-- Table 19-3 LOCK. -/
def runLock (s : State) : Nat × State :=
  let (us, s) := usableSlots s
  if lifeCode s ≠ 0x5A5A ∨ us = [] then (pdlSTATE, s) else (pdlOK, setLife s 0xA5A5)

/-- Table 19-3 ADVANCE_SVN. -/
def runAdvanceSvn (s : State) : Nat × State :=
  if lifeCode s ≠ 0xA5A5 then (pdlSTATE, s)
  else
    let v := max (voteList s.padlock.svn) s.padlock.running
    (pdlOK, setPad s { s.padlock with svn := [v, v, v] })

/-- The transition of R646 up to its cold reset: DEBUG, every key destroyed, the reset. -/
def beginTransition (s : State) (c : Nat) : State := coldReset (destroyKeys (setDebug s c)) false

/-- Table 19-3 RETIRE; none: the transition has begun, and the cold reset leaves no status. -/
def runRetire (s : State) (key : Nat) : Option Nat × State :=
  if lifeCode s ≠ 0xA5A5 ∨ key ≠ 0x5A3C then (some pdlSTATE, s)
  else if serving s then (some pdlBUSY, s)
  else (none, beginTransition (setLife s 0x6996) 0x33CC)

/-- NONCE (R645). -/
def runNonce (s : State) : State :=
  let (n, s) := drawRandom s
  setPad s { s.padlock with nonce := some n }

/-- The bytes of the nonce as a number, zero when none is valid. -/
def nonceValue (s : State) : Nat :=
  match s.padlock.nonce with
  | some n => Config.randomBits n % 2 ^ 256
  | none => 0

/-- A token's fixed bytes are right (Table 19-7). -/
def tokenFormatOk (t : Nat) : Bool :=
  natBits t 0 32 == 0x54445A41 && natBits t 32 16 == 1 && natBits t 56 8 == 0 && natBits t 384 128 == 0

/-- OPEN_DEBUG (R646); `data` is the token, none where it could not be read. The nonce is used once it is compared
(log entry 78). -/
def runOpenDebug (s : State) (data : Option (List Byte)) : Option Nat × State :=
  if debugCode s ≠ 0x0F0F then (some pdlSTATE, s)
  else if serving s then (some pdlBUSY, s)
  else
    match data with
    | none => (some pdlREAD_FAIL, s)
    | some bs =>
      let t := leNat (bs.take 64)
      if bs.length ≠ 4800 ∨ !tokenFormatOk t then (some pdlFORMAT, s)
      else if natBits t 64 64 ≠ Config.serial % 2 ^ 64 then (some pdlTARGET, s)
      else
        let good := s.padlock.nonce.isSome && natBits t 128 256 == nonceValue s
        let s := setPad s { s.padlock with nonce := none }
        if !good then (some pdlNONCE, s)
        else
          let (usable, s) := useSlot s (natBits t 48 8)
          if !usable then (some pdlSLOT, s)
          else if !slotVerifies s 3 (natBits t 48 8) (Config.sha384 (bs.take 64)) (bs.drop 64) then (some pdlSIGNATURE, s)
          else (none, beginTransition s 0x33CC)

/-- CLOSE_DEBUG (R646); a RETIRED part allows none (Table 19-2, log entry 79). -/
def runCloseDebug (s : State) : Option Nat × State :=
  if debugCode s ≠ 0xF0F0 ∨ lifeCode s = 0x6996 then (some pdlSTATE, s)
  else if serving s then (some pdlBUSY, s)
  else (none, beginTransition s 0xCC33)

/-- One operation; none: it ended in a cold reset. -/
def runPdl (s : State) (x : PdlOp) (data : Option (List Byte)) : Option Nat × State :=
  match x.op with
  | 1 => let (c, s) := runProgram s x.slot data; (some c, s)
  | 2 => let (c, s) := runRevoke s x.slot; (some c, s)
  | 3 => let (c, s) := runLock s; (some c, s)
  | 4 => let (c, s) := runAdvanceSvn s; (some c, s)
  | 5 => runRetire s x.key
  | 6 => (some pdlOK, runNonce s)
  | 7 => runOpenDebug s (if x.src = 0 then data else some x.token)
  | 8 => runCloseDebug s
  | _ => (some pdlOK, s)

/-- The oldest operation runs to its end. -/
def padlockRun (s : State) (data : Option (List Byte)) : State :=
  match s.padlock.queue with
  | [] => s
  | x :: rest =>
    let (st, s) := runPdl (noteTriple (setPad s { s.padlock with queue := rest })) x data
    match st with
    | none => s
    | some c =>
      let s := raiseF (setF s fPDL_STAT_STATUS c) fPDL_STAT_DONE
      if rest.any (fun y => y.src == 0) then s else setF s fPDL_STAT_BUSY 0

/-- PADLOCK_COMMAND_COMPLETE (R631): the oldest operation ends; `data` is what its DMA read returned. -/
def execPadlockCommandComplete (data : Option (List Byte)) (s : State) : Host.Outcome State Fault Refusal :=
  .next (padlockRun s data)

/-- NONCE_EXPIRY (R645): 10 minutes after it was drawn. -/
def execNonceExpiry (s : State) : Host.Outcome State Fault Refusal :=
  .next (setPad s { s.padlock with nonce := none })

/-- DEBUG_TRANSITION_COMPLETE (R646 steps 4 and 5): HBM is zero, every granule of the FTL is trimmed, DEBUG becomes OPEN or
CLOSED, and stage WAIT_IMAGE follows. -/
def execDebugTransitionComplete (s : State) : Host.Outcome State Fault Refusal :=
  .next (
    if !inTransition s || cfgStage s != 3 || !s.cfg.trained then s
    else
      let code := if debugCode s = 0x33CC then 0xF0F0 else 0x0F0F
      let s := (s.flash.map.map Prod.fst).foldl trimGranule s
      let s := { s with
        tiers := { s.tiers with hbm := [], hbmPoison := [] }
        flash := { s.flash with buffer := [], units := [] }
        cfg := { s.cfg with trained := false } }
      let s := if s.host.perst then s else { s with host := { s.host with linkUp := true } }
      setStage (setDebug s code) 4)

/-! ### JTAG (R648, Table 19-8) -/

/-- A value shifted out under an instruction. -/
def jtagOut (s : State) (code v : Nat) : State :=
  { s with padlock := { s.padlock with jtagIr := code, jtagDr := v } }.emit .jtag [code, v]

/-- An instruction that is not available acts as BYPASS: its one-bit register captures 0. -/
def jtagBypass (s : State) (code : Nat) : State := jtagOut s code 0

/-- Debug grants are in force. -/
def extestOk (s : State) : Bool :=
  debugOpen s || (decide (1 ≤ cfgStage s) && decide (cfgStage s ≤ 4))

/-- EXTEST: the lands as they stand are shifted out (a free value) and the boundary latches drive them. -/
def execExtest (drive : Nat) (s : State) : Host.Outcome State Fault Refusal :=
  .next (
    if extestOk s then
      let (v, s) := s.takeFree
      jtagOut (setPad s { s.padlock with boundary := drive }) 0x00 v
    else jtagBypass s 0x00)

/-- IDCODE. -/
def execIdcode (s : State) : Host.Outcome State Fault Refusal := .next (jtagOut s 0x01 0x19600ABD)

/-- SAMPLE/PRELOAD: the boundary register is sampled (a free value) and loaded, and drives nothing. -/
def execSamplePreload (load : Nat) (s : State) : Host.Outcome State Fault Refusal :=
  .next (
    let (v, s) := s.takeFree
    jtagOut (setPad s { s.padlock with boundary := load }) 0x02 v)

/-- DBG_STAT: DEBUG in [15:0], LIFE in [31:16], PDL_STAT[15:0] in [47:32] (log entry 80). -/
def execDbgStat (s : State) : Host.Outcome State Fault Refusal :=
  .next (
    let s := noteTriple s
    jtagOut s 0x10 (voteList s.padlock.debug + voteList s.padlock.life * 2 ^ 16
      + natBits (getReg s rPDL_STAT).toNat 0 16 * 2 ^ 32))

/-- DBG_NONCE: capture runs NONCE and shift returns the nonce; behind another operation it waits its turn, and what is
shifted is the nonce as it stands (R631). -/
def execDbgNonce (s : State) : Host.Outcome State Fault Refusal :=
  .next (
    let was := s.padlock.queue
    let s := padlockTake s ⟨6, 0, 0, 1, []⟩
    let s := if was = [] then padlockRun s none else s
    jtagOut s 0x11 (nonceValue s))

/-- DBG_TOKEN: the token shifted in, and OPEN_DEBUG. -/
def execDbgToken (token : BitVec 38400) (s : State) : Host.Outcome State Fault Refusal :=
  .next (padlockTake (jtagOut s 0x12 0) ⟨7, 0, 0, 1, leBytes 4800 token.toNat⟩)

/-- DBG_CLOSE: CLOSE_DEBUG. -/
def execDbgClose (s : State) : Host.Outcome State Fault Refusal :=
  .next (padlockTake (jtagOut s 0x13 0) ⟨8, 0, 0, 1, []⟩)

/-- INTSCAN: internal scan when OPEN; what the chains hold is not given (a free value, log entry 81). -/
def execIntscan (s : State) : Host.Outcome State Fault Refusal :=
  .next (
    if debugOpen s then
      let (v, s) := s.takeFree
      jtagOut s 0x20 v
    else jtagBypass s 0x20)

/-- INTEST: internal test when OPEN. -/
def execIntest (s : State) : Host.Outcome State Fault Refusal :=
  .next (
    if debugOpen s then
      let (v, s) := s.takeFree
      jtagOut s 0x21 v
    else jtagBypass s 0x21)

/-- BYPASS. -/
def execBypass (s : State) : Host.Outcome State Fault Refusal := .next (jtagBypass s 0xFF)

/-! ### Attestation (R640-R642) -/

/-- An SPDM answer: its response code and items. -/
def spdmAnswer (s : State) (args : List Nat) : State := count (s.emit .i3c (5 :: args)) 0x0008 1

/-- ERROR with a code. -/
def spdmError (s : State) (code : Nat) : State := spdmAnswer s [0x7F, code]

/-- A measurement block's value (Table 19-5). -/
def measurement (s : State) (i : Nat) : Nat :=
  match i with
  | 1 => fuseMeasurement s
  | 2 => s.padlock.fwDigest
  | 3 => match s.cfg.active with | some a => a.hash | none => 0
  | 4 => match activeManifest s with | some m => Config.sha384 (leBytes (manMessageLen m) m) | none => 0
  | _ => stateMeasurement s

/-- The chain of slot 0, whose alias certificate was issued at the latest reset (R641). -/
def chainBytes (s : State) : List Byte :=
  Config.certChain (s.padlock.cert.getD 0 0) (s.padlock.cert.getD 1 0) (s.padlock.cert.getD 2 0)

/-- A signature with the alias key, which derives from DUS (all ones once RETIRED), measurement 2 and DBG (Table 19-4). -/
def aliasSign (s : State) (bs : List Byte) : Nat :=
  leNat (Config.sign (measurement s 2) (debugCode s + 2 ^ 16 * bit (lifeCode s == 0x6996)) bs)

/-- GET_VERSION: SPDM 1.2 and 1.3. -/
def execGetVersion (s : State) : Host.Outcome State Fault Refusal :=
  .next (if endpointUp s then spdmAnswer s [0x04, 0x12, 0x13] else s)

/-- GET_CAPABILITIES: CERT_CAP, CHAL_CAP, MEAS_CAP with signature (bits 1, 2 and 4 of DSP0274's flags). -/
def execGetCapabilities (s : State) : Host.Outcome State Fault Refusal :=
  .next (if endpointUp s then spdmAnswer s [0x61, 0x16] else s)

/-- NEGOTIATE_ALGORITHMS: ECDSA P-384 and SHA-384, where the requester offers them. -/
def execNegotiateAlgorithms (p384 : Bool) (sha384 : Bool) (s : State) : Host.Outcome State Fault Refusal :=
  .next (if endpointUp s then spdmAnswer s [0x63, bit p384, bit sha384] else s)

/-- GET_DIGESTS: the digest of the chain of slot 0. -/
def execGetDigests (s : State) : Host.Outcome State Fault Refusal :=
  .next (if endpointUp s then spdmAnswer s [0x01, 0, Config.sha384 (chainBytes s)] else s)

/-- GET_CERTIFICATE: a part of the chain; only slot 0 holds one. -/
def execGetCertificate (slot : Fin 16) (offset : Fin 65536) (len : Fin 65536) (s : State) :
    Host.Outcome State Fault Refusal :=
  .next (
    if !endpointUp s then s
    else if slot.val ≠ 0 then spdmError s 0x01
    else spdmAnswer s (0x02 :: (((chainBytes s).drop offset).take len).map BitVec.toNat))

/-- CHALLENGE: the chain's digest, a nonce of the island, and the signature over them with the requester's nonce. -/
def execChallenge (slot : Fin 16) (nonce : BitVec 256) (s : State) : Host.Outcome State Fault Refusal :=
  .next (
    if !endpointUp s then s
    else if slot.val ≠ 0 then spdmError s 0x01
    else
      let (n, s) := drawRandom s
      let d := Config.sha384 (chainBytes s)
      let r := Config.randomBits n % 2 ^ 256
      spdmAnswer s [0x03, d, r, aliasSign s (leBytes 32 nonce.toNat ++ leBytes 48 d ++ leBytes 32 r)])

/-- GET_MEASUREMENTS: index 0 asks how many, 255 for all, 1-5 for one; one snapshot (R642). -/
def execGetMeasurements (index : Fin 256) (signed : Bool) (nonce : BitVec 256) (s : State) :
    Host.Outcome State Fault Refusal :=
  .next (
    if !endpointUp s then s
    else
      let i := index.val
      if 5 < i ∧ i ≠ 255 then spdmError s 0x01
      else
        let ms := if i = 0 then [5] else if i = 255 then [1, 2, 3, 4, 5].map (measurement s) else [measurement s i]
        if signed then
          let (n, s) := drawRandom s
          let r := Config.randomBits n % 2 ^ 256
          spdmAnswer s (0x60 :: ms ++ [r, aliasSign s (leBytes 32 nonce.toNat ++ ms.flatMap (leBytes 48) ++ leBytes 32 r)])
        else spdmAnswer s (0x60 :: ms))

/-- SPDM_UNSUPPORTED: ERROR UnsupportedRequest. -/
def execSpdmUnsupported (code : Fin 256) (s : State) : Host.Outcome State Fault Refusal :=
  .next (if endpointUp s then spdmAnswer s [0x7F, 0x07, code] else s)

end Sys2Proof.Machine
end

