-- ==== Sys2Proof/Machine/Stores.lean ====
section
/-!
DEFINITION. Writes to the Tumbler stores (04 R193-R195) and the micro-program slots (05 R218-R220) through a cluster
window.
-/
namespace Sys2Proof.Machine

open Sys2Proof

/-! ### Selection and staging -/

/-- A write to a register of a cluster window. -/
def pfOnly (fn : Fin 64) (off : Nat) (s : State) (f : State → State) : Host.Outcome State Fault Refusal :=
  .next (pfWrite s off fn f)

/-- A write of CLU_TBL_SEL: CORE values above 191 are reserved and leave the field (00 R33). -/
def tblSel (s : State) (k v : Nat) : State :=
  let s := if natBits v 0 8 ≤ 191 then setF s (fCLU_TBL_SEL_CORE k) (natBits v 0 8) else s
  let s := setF s (fCLU_TBL_SEL_BCAST k) (natBits v 8 1)
  modCluster s k (fun c => { c with staging := none })

/-- CLU_TBL_SEL_WRITE. -/
def execCluTblSelWrite (fn : Fin 64) (cluster : Fin 512) (value : Word) (s : State) : Host.Outcome State Fault Refusal :=
  pfOnly fn (rCLU_TBL_SEL cluster) s (fun s => tblSel s cluster value.toNat)

/-- The cores whose stores a write to CLU_TBL_CORE names. -/
def tblCores (s : State) (k : Nat) : List Nat :=
  if bitF s (fCLU_TBL_SEL_BCAST k) then (List.range 192).map (fun i => k * 192 + i)
  else [k * 192 + getF s (fCLU_TBL_SEL_CORE k)]

/-- Writes to a store are accepted now (R195). -/
def storeOpen (s : State) (k : Nat) (clus : Bool) : Bool :=
  debugOpen s && (if clus then clusterIdle s k else (tblCores s k).all (fun c => (getCore s c).allIdle))

/-- A write that R195 discards. -/
def storeDiscard (s : State) (k off : Nat) : State := errWindowClosed (raiseF s (fCLU_TBL_STAT_DISCARDED k)) off 0

/-- The BAR0 offset of a half of an entry. -/
def entryOff (k : Nat) (clus high : Bool) (i : Nat) : Nat :=
  (if clus then rCLU_TBL_CLUSTER k (2 * i) else rCLU_TBL_CORE k (2 * i)) + 8 * bit high

/-- A low-half write. -/
def entryLow (s : State) (k : Nat) (clus : Bool) (i : Nat) (v : Word) : State :=
  if !storeOpen s k clus then storeDiscard s k (entryOff k clus false i)
  else
    let core := if clus then 0 else getF s (fCLU_TBL_SEL_CORE k)
    let bc := if clus then false else bitF s (fCLU_TBL_SEL_BCAST k)
    modCluster s k (fun c => { c with staging := some ⟨v, clus, i, core, bc⟩ })

/-- Store an entry and make its slots whole. -/
def putEntry (s : State) (k : Nat) (clus : Bool) (i : Nat) (e : Entry) : State :=
  if clus then
    let s := { s with comp := { s.comp with clusterStore := tabSet s.comp.clusterStore (k * 1024 + i) e } }
    modCluster s k (fun c => { c with poisonedStore := nsErase c.poisonedStore (storeSlot 0 (1024 + i)) })
  else
    (tblCores s k).foldl (fun s c =>
      let s := { s with comp := { s.comp with coreStore := tabSet s.comp.coreStore (c * 1024 + i) e } }
      modCluster s k (fun x => { x with poisonedStore := nsErase x.poisonedStore (storeSlot (indexOfCore c) i) })) s

/-- A high-half write (R194). DESIGN CHOICE (log entry 151): a refused BCAST write records the CORE field of CLU_TBL_SEL as
REF_CORE, of which the spec says nothing. -/
def entryHigh (s : State) (k : Nat) (clus : Bool) (i : Nat) (v : Word) : State :=
  if !storeOpen s k clus then storeDiscard s k (entryOff k clus true i)
  else
    let core := if clus then 0 else getF s (fCLU_TBL_SEL_CORE k)
    let bc := if clus then false else bitF s (fCLU_TBL_SEL_BCAST k)
    match (getCluster s k).staging with
    | none => raiseF s (fCLU_TBL_STAT_TORN k)
    | some g =>
      if g.cluster ≠ clus ∨ g.index ≠ i ∨ g.core ≠ core ∨ g.bcast ≠ bc then raiseF s (fCLU_TBL_STAT_TORN k)
      else
        let e : Entry := v ++ g.low
        let s := modCluster s k (fun c => { c with staging := none })
        if entryOk (isPavilion k) e then putEntry s k clus i e
        else
          let s := raiseF s (fCLU_TBL_STAT_REFUSED k)
          setF (setF s (fCLU_TBL_STAT_REF_POS k) (if clus then 1024 + i else i)) (fCLU_TBL_STAT_REF_CORE k) core

/-- STORE_ENTRY_LOW_WRITE: to the cluster store, or the selected core store. -/
def execStoreEntryLowWrite (fn : Fin 64) (cluster : Fin 512) (clus : Bool) (index : Fin 1024) (value : Word) (s : State) :
    Host.Outcome State Fault Refusal :=
  pfOnly fn (entryOff cluster clus false index) s (fun s => entryLow s cluster clus index value)

/-- STORE_ENTRY_HIGH_WRITE. -/
def execStoreEntryHighWrite (fn : Fin 64) (cluster : Fin 512) (clus : Bool) (index : Fin 1024) (value : Word) (s : State) :
    Host.Outcome State Fault Refusal :=
  pfOnly fn (entryOff cluster clus true index) s (fun s => entryHigh s cluster clus index value)

/-! ### Micro-program slots -/

/-- Writes to CLU_LUS_PROG and CLU_LUS_CMD are accepted now (R220). -/
def lusOpen (s : State) (k : Nat) : Bool := debugOpen s && clusterIdle s k

def lusDiscard (s : State) (k off : Nat) : State := errWindowClosed (raiseF s (fCLU_LUS_STAT_DISCARDED k)) off 0

/-- Set or clear a slot's VALID bit. -/
def setSlotValid (s : State) (k slot : Nat) (b : Bool) : State :=
  setF s (fCLU_LUS_STAT_VALID k) (natSetBits (getF s (fCLU_LUS_STAT_VALID k)) slot 1 (bit b))

/-- The 64 micro-ops of a slot. -/
def slotWords (s : State) (k slot : Nat) : List Nat :=
  let l := tabGet [] (getCluster s k).slots slot
  l ++ List.replicate (64 - l.length) 0

/-- A write of CLU_LUS_PROG. -/
def lusProg (s : State) (k i : Nat) (v : Word) : State :=
  if !lusOpen s k then lusDiscard s k (rCLU_LUS_PROG k i)
  else
    let slot := getF s (fCLU_LUS_SEL_SLOT k)
    let l := (slotWords s k slot).set i v.toNat
    let s := modCluster s k (fun c => { c with
      slots := tabSet c.slots slot l
      poisonedStore := nsErase c.poisonedStore (193 * 1024 + slot * 64 + i) })
    setSlotValid s k slot false

/-- CLU_LUS_PROG_WRITE. -/
def execCluLusProgWrite (fn : Fin 64) (cluster : Fin 512) (index : Fin 64) (value : Word) (s : State) :
    Host.Outcome State Fault Refusal :=
  pfOnly fn (rCLU_LUS_PROG cluster index) s (fun s => lusProg s cluster index value)

/-- COMMIT: the checks of R218. -/
def lusCommit (s : State) (k : Nat) : State :=
  let slot := getF s (fCLU_LUS_SEL_SLOT k)
  match slotFault (slotWords s k slot) with
  | none => setSlotValid s k slot true
  | some i =>
    let s := raiseF (setSlotValid s k slot false) (fCLU_LUS_STAT_REFUSED k)
    setF (setF s (fCLU_LUS_STAT_REF_INDEX k) i) (fCLU_LUS_STAT_REF_SLOT k) slot

/-- A write of CLU_LUS_CMD: both bits set are a reserved encoding and change nothing (R33). -/
def lusCmd (s : State) (k v : Nat) : State :=
  if !lusOpen s k then lusDiscard s k (rCLU_LUS_CMD k)
  else if natBits v 0 2 = 1 then lusCommit s k
  else if natBits v 0 2 = 2 then setSlotValid s k (getF s (fCLU_LUS_SEL_SLOT k)) false
  else s

/-- LUSTRE_SLOT_COMMIT: CLU_LUS_CMD written with COMMIT alone. -/
def execLustreSlotCommit (fn : Fin 64) (cluster : Fin 512) (s : State) : Host.Outcome State Fault Refusal :=
  pfOnly fn (rCLU_LUS_CMD cluster) s (fun s => lusCmd s cluster 1)

/-- LUSTRE_SLOT_INVALIDATE: CLU_LUS_CMD written with INVALIDATE alone. -/
def execLustreSlotInvalidate (fn : Fin 64) (cluster : Fin 512) (s : State) : Host.Outcome State Fault Refusal :=
  pfOnly fn (rCLU_LUS_CMD cluster) s (fun s => lusCmd s cluster 2)

end Sys2Proof.Machine
end

