-- ==== Sys2Proof/Machine/Router.lean ====
section
/-!
DEFINITION. The expert router (spec 08): selection (R310-R313), dispatch groups, capacity and outcomes (R314-R321),
returns and combines (R322-R325), gathers and embedding bags (R326-R328).
-/
namespace Sys2Proof.Machine

open Sys2Proof

/-! ### Layer descriptors (Table 08-1) -/

def lyE (r : Nat) : Nat := natBits r 0 10 + 1
def lyK (r : Nat) : Nat := natBits r 10 4 + 1
def lyCF (r : Nat) : Nat := natBits r 14 7
def lyH (r : Nat) : Nat := natBits r 21 14
def lyAFMT (r : Nat) : Nat := natBits r 35 4
def lyOFMT (r : Nat) : Nat := natBits r 39 4
def lyValid (r : Nat) : Bool := natBits r 43 1 == 1

/-- RB: the bytes of an activation row. -/
def rowSize (r : Nat) : Nat :=
  let sc := if isMxCode (lyAFMT r) then lyH r / 32 else 0
  roundUp (lyH r * widthOfCode (lyAFMT r) / 8 + sc) 64

/-- The router engine of a core's die (Table 08-3). -/
def engineOfCore (c : Nat) : Nat := engineOfDie (dieOfCluster (clusterOfCore c))

/-- Set an engine's sticky flags (R325). -/
def raiseEngineFlags (s : State) (eng : Nat) (f : FlagSet) : State :=
  if f = flNone then s
  else
    let r := rXRT_ENG_FLAGS eng
    setReg s r (getReg s r ||| BitVec.ofNat 64 f.toNat)

/-- The counters of an engine (20 Table 20-1; the ids within the group are the model's, log entry 70). -/
def countEngine (s : State) (eng k : Nat) : State := count s (0x0300 + 0x40 * eng + k) 1

/-! ### Accesses of router entries -/

/-- The spaces that router entries name. -/
def spLocalDv : List Nat := [spLOCAL, spDV]

/-- The faults of `n` rows of `bytes` bytes from an address on, `stride` apart. -/
def rowsFaults (c : Nat) (spaces : List Nat) (a : Word) (n stride bytes al : Nat) : List CoreFault :=
  if bytes = 0 then []
  else (List.range n).flatMap (fun j => accessFaults (sramSize c) spaces (plusBytes a (j * stride)) bytes al)

/-- A strand under a CONTEXT, on whose behalf a router engine acts. -/
structure Behalf where
  core   : Nat
  strand : Nat
  ctx    : Nat
  deriving DecidableEq, Repr

/-- The strand that issues an entry. -/
def behalf (s : State) (c i : Nat) : Behalf := ⟨c, i, ctxOf s c i⟩

/-- The strand that issued an XDISPATCH. -/
def Dispatch.behalf (d : Dispatch) : Behalf := ⟨d.core, d.strand, d.ctx⟩

/-- Bytes at a LOCAL or DEVICE_VIRTUAL address. -/
def Behalf.get (b : Behalf) (s : State) (a : Word) (n : Nat) : List Byte :=
  if aSPACE a = spDV then strandBytes s b.core b.strand b.ctx (aADDR a) n else memBytes s.comp.sram (sramKey b.core (aADDR a)) n

def Behalf.put (b : Behalf) (s : State) (a : Word) (bs : List Byte) : State :=
  if aSPACE a = spDV then strandPut s b.core b.strand b.ctx (aADDR a) bs else sramStoreBytes s b.core (aADDR a) bs

/-- Translation of a range; a local one needs none. -/
def Behalf.xlat (b : Behalf) (s : State) (need : Need) (a : Word) (n : Nat) : Xlat :=
  if n = 0 then .ok else dmaXlat s b.core b.strand b.ctx need a n

/-- The traffic of a range for an operation: what it waits for. -/
def Behalf.traffic (b : Behalf) (op : Nat) (need : Need) (acc : Nat × State) (x : Word × List Byte × Nat) : Nat × State :=
  if aSPACE x.1 = spDV ∧ x.2.2 ≠ 0 then
    let r := (DvAccess.mk b.core b.strand op b.ctx need (aADDR x.1) x.2.2 false x.2.1 0 .none).dispatch acc.2
    (acc.1 + r.1, r.2)
  else acc

/-- Pages of a range are held for a migration. -/
def Behalf.held (b : Behalf) (s : State) (need : Need) (a : Word) (n : Nat) : Bool :=
  strandHeld s b.core b.strand b.ctx need a n

def getAt (s : State) (c i : Nat) (a : Word) (n : Nat) : List Byte := (behalf s c i).get s a n

def putAt (s : State) (c i : Nat) (a : Word) (bs : List Byte) : State := (behalf s c i).put s a bs

def xlatAt (s : State) (c i : Nat) (need : Need) (a : Word) (n : Nat) : Xlat := (behalf s c i).xlat s need a n

def trafficAt (c i op : Nat) (need : Need) (acc : Nat × State) (x : Word × List Byte × Nat) : Nat × State :=
  (behalf acc.2 c i).traffic op need acc x

def heldAt (s : State) (c i : Nat) (need : Need) (a : Word) (n : Nat) : Bool := (behalf s c i).held s need a n

/-- A router engine's Gateway die is lost (01 R46): it does nothing any more. -/
def engineLost (s : State) (eng : Nat) : Bool := s.fault.lostGw.contains eng

/-- A router engine reads a range: a poisoned granule or word is the fault of the package (18 R609). -/
def Behalf.consume (b : Behalf) (s : State) (a : Word) (n : Nat) : State :=
  if n = 0 then s
  else if aSPACE a = spDV then
    if (launchMaps s b.core b.strand .read (aADDR a) n).isSome then s
    else
      match virtHbmPoison s b.ctx (aADDR a) n with
      | some x => hbmFault s x
      | none => s
  else if sramPoisoned s b.core (aADDR a) n then sramFault s b.core b.strand (aADDR a)
  else s

def consumeAt (s : State) (c i : Nat) (a : Word) (n : Nat) : State := (behalf s c i).consume s a n

/-- An engine's write for a strand: translated anew, and refused without effect (log entry 167). -/
def Behalf.write (b : Behalf) (s : State) (a : Word) (bs : List Byte) : State :=
  match b.xlat s .write a bs.length with
  | .ok => b.put s a bs
  | x => noteRefusal s x

/-- An engine's write for a strand, with its traffic. -/
def Behalf.store (b : Behalf) (op : Nat) (s : State) (a : Word) (bs : List Byte) : State :=
  (b.traffic op .write (0, b.write s a bs) (a, bs, bs.length)).2

/-- A core's own read of local SRAM meets a poisoned word. -/
def localPoison (s : State) (c : Nat) (xs : List (Word × Nat)) : Option Nat :=
  (xs.find? (fun x => x.2 != 0 && sramPoisoned s c (aADDR x.1) x.2)).map (fun x => aADDR x.1)

/-- Raise the fault of a poisoned local read, if any. -/
def raisePoison (s : State) (c i : Nat) (p : Option Nat) : State :=
  match p with
  | some a => poisonedRead s c i c a
  | none => s

/-! ### XSELECT (R310-R313) -/

def xselCount (s : State) (c i : Nat) (e : Entry) : Nat := (getS s c i (fld e 47 4)).toNat

def xselectFaults (c i : Nat) (s : State) (e : Entry) : List CoreFault :=
  let n := xselCount s c i e
  let r := layerRec s (fld e 51 8)
  if !lyValid r || decide (4096 < n) then [.entryReserved]
  else
    rowsFaults c [spLOCAL] (getA s c i (fld e 36 3)) n (fld e 59 16) (4 * lyE r) 4 ++
      (if n = 0 then [] else rowsFaults c [spLOCAL] (getA s c i (fld e 39 3)) 1 0 (8 * lyK r * n) 8 ++
        (if flag e 45 then rowsFaults c [spLOCAL] (getA s c i (fld e 42 3)) 1 0 (4 * lyE r) 4 else []))

/-- The exact sum of finite FP32 values, as an integer and an exponent. -/
def exactSum (vs : List FVal) : Int × Int :=
  vs.foldl (fun (a : Int × Int) v =>
    match v with
    | .fin neg m e =>
      let q := min a.2 e
      (a.1 * (2 ^ (a.2 - q).toNat : Nat) + signedMant neg (m * 2 ^ (e - q).toNat), q)
    | _ => a) (0, 0)

/-- A weight divided by the exact sum (R312). -/
def normWeight (sum : Int × Int) (w : Nat) : Nat × FlagSet :=
  match dec32 w with
  | .fin neg m e => round32 (quotVal (neg != decide (sum.1 < 0)) m sum.1.natAbs (e - sum.2))
  | _ => (w, flNone)

/-- A token's selection: the K (weight, expert) pairs in rank order, or `none` for a NaN token; and the flags. -/
def selectToken (k : Nat) (bias : Option (List Nat)) (norm : Bool) (scores : List Nat) : Option (List (Nat × Nat)) × FlagSet :=
  let ranked := scores.zipIdx.map (fun p => match bias with
    | some b => (add32 p.1 (b.getD p.2 0), p.1, p.2)
    | none => ((p.1, flNone), p.1, p.2))
  let fl := ranked.foldl (fun (f : FlagSet) x => f ||| x.1.2) flNone
  if scores.any (fun x => (dec32 x).isNan) || ranked.any (fun x => (dec32 x.1.1).isNan) then (none, fl)
  else
    let best := (sortBy (fun (x y : (Nat × FlagSet) × Nat × Nat) => ltVal (dec32 y.1.1) (dec32 x.1.1)) ranked).take k
    let sel := best.map Prod.snd
    if !norm then (some sel, fl)
    else if sel.any (fun x => (dec32 x.1).isInf) then (none, fl ||| flInvalid)
    else
      let sum := exactSum (sel.map (fun x => dec32 x.1))
      if sum.1 = 0 then (some sel, fl)
      else
        let out := sel.map (fun x => (normWeight sum x.1, x.2))
        (some (out.map (fun x => (x.1.1, x.2))), out.foldl (fun f x => f ||| x.1.2) fl)

/-- The records of a token: a selection, or a NaN token whose WEIGHT and EXPERT the spec leaves open. -/
def selectionSlots (s : State) (k : Nat) (sel : Option (List (Nat × Nat))) : List Nat × State :=
  match sel with
  | some l => (l.map (fun x => x.1 + x.2 % 1024 * 2 ^ 32 + 2 ^ 42), s)
  | none =>
    ((List.range k).map (fun j => Config.freeNat (s.fresh + j) % 2 ^ 42 + 2 ^ 44), { s with fresh := s.fresh + k })

/-- One token of XSELECT. -/
def xselectToken (c i : Nat) (e : Entry) (bias : Option (List Nat)) (s : State) (t : Nat) : State :=
  let r := layerRec s (fld e 51 8)
  let a := aADDR (plusBytes (getA s c i (fld e 36 3)) (t * fld e 59 16))
  let (sel, fl) := selectToken (lyK r) bias (flag e 46) ((List.range (lyE r)).map (fun q => sramLoad s c (a + 4 * q) 4))
  let (ws, s) := selectionSlots s (lyK r) sel
  raiseCoreFlags (sramStoreBytes s c (aADDR (plusBytes (getA s c i (fld e 39 3)) (8 * lyK r * t))) (ws.flatMap (leBytes 8))) c fl

def xselectBody (c i : Nat) (e : Entry) (s : State) : State :=
  let n := xselCount s c i e
  let r := layerRec s (fld e 51 8)
  let b := getA s c i (fld e 42 3)
  let bias := if flag e 45 then some ((List.range (lyE r)).map (fun q => sramLoad s c (aADDR b + 4 * q) 4)) else none
  let bad := if n = 0 then none else localPoison s c ((if flag e 45 then [(b, 4 * lyE r)] else []) ++
    (List.range n).map (fun t => (plusBytes (getA s c i (fld e 36 3)) (t * fld e 59 16), 4 * lyE r)))
  raisePoison (issueDone ((List.range n).foldl (xselectToken c i e bias) s) c i e) c i bad

/-- XSELECT. -/
def execXselect (core : Fin 98304) (strand : Fin 4) (s : State) : Host.Outcome State Fault Refusal :=
  .next (runEntry 0x70 (xselectFaults core strand) notShort notShort (xselectBody core strand) core strand s)

/-! ### XDISPATCH (R314, R318) -/

def xdCount (s : State) (c i : Nat) (e : Entry) : Nat := (getS s c i (fld e 51 4)).toNat

def xdLayer (e : Entry) : Nat := fld e 55 8

/-- The step of the launch that a core runs. -/
def stepOfCore (s : State) (c : Nat) : Nat := ((getCore s c).launch.map Launch.step).getD 0

/-- Token counts above 4,096 are outside SN's range (Table 08-6; the fault is XSELECT's by analogy, log entry 87). -/
def xdispatchFaults (c i : Nat) (s : State) (e : Entry) : List CoreFault :=
  let n := xdCount s c i e
  let r := layerRec s (xdLayer e)
  if !lyValid r || decide (4096 < n) then [.entryReserved]
  else if n = 0 then []
  else
    rowsFaults c [spLOCAL] (getA s c i (fld e 36 3)) 1 0 (8 * lyK r * n) 8 ++
      rowsFaults c [spLOCAL] (getA s c i (fld e 39 3)) 1 0 (8 * n) 8 ++
      rowsFaults c [spDV] (getA s c i (fld e 42 3)) 1 0 (n * rowSize r) 64 ++
      rowsFaults c spLocalDv (getA s c i (fld e 45 3)) n (fld e 73 16) (16 * lyH r) 16 ++
      rowsFaults c [spDV] (getA s c i (fld e 48 3)) 1 0 (2 * n) 2

/-- The pages that an XDISPATCH touches at issue are held (11 R409). -/
def xdispatchHeld (c i : Nat) (s : State) (e : Entry) : Bool :=
  let n := xdCount s c i e
  heldAt s c i .write (getA s c i (fld e 48 3)) (2 * n) ||
    (List.range n).any (fun t => heldAt s c i .write (plusBytes (getA s c i (fld e 45 3)) (t * fld e 73 16)) (16 * lyH (layerRec s (xdLayer e))))

/-- A ninth group, or a second group of an open layer, finds the engine busy; a lost engine stays so. -/
def xdispatchBusy (c i : Nat) (s : State) (e : Entry) : Bool :=
  let src := (getEngine s (engineOfCore c)).src
  engineLost s (engineOfCore c) || xdispatchHeld c i s e ||
    match src.find? (fun g => g.layer == xdLayer e) with
    | some g => g.closed || g.step != stepOfCore s c
    | none => decide (8 ≤ src.length)

/-- The selection slot `j` of token `t`. -/
def selSlot (s : State) (c k : Nat) (sel : Word) (t j : Nat) : Nat := sramLoad s c (aADDR (plusBytes sel (8 * (k * t + j)))) 8

/-- Add an addend to each of a token's cells. -/
def addCells (s : State) (d : Dispatch) (t : Nat) (xs : List FVal) : State :=
  let a := plusBytes d.cells (t * d.cstride)
  let bs := d.behalf.get s a (16 * xs.length)
  let s := d.behalf.consume s a (16 * xs.length)
  d.behalf.store d.op s a (cellBytes (xs.zipIdx.map (fun p => cellAdd d.anchor (leNat ((bs.drop (16 * p.2)).take 16)) p.1)))

/-- Write a token's drop mask. -/
def putMask (s : State) (d : Dispatch) (t : Nat) : State :=
  let m := (d.slots.filter (fun x => x.token == t && x.dropped)).foldl (fun a x => a + 2 ^ x.slot) 0
  d.behalf.store d.op s (plusBytes d.drop (2 * t)) (leBytes 2 m)

/-- The claims of a token's valid slots. -/
def tokenClaims (s : State) (d : Dispatch) (ids : Word) (t : Nat) : List SlotState :=
  let id := sramLoad s d.core (aADDR (plusBytes ids (8 * t))) 8
  (List.range d.k).filterMap (fun j =>
    let w := selSlot s d.core d.k d.sel t j
    if natBits w 42 1 = 1 then
      some ⟨0, t, j, natBits w 32 10, natBits w 0 32, natBits id 0 16, natBits id 16 24, false, false, false⟩
    else none)

def nanToken (s : State) (d : Dispatch) (t : Nat) : Bool :=
  (List.range d.k).any (fun j => natBits (selSlot s d.core d.k d.sel t j) 44 1 == 1)

/-- Send a claim to the owner engine of its expert. -/
def sendClaim (s : State) (eng step layer : Nat) (x : SlotState) : State :=
  let o := expertOwner s layer x.expert
  sendMsg (countEngine s eng 0) .claim o.1
    [o.2, step, layer, ownPkg s, eng, x.order, x.expert, x.weight, x.ward, x.pos]

/-- Every granted slot has been applied. -/
def Dispatch.complete (d : Dispatch) : Bool := d.slots.all (fun x => x.decided && (x.dropped || x.applied))

/-- Translation of everything that an XDISPATCH will touch. -/
def xdXlat (s : State) (d : Dispatch) (r : Nat) : Xlat :=
  firstBad ([xlatAt s d.core d.strand .read d.act (d.tokens * rowSize r), xlatAt s d.core d.strand .write d.drop (2 * d.tokens)] ++
    (List.range d.tokens).map (fun t => xlatAt s d.core d.strand .write (plusBytes d.cells (t * d.cstride)) (16 * lyH r)))

def xdispatchBody (c i : Nat) (e : Entry) (s : State) : State :=
  let eng := engineOfCore c
  let layer := xdLayer e
  let step := stepOfCore s c
  let r := layerRec s layer
  let n := xdCount s c i e
  let ids := getA s c i (fld e 39 3)
  let d : Dispatch := ⟨c, nextId s c, i, ctxOf s c i, n, lyK r, getA s c i (fld e 36 3), getA s c i (fld e 42 3), getA s c i (fld e 45 3),
    getA s c i (fld e 48 3), fld e 73 16, sfld e 63 10, false, []⟩
  let bad := if n = 0 then none else localPoison s c [(d.sel, 8 * d.k * n), (ids, 8 * n)]
  let k := step * 256 + layer
  let expected (s : State) : State :=
    let left := tabGet 0 (getEngine s eng).expected k - 1
    let s := modCore s c (fun y => { y with launch := y.launch.map (fun l => { l with disp := tabMod 0 l.disp layer (· - 1) }) })
    sealDue (modEngine s eng (fun x => { x with expected := tabSet x.expected k left })) eng [k]
  match xdXlat s d r with
  | .ok =>
    let nans := (List.range n).filter (nanToken s d)
    let real := (List.range n).filter (fun t => !nanToken s d t)
    let first := (getEngine s eng).order
    let slots := (real.flatMap (tokenClaims s d ids)).zipIdx.map (fun p => { p.1 with order := first + p.2 })
    let d := { d with slots := slots }
    let d := { d with ended := d.complete }
    let s := nans.foldl (fun s t => addCells s d t (List.replicate (lyH r) FVal.nan)) s
    let s := ((List.range n).filter (fun t => !slots.any (fun x => x.token == t))).foldl (fun s t => putMask s d t) s
    let s := slots.foldl (fun s x => sendClaim s eng step layer x) s
    let s := modEngine s eng (fun x =>
      let x := { x with order := first + slots.length }
      if x.src.any (fun g => g.layer == layer) then
        { x with src := x.src.map (fun g => if g.layer = layer then { g with disps := g.disps ++ [d] } else g) }
      else { x with src := x.src ++ [⟨step, layer, false, [d]⟩] })
    let s := issueOp s c i e none 0 false (if d.ended then .done else .engine)
    raisePoison (expected s) c i bad
  | x => expected (issueOp (noteRefusal s x) c i e none 0 false .refused)

/-- XDISPATCH. -/
def execXdispatch (core : Fin 98304) (strand : Fin 4) (s : State) : Host.Outcome State Fault Refusal :=
  .next (runEntry 0x71 (xdispatchFaults core strand) notShort (xdispatchBusy core strand) (xdispatchBody core strand) core strand s)

/-! ### Owner engines: claims, seals and decisions (R315, R316) -/

/-- The undecided group of a step's layer, or a new one. -/
def ownGroup (e : Engine) (step layer : Nat) : OwnGroup :=
  (e.own.find? (fun g => g.step == step && g.layer == layer)).getD ⟨step, layer, [], [], false, 0, []⟩

def putOwn (e : Engine) (g : OwnGroup) : Engine :=
  { e with own := e.own.filter (fun x => x.step != g.step || x.layer != g.layer) ++ [g] }

/-- Claims beyond a seal's count: an uncorrectable fault. -/
def protoFault (s : State) (eng pkg : Nat) : State :=
  let s := setF (raiseF s (fXRT_ENG_ERR_PROTO eng)) (fXRT_ENG_ERR_LAST_PKG eng) pkg
  declareFault s 0x000A (FaultAt.package pkg)

/-- Claims of a source in a group. -/
def claimsOf (g : OwnGroup) (pkg eng : Nat) : Nat := (g.claims.filter (fun x => x.pkg == pkg && x.engine == eng)).length

def sealOf (g : OwnGroup) (pkg eng : Nat) : Option Seal := g.seals.find? (fun x => x.pkg == pkg && x.engine == eng)

/-- CLAIM (R315): a claim of a step's layer arrives at an engine. -/
def execClaim (engine : Fin 4) (step : Nat) (layer : Fin 256) (claim : Claim) (s : State) : Host.Outcome State Fault Refusal :=
  .next (
    let g := ownGroup (getEngine s engine) step layer
    if engineLost s engine || !lyValid (layerRec s layer) || expertOwner s layer claim.expert != (ownPkg s, engine.val) then s
    else if g.decided || (sealOf g claim.pkg claim.engine).any (fun x => decide (x.claims ≤ claimsOf g claim.pkg claim.engine)) then
      protoFault s engine claim.pkg
    else modEngine s engine (fun e => putOwn e { g with claims := g.claims ++ [claim] }))

/-- SEAL (R315). -/
def execSeal (engine : Fin 4) (step : Nat) (layer : Fin 256) (share : Seal) (s : State) : Host.Outcome State Fault Refusal :=
  .next (
    let g := ownGroup (getEngine s engine) step layer
    if engineLost s engine || g.decided || (sealOf g share.pkg share.engine).isSome then s
    else
      let s := modEngine s engine (fun e => putOwn e { g with seals := g.seals ++ [share] })
      if share.claims < claimsOf g share.pkg share.engine then protoFault s engine share.pkg else s)

/-- A group may be decided: a seal from every engine of the partition, and every claim that the seals state. -/
def decidable (s : State) (g : OwnGroup) : Bool :=
  (members s).all (fun m => (List.range 4).all (fun q =>
    match sealOf g m q with
    | some x => claimsOf g m q == x.claims
    | none => false))

/-- C_e (R316). -/
def capacity (r bufRows t : Nat) : Nat := min bufRows ((lyCF r * t * lyK r + 16 * lyE r - 1) / (16 * lyE r))

/-- The order of identities, then of sources (R316, R319). -/
def identityLt (a b : Claim) : Bool :=
  let key (c : Claim) : List Nat := [c.ward, c.pos, c.pkg, c.engine, c.order]
  (key a).zip (key b) |>.foldr (fun p lt => decide (p.1 < p.2) || (p.1 == p.2 && lt)) false

/-- The order in which claims are granted. -/
def grantLt (a b : Claim) : Bool :=
  ltVal (dec32 b.weight) (dec32 a.weight) || (!ltVal (dec32 a.weight) (dec32 b.weight) && identityLt a b)

/-- Lower an expert's latch on each of its clusters (R320). DESIGN CHOICE (log entry 145): a latch at zero is recorded under
CORE 0xFF and SYS, which the spec says of a fabric NOTIFY and a cluster DMA request only (R137). -/
def lowerExpert (s : State) (m : Nat) : State :=
  (List.range (natBits m 30 5 + 1)).foldl (fun s j =>
    let k := natBits m 16 4 * 32 + natBits m 20 5 + j
    let n := natBits m 25 5
    if tabGet 0 (getCluster s k).clatch n = 0 then latchUnderflow s k true n 0xFF ctxSYS
    else modCluster s k (fun c => { c with clatch := tabMod 0 c.clatch n (· - 1) })) s

/-- The expert buffer's header and the zero rows after the granted ones (R319). -/
def writeHeader (s : State) (m r step layer t cap rows : Nat) : State :=
  let buf := natBits m 64 57
  let h := rows + t % 2 ^ 32 * 2 ^ 32 + cap % 2 ^ 24 * 2 ^ 64 + layer * 2 ^ 88 + step % 2 ^ 32 * 2 ^ 96
  let s := engineWrite s .router ctxSYS buf (leBytes 64 h)
  engineWrite s .router ctxSYS (buf + 64 + rows * rowSize r) (List.replicate ((roundUp rows 4 - rows) * rowSize r) 0#8)

/-- Decide one expert: its outcomes are sent and its buffer begun. -/
def decideExpert (eng step layer r t : Nat) (claims : List Claim) (acc : List Granted × State) (x : Nat) :
    List Granted × State :=
  let (gs, s) := acc
  let m := mapEntry s layer x
  if expertOwner s layer x != (ownPkg s, eng) then acc
  else
    let cs := claims.filter (fun c => c.expert == x)
    let cap := capacity r (natBits m 40 24) t
    let won := (if cs.length ≤ cap then cs else (sortBy grantLt cs).take cap)
    let s := cs.foldl (fun s c =>
      sendMsg (countEngine s eng (if won.contains c then 1 else 2)) .outcome c.pkg [c.engine, c.order, bit (won.contains c)]) s
    let won := sortBy identityLt won
    let s := writeHeader s m r step layer t cap won.length
    let s := if won = [] then lowerExpert s m else s
    (gs ++ [⟨x, won, [], won == []⟩], s)

/-- GROUP_DECIDE (R316): the group of a step's layer at an engine. -/
def execGroupDecide (engine : Fin 4) (step : Nat) (layer : Fin 256) (s : State) : Host.Outcome State Fault Refusal :=
  .next (
    let g := ownGroup (getEngine s engine) step layer
    let r := layerRec s layer
    if engineLost s engine || g.decided || !lyValid r || !decidable s g then s
    else
      let t := (g.seals.map Seal.tokens).sum
      let (gs, s) := (List.range (lyE r)).foldl (decideExpert engine step layer r t g.claims) ([], s)
      let s := setF (setF s (fXRT_ENG_STAT_LAST_LAYER engine) layer) (fXRT_ENG_STAT_LAST_STEP engine) step
      modEngine s engine (fun e =>
        putOwn { e with own := e.own.filter (fun o => !o.decided || o.layer != layer.val) }
          { g with decided := true, total := t, grants := gs }))

/-! ### Source engines: outcomes (R317) -/

/-- Change the slot of a claim; a dispatch whose last slot is settled ends, and with the last one its sealed group. -/
def settle (s : State) (eng order : Nat) (f : SlotState → SlotState) : State :=
  match openClaim (getEngine s eng) order with
  | none => s
  | some (g, d, _) =>
    let d' := { d with slots := d.slots.map (fun (x : SlotState) => if x.order = order then f x else x) }
    let d' := { d' with ended := d'.complete }
    let g' := { g with disps := g.disps.map (fun y => if y.core = d.core ∧ y.op = d.op then d' else y) }
    let allDone := g'.closed && g'.disps.all Dispatch.ended
    let s := modEngine s eng (fun e => { e with
      src := e.src.filterMap (fun y => if y.layer = g.layer then (if allDone then none else some g') else some y)
      past := if allDone then e.past.filter (fun y => y.layer != g.layer) ++ [g'] else e.past })
    if d'.ended && !d.ended then modOp s d.core d.op (fun o => if o.phase = .engine then { o with phase := .done } else o) else s

/-- The activation row of a slot. -/
def rowAddr (s : State) (g : SrcGroup) (d : Dispatch) (x : SlotState) : Word :=
  plusBytes d.act (x.token * rowSize (layerRec s g.layer))

/-- Send the activation row of a granted claim; a read that translation refuses by now sends nothing. -/
def sendRow (s : State) (eng : Nat) (g : SrcGroup) (d : Dispatch) (x : SlotState) : State :=
  let n := rowSize (layerRec s g.layer)
  let a := rowAddr s g d x
  match d.behalf.xlat s .read a n with
  | .ok =>
    let bs := d.behalf.get s a n
    let s := (d.behalf.traffic d.op .read (0, d.behalf.consume s a n) (a, [], n)).2
    let o := expertOwner s g.layer x.expert
    sendMsg s .row o.1 ([o.2, g.step, g.layer, ownPkg s, eng, x.order] ++ bs.map BitVec.toNat)
  | r => noteRefusal s r

/-- Mark a dropped slot: DROPPED in its record, and a count for its ward index. -/
def dropSlot (s : State) (d : Dispatch) (x : SlotState) : State :=
  let a := aADDR (plusBytes d.sel (8 * (d.k * x.token + x.slot)))
  let s := sramStore s d.core a 8 (natSetBits (sramLoad s d.core a 8) 43 1 1)
  { s with router := { s.router with drops := tabMod 0 s.router.drops x.ward (· + 1) } }

/-- The answer to a claim waits while a page that it touches is held (11 R409). -/
def outcomeHeld (s : State) (g : SrcGroup) (d : Dispatch) (x : SlotState) : Bool :=
  d.behalf.held s .read (rowAddr s g d x) (rowSize (layerRec s g.layer)) || d.behalf.held s .write (plusBytes d.drop (2 * x.token)) 2

/-- CLAIM_OUTCOME (R317): the owner's answer to the claim of number `order`. -/
def execClaimOutcome (engine : Fin 4) (order : Nat) (granted : Bool) (s : State) : Host.Outcome State Fault Refusal :=
  .next (match openClaim (getEngine s engine) order with
  | none => s
  | some (g, d, x) =>
    if x.decided || engineLost s engine || outcomeHeld s g d x then s
    else
      let s := if granted then sendRow s engine g d x else dropSlot s d x
      let d' := { d with slots := d.slots.map (fun (y : SlotState) => if y.order = order then { y with decided := true, dropped := !granted } else y) }
      let s := if (d'.slots.filter (fun y => y.token == x.token)).all SlotState.decided then putMask s d' x.token else s
      settle s engine order (fun y => { y with decided := true, dropped := !granted }))

/-! ### Rows (R319-R323) -/

/-- DISPATCHED_ROW: a granted row arrives at the owner engine and goes to its place in the expert buffer. -/
def execDispatchedRow (engine : Fin 4) (step : Nat) (layer : Fin 256) (pkg : Fin 65536) (src : Fin 4) (order : Nat)
    (data : List Byte) (s : State) : Host.Outcome State Fault Refusal :=
  .next (
    let e := getEngine s engine
    let g := ownGroup e step layer
    let mine (c : Claim) : Bool := c.pkg == pkg.val && c.engine == src.val && c.order == order
    match g.grants.find? (fun x => x.claims.any mine) with
    | none => s
    | some x =>
      let i := x.claims.findIdx mine
      let m := mapEntry s layer x.expert
      let n := rowSize (layerRec s layer)
      let va := natBits m 64 57 + 64 + i * n
      if engineLost s engine || rangeHeld s ctxSYS va n then s
      else
      let s := engineWrite s .router ctxSYS va ((data ++ List.replicate (n - data.length) 0#8).take n)
      let rows := nsInsert x.rows i
      let full := decide (x.claims.length ≤ rows.length)
      let s := if full && !x.ready then lowerExpert s m else s
      modEngine s engine (fun e => putOwn e { g with grants := g.grants.map (fun y =>
        if y.expert = x.expert then { y with rows := rows, ready := full || y.ready } else y) }))

/-- The rows that an XRETURN names: the expert's claims in buffer order. -/
def returnRows (s : State) (c i : Nat) (e : Entry) : Option (Nat × List Claim) :=
  let sx := (getS s c i (fld e 47 4)).toNat
  let layer := natBits sx 10 8
  let x := natBits sx 0 10
  let eng := engineOfCore c
  if expertOwner s layer x != (ownPkg s, eng) then none
  else
    let g := (getEngine s eng).own.find? (fun g => g.decided && g.layer == layer)
    some (layer, ((g.bind (fun g => g.grants.find? (fun y => y.expert == x))).map Granted.claims).getD [])

/-- Bytes of a returned row. -/
def outBytes (r : Nat) : Nat := lyH r * widthOfCode (lyOFMT r) / 8

def xreturnFaults (c i : Nat) (s : State) (e : Entry) : List CoreFault :=
  let r := layerRec s (natBits (getS s c i (fld e 47 4)).toNat 10 8)
  if !lyValid r then [.entryReserved]
  else
    let n := min (getS s c i (fld e 43 4)).toNat (2 ^ 24)
    if n = 0 then []
    else
      -- the first and second rows decide the checks of every row
      accessFaults (sramSize c) [spDV] (getA s c i (fld e 36 3)) (outBytes r) (widthOfCode (lyOFMT r) / 8) ++
        accessFaults (sramSize c) [spDV] (plusBytes (getA s c i (fld e 36 3)) (fld e 51 16)) (outBytes r) (widthOfCode (lyOFMT r) / 8)

/-- Send one output row to the source engine of its claim. -/
def sendReturn (c i : Nat) (e : Entry) (acc : Nat × State) (x : Claim × Nat) : Nat × State :=
  let s := acc.2
  let n := outBytes (layerRec s (natBits (getS s c i (fld e 47 4)).toNat 10 8))
  let a := plusBytes (getA s c i (fld e 36 3)) (x.2 * fld e 51 16)
  let bs := getAt s c i a n
  let s := sendMsg (consumeAt s c i a n) .returnRow x.1.pkg ([x.1.engine, x.1.order] ++ bs.map BitVec.toNat)
  trafficAt c i (nextId s c) .read (acc.1, s) (a, [], n)

def xreturnBody (c i : Nat) (e : Entry) (s : State) : State :=
  let first := (getS s c i (fld e 39 4)).toNat
  let n := (getS s c i (fld e 43 4)).toNat
  let eng := engineOfCore c
  match returnRows s c i e with
  | none => issueDone (raiseF s (fXRT_ENG_ERR_RETURN_RANGE eng)) c i e
  | some (layer, cs) =>
    if cs.length < first + n then issueDone (raiseF s (fXRT_ENG_ERR_RETURN_RANGE eng)) c i e
    else
      let rows := ((cs.drop first).take n).zipIdx
      let x := firstBad (rows.map (fun p =>
        xlatAt s c i .read (plusBytes (getA s c i (fld e 36 3)) (p.2 * fld e 51 16)) (outBytes (layerRec s layer))))
      match x with
      | .ok =>
        let s := (rows.foldl (sendReturn c i e) (0, s)).2
        let own := (rows.filter (fun p => p.1.pkg == ownPkg s)).map (fun p => (p.1.engine, p.1.order))
        issueOp s c i e none 0 false (if n = 0 then .done else .returns own)
      | x => issueOp (noteRefusal s x) c i e none 0 false .refused

/-- An XRETURN finds its engine lost, or a page of its rows held (11 R409). -/
def xreturnBusy (c i : Nat) (s : State) (e : Entry) : Bool :=
  engineLost s (engineOfCore c) ||
    match returnRows s c i e with
    | none => false
    | some (layer, cs) =>
      (List.range (min (getS s c i (fld e 43 4)).toNat cs.length)).any (fun j =>
        heldAt s c i .read (plusBytes (getA s c i (fld e 36 3)) (j * fld e 51 16)) (outBytes (layerRec s layer)))

/-- XRETURN (R322). -/
def execXreturn (core : Fin 98304) (strand : Fin 4) (s : State) : Host.Outcome State Fault Refusal :=
  .next (runEntry 0x72 (xreturnFaults core strand) notShort (xreturnBusy core strand) (xreturnBody core strand) core strand s)

/-- The sticky flags that a cell's new flag bits raise at the engine (R325). -/
def cellFlags (old new : Nat) : FlagSet :=
  let rose (b : Nat) : Bool := natBits new b 1 == 1 && natBits old b 1 == 0
  flIf (rose cellOVF) flOvfSat ||| flIf (rose cellUNF) flUnderflow ||| flIf (rose cellINEXACT) flInexact

/-- One element of a combine: the new cell and the engine's flags. -/
def combineCell (anchor : Int) (weight code cell elem : Nat) : Nat × FlagSet :=
  let (p, f) := mulExact (dec32 weight) (dec32 (widen32 code elem))
  -- the flags of the addend itself, whether or not the cell already held them
  (cellAdd anchor cell p, f ||| cellFlags 0 (cellAdd anchor 0 p))

/-- RETURNED_ROW (R323): a row for the claim of number `order` is weighted and added into its token's cells. -/
def execReturnedRow (engine : Fin 4) (order : Nat) (data : List Byte) (s : State) : Host.Outcome State Fault Refusal :=
  .next (match findClaim (getEngine s engine) order with
  | none => s
  | some (g, d, x) =>
    let r := layerRec s g.layer
    let a := plusBytes d.cells (x.token * d.cstride)
    if !x.decided || x.dropped || engineLost s engine || d.behalf.held s .write a (16 * lyH r) then s
    else
      let w := widthOfCode (lyOFMT r) / 8
      let bs := d.behalf.get s a (16 * lyH r)
      let out := (List.range (lyH r)).map (fun q =>
        combineCell d.anchor x.weight (lyOFMT r) (leNat ((bs.drop (16 * q)).take 16)) (leNat ((data.drop (w * q)).take w)))
      let s := d.behalf.store d.op (d.behalf.consume s a (16 * lyH r)) a (cellBytes (out.map Prod.fst))
      let s := raiseEngineFlags s engine (out.foldl (fun f p => f ||| p.2) flNone)
      settle s engine order (fun y => { y with applied := true }))

/-! ### XGATHER (R326) -/

/-- What an index names: a table row, padding, or nothing. -/
def indexKind (rows x : Nat) : Option Nat := if x = 0xFFFFFFFF ∨ rows ≤ x then none else some x

def xgCount (s : State) (c i : Nat) (e : Entry) : Nat := (getS s c i (fld e 48 4)).toNat

def xgatherFaults (c i : Nat) (s : State) (e : Entry) : List CoreFault :=
  let n := xgCount s c i e
  let rl := fld e 56 10 * 64
  if 65535 < n then [.entryReserved]
  else if n = 0 then []
  else
    rowsFaults c [spLOCAL] (getA s c i (fld e 36 3)) 1 0 (4 * n) 4 ++
      accessFaults (sramSize c) [spDV] (getA s c i (fld e 39 3)) rl 64 ++
      rowsFaults c spLocalDv (getA s c i (fld e 42 3)) 1 0 (n * rl) 64 ++
      rowsFaults c spLocalDv (getA s c i (fld e 45 3)) 1 0 n 1

/-- The translations of table rows. -/
def tableXlat (s : State) (c i : Nat) (tab : Word) (stride bytes : Nat) (rows : List (Option Nat)) : Xlat :=
  firstBad (rows.map (fun x => match x with
    | some q => xlatAt s c i .read (plusBytes tab (q * stride)) bytes
    | none => .ok))

/-- The traffic of table rows and of what an entry writes. -/
def entryTraffic (c i : Nat) (tab : Word) (stride bytes : Nat) (rows : List (Option Nat)) (writes : List (Word × List Byte))
    (s : State) : Nat × State :=
  let op := nextId s c
  let acc := rows.foldl (fun acc x => match x with
    | some q => trafficAt c i op .read acc (plusBytes tab (q * stride), [], bytes)
    | none => acc) (0, s)
  writes.foldl (fun acc x => trafficAt c i op .write acc (x.1, x.2, x.2.length)) acc

/-- The local words and granules of a table row that are poisoned, by offset in the row. -/
def rowPoison (s : State) (c i : Nat) (a : Word) (n : Nat) : List Nat :=
  if (launchMaps s c i .read (aADDR a) n).isSome then [] else (virtPoison s (ctxOf s c i) (aADDR a) n).map (fun x => x - aADDR a)

/-- Copy one table row. -/
def gatherRow (c i : Nat) (e : Entry) (s : State) (p : Option Nat × Nat) : State :=
  let n := fld e 56 10 * 64
  let dst := plusBytes (getA s c i (fld e 42 3)) (p.2 * n)
  match p.1 with
  | none => putAt s c i dst (List.replicate n 0#8)
  | some q =>
    let a := plusBytes (getA s c i (fld e 39 3)) (q * n)
    let bad := (rowPoison s c i a n).map (fun o => (o, 64))
    let s := dmaPut c i (ctxOf s c i) dst (getAt s c i a n) bad s
    if bad = [] then s else consumeAt s c i a n

def xgatherBody (c i : Nat) (e : Entry) (s : State) : State :=
  let n := xgCount s c i e
  let rl := fld e 56 10 * 64
  let idx := getA s c i (fld e 36 3)
  let tab := getA s c i (fld e 39 3)
  let dst := getA s c i (fld e 42 3)
  let stat := getA s c i (fld e 45 3)
  let size := (getS s c i (fld e 52 4)).toNat
  let rows := (List.range n).map (fun j => indexKind size (sramLoad s c (aADDR idx + 4 * j) 4))
  let bad := localPoison s c [(idx, 4 * n)]
  match firstBad [tableXlat s c i tab rl rl rows, xlatAt s c i .write dst (n * rl), xlatAt s c i .write stat n] with
  | .ok =>
    let s := rows.zipIdx.foldl (gatherRow c i e) s
    -- the spec names a status byte per index and gives no encoding of it (log entry 86)
    let sb := (List.range n).map (fun j => BitVec.ofNat 8 (Config.freeNat (s.fresh + j)))
    let s := putAt { s with fresh := s.fresh + n } c i stat sb
    let r := entryTraffic c i tab rl rl rows [(dst, getAt s c i dst (n * rl)), (stat, sb)] s
    raisePoison (issueOp r.2 c i e none 0 false (phaseOf r.1)) c i bad
  | x => issueOp (noteRefusal s x) c i e none 0 false .refused

/-- The pages of table rows are held. -/
def tableHeld (s : State) (c i : Nat) (tab : Word) (stride bytes : Nat) (rows : List (Option Nat)) : Bool :=
  rows.any (fun x => match x with
    | some q => heldAt s c i .read (plusBytes tab (q * stride)) bytes
    | none => false)

/-- An XGATHER finds its engine lost, or a page held. -/
def xgatherBusy (c i : Nat) (s : State) (e : Entry) : Bool :=
  let n := xgCount s c i e
  let rl := fld e 56 10 * 64
  let rows := (List.range n).map (fun j =>
    indexKind (getS s c i (fld e 52 4)).toNat (sramLoad s c (aADDR (getA s c i (fld e 36 3)) + 4 * j) 4))
  engineLost s (engineOfCore c) || tableHeld s c i (getA s c i (fld e 39 3)) rl rl rows ||
    heldAt s c i .write (getA s c i (fld e 42 3)) (n * rl) || heldAt s c i .write (getA s c i (fld e 45 3)) n

/-- XGATHER. -/
def execXgather (core : Fin 98304) (strand : Fin 4) (s : State) : Host.Outcome State Fault Refusal :=
  .next (runEntry 0x73 (xgatherFaults core strand) notShort (xgatherBusy core strand) (xgatherBody core strand) core strand s)

/-! ### XBAG (R327, R328) -/

def xbCount (s : State) (c i : Nat) (e : Entry) : Nat := (getS s c i (fld e 52 4)).toNat
def xbDim (e : Entry) : Nat := fld e 60 10 + 1
def xbInBytes (e : Entry) : Nat := widthOfCode (fld e 70 4) / 8
def xbOutBytes (e : Entry) : Nat := widthOfCode (fld e 74 4) / 8

def bagDesc (s : State) (c i : Nat) (e : Entry) (b : Nat) : Nat := sramLoad s c (aADDR (getA s c i (fld e 39 3)) + 8 * b) 8

def bagBad (d : Nat) : Bool := decide (64 < natBits d 32 7) || natBits d 39 25 != 0

/-- The index-list positions of a bag. -/
def bagPositions (d : Nat) : List Nat := if bagBad d then [] else (List.range (natBits d 32 7)).map (fun j => natBits d 0 32 + j)

/-- Bag counts above 65,535 are outside SN's range (log entry 87). DESIGN CHOICE (log entry 150): the spec names no space for
STAT (R715); LOCAL and DEVICE_VIRTUAL are allowed, as XGATHER's is. -/
def xbagFaults (c i : Nat) (s : State) (e : Entry) : List CoreFault :=
  let n := xbCount s c i e
  let idx := getA s c i (fld e 36 3)
  let static := rowsFaults c [spLOCAL] (getA s c i (fld e 39 3)) 1 0 (8 * n) 8
  if 65535 < n then [.entryReserved]
  else if n = 0 then []
  else
    static ++ accessFaults (2 ^ 60) [spLOCAL] idx 4 4 ++
      (if flag e 51 then accessFaults (2 ^ 60) [spLOCAL] (getA s c i (fld e 48 3)) 4 4 else []) ++
      accessFaults (sramSize c) [spDV] (getA s c i (fld e 42 3)) (xbDim e * xbInBytes e) (xbInBytes e) ++
      rowsFaults c spLocalDv (getA s c i (fld e 45 3)) n (fld e 110 16) (xbDim e * xbOutBytes e) (xbOutBytes e) ++
      rowsFaults c spLocalDv (getA s c i (fld e 91 3)) 1 0 n 1 ++
      (if static ≠ [] then []
      else ((List.range n).flatMap (fun b => bagPositions (bagDesc s c i e b))).flatMap (fun p =>
        localFaults c (plusBytes idx (4 * p)) 4 4 ++
          (if flag e 51 then localFaults c (plusBytes (getA s c i (fld e 48 3)) (4 * p)) 4 4 else [])))

/-- The members of a bag that are not skipped: table row and weight; and whether one is out of range. -/
def bagMembers (s : State) (c i : Nat) (e : Entry) (d : Nat) : List (Nat × Nat) × Bool :=
  let rows := (getS s c i (fld e 56 4)).toNat
  let ps := (bagPositions d).map (fun p =>
    (sramLoad s c (aADDR (plusBytes (getA s c i (fld e 36 3)) (4 * p))) 4,
      if flag e 51 then sramLoad s c (aADDR (plusBytes (getA s c i (fld e 48 3)) (4 * p))) 4 else 0x3F800000))
  (ps.filter (fun x => (indexKind rows x.1).isSome), ps.any (fun x => x.1 != 0xFFFFFFFF && (indexKind rows x.1).isNone))

/-- A term: the element, or its exact product with the member's weight. -/
def bagTerm (e : Entry) (elem weight : Nat) : FVal × FlagSet :=
  let x := dec32 (widen32 (fld e 70 4) elem)
  if flag e 51 then mulExact x (dec32 weight) else (x, flNone)

/-- One element of a bag's result: FP32 bits, flags, clamp, loss. -/
structure BagElem where
  bits  : Nat
  flags : FlagSet
  ovf   : Bool
  loss  : Bool
  deriving DecidableEq, Repr

/-- The exact mean of a cell by `c` (R327). -/
def meanOf (anchor : Int) (cell c : Nat) : Nat × FlagSet :=
  if natBits cell cellNAN 1 = 1 ∨ natBits cell cellPINF 1 = 1 ∨ natBits cell cellNINF 1 = 1 then cellRead 0 false anchor cell
  else round32 (quotVal (decide (cellSum cell < 0)) (cellSum cell).natAbs c anchor)

/-- Reduce the terms of one element under a MODE. DESIGN CHOICE (log entry 142): the FP32 read-out of SUM inside XBAG uses
SAT = 0, so an overflow gives infinity and OVERFLOW; the entry's SAT is the output conversion's. -/
def bagReduce (mode : Nat) (anchor : Int) (terms : List (FVal × FlagSet)) : BagElem :=
  let fp := terms.foldl (fun (f : FlagSet) p => f ||| p.2) flNone
  if mode = 2 then
    let rs := terms.map (fun p => round32 p.1)
    let fl := rs.foldl (fun f p => f ||| p.2) fp
    if rs.any (fun p => (dec32 p.1).isNan) then ⟨fmtFP32.nanBits, fl, false, false⟩
    else
      let best := (rs.map Prod.fst).foldl (fun (a : Option Nat) x => match a with
        | none => some x
        | some y => if ltVal (dec32 y) (dec32 x) || ((dec32 y).isZero && (dec32 x).isZero && (dec32 y).signNeg) then some x else some y) none
      ⟨best.getD 0, fl, false, false⟩
  else
    let cell := terms.foldl (fun z p => cellAdd anchor z p.1) 0
    let loss := natBits cell cellUNF 1 == 1 || natBits cell cellINEXACT 1 == 1
    let z := cellSum cell
    let fin := natBits cell cellNAN 1 == 0 && natBits cell cellPINF 1 == 0 && natBits cell cellNINF 1 == 0
    let fc := fp ||| cellFlags 0 cell
    if mode = 0 then
      let (r, f) := cellRead 0 false anchor cell
      ⟨r, fc ||| f, fin && decide (clampInt wideMin wideMax z ≠ z), loss⟩
    else
      let (r, f) := meanOf anchor cell terms.length
      ⟨r, fc ||| f, false, loss⟩

/-- A bag: its output elements in OFMT, its status byte, and the engine's flags. -/
def bagResult (s : State) (c i : Nat) (e : Entry) (d : Nat) : List Nat × Nat × FlagSet :=
  let (ms, oob) := bagMembers s c i e d
  let dim := xbDim e
  if ms = [] then
    (List.replicate dim 0, (if bagBad d then 32 else 1 + 2 * bit oob), flNone)
  else
    let w := xbInBytes e
    let rows := ms.map (fun m => (getAt s c i (plusBytes (getA s c i (fld e 42 3)) (m.1 * fld e 94 16)) (dim * w), m.2))
    let outs := (List.range dim).map (fun q =>
      bagReduce (fld e 79 2) (sfld e 81 10) (rows.map (fun p => bagTerm e (leNat ((p.1.drop (q * w)).take w)) p.2)))
    let conv := outs.map (fun o => convertOut (fld e 74 4) (flag e 78) o.bits)
    (conv.map Prod.fst,
      2 * bit oob + 4 * bit (outs.any (fun o => (dec32 o.bits).isNan)) + 8 * bit (outs.any BagElem.ovf)
        + 16 * bit (outs.any BagElem.loss),
      conv.foldl (fun f p => f ||| p.2) (outs.foldl (fun f o => f ||| o.flags) flNone))

/-- Count a bag's conditions. -/
def countBag (s : State) (eng st : Nat) : State :=
  (List.range 6).foldl (fun s j => if natBits st j 1 = 1 then countEngine s eng (3 + j) else s) s

/-- Write one bag; whether a BAD bag is also EMPTY is open. -/
def bagPut (c i : Nat) (e : Entry) (s : State) (p : (List Nat × Nat × FlagSet) × Nat) : State :=
  let (st, s) := if p.1.2.1 = 32 then
      let (v, s) := s.takeFree
      (32 + v % 2, s)
    else (p.1.2.1, s)
  let s := putAt s c i (plusBytes (getA s c i (fld e 45 3)) (p.2 * fld e 110 16)) (p.1.1.flatMap (leBytes (xbOutBytes e)))
  let s := putAt s c i (plusBytes (getA s c i (fld e 91 3)) p.2) [BitVec.ofNat 8 st]
  countBag (raiseEngineFlags s (engineOfCore c) p.1.2.2) (engineOfCore c) st

def xbagBody (c i : Nat) (e : Entry) (s : State) : State :=
  let n := xbCount s c i e
  let tab := getA s c i (fld e 42 3)
  let stride := fld e 94 16
  let inb := xbDim e * xbInBytes e
  let outb := xbDim e * xbOutBytes e
  let dst := getA s c i (fld e 45 3)
  let ds := (List.range n).map (bagDesc s c i e)
  let rows := ds.flatMap (fun d => (bagMembers s c i e d).1.map (fun m => some m.1))
  let bad := localPoison s c ((getA s c i (fld e 39 3), 8 * n) :: (ds.flatMap bagPositions).flatMap (fun p =>
    [(plusBytes (getA s c i (fld e 36 3)) (4 * p), 4), (plusBytes (getA s c i (fld e 48 3)) (4 * p), if flag e 51 then 4 else 0)]))
  let dsts := (List.range n).map (fun b => plusBytes dst (b * fld e 110 16))
  let stat := getA s c i (fld e 91 3)
  match firstBad (tableXlat s c i tab stride inb rows :: xlatAt s c i .write stat n :: dsts.map (fun a => xlatAt s c i .write a outb)) with
  | .ok =>
    let s1 := ((ds.map (bagResult s c i e)).zipIdx).foldl (bagPut c i e) s
    let s1 := rows.foldl (fun s x => match x with
      | some q => consumeAt s c i (plusBytes tab (q * stride)) inb
      | none => s) s1
    let r := entryTraffic c i tab stride inb rows
      ((stat, getAt s1 c i stat n) :: dsts.map (fun a => (a, getAt s1 c i a outb))) s1
    raisePoison (issueOp r.2 c i e none 0 false (phaseOf r.1)) c i bad
  | x => issueOp (noteRefusal s x) c i e none 0 false .refused

/-- An XBAG finds its engine lost, or a page held. -/
def xbagBusy (c i : Nat) (s : State) (e : Entry) : Bool :=
  let n := xbCount s c i e
  let rows := ((List.range n).map (bagDesc s c i e)).flatMap (fun d => (bagMembers s c i e d).1.map (fun m => some m.1))
  engineLost s (engineOfCore c) ||
    tableHeld s c i (getA s c i (fld e 42 3)) (fld e 94 16) (xbDim e * xbInBytes e) rows ||
    heldAt s c i .write (getA s c i (fld e 91 3)) n ||
    (List.range n).any (fun b => heldAt s c i .write (plusBytes (getA s c i (fld e 45 3)) (b * fld e 110 16)) (xbDim e * xbOutBytes e))

/-- XBAG. -/
def execXbag (core : Fin 98304) (strand : Fin 4) (s : State) : Host.Outcome State Fault Refusal :=
  .next (runEntry 0x74 (xbagFaults core strand) notShort (xbagBusy core strand) (xbagBody core strand) core strand s)

end Sys2Proof.Machine
end

