-- ==== Sys2Proof/Machine/Fabric.lean ====
section
/-!
DEFINITION. The Sunded fabric's commands (spec 14): flits, port states, operations at the destination, egress windows;
and the DMA reads that time out (15 R510).
-/
namespace Sys2Proof.Machine

open Sys2Proof

/-! ### Port counters (20 Table 20-1; the ids within a port's group are the model's, log entry 70) -/

def countPort (s : State) (n k : Nat) : State := count s (0x0600 + 0x20 * n + k) 1

/-! ### Recalibration (R487) -/

/-- A port that is due and has nothing to replay goes dark. -/
def goDark (s : State) (n : Nat) : State :=
  let p := getPort s n
  if p.recalDue && p.phase == .up && p.replay == [] then rerouteWaiting (setPort s n { p with phase := .recal, recalDue := false })
  else s

/-- The other port of a pair of Table 14-1. -/
def pairOf (n : Nat) : Nat := if n % 2 = 0 then n + 1 else n - 1

/-- A recalibration may begin: the port and its partner are UP (a partner that is DISABLED does not defer it, log entry 102),
and no other port is being recalibrated. -/
def mayRecal (s : State) (n : Nat) : Bool :=
  portUp s n && ((getPort s (pairOf n)).phase == .up || (getPort s (pairOf n)).phase == .disabled) &&
    (List.range 16).all (fun m => m == n || ((getPort s m).phase != .recal && !(getPort s m).recalDue))

/-- Schedule a recalibration; one that may not begin is deferred, to be due again after 1 s. -/
def recalibrate (s : State) (n : Nat) : State :=
  if mayRecal s n then goDark (modPort s n (fun p => { p with recalDue := true })) n else s

/-- RECALIBRATION_DUE. -/
def execRecalibrationDue (port : Fin 16) (s : State) : Host.Outcome State Fault Refusal := .next (recalibrate s port)

/-- A write of FAB_PORTn_CTL by the PF: RETRAIN, then RECAL. -/
def portCtl (s : State) (n v : Nat) : State :=
  let ph := (getPort s n).phase
  let s := if natBits v 0 1 = 1 ∧ (ph = .held ∨ ph = .down ∨ ph = .recable) then portDark s n .training else s
  if natBits v 1 1 = 1 then recalibrate s n else s

/-- RETRAIN: FAB_PORTn_CTL written with RETRAIN (R506). -/
def execRetrain (fn : Fin 64) (port : Fin 16) (s : State) : Host.Outcome State Fault Refusal :=
  .next (pfWrite s (rFAB_PORT_CTL port) fn (fun s => portCtl s port 1))

/-- RECAL: FAB_PORTn_CTL written with RECAL. -/
def execRecal (fn : Fin 64) (port : Fin 16) (s : State) : Host.Outcome State Fault Refusal :=
  .next (pfWrite s (rFAB_PORT_CTL port) fn (fun s => portCtl s port 2))

/-- A port comes back to UP: replay resumes and what waited goes. -/
def portBack (s : State) (n : Nat) : State :=
  let s := modPort s n (fun p => { p with phase := .up })
  rerouteWaiting (pump s n)

/-- RECALIBRATION_COMPLETE. -/
def execRecalibrationComplete (port : Fin 16) (s : State) : Host.Outcome State Fault Refusal :=
  .next (if (getPort s port).phase = .recal then portBack s port else s)

/-! ### Retraining (R484) and failure -/

/-- The port is DOWN: what its replay buffer held is lost. -/
def portDown (s : State) (n cause : Nat) : State :=
  let p := getPort s n
  let lost := p.replay.length
  let s := setPort s n { p with phase := .down, replay := [], lost := p.lost + lost, fails := 0, recalDue := false }
  rerouteWaiting (postPF s 0x52 cause n 0 lost)

/-- PORT_RETRAIN_START: a flit has been resent 8 times without acknowledgement. -/
def execPortRetrainStart (port : Fin 16) (s : State) : Host.Outcome State Fault Refusal :=
  .next (
    let p := getPort s port
    if p.phase = .up ∧ 8 ≤ p.resends then rerouteWaiting (countPort (setPort s port { p with phase := .retrain, fails := 0 }) port 3)
    else s)

/-- Sequence `q` is at or below `a`, modulo 2^16. -/
def seqLe (q a : Nat) : Bool := decide ((a + 65536 - q) % 65536 < 32768)

/-- An acknowledgement: every flit at or below it leaves the replay buffer. -/
def ackTo (s : State) (n a : Nat) : State :=
  let p := getPort s n
  let left := p.replay.filter (fun f => !seqLe f.seq a)
  if left.length = p.replay.length then s
  else goDark (setPort s n { p with replay := left, acked := a }) n

/-- Resend every unacknowledged flit, in order; one resent 8 times leads to a retrain (R484). -/
def resend (s : State) (n : Nat) : State :=
  let p := getPort s n
  if p.replay = [] ∨ 8 ≤ p.resends then s
  else
    let s := setPort s n { p with replay := p.replay.map (fun f => { f with resent := f.resent + 1 }) }
    p.replay.foldl (fun s f => countPort (emitFlit s n f) n 2) s

/-- RETRAIN_END: on success the ends exchange their ACK values and replay resumes; a third failure in a row takes the
port DOWN. -/
def execRetrainEnd (port : Fin 16) (good : Bool) (farAck : Fin 65536) (s : State) : Host.Outcome State Fault Refusal :=
  .next (
    let n := port.val
    let p := getPort s n
    if p.phase ≠ .retrain then s
    else if good then
      let s := ackTo (setPort s n { p with
        phase := .up, fails := 0, nak := false, replay := p.replay.map (fun f => { f with resent := 0 }) }) n farAck
      let s := (getPort s n).replay.foldl (fun s f => countPort (emitFlit s n f) n 2) s
      portBack s n
    else if 3 ≤ p.fails + 1 then portDown s n 0
    else setPort s n { p with fails := p.fails + 1 })

/-! ### Training (R486) -/

/-- TRAINING_IDENTITY: the far package, port and partition, and the lanes in use. -/
def execTrainingIdentity (port : Fin 16) (farId : Fin 65536) (farPort : Fin 16) (farPart : Fin 256) (lanes : Fin 25)
    (s : State) : Host.Outcome State Fault Refusal :=
  .next (
    let n := port.val
    let p := getPort s n
    if p.phase ≠ .training then s
    else
      let bad : Option Nat :=
        if farId.val ≠ getF s (fFAB_PORT_CFG_EXP_ID n) then some 0
        else if farPort.val ≠ getF s (fFAB_PORT_CFG_EXP_PORT n) then some 1
        else if farPart.val ≠ getF s fFAB_CFG_PARTITION then some 2
        else none
      let p := { p with farId := farId, farPort := farPort, farPart := farPart, lanes := lanes }
      match bad with
      | none => portBack (setPort s n p) n
      | some c => rerouteWaiting (postPF (setPort s n { p with phase := .held }) 0x51 c n 0
          (farId.val + farPort.val * 2 ^ 16 + farPart.val * 2 ^ 20)))

/-! ### Overload (R488) -/

/-- RECEIVE_OVERLOAD: the codewords in flight are lost and a replay is asked for; a recalibration ends at once. -/
def execReceiveOverload (port : Fin 16) (s : State) : Host.Outcome State Fault Refusal :=
  .next (
    let n := port.val
    let p := getPort s n
    match p.phase with
    | .disabled => s
    | .up => setPort s n { p with overlit := true, nak := true }
    | .recal => setPort s n { p with overlit := true, nak := true, phase := .up }
    | _ => setPort s n { p with overlit := true })

/-- OVERLOAD_PERSIST: after 10 us the port is in OVERLOAD. -/
def execOverloadPersist (port : Fin 16) (s : State) : Host.Outcome State Fault Refusal :=
  .next (
    let n := port.val
    let p := getPort s n
    if p.overlit && (p.phase == .up || p.phase == .retrain) then
      rerouteWaiting (postPF (setPort s n { p with phase := .overload, recalDue := false }) 0x50 0 n 0 0)
    else s)

/-- OVERLOAD_CLEAR: the light falls; a port in OVERLOAD retrains. -/
def execOverloadClear (port : Fin 16) (s : State) : Host.Outcome State Fault Refusal :=
  .next (
    let n := port.val
    let p := getPort s n
    if !p.overlit then s
    else if p.phase = .overload then countPort (setPort s n { p with overlit := false, phase := .retrain, fails := 0 }) n 3
    else setPort s n { p with overlit := false })

/-- OVERLOAD_TIMEOUT: not UP within 1 ms of entering OVERLOAD. -/
def execOverloadTimeout (port : Fin 16) (s : State) : Host.Outcome State Fault Refusal :=
  .next (
    let ph := (getPort s port).phase
    if ph = .overload ∨ ph = .retrain then portDown s port 1 else s)

/-! ### Operations at the destination (R495-R498) -/

/-- The granules of a packet exist here (Table 14-9). -/
def packetExists (p : Packet) : Bool := hbmExists (p.addr + (if p.op = opATOMIC then 8 else 64 * p.ng) - 1)

/-- NOTIFY: the named cluster latch falls (R498). -/
def notifyLatch (s : State) (p : Packet) : State :=
  if !p.notify then s
  else
    let k := natBits p.nlatch 0 4 * 32 + natBits p.nlatch 4 5
    let n := natBits p.nlatch 9 5
    if tabGet 0 (getCluster s k).clatch n = 0 then latchUnderflow s k true n 0xFF ctxSYS
    else modCluster s k (fun c => { c with clatch := tabMod 0 c.clatch n (· - 1) })

/-- READ at the destination. -/
def performRead (s : State) (p : Packet) : State :=
  if !packetExists p then answer s p.src p.tag opREADRSP 1 []
  else
    let n := 64 * p.ng
    let data := (List.range p.ng).map (fun g => BitVec.ofNat 512 (hbmLoad s (p.addr + 64 * g) 64))
    let bad := hbmPoisoned s p.addr n
    let s := if bad then hbmFault s p.addr else s
    answer s p.src p.tag opREADRSP (if bad then 2 else 0) data

/-- WRITE at the destination: NG whole granules. -/
def performWrite (s : State) (p : Packet) : State :=
  if !packetExists p then answer s p.src p.tag opWRITEACK 1 []
  else
    let bs := (List.range p.ng).flatMap (fun g => leBytes 64 (p.data.getD g 0#512).toNat)
    answer (notifyLatch (hbmStoreBytes s p.addr bs) p) p.src p.tag opWRITEACK 0 []

/-- Write the masked bytes of a granule; its poison stays (18 R608). -/
def hbmMasked (s : State) (a mask : Nat) (l : Line) : State :=
  let bs := leBytes 64 l.toNat
  { s with tiers := { s.tiers with
      hbm := (List.range 64).foldl (fun m i => if natBits mask i 1 = 1 then memSet m (a + i) (bs.getD i 0#8) else m) s.tiers.hbm } }

/-- WRITE_PART at the destination. -/
def performWritePart (s : State) (p : Packet) : State :=
  if !packetExists p then answer s p.src p.tag opWRITEACK 1 []
  else answer (notifyLatch (hbmMasked s (p.addr / 64 * 64) p.bmask (p.data.headD 0#512)) p) p.src p.tag opWRITEACK 0 []

/-- ATOMIC at the destination: the old value returns. -/
def performAtomic (s : State) (p : Packet) : State :=
  if !packetExists p then answer s p.src p.tag opATOMICRSP 1 []
  else
    let v := (p.data.headD 0#512).toNat
    let old := hbmLoad s p.addr 8
    let bad := hbmPoisoned s p.addr 8
    let new := atomicNew (natBits p.bmask 0 3) (natBits p.bmask 3 1 == 1) old (natBits v 0 64) (natBits v 64 64)
    let s := hbmStore s p.addr 8 new
    let s := if bad then hbmFault s p.addr else s
    answer s p.src p.tag opATOMICRSP (if bad then 2 else 0) [BitVec.ofNat 512 old]

/-! ### Egress requests (R505) -/

/-- The blocks of a range, each with the offset and length of its part. -/
def blockParts (a n : Nat) : List (Nat × Nat × Nat) :=
  (List.range ((a + n + 4095) / 4096 - a / 4096)).map (fun i =>
    let b := a / 4096 + i
    let lo := max a (b * 4096)
    (b, lo, min (a + n) ((b + 1) * 4096) - lo))

/-- A WRITE or WRITE_PART of an egress window. -/
def egressWrite (s : State) (p : Packet) : State :=
  if !ewinAllows s p.ewin 4 p.addr (64 * p.ng) then answer s p.src p.tag opWRITEACK 1 []
  else
    let bs := ((List.range p.ng).flatMap (fun g => leBytes 64 (p.data.getD g 0#512).toNat)).zipIdx.map (fun x => (p.addr + x.2, x.1))
    let bs := if p.op = opWRITEPART then bs.filter (fun x => natBits p.bmask (x.1 - p.addr) 1 == 1) else bs
    (blockParts p.addr (64 * p.ng)).foldl (fun s x =>
      gatherWrite s p.ewin x.1 p.src p.tag
        ((bs.filter (fun b => b.1 / 4096 == x.1)).map (fun b => (b.1 % 4096, b.2)))) s

/-- A READ of an egress window. -/
def egressRead (s : State) (p : Packet) : State :=
  if !ewinAllows s p.ewin 3 p.addr (64 * p.ng) then answer s p.src p.tag opREADRSP 1 []
  else (blockParts p.addr (64 * p.ng)).foldl (fun s x => fetchRead s p.ewin x.1 (p.src, p.tag, p.addr, 64 * p.ng)) s

/-- A packet that has reached its destination; an ATOMIC has no place in an egress window (Table 14-10). -/
def perform (s : State) (p : Packet) : State :=
  if p.op = opREAD then (if p.eth then egressRead s p else performRead s p)
  else if p.op = opWRITE then (if p.eth then egressWrite s p else performWrite s p)
  else if p.op = opWRITEPART then (if p.eth then egressWrite s p else performWritePart s p)
  else if p.op = opATOMIC then (if p.eth then answer s p.src p.tag opATOMICRSP 1 [] else performAtomic s p)
  else if 0x80 ≤ p.op then completeReq s p.tag p.status
  else s

/-- A request of an operation given by its header and payload. -/
def request (op : Nat) (eth : Bool) (header : BitVec 256) (data : List Line) (s : State) : State :=
  let p := Packet.ofHeader header data
  if headerLegal header && p.op == op && p.eth == eth && p.dest == ownPkg s then perform s p else s

/-- FABRIC_READ. -/
def execFabricRead (header : BitVec 256) (s : State) : Host.Outcome State Fault Refusal :=
  .next (request opREAD false header [] s)

/-- FABRIC_WRITE. -/
def execFabricWrite (header : BitVec 256) (data : List Line) (s : State) : Host.Outcome State Fault Refusal :=
  .next (request opWRITE false header data s)

/-- FABRIC_WRITE_PART. -/
def execFabricWritePart (header : BitVec 256) (data : List Line) (s : State) : Host.Outcome State Fault Refusal :=
  .next (request opWRITEPART false header data s)

/-- FABRIC_ATOMIC. -/
def execFabricAtomic (header : BitVec 256) (data : List Line) (s : State) : Host.Outcome State Fault Refusal :=
  .next (request opATOMIC false header data s)

/-- EGRESS_WRITE: a WRITE or WRITE_PART with ETH set. -/
def execEgressWrite (header : BitVec 256) (data : List Line) (s : State) : Host.Outcome State Fault Refusal :=
  .next (request opWRITEPART true header data (request opWRITE true header data s))

/-- EGRESS_READ. -/
def execEgressRead (header : BitVec 256) (s : State) : Host.Outcome State Fault Refusal :=
  .next (request opREAD true header [] s)

/-- EGRESS_BLOCK_TIMEOUT: 20 us have passed since the block's first write. -/
def execEgressBlockTimeout (ewin : Fin 256) (block : Nat) (s : State) : Host.Outcome State Fault Refusal :=
  .next (match openBlock s ewin block with
  | some b => sendBlock s b
  | none => s)

/-- The bytes of a finished fetch answer its reads; one that also waits for another block takes its bytes along. -/
def finishFetch (s : State) (b : EgressBlock) (data : List Byte) : State :=
  let got := data.zipIdx.foldl (fun (m : List (Nat × Byte)) x => tabSet m (b.block * 4096 + x.2) x.1) b.bytes
  let rest := replaceFirst (fun x => x == b) (fun _ => none) s.fab.egress
  let later (x : EgressBlock) (r : Nat × Nat × Nat × Nat) : Bool := x.fetch && x.ewin == b.ewin && x.reads.contains r
  let s := setEgress s (rest.map (fun x =>
    let rs := b.reads.filter (later x)
    { x with bytes := rs.foldl (fun (m : List (Nat × Byte)) r =>
        (got.filter (fun (g : Nat × Byte) => decide (r.2.2.1 ≤ g.1) && decide (g.1 < r.2.2.1 + r.2.2.2))).foldl
          (fun m g => tabSet m g.1 g.2) m) x.bytes }))
  (b.reads.filter (fun r => !rest.any (fun x => later x r))).foldl (fun s r =>
    let line (g : Nat) : Line := BitVec.ofNat 512 (leNat ((List.range 64).map (fun i => tabGet 0#8 got (r.2.2.1 + 64 * g + i))))
    answer s r.1 r.2.1 opREADRSP 0 ((List.range (r.2.2.2 / 64)).map line)) s

/-- EGRESS_RDMA_COMPLETE: an RDMA operation of a block's fetch, or of its oldest sent writes, ends. -/
def execEgressRdmaComplete (ewin : Fin 256) (block : Nat) (fetch good : Bool) (data : List Byte) (s : State) :
    Host.Outcome State Fault Refusal :=
  .next (
    let is (b : EgressBlock) : Bool := b.ewin == ewin.val && b.block == block && b.sent && b.fetch == fetch
    match s.fab.egress.find? is with
    | none => s
    | some b =>
      if !good then failEgress s b
      else if fetch then finishFetch s b data
      else if 1 < b.ops then setEgress s (replaceFirst is (fun b => some { b with ops := b.ops - 1 }) s.fab.egress)
      else
        let s := setEgress s (replaceFirst is (fun _ => none) s.fab.egress)
        (b.acks.filter (onlyHere s.fab.egress)).foldl (fun s x => answer s x.1 x.2 opWRITEACK 0 []) s)

/-! ### Completion (R497, R499) -/

/-- FABRIC_RESPONSE. -/
def execFabricResponse (tag : Fin 16777216) (status : Fin 5) (s : State) : Host.Outcome State Fault Refusal :=
  .next (completeReq s tag status)

/-- FABRIC_REQUEST_TIMEOUT: no response within 2 ms. -/
def execFabricRequestTimeout (tag : Fin 16777216) (s : State) : Host.Outcome State Fault Refusal :=
  .next (completeReq s tag 5)

/-! ### Flits (R482, R483, R489-R493) -/

/-- The flit that 256 bytes hold, as it waits: its channel without the class, its transit fields. -/
def flitOf (n : Nat) (sl : Option (Nat × Nat × Bool)) : Flit :=
  let vc := natBits n 33 3
  ⟨natBits n 0 16, if vc = 4 then 4 else vc / 2 * 2, false, BitVec.ofNat 256 (natBits n 128 256),
    (List.range (Packet.ofHeader (BitVec.ofNat 256 (natBits n 128 256)) []).ng).map (fun i =>
      BitVec.ofNat 512 (natBits n (384 + 512 * i) 512)),
    natBits n 1920 4, natBits n 1924 2, natBits n 1926 1 == 1, sl, 0⟩

/-- A flit with no reserved encoding: its channel, its header, its zero bits, and the channel of its OP. -/
def flitLegal (n : Nat) : Bool :=
  let vc := natBits n 33 3
  let h := BitVec.ofNat 256 (natBits n 128 256)
  natBits n 85 43 == 0 && decide (vc ≤ 4) && headerLegal h && natBits n 1927 89 == 0 &&
    vcBase (Packet.ofHeader h []).op == (if vc = 4 then 4 else vc / 2 * 2)

/-- What an accepted header says of the other direction: ACK, CRED, NAK. -/
def linkNews (s : State) (n v : Nat) : State :=
  let s := modPort s n (fun p => { p with
    credits := (List.range 5).map (fun i => p.credits.getD i 0 + natBits v (37 + 8 * i) 8)
    sharedCr := p.sharedCr + natBits v 77 8 })
  let s := ackTo s n (natBits v 16 16)
  let s := if natBits v 32 1 = 1 then resend s n else s
  pump s n

/-- Credits that have come free go back at once (R492), and a sixteenth flit is acknowledged. -/
def returnCredits (s : State) : State :=
  (List.range 16).foldl (fun s n =>
    let p := getPort s n
    if p.phase = .up ∧ (p.owed.any (fun c => c != 0) ∨ 16 ≤ p.sinceAck) then emitFlit s n Flit.idle else s) s

/-- A flit with a reserved encoding is discarded, counted and recorded. -/
def badFlit (s : State) (n : Nat) : State :=
  countPort (setF (raiseF s fFAB_ERR_BAD_FLIT) fFAB_ERR_LAST_PORT n) n 5

/-- An accepted packet flit: its slot, and then its delivery here or its way on. -/
def acceptFlit (s : State) (n v : Nat) : State :=
  let vc := natBits v 33 3
  let sh := natBits v 36 1 == 1
  let s := modPort s n (fun p => { p with
    expSeq := (p.expSeq + 1) % 65536
    sinceAck := p.sinceAck + 1
    rxShared := if sh then p.rxShared + 1 else p.rxShared
    rxUsed := if sh then p.rxUsed else listMod p.rxUsed vc (· + 1) })
  let slot := some (n, vc, sh)
  if !flitLegal v then
    badFlit (leaveSlot s slot) n
  else
    let s := countPort (linkNews s n v) n 1
    let f := flitOf v slot
    let p := Packet.ofHeader f.header f.payload
    if p.dest = ownPkg s then perform (leaveSlot s slot) p else forwardFlit s f

/-- FABRIC_FLIT_RECEIVE: 256 bytes arrive at a port; `fecOk` says that every codeword was correctable. -/
def execFabricFlitReceive (port : Fin 16) (flit : BitVec 2048) (fecOk : Bool) (s : State) :
    Host.Outcome State Fault Refusal :=
  .next (
    let n := port.val
    let p := getPort s n
    let v := flit.toNat
    let wantReplay (s : State) : State := countPort (modPort s n (fun p => { p with nak := true })) n 6
    if p.phase ≠ .up then s
    else if !fecOk then countPort (wantReplay s) n 4
    else if crc32c (leBytes 252 v) ≠ natBits v 2016 32 then wantReplay s
    else if natBits v 33 3 = 7 then
      if natBits v 85 43 = 0 then returnCredits (linkNews s n v) else badFlit s n
    else if natBits v 0 16 = p.expSeq then returnCredits (acceptFlit s n v)
    else if seqLe (natBits v 0 16) ((p.expSeq + 65535) % 65536) then s
    else wantReplay s)

/-- FABRIC_ACK_TIMER: at least every 50 ns an acknowledgement goes out. -/
def execFabricAckTimer (port : Fin 16) (s : State) : Host.Outcome State Fault Refusal :=
  .next (if portUp s port then emitFlit s port Flit.idle else s)

/-! ### DMA (15 R510) -/

/-- DMA_READ_TIMEOUT: a DMA read of a function has not completed within 50 ms and fails. -/
def execDmaReadTimeout (use : DmaUse) (s : State) : Host.Outcome State Fault Refusal :=
  match use with
  | .descriptor fn q => execDescriptorFetch fn q none s
  | .prompt origin subseq => execPromptReadComplete origin subseq false [] s
  | .image second =>
    if s.cfg.loading.isNone then .next s
    else if second then execImagePass2Complete none s else execImagePass1Complete none s
  | .keys =>
    match s.padlock.queue.head? with
    | some x => if x.op = 1 ∨ (x.op = 7 ∧ x.src = 0) then execPadlockCommandComplete none s else .next s
    | none => .next s
  | .adapter slot =>
    if tabHas s.hinge.manifests slot then .next s else execAdapterLoadComplete slot none s

end Sys2Proof.Machine
end

