-- ==== Sys2Proof/Machine/Time.lean ====
section
/-!
DEFINITION. The time base (spec 15, R535-R537), its loads and corrections, and the mirrors of the management domain
(21 R682). `idleTick` is what a step does on an empty queue.
-/
namespace Sys2Proof.Machine

open Sys2Proof

/-- Ticks that a correction of `e` ns has removed after `n` of its 250,000,000 ticks: `e * n / 10^8`, toward zero. -/
def slewTicks (e : Int) (n : Nat) : Int := Int.tdiv (e * n) 100000000

/-- The ticks by which the counter advances on the next tick of the time base: 1, less what the correction removes. -/
def tickAdvance (t : TimeBase) : Nat :=
  if t.slew = 0 then 1 else (1 - (slewTicks t.slew (t.slewPos + 1) - slewTicks t.slew t.slewPos)).toNat

/-- One tick of 0.4 ns of the time base (R535); the correction ends after 100 ms (R536). -/
def idleTick (s : State) : State :=
  let t := s.time
  let ended := decide (250000000 ≤ t.slewPos + 1)
  { s with time := { t with
      ticks := t.ticks + tickAdvance t
      slew := if ended then 0 else t.slew
      slewPos := if t.slew = 0 ∨ ended then 0 else t.slewPos + 1 } }

/-- The counter minus the nearest multiple of 10^9. -/
def edgeError (now : Nat) : Int :=
  let r := now % 1000000000
  if r < 500000000 then (r : Int) else (r : Int) - 1000000000

/-- The two's complement of a value in 32 bits. -/
def int32 (e : Int) : Nat := (Int.emod e (2 ^ 32)).toNat

/-- An accepted edge while ARM is set: the counter takes VALUE. -/
def loadTime (s : State) : State :=
  let v := getF s fGLB_TIME_NEXT_VALUE
  let s := setF s fGLB_TIME_NEXT_ARM 0
  { s with time := { s.time with ticks := v * 5 / 2, slew := 0, slewPos := 0 } }

/-- An accepted edge while ARM is clear. -/
def correctTime (s : State) : State :=
  let e := edgeError s.now
  let s := setF s fGLB_TIME_STAT_ERR_NS (int32 e)
  if -100 ≤ e ∧ e ≤ 100 then
    { raiseF s fGLB_TIME_STAT_LOCKED with time := { s.time with slew := e, slewPos := 0 } }
  else raiseF (setF s fGLB_TIME_STAT_LOCKED 0) fGLB_TIME_STAT_SYNC_LOST

/-- SYNC_IN_EDGE (R536): the first edge after AUX or after ARM is accepted wherever it falls, another within 1 us of a
second. -/
def execSyncInEdge (s : State) : Host.Outcome State Fault Refusal :=
  .next (
    let e := edgeError s.now
    if s.time.firstEdge ∨ (-1000 ≤ e ∧ e ≤ 1000) then
      let s := { s with time := { s.time with firstEdge := false, seenEdge := true } }
      if bitF s fGLB_TIME_NEXT_ARM then loadTime s else correctTime s
    else s)

/-- SYNC_MISSED (R536): a second has passed; MISSED counts it where no edge was accepted in it. -/
def execSyncMissed (s : State) : Host.Outcome State Fault Refusal :=
  .next (
    let t := { s with time := { s.time with seenEdge := false } }
    if s.time.seenEdge then t else bumpF t fGLB_TIME_STAT_MISSED 1)

/-- A write of GLB_TIME_NEXT by the PF: discarded where it sets ARM while serving or names no whole second. -/
def timeNext (s : State) (v : Nat) : State :=
  let value := natBits v 0 63
  let arm := natBits v 63 1
  if value % 1000000000 ≠ 0 ∨ (arm = 1 ∧ serving s) then s
  else
    let s := setF s fGLB_TIME_NEXT_VALUE value
    if arm = 1 then { raiseF s fGLB_TIME_NEXT_ARM with time := { s.time with firstEdge := true } } else s

/-- TIME_ARM (R536, R541). -/
def execTimeArm (fn : Fin 64) (value : Word) (s : State) : Host.Outcome State Fault Refusal :=
  .next (if fn.val ≠ 0 then errVfAccess s rGLB_TIME_NEXT fn else timeNext s value.toNat)

/-- REFCLK_LOSS (R537): REF_LOST, and a fault of the package. -/
def execRefclkLoss (s : State) : Host.Outcome State Fault Refusal :=
  .next (
    if !s.time.refclk then s
    else declareFault { raiseF s fGLB_TIME_STAT_REF_LOST with time := { s.time with refclk := false } } 0x000C
      (FaultAt.package 0))

/-- REFCLK_RESTORED (22 R704). -/
def execRefclkRestored (s : State) : Host.Outcome State Fault Refusal :=
  .next { s with time := { s.time with refclk := true } }

/-- MIRROR_REFRESH (21 R682, R683): every mirror takes its source's value. -/
def execMirrorRefresh (s : State) : Host.Outcome State Fault Refusal :=
  .next { s with power := { s.power with
    mirror := [(rPTC_INPUT, getReg s rPTC_INPUT), (rPTC_TEMP, getReg s rPTC_TEMP)] } }

end Sys2Proof.Machine
end

