-- ==== Sys2Proof/Machine/Regs.lean ====
section
/-!
DEFINITION. BAR0 accesses (spec 21, 00 R21-R33): what a register reads as, field by field from the tables and queues
that hold it, and what a write to it does. A write to a register that has a command of its own is that command.
-/
namespace Sys2Proof.Machine

open Sys2Proof

/-- A register value with fields replaced. -/
def withFields (v : Nat) (l : List (Field × Nat)) : Nat := l.foldl (fun v p => natSetBits v p.1.lo p.1.w p.2) v

/-- Word `w` of a wide entry. -/
def entryWord (e w : Nat) : Nat := natBits e (64 * w) 64

/-- How many entries of a list meet a condition. -/
def countIf {α : Type} (l : List α) (f : α → Bool) : Nat := (l.filter f).length

/-! ### Cluster windows (03 Table 03-9, R148, R149; 04 R193; 05 R220) -/

/-- CLU_SITE_REC. -/
def siteRecValue (s : State) (k i : Nat) : Nat :=
  let f := Config.siteFuse k i
  let c := siteCur s k i
  natBits f 0 30 + natBits c 0 30 * 2 ^ 30 + natBits f 30 1 * 2 ^ 60
    + bit ((enabledSites s k).contains i) * 2 ^ 61 + natBits c 30 1 * 2 ^ 62

/-- CLU_CEILING at the lower of VDD and its target (R58, 17 R584); the clock period is doubled during a droop. -/
def ceilingValue (s : State) (k : Nat) : Nat :=
  if pstate s k = 3 then 0
  else
    let c := getCP s k
    let m := ceilingAt s k (min c.vdd c.target)
    withFields 0 [(fCLU_CEILING_CEIL k, m.1), (fCLU_CEILING_FREQ k, if c.droop then c.freq / 2 else c.freq),
      (fCLU_CEILING_LIMIT_SITE k, m.2)]

/-- CLU_CORE_STAT: in a window of a cluster in DEEP or OFF only the fault fields are given. -/
def coreStatValue (s : State) (k i : Nat) : Nat :=
  let v := (getReg s (rCLU_CORE_STAT k i)).toNat
  if 2 ≤ pstate s k then natBits v 8 10 * 2 ^ 8
  else
    let a := ((getCore s (k * 192 + i)).strands.map (fun t => bit (t.phase != .idle))).zipIdx
    withFields v [(fCLU_CORE_STAT_STRAND_ACTIVE k i, (a.map (fun p => p.1 * 2 ^ p.2)).sum)]

/-- Half of a store entry. -/
def storeHalf (e : Entry) (high : Bool) : Nat := if high then e.toNat / 2 ^ 64 else e.toNat % 2 ^ 64

/-- CLU_ID, whose fields are fixed by the cluster's place (Table 03-9). -/
def cluIdValue (k v : Nat) : Nat :=
  withFields v [(fCLU_ID_CLUSTER k, k % 32), (fCLU_ID_DIE k, k / 32), (fCLU_ID_KIND k, bit (isPavilion k)),
    (fCLU_ID_CORE_BASE k, k * 192)]

/-- A register of a cluster window as its Reset column has it: CLU_ID, the default enable set, and the site records as
fused and as ageing has left them, which every reset but power-on keeps (R148). -/
def windowReset (s : State) (k o : Nat) : Nat :=
  let v := (regReset (0x4000000 + k * 0x10000 + o)).toNat
  if o = 0 then cluIdValue k v
  else if o < 0x40 ∧ 0x20 ≤ o then entryWord (((defaultSites k).map (fun i => 2 ^ i)).sum) ((o - 0x20) / 8)
  else if o < 0x740 ∧ 0x100 ≤ o then
    let i := (o - 0x100) / 8
    withFields (siteRecValue s k i) [(fCLU_SITE_REC_ENABLED k i, bit ((defaultSites k).contains i))]
  else v

/-- A commit that is due drains the clusters that it will reload until its swap (01 R61, 16 R555, log entry 16). -/
def commitDrains (s : State) (k : Nat) : Bool :=
  s.cfg.due && (match s.cfg.shadow with | some i => clusterChanged s.cfg.active i k | none => false)

/-- A register of cluster `k` at a window offset. -/
def windowValue (s : State) (k o : Nat) : Nat :=
  let v := (getReg s (0x4000000 + k * 0x10000 + o)).toNat
  if o = 0 then cluIdValue k v
  else if o = 8 then withFields v [(fCLU_STATE_DRAINING k, bit (commitDrains s k))]
  else if o = 0x10 then ceilingValue s k
  else if o < 0x40 ∧ 0x20 ≤ o then
    entryWord (((enabledSites s k).map (fun i => 2 ^ i)).sum) ((o - 0x20) / 8)
  else if o < 0x740 ∧ 0x100 ≤ o then siteRecValue s k ((o - 0x100) / 8)
  else if o < 0xE00 ∧ 0x800 ≤ o then coreStatValue s k ((o - 0x800) / 8)
  else if o < 0xF00 ∧ 0xE00 ≤ o then
    if 2 ≤ pstate s k then 0 else tabGet 0 (getCluster s k).clatch ((o - 0xE00) / 8)
  else if o = 0x4008 then withFields v [(fCLU_TBL_STAT_OPEN k, bit (storeOpen s k false || storeOpen s k true))]
  else if o = 0x2008 then withFields v [(fCLU_LUS_STAT_OPEN k, bit (lusOpen s k))]
  else if o < 0x2400 ∧ 0x2200 ≤ o then (slotWords s k (getF s (fCLU_LUS_SEL_SLOT k))).getD ((o - 0x2200) / 8) 0
  else if o < 0xC000 ∧ 0x8000 ≤ o then
    storeHalf (tabGet 0#128 s.comp.coreStore ((k * 192 + getF s (fCLU_TBL_SEL_CORE k)) * 1024 + (o - 0x8000) / 16))
      (o / 8 % 2 == 1)
  else if 0xC000 ≤ o then storeHalf (tabGet 0#128 s.comp.clusterStore (k * 1024 + (o - 0xC000) / 16)) (o / 8 % 2 == 1)
  else v

/-! ### The blocks of Gateway G0 -/

/-- The PDL_ registers (19 Table 19-10). -/
def padlockValue (s : State) (off v : Nat) : Nat :=
  if off = rPDL_ID then Config.serial % 2 ^ 64
  else if off = rPDL_LIFE then
    withFields v [(fPDL_LIFE_LIFE, voteList s.padlock.life), (fPDL_LIFE_SVN_FUSED, voteList s.padlock.svn)]
  else if off = rPDL_SLOTS then
    withFields v [(fPDL_SLOTS_FUSED, voteList s.padlock.fused),
      (fPDL_SLOTS_USABLE, ((List.range 4).map (fun n => bit (slotUsable s n) * 2 ^ n)).sum)]
  else if off = rPDL_DBG then
    withFields v [(fPDL_DBG_DEBUG, voteList s.padlock.debug), (fPDL_DBG_NONCE_VALID, bit s.padlock.nonce.isSome)]
  else if off < rPDL_CMD ∧ rPDL_NONCE 0 ≤ off then entryWord (nonceValue s) ((off - rPDL_NONCE 0) / 8)
  else v

/-- A voltage in 10 mV as PTC_CLU_STAT gives it. -/
def vddCode (v : Nat) : Nat := v - 55

/-- The PTC_ registers (17 Table 17-11); PTC_INPUT and PTC_TEMP are read from their mirrors (21 R682). -/
def powerValue (s : State) (off v : Nat) : Nat :=
  if off = rPTC_INPUT ∨ off = rPTC_TEMP then ((tabFind s.power.mirror off).getD (regReset off)).toNat
  else if off = rPTC_CLU_STAT then
    let k := getF s fPTC_CLU_SEL_DIE * 32 + getF s fPTC_CLU_SEL_CLUSTER
    let c := getCP s k
    withFields 0 [(fPTC_CLU_STAT_VPRES, vddCode c.vdd), (fPTC_CLU_STAT_VTARGET, vddCode c.target),
      (fPTC_CLU_STAT_FLIM, c.flim), (fPTC_CLU_STAT_TEMP, tempField (tabGet 0 s.power.temps k)),
      (fPTC_CLU_STAT_THERMAL, bit (tabHas s.power.limits (dieOfCluster k)))]
  else v

/-- The WRD_ registers (09 Table 09-9). -/
def wardValue (s : State) (off v : Nat) : Nat :=
  let n := fun (f : WardEntry → Bool) => countIf (wards s) (fun p => f p.2)
  if off = rWRD_TS_STAT then
    withFields v [(fWRD_TS_STAT_FREE, getF s fWRD_TS_STAT_SIZE - (s.ward.extents.map Prod.snd).sum)]
  else if off = rWRD_COUNT then
    withFields 0 [(fWRD_COUNT_IN_USE, n (fun e => e.phase != .free)),
      (fWRD_COUNT_SUSPENDED, n (fun e => e.phase == .paused || e.phase == .parked)),
      (fWRD_COUNT_ENDING, n (fun e => e.phase == .done || e.phase == .failed))]
  else if off < rWRD_ENT 8 ∧ rWRD_ENT 0 ≤ off then entryWord s.ward.entCopy ((off - rWRD_ENT 0) / 8)
  else v

/-- WDN_PRESSURE (10). -/
def pressureValue (s : State) : Nat :=
  let n := fun (f : WardEntry → Bool) => countIf (wards s) (fun p => f p.2)
  withFields 0 [(fWDN_PRESSURE_PAGE_WAIT, n (fun e => e.phase == .pageWait)),
    (fWDN_PRESSURE_DOOMED, n (fun e => e.phase != .free && e.doomed)),
    (fWDN_PRESSURE_ADAPTER_WAIT, n (fun e => e.phase == .adapterWait))]

/-- BZL_POOL_STAT and BZL_BIT_STAT (07). -/
def bezelValue (s : State) (off v : Nat) : Nat :=
  let n := fun (f : PageRec → Bool) => countIf s.bezel.pages (fun p => f p.2)
  if off = rBZL_POOL_STAT then
    withFields 0 [(fBZL_POOL_STAT_FREE_POOL, getF s fBZL_POOL_SIZE_PAGES - n (fun r => !(r.phase == .free && r.pooled))),
      (fBZL_POOL_STAT_QUARANTINE, min 65535 (n (fun r => r.phase == .quarantine))),
      (fBZL_POOL_STAT_ZERO_BACKLOG, min 65535 (n (fun r => r.phase == .zeroing)))]
  else if off = rBZL_BIT_STAT then
    withFields 0 [(fBZL_BIT_STAT_VALID, s.bezel.bitting.length), (fBZL_BIT_STAT_PREFIX_PAGES, (prefixPages s).length)]
  else v

/-- The MEM_ registers (11). -/
def memValue (s : State) (off v : Nat) : Nat :=
  if off = rMEM_CFG then withFields v [(fMEM_CFG_FRAMES, poolFrames s)]
  else if off = rMEM_FREE then
    withFields 0 [(fMEM_FREE_FREE, freeFrames s), (fMEM_FREE_ZEROING, countIf s.tiers.zeroing (fun f => decide (f < 786432))),
      (fMEM_FREE_MOVING, s.tiers.migs.length)]
  else if off = rMEM_LOAN then
    withFields v [(fMEM_LOAN_HELD, s.tiers.loans.length), (fMEM_LOAN_LENT, s.tiers.lent.length)]
  else v

/-- The FLS_ registers (11). -/
def flashValue (s : State) (off v : Nat) : Nat :=
  if off = rFLS_CAP then withFields v [(fFLS_CAP_GOOD_BLOCKS, ((upChans s).map (goodBlocks s)).sum)]
  else if off = rFLS_STAT then
    withFields v [(fFLS_STAT_BUF_FILL, s.flash.buffer.length * 100 / max 1 (bufferSize s)),
      (fFLS_STAT_FREE_BLOCKS, ((upChans s).map (chanFree s)).sum)]
  else if off = rFLS_WEAR then withFields 0 [(fFLS_WEAR_ERASE_MIN, eraseMin s), (fFLS_WEAR_ERASE_MAX, eraseMax s)]
  else v

/-- HNG_SLOT_STAT (12). -/
def slotValue (s : State) : Nat :=
  let n := getF s fHNG_SLOT_SEL_SLOT
  let x := getSlot s n
  if x.phase = .empty then 0
  else withFields 0 [(fHNG_SLOT_STAT_ADAPTER_ID, x.id), (fHNG_SLOT_STAT_STATE, if x.phase = .ready then 2 else 1),
    (fHNG_SLOT_STAT_PINNED, bit (slotPinned s n)), (fHNG_SLOT_STAT_DOMAIN, x.domain), (fHNG_SLOT_STAT_PUBLIC, bit x.pub),
    (fHNG_SLOT_STAT_RANK_M1, x.rank - 1)]

/-- ASY_CFG.PRESENT (13 R459). -/
def assayValue (s : State) (off v : Nat) : Nat :=
  if off = rASY_CFG then
    withFields v [(fASY_CFG_PRESENT, ((List.range 32).map (fun n => bit (enginePresent s n) * 2 ^ n)).sum)]
  else v

/-- Codes of Table 14-4. -/
def PortPhase.code : PortPhase → Nat
  | .disabled => 0
  | .training => 1
  | .up => 2
  | .held => 3
  | .retrain => 4
  | .recal => 5
  | .overload => 6
  | .down => 7
  | .recable => 8

/-- FAB_PORTn_STAT. -/
def portValue (s : State) (n : Nat) : Nat :=
  let p := getPort s n
  let hold := p.phase != .up && p.waiting.any (fun f => f.vc == 4 || (Packet.ofHeader f.header []).ord)
  withFields 0 [(fFAB_PORT_STAT_STATE n, p.phase.code), (fFAB_PORT_STAT_HOLD n, bit hold),
    (fFAB_PORT_STAT_REPLAY n, p.replay.length), (fFAB_PORT_STAT_OVL n, bit p.overlit),
    (fFAB_PORT_STAT_LANES n, p.lanes), (fFAB_PORT_STAT_FAR_ID n, p.farId), (fFAB_PORT_STAT_FAR_PORT n, p.farPort),
    (fFAB_PORT_STAT_FAR_PART n, p.farPart)]

/-- The FAB_ registers (14 Table 14-16). -/
def fabValue (s : State) (off v : Nat) : Nat :=
  if off = rFAB_ROUTE then tabGet 0 s.fab.routes (getF s fFAB_ROUTE_SEL_DEST)
  else if off < rFAB_WIN 4 ∧ rFAB_WIN 0 ≤ off then
    entryWord (tabGet 0 s.fab.windows (getF s fFAB_WIN_SEL_INDEX)) ((off - rFAB_WIN 0) / 8)
  else if off < rFAB_EWIN 4 ∧ rFAB_EWIN 0 ≤ off then
    entryWord (tabGet 0 s.fab.ewins (getF s fFAB_EWIN_SEL_INDEX)) ((off - rFAB_EWIN 0) / 8)
  else if off < rFAB_PORT_CFG 16 ∧ rFAB_PORT_CFG 0 ≤ off ∧ off % 0x20 = 8 then portValue s ((off - rFAB_PORT_CFG 0) / 0x20)
  else v

/-- The ETH_ registers (15 Table 15-10). -/
def ethValue (s : State) (off v : Nat) : Nat :=
  let n := off / 0x40 % 4
  if off < 0xE00100 then
    let q := tabGet [] s.host.ptpRx n
    match off % 0x40 with
    | 0x08 => withFields v [(fETH_PORT_STAT_QPS n,
        countIf s.host.qpEntry (fun p => natBits p.2 0 1 == 1 && natBits p.2 1 2 == n))]
    | 0x20 => withFields v [(fETH_PTP_RXSTAT_COUNT n, q.length),
        (fETH_PTP_RXSTAT_LEN n, match q with | x :: _ => x.bytes.length | [] => 0),
        (fETH_PTP_RXSTAT_SUB n, match q with | x :: _ => bit x.sub | [] => 0)]
    | 0x28 => match q with | x :: _ => x.time | [] => 0
    | _ => v
  else if off = rETH_QP_SEL then
    let i := getF s fETH_QP_SEL_INDEX
    withFields v [(fETH_QP_SEL_STATE, if qpValid s i then bit (getQP s i).err else 2)]
  else if off < rETH_QP 8 ∧ rETH_QP 0 ≤ off then entryWord (qpEntry s (getF s fETH_QP_SEL_INDEX)) ((off - rETH_QP 0) / 8)
  else if 0xE01000 ≤ off ∧ off % 0x800 / 0x100 = 4 then
    match tabGet [] s.host.ptpRx ((off - 0xE01000) / 0x800) with
    | x :: _ => leNat ((x.bytes.drop (off % 0x100)).take 8)
    | [] => 0
  else v

/-- The TEL_ registers other than TEL_HOLD (20 Table 20-11). -/
def telValue (s : State) (off v : Nat) : Nat :=
  if off = rTEL_TRACE_STAT then withFields v [(fTEL_TRACE_STAT_FROZEN, bit (traceFrozen s))]
  else if 0xF40000 ≤ off ∧ off < 0xFC0000 then catalogueWord ((off - 0xF40000) / 16) (off / 8 % 2 == 1)
  else v

/-- A register of the common map as the PF reads it, but for TEL_HOLD. -/
def globValue (s : State) (off : Nat) : Nat :=
  let v := (getReg s off).toNat
  if off = rGLB_TIME then s.now
  else
    match off / 0x100000 with
    | 0x2 => padlockValue s off v
    | 0x3 => powerValue s off v
    | 0x4 => wardValue s off v
    | 0x5 => if off = rWDN_PRESSURE then pressureValue s else v
    | 0x6 => bezelValue s off v
    | 0x7 => if 0x700100 ≤ off ∧ off % 0x40 = 0 then
        withFields v [(fXRT_ENG_STAT_OPEN 0, (getEngine s ((off - 0x700100) / 0x40)).src.length)] else v
    | 0x8 => memValue s off v
    | 0x9 => flashValue s off v
    | 0xA => if off = rHNG_SLOT_STAT then slotValue s else v
    | 0xB => assayValue s off v
    | 0xC => fabValue s off v
    | 0xE => ethValue s off v
    | 0xF => telValue s off v
    | _ => v

/-- A function-relative register (15 Table 15-9). -/
def fnValue (s : State) (fn off : Nat) : Nat :=
  let v := (getReg s (fn * 0x8000000 + off)).toNat
  if off < 0x8800 then
    if off % 0x20 = 0x18 then
      let q := (off - 0x8000) / 0x20
      let h := getHQ s fn q
      withFields 0 [(fGLB_Q_STAT_SQ_HEAD fn q, h.head), (fGLB_Q_STAT_CQ_TAIL fn q, h.cqTail),
        (fGLB_Q_STAT_ACTIVE fn q, bit (queueActive s fn q)), (fGLB_Q_STAT_ERR fn q, bit h.stopped),
        (fGLB_Q_STAT_PHASE fn q, bit h.phase), (fGLB_Q_STAT_SUBSEQ fn q, h.subseq)]
    else v
  else if off = 0x8810 then
    let r := getRing s fn
    withFields v [(fGLB_EQ_STAT_TAIL fn, r.tail), (fGLB_EQ_STAT_PHASE fn, bit r.phase)]
  else if off = 0x8818 then
    withFields 0 [(fGLB_FN_FUNCTION fn, fn), (fGLB_FN_PF fn, bit (fn == 0)),
      (fGLB_FN_TENANTS fn, countIf (activeRecs s 0x0005 1) (fun r => natBits r 29 7 == fn)),
      (fGLB_FN_CFG_GEN fn, activeGen s)]
  else v

/-! ### /T fields (00 R25, 21 R680) -/

/-- Whether the copies differ in a field. -/
def copiesDiffer (l : List Nat) (lo w : Nat) : Bool :=
  l.any (fun c => natBits c lo w != natBits (voteList l) lo w)

/-- Count corrections of a read. -/
def countFix (s : State) (b : Bool) : State := if b then count s 2 1 else s

/-- Replace a field of three copies by its vote. -/
def voteField (l : List Nat) (lo w : Nat) : List Nat := l.map (fun c => natSetBits c lo w (natBits (voteList l) lo w))

/-- The three copies of a site's CUR fields. -/
def curCopies (s : State) (k i : Nat) : List Nat :=
  match tabFind (getCluster s k).cur i with
  | some l => l
  | none => List.replicate 3 (natBits (Config.siteFuse k i) 0 30)

/-- The copies that hold a /T field, and the field's place in them. -/
def tripleCopies (s : State) (t : TripleField) : List Nat × Nat × Nat :=
  match t with
  | .life => (s.padlock.life, 0, 16)
  | .svn => (s.padlock.svn, 0, 7)
  | .fused => (s.padlock.fused, 0, 8)
  | .debug => (s.padlock.debug, 0, 16)
  | .cur k i p => (curCopies s k i, 10 * p.val, 10)

/-- Set the copies. -/
def setTriple (s : State) (t : TripleField) (l : List Nat) : State :=
  match t with
  | .life => setPad s { s.padlock with life := l }
  | .svn => setPad s { s.padlock with svn := l }
  | .fused => setPad s { s.padlock with fused := l }
  | .debug => setPad s { s.padlock with debug := l }
  | .cur k i _ => modCluster s k (fun c => { c with cur := tabSet c.cur i l })

/-- Read a /T field: the vote; where the copies differ they are rewritten and one correction is counted. -/
def readTriple (s : State) (t : TripleField) : Nat × State :=
  let (l, lo, w) := tripleCopies s t
  let v := natBits (voteList l) lo w
  if copiesDiffer l lo w then (v, count (setTriple s t (voteField l lo w)) 2 1) else (v, s)

/-- One copy of a /T field is upset: `flip` is what the upset turns over. -/
def upsetTriple (s : State) (t : TripleField) (copy flip : Nat) : State :=
  let (l, lo, w) := tripleCopies s t
  if flip % 2 ^ w = 0 then s
  else setTriple s t (l.modify copy (fun c => natSetBits c lo w (natBits c lo w ^^^ (flip % 2 ^ w))))

/-- The /T fields of a register. -/
def tripleFields (off : Nat) : List TripleField :=
  if off = rPDL_LIFE then [.life, .svn]
  else if off = rPDL_SLOTS then [.fused]
  else if off = rPDL_DBG then [.debug]
  else if h : 0x4000000 ≤ off ∧ off < 0x6000000 ∧ 0x100 ≤ off % 0x10000 ∧ off % 0x10000 < 0x740 then
    let k : Fin 512 := ⟨(off - 0x4000000) / 0x10000, by omega⟩
    let i : Fin 200 := ⟨(off % 0x10000 - 0x100) / 8, by omega⟩
    [.cur k i 0, .cur k i 1, .cur k i 2]
  else []

/-! ### Reads -/

/-- A register of a block that a warm reset closes, as its Reset column has it (R678). -/
def closedValue (s : State) (off : Nat) : Nat :=
  if 0x4000000 ≤ off then windowReset s ((off - 0x4000000) / 0x10000) (off % 0x10000)
  else assayValue s off (regReset off).toNat

/-- A register as the PF reads it; `set` is the holding set that TEL_HOLD gives. The link bits of an enabled Ethernet
port follow the line, which is no part of the block: free values; a port whose Gateway die is lost has none (01 R46). PROGRESS of an Assay scan moves on (13 R473). -/
def readRegister (s : State) (set off : Nat) : Nat × State :=
  if inWarm s && warmBlock off then (closedValue s off, (tripleFields off).foldl (fun s t => (readTriple s t).2) s)
  else if 0xFC0000 ≤ off ∧ off < 0x1000000 then holdRead s set ((off - 0xFC0000) / 8)
  else if 0x4000000 ≤ off then
    (windowValue s ((off - 0x4000000) / 0x10000) (off % 0x10000), (tripleFields off).foldl (fun s t => (readTriple s t).2) s)
  else if 0x8000 ≤ off ∧ off < 0x8840 then (fnValue s 0 off, s)
  else if 0xE00000 ≤ off ∧ off < 0xE00100 ∧ off % 0x40 = 8 then
    let n := off / 0x40 % 4
    let (b, s) := s.takeFree
    let up := bitF s (fETH_PORT_CFG_ENABLED n) && !s.fault.lostGw.contains n
    let sub := bitF s (fETH_PORT_CFG_BREAKOUT n)
    (withFields (globValue s off) [(fETH_PORT_STAT_LINK0 n, bit up * (b % 2)),
      (fETH_PORT_STAT_LINK1 n, bit (up && sub) * (b / 2 % 2))], s)
  else if 0xB00100 ≤ off ∧ off < 0xB00900 ∧ off % 0x40 = 0x30 then
    let s := lookScan s ((off - 0xB00100) / 0x40)
    (globValue s off, s)
  else
    let v := globValue s off
    let t := (tripleFields off).foldl (fun s t => (readTriple s t).2) s
    (v, if tripleFields off = [] then t else noteTriple t)

/-- A naturally aligned 64-bit read by the PF: reserved offsets read as zero (00 R32). -/
def readPF (s : State) (set off : Nat) : Nat × State :=
  if (regSpecOf off).isNone then (0, s) else readRegister s set off

/-! ### Writes (00 R21, R33) -/

/-- The encodings of an RW field that are reserved, where its table names some. -/
def reservedValue (off lo v : Nat) : Bool :=
  if off = rTEL_SRING_CFG then (lo == 0 && decide (13 ≤ v)) || (lo == 5 && decide (33 ≤ v))
  else if off = rTEL_TRACE_CTL then lo == 1 && v == 3
  else if off = rTEL_UART_CFG then decide (v < 4) || decide (104 < v)
  else if off = rMEM_MAP_CMD1 then lo == fMEM_MAP_CMD1_OP.lo && (v == 0 || decide (3 < v))
  else false

/-- A field after a write, by its access type. -/
def writeField (off : Nat) (new : Nat) (held : Nat) (f : FieldSpec) : Nat :=
  let x := natBits new f.lo f.w
  let y := natBits held f.lo f.w
  match f.acc with
  | .rw => if reservedValue off f.lo x then held else natSetBits held f.lo f.w x
  | .w1c => natSetBits held f.lo f.w (y - (y &&& x))
  | .w1s => natSetBits held f.lo f.w (y ||| x)
  | _ => held

/-- A write to a register with no effect beyond its fields. -/
def writeFields (s : State) (key : Nat) (v : Word) : State :=
  match regSpecOf key with
  | none => s
  | some r =>
    setReg s key (BitVec.ofNat 64 (r.fields.foldl (writeField (key % 0x8000000) v.toNat) (getReg s key).toNat))

/-- A write of CFG_CMD: more than one bit set is a reserved encoding. -/
def cfgCmd (s : State) (v : Nat) : State :=
  match v % 16 with
  | 1 => cfgLoad s 0
  | 2 => cfgCommit s 0
  | 4 => cfgDrop s 0
  | 8 => cfgStop s 0
  | _ => s

/-- A write of CFG_RESET (16 R562). A header that a cold reset cannot read is a free matter. -/
def cfgReset (s : State) (v : Nat) : State :=
  if natBits v 16 16 ≠ 0xA5C3 then cfgDiscard s
  else if v % 4 = 1 then startWarmReset s
  else if v % 4 = 2 then
    let (b, s) := s.takeFree
    coldReset s (b % 2 == 1)
  else cfgDiscard s

/-- A write of PTC_TRIP: clearing TRIPPED is a change of sensor 12 (20 R664). -/
def tripWrite (s : State) (v : Word) : State :=
  let t := writeFields s rPTC_TRIP v
  if bitF s fPTC_TRIP_TRIPPED && !bitF t fPTC_TRIP_TRIPPED then platformEvent t [12, 0] else t

/-- A write of TEL_SSELn: bit 15 of each id is reserved (00 R31). -/
def sselWrite (s : State) (off : Nat) (v : Word) : State := writeFields s off (v &&& 0x7FFF7FFF7FFF7FFF#64)

/-- A write of a register of Assay engine `n` (13 R464). -/
def assayWrite (s : State) (off : Nat) (v : Word) : State :=
  let n := (off - 0xB00100) / 0x40
  let o := (off - 0xB00100) % 0x40
  if o = 0 then asyCtlWrite s 0 n v
  else if !enginePresent s n then s
  else if 0x08 ≤ o ∧ o ≤ 0x20 ∧ (getScan s n).isSome then raiseF s (fASY_ENG_STAT_DISCARDED n)
  else writeFields s off v

/-- A write of ETH_PTPn_TXBUF. -/
def txBufWrite (s : State) (off : Nat) (v : Word) : State :=
  let n := (off - 0xE01000) / 0x800
  let old := tabGet [] s.host.ptpTx n
  let buf := old ++ List.replicate (256 - old.length) 0#8
  let at_ := off % 0x800
  { s with host := { s.host with
    ptpTx := tabSet s.host.ptpTx n (buf.take at_ ++ leBytes 8 v.toNat ++ buf.drop (at_ + 8)) } }

/-- A write to cluster `k` at a window offset. -/
def windowWrite (s : State) (k o : Nat) (v : Word) : State :=
  if o = 0x4000 then tblSel s k v.toNat
  else if o = 0x2010 then lusCmd s k v.toNat
  else if o < 0x2400 ∧ 0x2200 ≤ o then lusProg s k ((o - 0x2200) / 8) v
  else if o < 0xC000 ∧ 0x8000 ≤ o then
    (if o / 8 % 2 = 1 then entryHigh else entryLow) s k false ((o - 0x8000) / 16) v
  else if 0xC000 ≤ o then
    (if o / 8 % 2 = 1 then entryHigh else entryLow) s k true ((o - 0xC000) / 16) v
  else writeFields s (0x4000000 + k * 0x10000 + o) v

/-- A write to a function-relative register by its function. -/
def fnWrite (s : State) (fn off : Nat) (v : Word) : State :=
  if off < 0x8800 then
    let q := (off - 0x8000) / 0x20
    match off % 0x20 with
    | 0x00 => queueBase s fn q (fGLB_SQ_BASE_ADDR fn q) v.toNat
    | 0x08 => queueBase s fn q (fGLB_CQ_BASE_ADDR fn q) v.toNat
    | 0x10 => queueCfg s fn q v.toNat
    | _ => s
  else if off = 0x8808 then eqCfg s fn v.toNat
  else if off = 0x8828 then hreqCfg s v.toNat
  else writeFields s (fn * 0x8000000 + off) v

/-- A naturally aligned write by the PF to a register of the map. -/
def writeRegister (s : State) (off : Nat) (v : Word) : State :=
  if 0x4000000 ≤ off then windowWrite s ((off - 0x4000000) / 0x10000) (off % 0x10000) v
  else if 0x8000 ≤ off ∧ off < 0x8840 then fnWrite s 0 off v
  else if off = rGLB_TIME_NEXT then timeNext s v.toNat
  else if off = rGLB_DUMP_CTL then dumpCtl s v
  else if off = rCFG_CMD then cfgCmd s v.toNat
  else if off = rCFG_RESET then cfgReset s v.toNat
  else if off = rPDL_CMD then
    padlockCmd s 0 (natBits v.toNat 0 4) (natBits v.toNat 4 2) (natBits v.toNat 16 16)
  else if off = rPTC_CAP then setCap s (v.toNat % 65536)
  else if off = rPTC_TRIP then tripWrite s v
  else if off = rWRD_ENT_SEL then wrdEntSel s (v.toNat % 65536)
  else if off = rMEM_MAP_GO then (if v.toNat % 2 = 1 then mapGo s 0 else s)
  else if 0xB00100 ≤ off ∧ off < 0xB00900 then assayWrite s off v
  else if rFAB_PORT_CFG 0 ≤ off ∧ off < rFAB_PORT_CFG 16 then
    (if off % 0x20 = 0x10 then portCtl s ((off - rFAB_PORT_CFG 0) / 0x20) v.toNat else s)
  else if 0xE00000 ≤ off ∧ off < 0xE00100 then
    match off % 0x40 with
    | 0x10 => ptpTxCtl s (off / 0x40 % 4) v.toNat
    | 0x20 => ptpRxStat s (off / 0x40 % 4) v.toNat
    | _ => s
  else if off = rETH_QP_CTL then qpCtl s v.toNat
  else if 0xE01000 ≤ off ∧ off < 0xF00000 then (if off % 0x800 < 0x400 then txBufWrite s off v else s)
  else if off = rTEL_SNAP then (if v.toNat % 2 = 1 then snapGo s else s)
  else if off = rTEL_TRACE_MARK then traceMark s v.toNat
  else if rTEL_SSEL 0 ≤ off ∧ off < rTEL_SSEL 8 then sselWrite s off v
  else writeFields s off v

/-- A VF's view (R677): a write to a function-relative register that is the PF's alone is recorded too (R541). -/
def writeVF (s : State) (fn off : Nat) (v : Word) : State :=
  if off = rPDL_CMD ∨ off = rPDL_CMD_ADDR then raiseF (errVfAccess s off fn) fPDL_STAT_DISCARDED
  else if 0x8000 ≤ off ∧ off < 0x8840 then
    if off = 0x8820 ∨ off = 0x8828 ∨ off = 0x8830 then errVfAccess s off fn
    else if (regSpecOf off).isNone then s
    else fnWrite s fn off v
  else if off < 0x28 ∨ off = rGLB_TIME then s
  else errVfAccess s off fn

/-- A 64-bit BAR0 write (00 R28, R29, R32; R678). -/
def writeBar0 (s : State) (fn off : Nat) (v : Word) : State :=
  if off % 8 ≠ 0 then errWidth s off fn true
  else if fn ≠ 0 then writeVF s fn off v
  else if (regSpecOf off).isNone then s
  else if inWarm s && warmBlock off then errNotReady s off fn
  else writeRegister s off v

/-! ### Commands -/

/-- REGISTER_WRITE. -/
def execRegisterWrite (fn : Fin 64) (off : Fin 134217728) (value : Word) (s : State) : Host.Outcome State Fault Refusal :=
  .next (writeBar0 s fn off value)

/-- BAD_WIDTH_ACCESS (00 R29): a write is discarded, a read returns zero; both are recorded. -/
def execBadWidthAccess (fn : Fin 64) (off : Fin 134217728) (write : Bool) (s : State) :
    Host.Outcome State Fault Refusal :=
  .next (
    let s := errWidth s off fn write
    if write then s else s.emit .readData [0])

/-- TRIPLE_FIELD_READ (21 R680): the field is read after an upset of one copy (`flip` 0: none). -/
def execTripleFieldRead (field : TripleField) (copy : Fin 3) (flip : Nat) (s : State) :
    Host.Outcome State Fault Refusal :=
  .next (
    let (v, s) := readTriple (upsetTriple s field copy flip) field
    noteTriple (s.emit .readData [v]))

end Sys2Proof.Machine
end

