-- ==== Sys2Proof/Machine/Mgmt.lean ====
section
/-!
DEFINITION. Telemetry, trace, the management endpoint and the console as commands (spec 20).
-/
namespace Sys2Proof.Machine

open Sys2Proof

/-! ### Snapshots and the sampler (R652-R654) -/

/-- SNAP_GO: TEL_SNAP.GO written. -/
def execSnapGo (fn : Fin 64) (s : State) : Host.Outcome State Fault Refusal := .next (pfWrite s rTEL_SNAP fn snapGo)

/-- Count an answer of the management endpoint. -/
def mgmtAnswer (s : State) (args : List Nat) : State := count (s.emit .i3c args) 0x0008 1

/-- A set has been filled: DONE and SEQ of set 0, or the answer to SNAP of set 1. -/
def snapshotDone (s : State) (n : Nat) : State :=
  match tabFind s.tel.filling n with
  | none => s
  | some c =>
    let s := setTel s { s.tel with hold := tabSet s.tel.hold n c, filling := tabDel s.tel.filling n }
    if n = 0 then bumpWrapF (raiseF s fTEL_SNAP_STAT_DONE) fTEL_SNAP_STAT_SEQ 1
    else
      let q := (s.tel.seq1 + 1) % 2 ^ 32
      let req := s.tel.snapReq
      let s := setTel s { s.tel with seq1 := q, snapReq := none }
      match req with
      | some r => mgmtAnswer s [1, r, 0x3F, 2, 0, q]
      | none => s

/-- SNAPSHOT_COMPLETE: of set 0 or set 1; the sampler and the dump engine fill theirs at once. -/
def execSnapshotComplete (set : Fin 2) (s : State) : Host.Outcome State Fault Refusal := .next (snapshotDone s set)

/-- The COUNT ids of the sample list. -/
def sampleIds (s : State) : List Nat :=
  (List.range (getF s fTEL_SRING_CFG_COUNT)).map (fun j => natBits (getReg s (rTEL_SSEL (j / 4))).toNat (16 * (j % 4)) 15)

/-- Items of 64 bits as one little-endian number. -/
def packWords : List Nat → Nat
  | [] => 0
  | x :: xs => x % 2 ^ 64 + packWords xs * 2 ^ 64

/-- The record of sample `n` to the host's ring. -/
def sampleRecord (s : State) (c : List (Nat × Nat)) (n : Nat) (good : Bool) : State :=
  if !bitF s fTEL_SRING_CFG_EN then s
  else if !good then raiseF (setF s fTEL_SRING_CFG_EN 0) fTEL_SRING_STAT_FAIL
  else
    let vs := (sampleIds s).map (tabGet 0 c)
    let rs := 16 + 8 * vs.length
    let slot := n % 2 ^ (getF s fTEL_SRING_CFG_LOG + 4)
    let s := s.emit .hostWrite [0, getF s fTEL_SRING_BASE_ADDR * 4096 + rs * slot, rs, packWords (s.now :: n % 2 ^ 32 :: vs)]
    setF s fTEL_SRING_STAT_SEQ (n % 2 ^ 32)

/-- SAMPLER_TICK: device time is a multiple of 1 ms; `good` says that a DMA write succeeds. -/
def execSamplerTick (good : Bool) (s : State) : Host.Outcome State Fault Refusal :=
  .next (
    let (c, s) := snapshotCounters s
    let n := s.tel.samples
    let h := s.tel.history ++ [(getF s fPTC_INPUT_POWER, getF s fPTC_TEMP_TJ_MAX)]
    let s := setTel s { s.tel with
      hold := tabSet s.tel.hold 2 c
      samples := n + 1
      history := h.drop (h.length - 1024) }
    sampleRecord s c n good)

/-! ### Trace (R655-R660) -/

/-- TRACE_RECORD: a source emits a record of its event at `time`; `fifoFull` says that its FIFO has no room. TIMESYNC is the
funnel's own. -/
def execTraceRecord (type : Fin 256) (source : Fin 4096) (arg : Fin 1048576) (data : Word) (time : Nat) (fifoFull : Bool)
    (s : State) : Host.Outcome State Fault Refusal :=
  .next (if type.val = 1 then s else traceRecord s type source arg data.toNat time fifoFull)

/-- TIMESYNC (R658): at a device time that is a multiple of 2^20 ns. -/
def execTimesync (s : State) : Host.Outcome State Fault Refusal :=
  .next (if traceOpen s then traceSync s (s.now / 2 ^ 20 * 2 ^ 20) else s)

/-- TRACE_HOST_COPY (R660). -/
def execTraceHostCopy (good : Bool) (s : State) : Host.Outcome State Fault Refusal := .next (traceCopy s good)

/-- TRACE_MARK: TEL_TRACE_MARK written. -/
def execTraceMark (fn : Fin 64) (value : Word) (s : State) : Host.Outcome State Fault Refusal :=
  .next (pfWrite s rTEL_TRACE_MARK fn (fun s => traceMark s value.toNat))

/-! ### I3C and MCTP control (R661, R662) -/

/-- DYNAMIC_ADDRESS_ASSIGN: SETDASA at the static address 0x3A, or ENTDAA, which the target answers with its provisional
ID; a target that has an address takes part in neither. -/
def execDynamicAddressAssign (setdasa : Bool) (addr : Fin 128) (s : State) : Host.Outcome State Fault Refusal :=
  .next (
    if !endpointUp s || s.tel.i3cAddr.isSome then s
    else
      let s := if setdasa then s else s.emit .i3c [0xDAA, Config.serial % 2 ^ 32 + 2 ^ 32]
      setTel s { s.tel with i3cAddr := some addr.val })

/-- A control message reaches the endpoint: the null ID, or its own. -/
def heard (s : State) (dest : Nat) : Bool := endpointUp s && (dest == 0 || (s.tel.eid != 0 && dest == s.tel.eid))

/-- Answer a control message that the endpoint hears. -/
def control (s : State) (dest : Nat) (args : List Nat) : State := if heard s dest then mgmtAnswer s (0 :: args) else s

/-- SET_ENDPOINT_ID; 0x00 and 0xFF are no ids and are answered with invalid data (log entry 110). -/
def execSetEndpointId (dest eid : Fin 256) (s : State) : Host.Outcome State Fault Refusal :=
  .next (
    if !heard s dest then s
    else if eid.val = 0 ∨ eid.val = 0xFF then control s dest [0x01, 0x02]
    else setTel (control s dest [0x01, 0, 0, eid]) { (control s dest [0x01, 0, 0, eid]).tel with eid := eid })

/-- GET_ENDPOINT_ID. -/
def execGetEndpointId (dest : Fin 256) (s : State) : Host.Outcome State Fault Refusal :=
  .next (control s dest [0x02, 0, s.tel.eid])

/-- GET_ENDPOINT_UUID. -/
def execGetEndpointUuid (dest : Fin 256) (s : State) : Host.Outcome State Fault Refusal :=
  .next (control s dest [0x03, 0, Config.mctpUuid Config.serial % 2 ^ 128])

/-- GET_MCTP_VERSION_SUPPORT. -/
def execGetMctpVersionSupport (dest type : Fin 256) (s : State) : Host.Outcome State Fault Refusal :=
  .next (control s dest (0x04 :: 0 :: Config.mctpVersions type))

/-- GET_MESSAGE_TYPE_SUPPORT: control, PLDM and SPDM. -/
def execGetMessageTypeSupport (dest : Fin 256) (s : State) : Host.Outcome State Fault Refusal :=
  .next (control s dest [0x05, 0, 3, 0, 1, 5])

/-- MCTP_DISCARD: a message of another type. -/
def execMctpDiscard (_type : Fin 256) (s : State) : Host.Outcome State Fault Refusal := .next s

/-! ### PLDM (R663-R666) -/

/-- Completion codes of PLDM (log entry 110). -/
def pldmSUCCESS : Nat := 0
def pldmERROR : Nat := 1
def pldmINVALID_DATA : Nat := 2
def pldmNOT_READY : Nat := 4
def pldmINVALID_ID : Nat := 0x80

/-- Answer a request. -/
def pldmAnswer (s : State) (req type code cc : Nat) (data : List Nat) : State :=
  mgmtAnswer s ([1, req, type, code, cc] ++ data)

/-- Take a PLDM request: while an earlier one of its requester, a SNAP, is unanswered, it is not ready (R663). -/
def pldm (s : State) (req type code : Nat) (f : State → State) : State :=
  if !endpointUp s then s
  else if s.tel.snapReq = some req then pldmAnswer s req type code pldmNOT_READY []
  else f s

/-- The reading of a sensor of Table 20-8. -/
def sensorReading (s : State) (id : Nat) : Option Nat :=
  let t := powerValue s rPTC_TEMP 0
  let i := powerValue s rPTC_INPUT 0
  match id with
  | 1 => some (natBits t fPTC_TEMP_TJ_MAX.lo 12)
  | 2 => some (natBits t fPTC_TEMP_HBM_MAX.lo 12)
  | 3 => some (natBits t fPTC_TEMP_OPT_MAX.lo 12)
  | 4 => some (natBits i fPTC_INPUT_POWER.lo 16)
  | 5 => some (natBits i fPTC_INPUT_VIN.lo 16)
  | 10 => some (getF s fGLB_FAULT_STAT_PHASE)
  | 11 => some (getF s fCFG_STAT_STAGE)
  | 12 => some (getF s fPTC_TRIP_TRIPPED)
  | _ => none

/-- PLDM_SENSOR_READ. -/
def execPldmSensorRead (req : Fin 256) (id : Fin 65536) (s : State) : Host.Outcome State Fault Refusal :=
  .next (pldm s req 2 0x11 (fun s =>
    match sensorReading s id with
    | some v => pldmAnswer s req 2 0x11 pldmSUCCESS [v]
    | none => pldmAnswer s req 2 0x11 pldmINVALID_ID []))

/-- CAP_EFFECTER (17 R587). -/
def execCapEffecter (req : Fin 256) (watts : Fin 65536) (s : State) : Host.Outcome State Fault Refusal :=
  .next (pldm s req 2 0x31 (fun s =>
    let ok := decide (3000 ≤ watts.val) && decide (watts.val ≤ 6000)
    pldmAnswer (setCap s watts) req 2 0x31 (if ok then pldmSUCCESS else pldmINVALID_DATA) []))

/-- RESET_EFFECTER: as CFG_RESET with its key (16 R562). The answer goes out before the reset. -/
def execResetEffecter (req : Fin 256) (value : Fin 256) (s : State) : Host.Outcome State Fault Refusal :=
  .next (pldm s req 2 0x39 (fun s =>
    if value.val = 1 ∨ value.val = 2 then cfgReset (pldmAnswer s req 2 0x39 pldmSUCCESS []) (0xA5C3 * 2 ^ 16 + value.val)
    else pldmAnswer s req 2 0x39 pldmINVALID_DATA []))

/-- Set a firmware copy in boot NOR. -/
def setNor (s : State) (n : Nat) (bs : List Byte) : State := setPad s { s.padlock with nor := tabSet s.padlock.nor n bs }

/-- FIRMWARE_UPDATE (R665): the copy that is not running is written and checked under 19 R638; only then the running
copy is rewritten. -/
def execFirmwareUpdate (req : Fin 256) (image : List Byte) (s : State) : Host.Outcome State Fault Refusal :=
  .next (pldm s req 5 0x1A (fun s =>
    let run := getF s fPDL_LIFE_COPY
    let s := setNor s (1 - run) image
    if fwOk s image then pldmAnswer (setNor s run image) req 5 0x1A pldmSUCCESS []
    else pldmAnswer s req 5 0x1A pldmERROR []))

/-- Store windows of a cluster (03 Table 03-9, log entry 108). -/
def inStoreWindow (off : Nat) : Bool :=
  decide (0x4000000 ≤ off) && decide (off < 0x6000000) && decide (0x2000 ≤ off % 0x10000)

/-- The value that READ_REG returns; none for an offset that is not 8-byte aligned. -/
def regRead (s : State) (off : Nat) : Option Nat × State :=
  if off % 8 ≠ 0 then (none, s)
  else if inStoreWindow off then (some 0, s)
  else
    let (v, s) := readPF s 1 off
    (some v, s)

/-- READ_REG. -/
def execReadReg (req : Fin 256) (off : Fin 134217728) (s : State) : Host.Outcome State Fault Refusal :=
  .next (pldm s req 0x3F 1 (fun s =>
    match regRead s off with
    | (some v, s) => pldmAnswer s req 0x3F 1 pldmSUCCESS [v]
    | (none, s) => pldmAnswer s req 0x3F 1 pldmINVALID_DATA []))

/-- SNAP: set 1; its answer waits for SNAPSHOT_COMPLETE. While set 1 is filling for another requester it is discarded
(R653). -/
def execSnap (req : Fin 256) (s : State) : Host.Outcome State Fault Refusal :=
  .next (pldm s req 0x3F 2 (fun s =>
    if isFilling s 1 then raiseF s fTEL_SNAP_STAT_DISCARDED
    else
      let s := beginSnapshot s 1
      setTel s { s.tel with snapReq := some req.val }))

/-- READ_DUMP: bytes of a slot; refused while it is EMPTY or WRITING, or past its end. -/
def execReadDump (req : Fin 256) (slot : Fin 2) (offset : Nat) (len : Fin 1025) (s : State) :
    Host.Outcome State Fault Refusal :=
  .next (pldm s req 0x3F 3 (fun s =>
    if len.val = 0 then pldmAnswer s req 0x3F 3 pldmINVALID_DATA []
    else if dumpState s slot < 2 then pldmAnswer s req 0x3F 3 pldmERROR []
    else
      match dumpPlace s slot with
      | none => pldmAnswer s req 0x3F 3 pldmERROR []
      | some (base, size) =>
        if size < offset + len.val then pldmAnswer s req 0x3F 3 pldmINVALID_DATA []
        else pldmAnswer s req 0x3F 3 pldmSUCCESS ((memBytes s.tiers.hbm (base + offset) len).map BitVec.toNat)))

/-- RELEASE_DUMP: as GLB_DUMP_CTL.RELEASEn (18 R626). -/
def execReleaseDump (req : Fin 256) (slot : Fin 2) (s : State) : Host.Outcome State Fault Refusal :=
  .next (pldm s req 0x3F 4 (fun s => pldmAnswer (releaseSlot s slot) req 0x3F 4 pldmSUCCESS []))

/-! ### The UART console (R667-R669) -/

/-- UART_BYTE_RECEIVE: `stop` is the majority of the stop bit. -/
def execUartByteReceive (byte : Byte) (stop : Bool) (s : State) : Host.Outcome State Fault Refusal :=
  .next (
    if !stop then count (raiseF s fTEL_UART_STAT_FRAMING) 0x0009 1
    else if 64 ≤ s.tel.rxFifo.length then count (raiseF s fTEL_UART_STAT_OVERRUN) 0x000A 1
    else setTel s { s.tel with rxFifo := s.tel.rxFifo ++ [byte] })

/-- A line has been taken: its bytes leave the FIFO (log entry 109). -/
def takeLine (s : State) : State := setTel s { s.tel with rxFifo := [] }

/-- An answer whose last line begins OK. -/
def conOK (s : State) (items : List Nat) : State := s.emit .console (1 :: items)

/-- An answer ERR. -/
def conERR (s : State) : State := s.emit .console [0]

/-- VERSION of the running firmware copy. -/
def fwVersion (s : State) : Nat := natBits (leNat ((norCopy s (getF s fPDL_LIFE_COPY)).take 64)) 64 32

/-- ver: stepping, firmware VERSION and copy, LIFE, DEBUG. -/
def execConVer (s : State) : Host.Outcome State Fault Refusal :=
  .next (conOK (takeLine s) [getF s fGLB_ID_STEPPING, fwVersion s, getF s fPDL_LIFE_COPY, voteList s.padlock.life,
    voteList s.padlock.debug])

/-- stat: CFG_STAT, GLB_FAULT_STAT, PTC_STAT. -/
def execConStat (s : State) : Host.Outcome State Fault Refusal :=
  .next (conOK (takeLine s) [(getReg s rCFG_STAT).toNat, (getReg s rGLB_FAULT_STAT).toNat, (getReg s rPTC_STAT).toNat])

/-- time: GLB_TIME and GLB_TIME_STAT. -/
def execConTime (s : State) : Host.Outcome State Fault Refusal :=
  .next (conOK (takeLine s) [s.now, (getReg s rGLB_TIME_STAT).toNat])

/-- temp: PTC_TEMP and PTC_INPUT. -/
def execConTemp (s : State) : Host.Outcome State Fault Refusal :=
  .next (conOK (takeLine s) [powerValue s rPTC_TEMP 0, powerValue s rPTC_INPUT 0])

/-- baud d: DIV becomes d after the reply; a value outside 4-104 leaves DIV (R33). -/
def execConBaud (d : Nat) (s : State) : Host.Outcome State Fault Refusal :=
  .next (
    let s := takeLine s
    if 4 ≤ d ∧ d ≤ 104 then setF (conOK s []) fTEL_UART_CFG_DIV d else conERR s)

/-- rd off: as READ_REG, in OPEN. -/
def execConRd (off : Fin 134217728) (s : State) : Host.Outcome State Fault Refusal :=
  .next (
    let s := takeLine s
    if !debugOpen s then conERR s
    else
      match regRead s off with
      | (some v, s) => conOK s [v]
      | (none, s) => conERR s)

/-- wr off val: a PF write, in OPEN. -/
def execConWr (off : Fin 134217728) (value : Word) (s : State) : Host.Outcome State Fault Refusal :=
  .next (
    let s := takeLine s
    if !debugOpen s then conERR s else conOK (writeBar0 s 0 off value) [])

/-- trace n: the n latest trace records, in OPEN. -/
def execConTrace (n : Nat) (s : State) : Host.Outcome State Fault Refusal :=
  .next (
    let s := takeLine s
    if !debugOpen s then conERR s else conOK s (s.tel.trace.drop (s.tel.trace.length - n)))

/-- Any other line. -/
def execConsoleUnknown (s : State) : Host.Outcome State Fault Refusal := .next (conERR (takeLine s))

end Sys2Proof.Machine
end

