-- ==== Sys2Proof/Machine/Dispatch.lean ====
section
/-!
DEFINITION. The dispatch: one arm per command, one direct call of its meaning.
-/
namespace Sys2Proof.Machine
open Sys2Proof

def exec (i : Instr) (s : State) : Host.Outcome State Fault Refusal :=
  match i with
  | .registerWrite fn off value => Sys2Proof.Machine.execRegisterWrite fn off value s
  | .badWidthAccess fn off write => Sys2Proof.Machine.execBadWidthAccess fn off write s
  | .tripleFieldRead field copy flip => Sys2Proof.Machine.execTripleFieldRead field copy flip s
  | .ageingRecalibration cluster site lo mid hi => Sys2Proof.Machine.execAgeingRecalibration cluster site lo mid hi s
  | .sramScrubRead core store index error => Sys2Proof.Machine.execSramScrubRead core store index error s
  | .sramScrubOverdue core bank => Sys2Proof.Machine.execSramScrubOverdue core bank s
  | .streamLineWrite core buffer expander => Sys2Proof.Machine.execStreamLineWrite core buffer expander s
  | .waitTimeout core strand => Sys2Proof.Machine.execWaitTimeout core strand s
  | .girdleFlitReceive link back good => Sys2Proof.Machine.execGirdleFlitReceive link back good s
  | .girdleLaneRepair link back lanes => Sys2Proof.Machine.execGirdleLaneRepair link back lanes s
  | .girdleLinkDown link back => Sys2Proof.Machine.execGirdleLinkDown link back s
  | .tblEmpty core strand => Sys2Proof.Machine.execEmpty core strand s
  | .tblNop core strand => Sys2Proof.Machine.execNop core strand s
  | .tblJump core strand => Sys2Proof.Machine.execJump core strand s
  | .tblBranch core strand => Sys2Proof.Machine.execBranch core strand s
  | .tblLoop core strand => Sys2Proof.Machine.execLoop core strand s
  | .tblEndloop core strand => Sys2Proof.Machine.execEndloop core strand s
  | .tblCall core strand => Sys2Proof.Machine.execCall core strand s
  | .tblReturn core strand => Sys2Proof.Machine.execReturn core strand s
  | .tblWait core strand => Sys2Proof.Machine.execWait core strand s
  | .tblEnd core strand => Sys2Proof.Machine.execEnd core strand s
  | .tblNotify core strand => Sys2Proof.Machine.execNotify core strand s
  | .tblSimm core strand => Sys2Proof.Machine.execSimm core strand s
  | .tblSalu core strand => Sys2Proof.Machine.execSalu core strand s
  | .tblSload core strand => Sys2Proof.Machine.execSload core strand s
  | .tblSstore core strand => Sys2Proof.Machine.execSstore core strand s
  | .tblAmov core strand => Sys2Proof.Machine.execAmov core strand s
  | .tblAadd core strand => Sys2Proof.Machine.execAadd core strand s
  | .tblFlags core strand => Sys2Proof.Machine.execFlags core strand s
  | .tblDma core strand => Sys2Proof.Machine.execDma core strand s
  | .tblMove core strand => Sys2Proof.Machine.execMove core strand s
  | .tblAtomic core strand => Sys2Proof.Machine.execAtomic core strand s
  | .tblMatmul core strand => Sys2Proof.Machine.execMatmul core strand s
  | .tblEpilogue core strand => Sys2Proof.Machine.execEpilogue core strand s
  | .tblLustre core strand => Sys2Proof.Machine.execLustre core strand s
  | .tblWadd core strand => Sys2Proof.Machine.execWadd core strand s
  | .tblWmerge core strand => Sys2Proof.Machine.execWmerge core strand s
  | .tblWread core strand => Sys2Proof.Machine.execWread core strand s
  | .tblWclear core strand => Sys2Proof.Machine.execWclear core strand s
  | .operationComplete core op => Sys2Proof.Machine.execOperationComplete core op s
  | .remoteDataReturn core op => Sys2Proof.Machine.execRemoteDataReturn core op s
  | .translationRefusalReturn core op => Sys2Proof.Machine.execTranslationRefusalReturn core op s
  | .launchComplete core => Sys2Proof.Machine.execLaunchComplete core s
  | .clusterStoreLineArrival core strand => Sys2Proof.Machine.execClusterStoreLineArrival core strand s
  | .cluTblSelWrite fn cluster value => Sys2Proof.Machine.execCluTblSelWrite fn cluster value s
  | .storeEntryLowWrite fn cluster clus index value => Sys2Proof.Machine.execStoreEntryLowWrite fn cluster clus index value s
  | .storeEntryHighWrite fn cluster clus index value => Sys2Proof.Machine.execStoreEntryHighWrite fn cluster clus index value s
  | .cluLusProgWrite fn cluster index value => Sys2Proof.Machine.execCluLusProgWrite fn cluster index value s
  | .lustreSlotCommit fn cluster => Sys2Proof.Machine.execLustreSlotCommit fn cluster s
  | .lustreSlotInvalidate fn cluster => Sys2Proof.Machine.execLustreSlotInvalidate fn cluster s
  | .tblAstep core strand => Sys2Proof.Machine.execAstep core strand s
  | .tblAfold core strand => Sys2Proof.Machine.execAfold core strand s
  | .tblAnorm core strand => Sys2Proof.Machine.execAnorm core strand s
  | .tblAlmax core strand => Sys2Proof.Machine.execAlmax core strand s
  | .tblAlsum core strand => Sys2Proof.Machine.execAlsum core strand s
  | .tblAlprob core strand => Sys2Proof.Machine.execAlprob core strand s
  | .tblAmerge core strand => Sys2Proof.Machine.execAmerge core strand s
  | .tblXselect core strand => Sys2Proof.Machine.execXselect core strand s
  | .tblXdispatch core strand => Sys2Proof.Machine.execXdispatch core strand s
  | .tblXreturn core strand => Sys2Proof.Machine.execXreturn core strand s
  | .tblXgather core strand => Sys2Proof.Machine.execXgather core strand s
  | .tblXbag core strand => Sys2Proof.Machine.execXbag core strand s
  | .claim engine step layer claim => Sys2Proof.Machine.execClaim engine step layer claim s
  | .sealArrival engine step layer share => Sys2Proof.Machine.execSeal engine step layer share s
  | .groupDecide engine step layer => Sys2Proof.Machine.execGroupDecide engine step layer s
  | .claimOutcome engine order granted => Sys2Proof.Machine.execClaimOutcome engine order granted s
  | .dispatchedRow engine step layer pkg src order data => Sys2Proof.Machine.execDispatchedRow engine step layer pkg src order data s
  | .returnedRow engine order data => Sys2Proof.Machine.execReturnedRow engine order data s
  | .kvRecordApply core => Sys2Proof.Machine.execKvRecordApply core s
  | .pageFree page => Sys2Proof.Machine.execPageFree page s
  | .pageZeroingComplete page => Sys2Proof.Machine.execPageZeroingComplete page s
  | .generationSweep => Sys2Proof.Machine.execGenerationSweep s
  | .parkComplete ward => Sys2Proof.Machine.execParkComplete ward s
  | .resumePageReturn ward index flips => Sys2Proof.Machine.execResumePageReturn ward index flips s
  | .bittingLookup lookup => Sys2Proof.Machine.execBittingLookup lookup s
  | .admitDescriptor origin subseq desc => Sys2Proof.Machine.execAdmitDescriptor origin subseq desc s
  | .promptReadComplete origin subseq good tokens => Sys2Proof.Machine.execPromptReadComplete origin subseq good tokens s
  | .pause origin subseq desc => Sys2Proof.Machine.execPause origin subseq desc s
  | .resume origin subseq desc => Sys2Proof.Machine.execResume origin subseq desc s
  | .cancel origin subseq desc => Sys2Proof.Machine.execCancel origin subseq desc s
  | .orderRecordArrival r => Sys2Proof.Machine.execOrderRecordArrival r s
  | .batchCut => Sys2Proof.Machine.execBatchCut s
  | .batchArrival b => Sys2Proof.Machine.execBatchArrival b s
  | .batchWaitTimeout => Sys2Proof.Machine.execBatchWaitTimeout s
  | .keyringCopyOut ward => Sys2Proof.Machine.execKeyringCopyOut ward s
  | .keyringWriteComplete ward seq good => Sys2Proof.Machine.execKeyringWriteComplete ward seq good s
  | .keyringAck origin value => Sys2Proof.Machine.execKeyringAck origin value s
  | .kdrainSend => Sys2Proof.Machine.execKdrainSend s
  | .wrdEntSelWrite fn ward => Sys2Proof.Machine.execWrdEntSelWrite fn ward s
  | .stepShareComplete lane sampled => Sys2Proof.Machine.execStepShareComplete lane sampled s
  | .stepExchange x => Sys2Proof.Machine.execStepExchange x s
  | .stepBoundary lane proposed disp => Sys2Proof.Machine.execStepBoundary lane proposed disp s
  | .exchangeWaitTimeout lane => Sys2Proof.Machine.execExchangeWaitTimeout lane s
  | .coreLaunch core spec => Sys2Proof.Machine.execCoreLaunch core spec s
  | .bucketRefill bucket => Sys2Proof.Machine.execBucketRefill bucket s
  | .map fn => Sys2Proof.Machine.execMap fn s
  | .unmap fn => Sys2Proof.Machine.execUnmap fn s
  | .protect fn => Sys2Proof.Machine.execProtect fn s
  | .mapCommandComplete => Sys2Proof.Machine.execMapCommandComplete s
  | .heatDecay => Sys2Proof.Machine.execHeatDecay s
  | .migrationStart => Sys2Proof.Machine.execMigrationStart s
  | .migrationCopyPass page badGranule => Sys2Proof.Machine.execMigrationCopyPass page badGranule s
  | .migrationSwitch page => Sys2Proof.Machine.execMigrationSwitch page s
  | .frameZeroingComplete frame => Sys2Proof.Machine.execFrameZeroingComplete frame s
  | .loanReq borrower => Sys2Proof.Machine.execLoanReq borrower s
  | .loanGrant lender base => Sys2Proof.Machine.execLoanGrant lender base s
  | .loanDeny lender => Sys2Proof.Machine.execLoanDeny lender s
  | .loanIdleExpiry slot => Sys2Proof.Machine.execLoanIdleExpiry slot s
  | .loanReturn borrower base => Sys2Proof.Machine.execLoanReturn borrower base s
  | .evacuationComplete slots => Sys2Proof.Machine.execEvacuationComplete slots s
  | .flashReadComplete granule level good use => Sys2Proof.Machine.execFlashReadComplete granule level good use s
  | .flashWrite granule offset data owner durable => Sys2Proof.Machine.execFlashWrite granule offset data owner durable s
  | .flashProgramComplete block => Sys2Proof.Machine.execFlashProgramComplete block s
  | .flashProgramFail block => Sys2Proof.Machine.execFlashProgramFail block s
  | .flashEraseFail block => Sys2Proof.Machine.execFlashEraseFail block s
  | .garbageCollection channel dst => Sys2Proof.Machine.execGarbageCollection channel dst s
  | .wearRelocation dst => Sys2Proof.Machine.execWearRelocation dst s
  | .readDisturbRelocation block dst => Sys2Proof.Machine.execReadDisturbRelocation block dst s
  | .relocationPriorityRaise block => Sys2Proof.Machine.execRelocationPriorityRaise block s
  | .ftlCheckpoint => Sys2Proof.Machine.execFtlCheckpoint s
  | .shardDelivery dest source index alive crc payload => Sys2Proof.Machine.execShardDelivery dest source index alive crc payload s
  | .shardTimeout dest source => Sys2Proof.Machine.execShardTimeout dest source s
  | .hingeHostDoorbell fn index alive => Sys2Proof.Machine.execHingeHostDoorbell fn index alive s
  | .hingePassed pkg layer => Sys2Proof.Machine.execHingePassed pkg layer s
  | .layerCommitComplete layer => Sys2Proof.Machine.execLayerCommitComplete layer s
  | .hingeCommitted pkg layer => Sys2Proof.Machine.execHingeCommitted pkg layer s
  | .adapterLoadComplete slot manifest => Sys2Proof.Machine.execAdapterLoadComplete slot manifest s
  | .assayGo fn engine ctl => Sys2Proof.Machine.execAssayGo fn engine ctl s
  | .assayAbort fn engine ctl => Sys2Proof.Machine.execAssayAbort fn engine ctl s
  | .scanComplete engine => Sys2Proof.Machine.execScanComplete engine s
  | .fabricFlitReceive port flit fecOk => Sys2Proof.Machine.execFabricFlitReceive port flit fecOk s
  | .fabricAckTimer port => Sys2Proof.Machine.execFabricAckTimer port s
  | .portRetrainStart port => Sys2Proof.Machine.execPortRetrainStart port s
  | .retrainEnd port good farAck => Sys2Proof.Machine.execRetrainEnd port good farAck s
  | .trainingIdentity port farId farPort farPart lanes => Sys2Proof.Machine.execTrainingIdentity port farId farPort farPart lanes s
  | .recalibrationDue port => Sys2Proof.Machine.execRecalibrationDue port s
  | .recalibrationComplete port => Sys2Proof.Machine.execRecalibrationComplete port s
  | .receiveOverload port => Sys2Proof.Machine.execReceiveOverload port s
  | .overloadPersist port => Sys2Proof.Machine.execOverloadPersist port s
  | .overloadClear port => Sys2Proof.Machine.execOverloadClear port s
  | .overloadTimeout port => Sys2Proof.Machine.execOverloadTimeout port s
  | .fabricRead header => Sys2Proof.Machine.execFabricRead header s
  | .fabricWrite header data => Sys2Proof.Machine.execFabricWrite header data s
  | .fabricWritePart header data => Sys2Proof.Machine.execFabricWritePart header data s
  | .fabricAtomic header data => Sys2Proof.Machine.execFabricAtomic header data s
  | .fabricResponse tag status => Sys2Proof.Machine.execFabricResponse tag status s
  | .fabricRequestTimeout tag => Sys2Proof.Machine.execFabricRequestTimeout tag s
  | .egressWrite header data => Sys2Proof.Machine.execEgressWrite header data s
  | .egressRead header => Sys2Proof.Machine.execEgressRead header s
  | .egressBlockTimeout ewin block => Sys2Proof.Machine.execEgressBlockTimeout ewin block s
  | .egressRdmaComplete ewin block fetch good data => Sys2Proof.Machine.execEgressRdmaComplete ewin block fetch good data s
  | .retrain fn port => Sys2Proof.Machine.execRetrain fn port s
  | .recal fn port => Sys2Proof.Machine.execRecal fn port s
  | .sqTailDoorbell fn q value whole => Sys2Proof.Machine.execSqTailDoorbell fn q value whole s
  | .cqHeadDoorbell fn q value whole => Sys2Proof.Machine.execCqHeadDoorbell fn q value whole s
  | .eqHeadDoorbell fn value whole => Sys2Proof.Machine.execEqHeadDoorbell fn value whole s
  | .descriptorFetch fn q data => Sys2Proof.Machine.execDescriptorFetch fn q data s
  | .queueCfgWrite fn q value => Sys2Proof.Machine.execQueueCfgWrite fn q value s
  | .queueDeferredReset fn q => Sys2Proof.Machine.execQueueDeferredReset fn q s
  | .eqCfgWrite fn value => Sys2Proof.Machine.execEqCfgWrite fn value s
  | .hreqCfgWrite fn value => Sys2Proof.Machine.execHreqCfgWrite fn value s
  | .msixMessage fn vector => Sys2Proof.Machine.execMsixMessage fn vector s
  | .functionLevelReset fn => Sys2Proof.Machine.execFunctionLevelReset fn s
  | .perst => Sys2Proof.Machine.execPerst s
  | .bar2Access offset len data => Sys2Proof.Machine.execBar2Access offset len data s
  | .dmaReadTimeout use => Sys2Proof.Machine.execDmaReadTimeout use s
  | .ingressWrite qp key addr data marked => Sys2Proof.Machine.execIngressWrite qp key addr data marked s
  | .roceOtherOpcode qp access => Sys2Proof.Machine.execRoceOtherOpcode qp access s
  | .ethernetFrameDrop port => Sys2Proof.Machine.execEthernetFrameDrop port s
  | .roceAckTimeout qp psn => Sys2Proof.Machine.execRoceAckTimeout qp psn s
  | .roceNak qp kind psn => Sys2Proof.Machine.execRoceNak qp kind psn s
  | .qpReset fn value => Sys2Proof.Machine.execQpReset fn value s
  | .cnpReceive qp => Sys2Proof.Machine.execCnpReceive qp s
  | .roceRateIncrease qp => Sys2Proof.Machine.execRoceRateIncrease qp s
  | .ptpTxGo fn port value => Sys2Proof.Machine.execPtpTxGo fn port value s
  | .ptpTxDone port => Sys2Proof.Machine.execPtpTxDone port s
  | .ptpFrameReceive port sub bytes => Sys2Proof.Machine.execPtpFrameReceive port sub bytes s
  | .ptpRxPop fn port value => Sys2Proof.Machine.execPtpRxPop fn port value s
  | .syncInEdge => Sys2Proof.Machine.execSyncInEdge s
  | .syncMissed => Sys2Proof.Machine.execSyncMissed s
  | .timeArm fn value => Sys2Proof.Machine.execTimeArm fn value s
  | .refclkLoss => Sys2Proof.Machine.execRefclkLoss s
  | .load fn => Sys2Proof.Machine.execLoad fn s
  | .commit fn => Sys2Proof.Machine.execCommit fn s
  | .discard fn => Sys2Proof.Machine.execDiscard fn s
  | .stop fn => Sys2Proof.Machine.execStop fn s
  | .imagePass1Complete bytes => Sys2Proof.Machine.execImagePass1Complete bytes s
  | .imagePass2Complete bytes => Sys2Proof.Machine.execImagePass2Complete bytes s
  | .commitReadySend => Sys2Proof.Machine.execCommitReadySend s
  | .commitResumeBoundary proposed disp => Sys2Proof.Machine.execCommitResumeBoundary proposed disp s
  | .batchApplyIdle proposed disp => Sys2Proof.Machine.execBatchApplyIdle proposed disp s
  | .warmReset => Sys2Proof.Machine.execWarmReset s
  | .coldReset badHeader => Sys2Proof.Machine.execColdReset badHeader s
  | .powerOnReset badHeader => Sys2Proof.Machine.execPowerOnReset badHeader s
  | .firmwareAccepted => Sys2Proof.Machine.execFirmwareAccepted s
  | .railsComplete good => Sys2Proof.Machine.execRailsComplete good s
  | .hbmTrainingComplete good => Sys2Proof.Machine.execHbmTrainingComplete good s
  | .clusterReloadComplete cluster => Sys2Proof.Machine.execClusterReloadComplete cluster s
  | .opticsStageComplete => Sys2Proof.Machine.execOpticsStageComplete s
  | .fabricStageComplete => Sys2Proof.Machine.execFabricStageComplete s
  | .tenantsStageComplete => Sys2Proof.Machine.execTenantsStageComplete s
  | .weightsStageComplete => Sys2Proof.Machine.execWeightsStageComplete s
  | .vin48Restored => Sys2Proof.Machine.execVin48Restored s
  | .inputUndervolt => Sys2Proof.Machine.execInputUndervolt s
  | .undervoltRecovery => Sys2Proof.Machine.execUndervoltRecovery s
  | .inputPowerLoss => Sys2Proof.Machine.execInputPowerLoss s
  | .inputOvervolt => Sys2Proof.Machine.execInputOvervolt s
  | .converterFailure => Sys2Proof.Machine.execConverterFailure s
  | .inputSample vin iin => Sys2Proof.Machine.execInputSample vin iin s
  | .capControl => Sys2Proof.Machine.execCapControl s
  | .voltageTargetReached cluster => Sys2Proof.Machine.execVoltageTargetReached cluster s
  | .fastLimitEntry => Sys2Proof.Machine.execFastLimitEntry s
  | .fastLimitExit => Sys2Proof.Machine.execFastLimitExit s
  | .droopDetect cluster => Sys2Proof.Machine.execDroopDetect cluster s
  | .droopRecovery cluster => Sys2Proof.Machine.execDroopRecovery cluster s
  | .thermalLimitStep cluster reading => Sys2Proof.Machine.execThermalLimitStep cluster reading s
  | .overtempEntry cluster reading => Sys2Proof.Machine.execOvertempEntry cluster reading s
  | .sensorCalibration die reference readings => Sys2Proof.Machine.execSensorCalibration die reference readings s
  | .deadboltTrip die sensor => Sys2Proof.Machine.execDeadboltTrip die sensor s
  | .capWrite fn value => Sys2Proof.Machine.execCapWrite fn value s
  | .clusterDoze cluster => Sys2Proof.Machine.execClusterDoze cluster s
  | .clusterDeep cluster => Sys2Proof.Machine.execClusterDeep cluster s
  | .clusterWake cluster => Sys2Proof.Machine.execClusterWake cluster s
  | .hbmScrubRead stack error => Sys2Proof.Machine.execHbmScrubRead stack error s
  | .gatewayLoss die => Sys2Proof.Machine.execGatewayLoss die s
  | .jobFault episode pkg => Sys2Proof.Machine.execJobFault episode pkg s
  | .coreStopGraceExpiry => Sys2Proof.Machine.execCoreStopGraceExpiry s
  | .deliveryWindowExpiry => Sys2Proof.Machine.execDeliveryWindowExpiry s
  | .dumpComplete slot bad => Sys2Proof.Machine.execDumpComplete slot bad s
  | .recoveryWarmReset => Sys2Proof.Machine.execRecoveryWarmReset s
  | .dumpRelease fn value => Sys2Proof.Machine.execDumpRelease fn value s
  | .program fn slot => Sys2Proof.Machine.execProgram fn slot s
  | .revoke fn slot => Sys2Proof.Machine.execRevoke fn slot s
  | .lock fn => Sys2Proof.Machine.execLock fn s
  | .advanceSvn fn => Sys2Proof.Machine.execAdvanceSvn fn s
  | .retire fn key => Sys2Proof.Machine.execRetire fn key s
  | .nonce fn => Sys2Proof.Machine.execNonce fn s
  | .openDebug fn => Sys2Proof.Machine.execOpenDebug fn s
  | .closeDebug fn => Sys2Proof.Machine.execCloseDebug fn s
  | .padlockCommandComplete data => Sys2Proof.Machine.execPadlockCommandComplete data s
  | .nonceExpiry => Sys2Proof.Machine.execNonceExpiry s
  | .debugTransitionComplete => Sys2Proof.Machine.execDebugTransitionComplete s
  | .getVersion => Sys2Proof.Machine.execGetVersion s
  | .getCapabilities => Sys2Proof.Machine.execGetCapabilities s
  | .negotiateAlgorithms p384 sha384 => Sys2Proof.Machine.execNegotiateAlgorithms p384 sha384 s
  | .getDigests => Sys2Proof.Machine.execGetDigests s
  | .getCertificate slot offset len => Sys2Proof.Machine.execGetCertificate slot offset len s
  | .challenge slot nonce => Sys2Proof.Machine.execChallenge slot nonce s
  | .getMeasurements index signed nonce => Sys2Proof.Machine.execGetMeasurements index signed nonce s
  | .spdmUnsupported code => Sys2Proof.Machine.execSpdmUnsupported code s
  | .jtagExtest drive => Sys2Proof.Machine.execExtest drive s
  | .jtagIdcode => Sys2Proof.Machine.execIdcode s
  | .jtagSamplePreload load => Sys2Proof.Machine.execSamplePreload load s
  | .jtagDbgStat => Sys2Proof.Machine.execDbgStat s
  | .jtagDbgNonce => Sys2Proof.Machine.execDbgNonce s
  | .jtagDbgToken token => Sys2Proof.Machine.execDbgToken token s
  | .jtagDbgClose => Sys2Proof.Machine.execDbgClose s
  | .jtagIntscan => Sys2Proof.Machine.execIntscan s
  | .jtagIntest => Sys2Proof.Machine.execIntest s
  | .jtagBypass => Sys2Proof.Machine.execBypass s
  | .snapGo fn => Sys2Proof.Machine.execSnapGo fn s
  | .snapshotComplete set => Sys2Proof.Machine.execSnapshotComplete set s
  | .samplerTick good => Sys2Proof.Machine.execSamplerTick good s
  | .traceRecord type source arg data time fifoFull => Sys2Proof.Machine.execTraceRecord type source arg data time fifoFull s
  | .timesync => Sys2Proof.Machine.execTimesync s
  | .traceHostCopy good => Sys2Proof.Machine.execTraceHostCopy good s
  | .traceMark fn value => Sys2Proof.Machine.execTraceMark fn value s
  | .dynamicAddressAssign setdasa addr => Sys2Proof.Machine.execDynamicAddressAssign setdasa addr s
  | .setEndpointId dest eid => Sys2Proof.Machine.execSetEndpointId dest eid s
  | .getEndpointId dest => Sys2Proof.Machine.execGetEndpointId dest s
  | .getEndpointUuid dest => Sys2Proof.Machine.execGetEndpointUuid dest s
  | .getMctpVersionSupport dest type => Sys2Proof.Machine.execGetMctpVersionSupport dest type s
  | .getMessageTypeSupport dest => Sys2Proof.Machine.execGetMessageTypeSupport dest s
  | .mctpDiscard type => Sys2Proof.Machine.execMctpDiscard type s
  | .pldmSensorRead req id => Sys2Proof.Machine.execPldmSensorRead req id s
  | .capEffecter req watts => Sys2Proof.Machine.execCapEffecter req watts s
  | .resetEffecter req value => Sys2Proof.Machine.execResetEffecter req value s
  | .firmwareUpdate req image => Sys2Proof.Machine.execFirmwareUpdate req image s
  | .readReg req off => Sys2Proof.Machine.execReadReg req off s
  | .snap req => Sys2Proof.Machine.execSnap req s
  | .readDump req slot offset len => Sys2Proof.Machine.execReadDump req slot offset len s
  | .releaseDump req slot => Sys2Proof.Machine.execReleaseDump req slot s
  | .uartByteReceive byte stop => Sys2Proof.Machine.execUartByteReceive byte stop s
  | .conVer => Sys2Proof.Machine.execConVer s
  | .conStat => Sys2Proof.Machine.execConStat s
  | .conTime => Sys2Proof.Machine.execConTime s
  | .conTemp => Sys2Proof.Machine.execConTemp s
  | .conBaud d => Sys2Proof.Machine.execConBaud d s
  | .conRd off => Sys2Proof.Machine.execConRd off s
  | .conWr off value => Sys2Proof.Machine.execConWr off value s
  | .conTrace n => Sys2Proof.Machine.execConTrace n s
  | .consoleUnknown => Sys2Proof.Machine.execConsoleUnknown s
  | .refclkRestored => Sys2Proof.Machine.execRefclkRestored s
  | .perstDeassertion => Sys2Proof.Machine.execPerstDeassertion s
  | .configurationRequest fn => Sys2Proof.Machine.execConfigurationRequest fn s
  | .mirrorRefresh => Sys2Proof.Machine.execMirrorRefresh s
  | .sensorThresholdCrossing unit reading => Sys2Proof.Machine.execSensorThresholdCrossing unit reading s
  | .g0Loss => Sys2Proof.Machine.execG0Loss s

end Sys2Proof.Machine
end

