-- ==== Sys2Proof/Safety.lean ====
section
/-!
DEFINITION. What a legal state of the block is, whatever commands have run: the memories and the register file are in
their canonical form, the correction of the time base keeps its bounds (15 R536), and every field that the spec protects
by a vote has its three copies (19 R634). Then the words that statements use for what a command does and leaves alone.
-/
namespace Sys2Proof.Machine

open Sys2Proof

/-- The register file names every register at most once, in rising order. -/
def RegFile.wf : List (Nat × Word) → Bool
  | [] => true
  | [_] => true
  | (a, _) :: (b, v) :: t => decide (a < b) && RegFile.wf ((b, v) :: t)

/-- A correction in force is of at most 100 ns and has less than its 100 ms behind it; with none in force the tick
counter of the correction stands at zero (15 R536). -/
def TimeBase.Legal (t : TimeBase) : Prop :=
  -100 ≤ t.slew ∧ t.slew ≤ 100 ∧ t.slewPos < 250000000 ∧ (t.slew = 0 → t.slewPos = 0)

/-- Three copies of each voted field of the island. -/
def Padlock.Voted (p : Padlock) : Prop :=
  p.life.length = 3 ∧ p.svn.length = 3 ∧ p.fused.length = 3 ∧ List.length p.debug = 3

/-- A legal state. -/
structure State.Sound (s : State) : Prop where
  regs  : RegFile.wf s.regs = true
  sram  : Memory.wf s.comp.sram = true
  hbm   : Memory.wf s.tiers.hbm = true
  loan  : Memory.wf s.tiers.loanMem = true
  flash : Memory.wf s.flash.data = true
  media : Memory.wf s.flash.media = true
  time  : s.time.Legal
  voted : s.padlock.Voted

/-! ### Entries at issue (04 R160-R177) -/

/-- Entry `e` of opcode `op` stands at strand `i` of core `c` and nothing holds it: the strand is not IDLE or FAULTED,
its cluster runs, the entry is fetched and valid, its latches are zero, its registers are not pending, a load may be
outstanding, its done latch has room, and no strand that the sequencer tries before it takes its turn (03 R131). -/
structure Issues (s : State) (c i op : Nat) (e : Entry) : Prop where
  here   : entryAt s c (getStrand s c i).pc = e
  code   : eOP e = op
  valid  : entryOk (isCulet c) e = true
  awake  : (getStrand s c i).phase ≠ .idle ∧ (getStrand s c i).phase ≠ .faulted
  power  : pstate s (clusterOfCore c) = 0
  line   : lineHeld (getStrand s c i) = true
  clean  : entryPoisoned s c (getStrand s c i) = false
  zero   : ∀ l ∈ windowLatches e ++ cmaskLatches e, latchGet s c l.1 l.2 = 0
  ready  : ∀ r ∈ entryRegs e, pendingOp (getCore s c) i r = none
  loads  : entryRemote s c i e = true → remoteCount (getCore s c) i < 8
  room   : ∀ l, doneLatch e = some l → latchGet s c l.1 l.2 < latchMax l.1
  turn   : ∀ j ∈ triedBefore (getCore s c).last i, takesTurn s c j = false

/-- A strand after its entry has issued: READY, at the successor of its position. -/
def Strand.stepped (t : Strand) : Strand := { t with phase := .ready, pc := t.pc.bind nextPos }

/-- A launch of which strand `i` has issued an entry. -/
def Launch.begun (l : Launch) : Launch := { l with issued := true }

/-- `t` is `s` but for strand `i` of core `c`, which is now `v`. -/
def OnlyStrand (s t : State) (c i : Nat) (v : Strand) : Prop :=
  t = { s with comp := { s.comp with cores := t.comp.cores } } ∧
  (∀ d, d ≠ c → getCore t d = getCore s d) ∧
  getCore t c = { getCore s c with strands := (getCore s c).strands.set i v } ∧
  getStrand t c i = v

/-- The sequencer of core `c` notes that strand `i` issued last, and its launch that an entry of it has issued. -/
def TookTurn (s t : State) (c i : Nat) : Prop :=
  (getCore t c).last = i ∧ (getCore t c).launch = (getCore s c).launch.map Launch.begun

/-- An entry has issued: `t` is `s` but for strand `i` of core `c`, which is now `v`, and for the turn it has taken. -/
def OnlyIssued (s t : State) (c i : Nat) (v : Strand) : Prop :=
  t = { s with comp := { s.comp with cores := t.comp.cores } } ∧
  (∀ d, d ≠ c → getCore t d = getCore s d) ∧
  getCore t c = { getCore s c with
    strands := (getCore s c).strands.set i v, last := i, launch := (getCore s c).launch.map Launch.begun } ∧
  getStrand t c i = v

/-- Operation `o` is the one that core `c` issued last: its done latch has risen by one and no other latch has changed,
strand `o.strand` has stepped, and the other strands stand as they stood; `sram` is the core whose SRAM it reads. -/
structure Issued (s t : State) (c i : Nat) (e : Entry) (dest : Option Nat) (value : Word) (remote : Bool)
    (ph : OpPhase) (sram : Option Nat) : Prop where
  ops     : (getCore t c).ops = (getCore s c).ops ++
              [⟨(getCore s c).nextOp, i, eOP e, doneLatch e, dest, value, remote, ph, sram⟩]
  turn    : TookTurn s t c i
  nextOp  : (getCore t c).nextOp = (getCore s c).nextOp + 1
  strand  : getStrand t c i = (getStrand s c i).stepped
  strands : ∀ j, j ≠ i → getStrand t c j = getStrand s c j
  latches : ∀ b n, latchGet t c b n = latchGet s c b n + (if doneLatch e = some (b, n) then 1 else 0)

/-- Beside core `c` itself and the latches of its cluster, the compute dies are as they were, local SRAM apart. -/
structure CoreAlone (s t : State) (c : Nat) : Prop where
  cores    : ∀ d, d ≠ c → getCore t d = getCore s d
  cluster  : getCluster t (clusterOfCore c) =
               { getCluster s (clusterOfCore c) with clatch := (getCluster t (clusterOfCore c)).clatch }
  clusters : ∀ k, k ≠ clusterOfCore c → getCluster t k = getCluster s k
  stores   : (t.comp.coreStore, t.comp.clusterStore, t.comp.girdle) =
               (s.comp.coreStore, s.comp.clusterStore, s.comp.girdle)

/-- Local SRAM and its poison marks are as they were. -/
def SramSame (s t : State) : Prop := t.comp.sram = s.comp.sram ∧ t.comp.sramPoison = s.comp.sramPoison

/-- Entry `e` has issued and completed within its own core: beside the step of its strand, its operation and its done
latch, only the core's own local SRAM and its sticky flags may have changed, and no flag has fallen. -/
structure LocalEntry (s t : State) (c i : Nat) (e : Entry) : Prop where
  issued : Issued s t c i e none 0 false .done (if readsSram (eOP e) then some c else none)
  alone  : CoreAlone s t c
  rest   : t = { s with comp := t.comp, regs := t.regs, fresh := t.fresh }
  bytes  : ∀ b, b < sramKey c 0 ∨ sramKey c (sramSize c) ≤ b → memGet t.comp.sram b = memGet s.comp.sram b
  regs   : ∀ r, r ≠ rCLU_CORE_STAT (clusterOfCore c) (indexOfCore c) → getReg t r = getReg s r
  flags  : ∃ f : BitVec 5, getReg t (rCLU_CORE_STAT (clusterOfCore c) (indexOfCore c)) =
             getReg s (rCLU_CORE_STAT (clusterOfCore c) (indexOfCore c)) ||| BitVec.ofNat 64 f.toNat
  tiles  : (getCore t c).tiles = (getCore s c).tiles
  bufs   : (getCore t c).bufs = (getCore s c).bufs

/-- Entry `e` has issued and completed within its own core, and its items have left local SRAM, its poison marks and the
flags as they stand in `u`. -/
structure LocalRun (s t u : State) (c i : Nat) (e : Entry) : Prop where
  entry : LocalEntry s t c i e
  sram  : t.comp.sram = u.comp.sram ∧ t.comp.sramPoison = u.comp.sramPoison
  marks : t.regs = u.regs

end Sys2Proof.Machine
end

