-- ==== Sys2Proof/Certificates/Slice0/Obligations.lean ====
section
/-!
DEFINITION. The statements about the block. Each says of a command what state `Sys2Proof.Machine.exec` answers, for every
state that meets its hypotheses.
-/

open Sys2Proof Sys2Proof.Machine

/-- The command at the front of the queue takes effect, on the state with the rest of the queue. -/
def Obligations.StepRunsFrontCommand : Prop :=
  ∀ (c : Instr) (rest : List Instr) (s : State), s.pending = c :: rest →
    Sys2Proof.Machine.step s = Sys2Proof.Machine.exec c { s with pending := rest }

/-- With no command waiting, one tick of 0.4 ns of the time base passes, and nothing but the time base changes: with no
correction in force the counter rises by one; a correction moves one tick on, and ends with its tick 250,000,000 (15
R535, R536; that a step on an empty queue is this tick is the model's choice, log entry 7). -/
def Obligations.EmptyQueueTicksTheTime : Prop :=
  ∀ s : State, s.pending = [] →
    ∃ t, Sys2Proof.Machine.step s = .next t ∧ t = { s with time := t.time } ∧
      (s.time.slew = 0 → t.time.ticks = s.time.ticks + 1 ∧ t.time.slew = 0) ∧
      (s.time.slew ≠ 0 → s.time.slewPos = 249999999 → t.time.slew = 0 ∧ t.time.slewPos = 0) ∧
      (s.time.slew ≠ 0 → s.time.slewPos < 249999999 → t.time.slew = s.time.slew ∧ t.time.slewPos = s.time.slewPos + 1) ∧
      t.time.refclk = s.time.refclk ∧ t.time.firstEdge = s.time.firstEdge ∧ t.time.seenEdge = s.time.seenEdge

/-- A correction takes its error out of the counter exactly, ahead or behind, at an even pace: `n` ticks after it began
the counter stands `slew * n / 10^8` ticks behind where it would stand without it, and 250,000,000 ticks (100 ms)
after it began it stands `slew` ns behind, `slew * 5 / 2` ticks toward zero, and the correction has ended (15 R536). -/
def Obligations.CorrectionRemovesItsError : Prop :=
  ∀ (n : Nat) (s : State), s.pending = [] → s.time.slew ≠ 0 → -100 ≤ s.time.slew → s.time.slew ≤ 100 →
    s.time.slewPos = 0 → n ≤ 250000000 →
    ∃ t, Host.Core.run Sys2Proof.core n s = .next t ∧ t = { s with time := t.time } ∧
      (t.time.ticks : Int) = s.time.ticks + n - Int.tdiv (s.time.slew * n) 100000000 ∧
      (n < 250000000 → t.time.slew = s.time.slew ∧ t.time.slewPos = n) ∧
      (n = 250000000 → t.time.slew = 0 ∧ (t.time.ticks : Int) = s.time.ticks + n - Int.tdiv (s.time.slew * 5) 2)

/-- No command is refused and none stops the block, and none touches the commands that wait behind it. -/
def Obligations.EveryCommandCompletes : Prop :=
  ∀ (c : Instr) (s : State), s.Sound → ∃ t, Sys2Proof.Machine.exec c s = .next t ∧ t.pending = s.pending

/-- A legal state stays legal: the register file, local SRAM, HBM, loan memory and flash keep their canonical form, the
correction of the time base keeps its bounds and the voted fields of the island keep their three copies. -/
def Obligations.LegalityIsKept : Prop :=
  ∀ s t : State, s.Sound → Sys2Proof.Machine.step s = .next t → t.Sound

/-- The state after reset is legal. -/
def Obligations.ResetIsLegal : Prop :=
 State.reset.Sound

/-- A queue of `n` commands is worked off in `n` steps, whatever the commands are: nothing stops the block, outputs are
only added and no free value is used twice. -/
def Obligations.QueueDrains : Prop :=
  ∀ (n : Nat) (s : State), s.Sound → s.pending.length = n →
    ∃ t, Host.Core.run Sys2Proof.core n s = .next t ∧ t.pending = [] ∧ t.Sound ∧ s.out <+: t.out ∧ s.fresh ≤ t.fresh

/-- NOP, JUMP, BRANCH, CALL, RETURN, WAIT and END when they issue: the strand's position moves on, or goes where the
entry sends it, and the strand is the one that issued last; CALL and RETURN push and pop the stack of at most four
positions; nothing else changes. LOOP,
ENDLOOP, NOTIFY and FLAGS when they issue. LOOP loads an L register with a count of at most 2^24, a larger one
setting OVF_SAT, and goes to its target on a zero count. ENDLOOP takes one from it, stays at zero, and goes back
while it has not reached zero. NOTIFY lowers a latch that is not zero. FLAGS copies the core's flags and clears
those that it selects. SIMM, SALU, AMOV and AADD when they issue: the destination register takes the value of Table
04-5 and R164, the position moves on, and nothing else changes. -/
def Obligations.ControlAndScalarEntries : Prop :=
  (∀ (c : Fin 98304) (i : Fin 4) (s : State) (e : Entry),
      let v := (getStrand s c i).stepped
      (Issues s c i 0x01 e → ∃ t, Sys2Proof.Machine.exec (.tblNop c i) s = .next t ∧ OnlyIssued s t c i v) ∧
      (Issues s c i 0x08 e → ∃ t, Sys2Proof.Machine.exec (.tblWait c i) s = .next t ∧ OnlyIssued s t c i v) ∧
      (Issues s c i 0x09 e → ∃ t, Sys2Proof.Machine.exec (.tblEnd c i) s = .next t ∧
        OnlyIssued s t c i { v with phase := .idle }) ∧
      (Issues s c i 0x02 e → ∃ t, Sys2Proof.Machine.exec (.tblJump c i) s = .next t ∧
        OnlyIssued s t c i { v with pc := some (fld e 36 11) }) ∧
      (Issues s c i 0x03 e →
        let a := getS s c i (fld e 36 4)
        let b := if flag e 47 then BitVec.ofInt 64 (sfld e 48 32) else getS s c i (fld e 40 4)
        let taken := (fld e 44 3 = 0 ∧ a = b) ∨ (fld e 44 3 = 1 ∧ a ≠ b) ∨ (fld e 44 3 = 2 ∧ a.toInt < b.toInt) ∨
          (fld e 44 3 = 3 ∧ b.toInt ≤ a.toInt) ∨ (fld e 44 3 = 4 ∧ a.toNat < b.toNat) ∨
          (fld e 44 3 = 5 ∧ b.toNat ≤ a.toNat)
        ∃ t, Sys2Proof.Machine.exec (.tblBranch c i) s = .next t ∧
          (taken → OnlyIssued s t c i { v with pc := some (fld e 80 11) }) ∧ (¬taken → OnlyIssued s t c i v)) ∧
      (Issues s c i 0x06 e → (getStrand s c i).stack.length < 4 →
        ∃ t, Sys2Proof.Machine.exec (.tblCall c i) s = .next t ∧
          OnlyIssued s t c i { v with pc := some (fld e 36 11), stack := v.pc :: v.stack }) ∧
      (Issues s c i 0x07 e → ∀ p rest, (getStrand s c i).stack = p :: rest →
        ∃ t, Sys2Proof.Machine.exec (.tblReturn c i) s = .next t ∧ OnlyIssued s t c i { v with pc := p, stack := rest })) ∧
  (∀ (c : Fin 98304) (i : Fin 4) (s : State) (e : Entry),
      let v := (getStrand s c i).stepped
      let stat := rCLU_CORE_STAT (clusterOfCore c) (indexOfCore c)
      (Issues s c i 0x04 e →
        let n := if flag e 38 then (getS s c i (fld e 63 4)).toNat else fld e 39 24
        let w := { v with
          lreg := v.lreg.set (fld e 36 2) (min n (2 ^ 24))
          pc := if n = 0 then some (fld e 67 11) else v.pc }
        ∃ t, Sys2Proof.Machine.exec (.tblLoop c i) s = .next t ∧
          OnlyIssued { s with regs := t.regs } t c i w ∧
          (n ≤ 2 ^ 24 → t.regs = s.regs) ∧
          (2 ^ 24 < n → getReg t stat = getReg s stat ||| BitVec.ofNat 64 flOvfSat.toNat ∧
            ∀ r, r ≠ stat → getReg t r = getReg s r)) ∧
      (Issues s c i 0x05 e →
        let n := v.lreg.getD (fld e 36 2) 0
        let w := { v with
          lreg := v.lreg.set (fld e 36 2) (n - 1)
          pc := if 2 ≤ n then some (fld e 38 11) else v.pc }
        ∃ t, Sys2Proof.Machine.exec (.tblEndloop c i) s = .next t ∧ OnlyIssued s t c i w) ∧
      (Issues s c i 0x0A e → latchGet s c (flag e 36) (fld e 37 6) ≠ 0 →
        ∃ t, Sys2Proof.Machine.exec (.tblNotify c i) s = .next t ∧
          latchGet t c (flag e 36) (fld e 37 6) = latchGet s c (flag e 36) (fld e 37 6) - 1 ∧
          (∀ b n, (b, n) ≠ (flag e 36, fld e 37 6) → latchGet t c b n = latchGet s c b n) ∧
          getStrand t c i = v ∧ (∀ j, j ≠ (i : Nat) → getStrand t c j = getStrand s c j) ∧ TookTurn s t c i ∧
          CoreAlone s t c ∧ (getCore t c).ops = (getCore s c).ops ∧ SramSame s t ∧ t = { s with comp := t.comp }) ∧
      (Issues s c i 0x16 e →
        ∃ t, Sys2Proof.Machine.exec (.tblFlags c i) s = .next t ∧
          OnlyIssued { s with regs := t.regs } t c i
            { v with sreg := v.sreg.set (fld e 36 4) (BitVec.ofNat 64 (coreFlags s c)) } ∧
          getReg t stat = getReg s stat &&& ~~~(BitVec.ofNat 64 (fld e 40 5)) ∧
          ∀ r, r ≠ stat → getReg t r = getReg s r)) ∧
  (∀ (c : Fin 98304) (i : Fin 4) (s : State) (e : Entry),
      let v := (getStrand s c i).stepped
      let r : Nat → Word := getS s c i
      (Issues s c i 0x10 e →
        let d := fld e 36 4
        let x := if flag e 40 then BitVec.ofNat 64 ((r d).toNat % 2 ^ 32 + fld e 41 32 * 2 ^ 32)
          else BitVec.ofInt 64 (sfld e 41 32)
        ∃ t, Sys2Proof.Machine.exec (.tblSimm c i) s = .next t ∧
          OnlyIssued s t c i { v with sreg := v.sreg.set d x }) ∧
      (Issues s c i 0x11 e →
        let a := r (fld e 40 4)
        let b := if flag e 48 then BitVec.ofInt 64 (sfld e 49 32) else r (fld e 44 4)
        let k := b.toNat % 64
        ∃ t x, Sys2Proof.Machine.exec (.tblSalu c i) s = .next t ∧
          OnlyIssued s t c i { v with sreg := v.sreg.set (fld e 36 4) x } ∧
          (fld e 81 4 = 0x0 → x = a + b) ∧ (fld e 81 4 = 0x1 → x = a - b) ∧ (fld e 81 4 = 0x2 → x = a &&& b) ∧
          (fld e 81 4 = 0x3 → x = a ||| b) ∧ (fld e 81 4 = 0x4 → x = a ^^^ b) ∧ (fld e 81 4 = 0x5 → x = a <<< k) ∧
          (fld e 81 4 = 0x6 → x = a >>> k) ∧ (fld e 81 4 = 0x7 → x = a.sshiftRight k) ∧
          (fld e 81 4 = 0x8 → x = a * b) ∧ (fld e 81 4 = 0x9 → x.toInt = min a.toInt b.toInt) ∧
          (fld e 81 4 = 0xA → x.toInt = max a.toInt b.toInt) ∧ (fld e 81 4 = 0xB → x.toNat = min a.toNat b.toNat) ∧
          (fld e 81 4 = 0xC → x.toNat = max a.toNat b.toNat)) ∧
      (Issues s c i 0x14 e →
        let x := if flag e 39 then BitVec.ofNat 64 (fld e 44 57 + fld e 101 3 * 2 ^ 57) else r (fld e 40 4)
        ∃ t, Sys2Proof.Machine.exec (.tblAmov c i) s = .next t ∧
          OnlyIssued s t c i { v with areg := v.areg.set (fld e 36 3) x }) ∧
      (Issues s c i 0x15 e →
        let a := getA s c i (fld e 36 3)
        let n : Int := if flag e 43 then sfld e 44 32 else ((r (fld e 39 4)).toNat : Int)
        ∃ t x, Sys2Proof.Machine.exec (.tblAadd c i) s = .next t ∧
          OnlyIssued s t c i { v with areg := v.areg.set (fld e 36 3) x } ∧
          (aADDR x : Int) = ((aADDR a : Int) + n) % 2 ^ 57 ∧ x >>> 57 = a >>> 57))

/-- What becomes of an entry that does not issue. A slot that nothing has loaded holds EMPTY, which at issue faults with
ENTRY_RESERVED; the fault stops every strand of the core that is not idle; the first one of a launch is recorded
with its strand and reported with the strand's CONTEXT (stated for a core without a launch record, whose requests
nothing ends), and after it a fault changes nothing but the strands. Any other entry is held, and nothing but its
strand's state changes: WAITING while a latch of its window or mask is above zero; REMOTE while a register of it is
the destination of a remote access or eight of these are outstanding; STALLED where it would raise its done latch
above 255 or 65,535; passed over, READY, while a register of it is the destination of a local load. While a strand
that the sequencer tries before this one can take the cycle, nothing happens (03 R131, R132, R136; 04 R153, R167,
R176, R177, R714). -/
def Obligations.EntriesThatDoNotIssue : Prop :=
  ∀ (c : Fin 98304) (i : Fin 4) (s : State) (e : Entry),
    let v := getStrand s c i
    let stopped (j : Nat) : Strand :=
      if (getStrand s c j).phase = .idle then getStrand s c j else { getStrand s c j with phase := .faulted }
    let cause := fCLU_CORE_STAT_FAULT_CAUSE (clusterOfCore c) (indexOfCore c)
    let strand := fCLU_CORE_STAT_FAULT_STRAND (clusterOfCore c) (indexOfCore c)
    let rows : List (Nat × Instr) := [
      (0x01, .tblNop c i), (0x02, .tblJump c i), (0x03, .tblBranch c i), (0x04, .tblLoop c i),
      (0x05, .tblEndloop c i), (0x06, .tblCall c i), (0x07, .tblReturn c i), (0x08, .tblWait c i),
      (0x09, .tblEnd c i), (0x0A, .tblNotify c i), (0x10, .tblSimm c i), (0x11, .tblSalu c i),
      (0x12, .tblSload c i), (0x13, .tblSstore c i), (0x14, .tblAmov c i), (0x15, .tblAadd c i),
      (0x16, .tblFlags c i), (0x20, .tblDma c i), (0x21, .tblMove c i), (0x22, .tblAtomic c i),
      (0x30, .tblMatmul c i), (0x40, .tblEpilogue c i), (0x41, .tblLustre c i), (0x50, .tblWadd c i),
      (0x51, .tblWmerge c i), (0x52, .tblWread c i), (0x53, .tblWclear c i), (0x60, .tblAstep c i),
      (0x61, .tblAfold c i), (0x62, .tblAnorm c i), (0x63, .tblAlmax c i), (0x64, .tblAlsum c i),
      (0x65, .tblAlprob c i), (0x66, .tblAmerge c i), (0x70, .tblXselect c i), (0x71, .tblXdispatch c i),
      (0x72, .tblXreturn c i), (0x73, .tblXgather c i), (0x74, .tblXbag c i)]
    let ready : Prop := (∀ l ∈ windowLatches e ++ cmaskLatches e, latchGet s c l.1 l.2 = 0)
    let settled : Prop := ready ∧ ∀ r ∈ entryRegs e, pendingOp (getCore s c) i r = none
    (∀ p, p < 1024 → tabFind s.comp.coreStore (c * 1024 + p) = none → entryAt s c (some p) = 0#128) ∧
    (∀ p, p < 1024 → tabFind s.comp.clusterStore (clusterOfCore c * 1024 + p) = none →
      entryAt s c (some (1024 + p)) = 0#128) ∧
    (entryAt s c v.pc = e → v.phase ≠ .idle → v.phase ≠ .faulted → pstate s (clusterOfCore c) = 0 →
      lineHeld v = true → entryPoisoned s c v = false →
      ((∃ j ∈ triedBefore (getCore s c).last i, takesTurn s c j = true) →
        Sys2Proof.Machine.exec (.tblEmpty c i) s = .next s ∧ ∀ p ∈ rows, Sys2Proof.Machine.exec p.2 s = .next s) ∧
      ((∀ j ∈ triedBefore (getCore s c).last i, takesTurn s c j = false) → e = 0#128 →
        ∃ t, Sys2Proof.Machine.exec (.tblEmpty c i) s = .next t ∧ t = coreFault s c i .entryReserved ∧
          (getF s cause ≠ 0 → (∀ j, getStrand t c j = stopped j) ∧ (∀ d, d ≠ (c : Nat) → getCore t d = getCore s d) ∧
            t = { s with comp := { s.comp with cores := t.comp.cores } }) ∧
          (getF s cause = 0 → (getCore s c).launch = none → (∀ j, getStrand t c j = stopped j) ∧
            getF t cause = 7 ∧ getF t strand = i ∧
            t.out = s.out ++ [⟨.report, [(c : Nat), (i : Nat), 7, (getStrand s c i).context]⟩] ∧
            ∀ r, r ≠ rCLU_CORE_STAT (clusterOfCore c) (indexOfCore c) → getReg t r = getReg s r)) ∧
      ((∀ j ∈ triedBefore (getCore s c).last i, takesTurn s c j = false) →
        entryOk (isCulet c) e = true → ∀ p ∈ rows, eOP e = p.1 →
        ((∃ l ∈ windowLatches e ++ cmaskLatches e, latchGet s c l.1 l.2 ≠ 0) →
          ∃ t, Sys2Proof.Machine.exec p.2 s = .next t ∧ OnlyStrand s t c i { v with phase := .waiting }) ∧
        (ready → (∃ r ∈ entryRegs e, ∃ o, pendingOp (getCore s c) i r = some o ∧ o.remote = true) →
          ∃ t, Sys2Proof.Machine.exec p.2 s = .next t ∧ OnlyStrand s t c i { v with phase := .remote }) ∧
        (ready → (∃ r ∈ entryRegs e, pendingOp (getCore s c) i r ≠ none) →
          (∀ r ∈ entryRegs e, ∀ o, pendingOp (getCore s c) i r = some o → o.remote = false) →
          ∃ t, Sys2Proof.Machine.exec p.2 s = .next t ∧ OnlyStrand s t c i { v with phase := .ready }) ∧
        (settled → entryRemote s c i e = true → 8 ≤ remoteCount (getCore s c) i →
          ∃ t, Sys2Proof.Machine.exec p.2 s = .next t ∧ OnlyStrand s t c i { v with phase := .remote }) ∧
        (settled → (entryRemote s c i e = true → remoteCount (getCore s c) i < 8) →
          (∃ l, doneLatch e = some l ∧ (if l.1 then 65535 else 255) ≤ latchGet s c l.1 l.2) →
          ∃ t, Sys2Proof.Machine.exec p.2 s = .next t ∧ OnlyStrand s t c i { v with phase := .stalled })))

/-- SLOAD and SSTORE of local memory, the core's own or another of its cluster: the load's operation carries the 4 or 8
bytes at the address, extended as SIZE says, and touches no memory; the store writes the low bytes of its register
there at issue, a word that it covers losing its poison, and no other byte changes. -/
def Obligations.LocalLoadsAndStores : Prop :=
  ∀ (c : Fin 98304) (i : Fin 4) (s : State) (e : Entry),
    let a := effAddr s c i e
    let n := sizeBytes (fld e 75 2)
    let k := sramKey (targetCore c a) (targetAddr a)
    loadStoreFaults c i s e = [] → aSPACE a ≠ spDV →
    (Issues s c i 0x12 e → sramPoisoned s (targetCore c a) (targetAddr a) n = false →
      let m := memLoad s.comp.sram k n
      let x : Word := if fld e 75 2 = 2 then BitVec.ofInt 64 (natToInt 32 m) else BitVec.ofNat 64 m
      ∃ t, Sys2Proof.Machine.exec (.tblSload c i) s = .next t ∧
        Issued s t c i e (some (fld e 36 4)) x false .done (some (targetCore c a)) ∧ CoreAlone s t c ∧ SramSame s t ∧
        t = { s with comp := t.comp }) ∧
    (Issues s c i 0x13 e → Memory.wf s.comp.sram = true →
      let x := getS s c i (fld e 36 4)
      ∃ t, Sys2Proof.Machine.exec (.tblSstore c i) s = .next t ∧
        Issued s t c i e none 0 false .done none ∧ CoreAlone s t c ∧ t = { s with comp := t.comp } ∧
        (∀ j, j < n → memGet t.comp.sram (k + j) = BitVec.ofNat 8 (x.toNat / 256 ^ j)) ∧
        (∀ b, b < k ∨ k + n ≤ b → memGet t.comp.sram b = memGet s.comp.sram b) ∧
        (∀ w, w ∈ t.comp.sramPoison ↔ w ∈ s.comp.sramPoison ∧ ¬(k ≤ w * 8 ∧ w * 8 + 8 ≤ k + n)))

/-- SLOAD, SSTORE and ATOMIC of device-virtual memory whose page no migration holds. One that translation refuses issues, moves no byte and waits for
the refusal to return. One that translation sends to a page of this package's HBM issues: a load or a returning
atomic carries the value read; a store or an atomic leaves its 4 or 8 bytes at the page's frame and changes no other
byte; its operation is done, or waits for its tenant's empty bandwidth bucket. One that finds its page held stays at
issue, READY (10 R381, 11 R401, R409). -/
def Obligations.DeviceVirtualAccesses : Prop :=
  ∀ (c : Fin 98304) (i : Fin 4) (s : State) (e : Entry),
    let ctx := ctxOf s c i
    let a := effAddr s c i e
    let n := sizeBytes (fld e 75 2)
    let va := aADDR a
    let vt := aADDR (getA s c i (fld e 36 3))
    let dest := if flag e 51 then some (fld e 47 4) else none
    let waits (t : State) : Prop := OnlyStrand s t c i { getStrand s c i with phase := .ready }
    let quiet (t : State) : Prop := SramSame s t ∧ CoreAlone s t c ∧ t = { s with comp := t.comp, regs := t.regs }
    let accounted (t : State) : Prop := SramSame s t ∧ CoreAlone s t c ∧ t.flash = s.flash ∧ t.regs = s.regs ∧
      t.bezel = s.bezel ∧ t.ward = s.ward ∧ t.padlock = s.padlock ∧ t.cfg = s.cfg ∧ t.out = s.out
    (Issues s c i 0x12 e → loadStoreHeld .read c i s e = true →
      ∃ t, Sys2Proof.Machine.exec (.tblSload c i) s = .next t ∧ waits t) ∧
    (Issues s c i 0x13 e → loadStoreHeld .write c i s e = true →
      ∃ t, Sys2Proof.Machine.exec (.tblSstore c i) s = .next t ∧ waits t) ∧
    (Issues s c i 0x22 e → atomicHeld c i s e = true →
      ∃ t, Sys2Proof.Machine.exec (.tblAtomic c i) s = .next t ∧ waits t) ∧
    (Issues s c i 0x12 e → loadStoreHeld .read c i s e = false → loadStoreFaults c i s e = [] → aSPACE a = spDV →
      strandXlat s c i ctx .read va n ≠ .ok →
      ∃ t, Sys2Proof.Machine.exec (.tblSload c i) s = .next t ∧
        Issued s t c i e (some (fld e 36 4)) 0 true .refused none ∧ quiet t) ∧
    (Issues s c i 0x13 e → loadStoreHeld .write c i s e = false → loadStoreFaults c i s e = [] → aSPACE a = spDV →
      strandXlat s c i ctx .write va n ≠ .ok →
      ∃ t, Sys2Proof.Machine.exec (.tblSstore c i) s = .next t ∧ Issued s t c i e none 0 false .refused none ∧ quiet t) ∧
    (Issues s c i 0x22 e → atomicHeld c i s e = false → atomicFaults c i s e = [] →
      strandXlat s c i ctx .atomic vt 8 ≠ .ok →
      ∃ t, Sys2Proof.Machine.exec (.tblAtomic c i) s = .next t ∧
        Issued s t c i e dest 0 (flag e 51) .refused none ∧ quiet t) ∧
    (∀ l : Leaf, leafOf s ctx (va / 2097152) = some l → l.tier = .hbm → aSPACE a = spDV →
      loadStoreFaults c i s e = [] → rangeHeld s ctx va n = false →
      let p := l.frame * 2097152 + va % 2097152
      (Issues s c i 0x12 e → launchMaps s c i .read va n = none → strandXlat s c i ctx .read va n = .ok →
        virtHbmPoison s ctx va n = none →
        let m := memLoad s.tiers.hbm p n
        let x : Word := if fld e 75 2 = 2 then BitVec.ofInt 64 (natToInt 32 m) else BitVec.ofNat 64 m
        ∃ t ph, Sys2Proof.Machine.exec (.tblSload c i) s = .next t ∧ (ph = .done ∨ ph = .fabric 1) ∧
          Issued s t c i e (some (fld e 36 4)) x true ph none ∧ accounted t ∧ t.tiers.hbm = s.tiers.hbm) ∧
      (Issues s c i 0x13 e → launchMaps s c i .write va n = none → strandXlat s c i ctx .write va n = .ok →
        Memory.wf s.tiers.hbm = true →
        let x := getS s c i (fld e 36 4)
        ∃ t ph, Sys2Proof.Machine.exec (.tblSstore c i) s = .next t ∧ (ph = .done ∨ ph = .fabric 1) ∧
          Issued s t c i e none 0 false ph none ∧ accounted t ∧
          (∀ j, j < n → memGet t.tiers.hbm (p + j) = BitVec.ofNat 8 (x.toNat / 256 ^ j)) ∧
          (∀ b, b < p ∨ p + n ≤ b → memGet t.tiers.hbm b = memGet s.tiers.hbm b))) ∧
    (∀ l : Leaf, leafOf s ctx (vt / 2097152) = some l → l.tier = .hbm → atomicFaults c i s e = [] →
      atomicHeld c i s e = false →
      let p := l.frame * 2097152 + vt % 2097152
      (Issues s c i 0x22 e → launchMaps s c i .read vt 8 = none → launchMaps s c i .write vt 8 = none →
        launchMaps s c i .atomic vt 8 = none → strandXlat s c i ctx .atomic vt 8 = .ok →
        virtHbmPoison s ctx vt 8 = none → Memory.wf s.tiers.hbm = true →
        let old := memLoad s.tiers.hbm p 8
        let new := atomicNew (fld e 52 3) (flag e 55) old (getS s c i (fld e 39 4)).toNat (getS s c i (fld e 43 4)).toNat
        ∃ t ph, Sys2Proof.Machine.exec (.tblAtomic c i) s = .next t ∧ (ph = .done ∨ ph = .fabric 1) ∧
          Issued s t c i e dest (BitVec.ofNat 64 old) (flag e 51) ph none ∧ accounted t ∧
          (∀ j, j < 8 → memGet t.tiers.hbm (p + j) = BitVec.ofNat 8 (new / 256 ^ j)) ∧
          (∀ b, b < p ∨ p + 8 ≤ b → memGet t.tiers.hbm b = memGet s.tiers.hbm b)))

/-- DMA and MOVE. A DMA of length 0 moves nothing. A DMA between two local memories of the cluster, reading no poison,
leaves the source's bytes at the destination and no other byte changed. MOVE takes the oldest lines of a bound
stream buffer to local memory, 64 bytes each, and hands back the credits that had not gone back before. -/
def Obligations.DmaAndMove : Prop :=
  ∀ (c : Fin 98304) (i : Fin 4) (s : State) (e : Entry),
    let n := dmaLen s c i e
    let src := getA s c i (fld e 36 3)
    let dst := getA s c i (fld e 39 3)
    let ks := sramKey (targetCore c src) (targetAddr src)
    let kd := sramKey (targetCore c dst) (targetAddr dst)
    (Issues s c i 0x20 e → n = 0 →
      ∃ t, Sys2Proof.Machine.exec (.tblDma c i) s = .next t ∧ OnlyIssued s t c i (getStrand s c i).stepped) ∧
    (Issues s c i 0x20 e → n ≠ 0 → dmaFaults c i s e = [] → aSPACE src ≠ spDV → aSPACE dst ≠ spDV →
      dmaPoison s c i (ctxOf s c i) src n = [] → Memory.wf s.comp.sram = true →
      ∃ t, Sys2Proof.Machine.exec (.tblDma c i) s = .next t ∧
        Issued s t c i e none 0 false .done (some (targetCore c src)) ∧ CoreAlone s t c ∧ t = { s with comp := t.comp } ∧
        (∀ j, j < n → memGet t.comp.sram (kd + j) = memGet s.comp.sram (ks + j)) ∧
        (∀ b, b < kd ∨ kd + n ≤ b → memGet t.comp.sram b = memGet s.comp.sram b) ∧
        (∀ w, w ∈ t.comp.sramPoison → w ∈ s.comp.sramPoison)) ∧
    (Issues s c i 0x21 e → moveFaults c i s e = [] → fld e 41 7 ≤ (getBuf s c (fld e 36 2)).lines.length →
      Memory.wf s.comp.sram = true →
      let b := getBuf s c (fld e 36 2)
      let lines := fld e 41 7
      let k := sramKey c (aADDR (getA s c i (fld e 38 3)))
      ∃ t, Sys2Proof.Machine.exec (.tblMove c i) s = .next t ∧ Issued s t c i e none 0 false .done none ∧ CoreAlone s t c ∧
        t = { s with comp := t.comp } ∧
        getBuf t c (fld e 36 2) = { b with
          lines := b.lines.drop lines
          credits := b.credits + (lines - b.paid)
          paid := b.paid - lines } ∧
        (∀ d, d ≠ fld e 36 2 → getBuf t c d = getBuf s c d) ∧
        (∀ j, j < 64 * lines → memGet t.comp.sram (k + j) =
          BitVec.ofNat 8 ((b.lines.getD (j / 64) 0#512).toNat / 256 ^ (j % 64))) ∧
        (∀ x, x < k ∨ k + 64 * lines ≤ x → memGet t.comp.sram x = memGet s.comp.sram x))

/-- MATMUL when it issues and its operands hold no poison: the tile takes the products of A's rows and B's rows added to
its initial cells (its own, zeros, or FP32 words of local memory), the other tiles stay, the flags of the sums are
raised, the lines of stream operands are taken and their credits handed back, no byte of memory changes, and an
operand's address register moves on by its row where POSTINC asks for it. One that only lines of a buffer hold back is
STALLED, and while its operand is larger than the buffer it takes up the lines that have come, so that their credits go
back to the producer (03 R122; 04 R181-R186). -/
def Obligations.MatrixProduct : Prop :=
  ∀ (c : Fin 98304) (i : Fin 4) (s : State) (e : Entry),
    let a := matOperand s c i e false
    let b := matOperand s c i e true
    let n := a.rows * b.rows
    let k := aADDR (getA s c i (fld e 76 3))
    let init (j : Nat) : Nat := if fld e 42 2 = 0 then (getTile s c (fld e 36 6)).cell j else if fld e 42 2 = 1 then 0
      else sramLoad s c (k + 4 * j) 4
    let p := matProduct s c a b ((List.range n).map init)
    let need := matmulNeed s c i e
    let step (o : Operand) (r : Nat) (l : List Word) : List Word :=
      l.set r (aAdvance (getA s c i r) ((rowBytes o.code o.k : Nat) : Int))
    let ra := fld e 70 3
    let rb := fld e 73 3
    let regs := (getStrand s c i).areg
    Issues s c i 0x30 e → matmulFaults c i s e = [] →
    (matmulShort c i s e = false →
      a.poison s c = none → b.poison s c = none → (fld e 42 2 = 2 → sramPoisoned s c k (4 * n) = false) →
      ∃ t, Sys2Proof.Machine.exec (.tblMatmul c i) s = .next t ∧
        getTile t c (fld e 36 6) = ⟨isIntCode a.code, p.1⟩ ∧
        (∀ m, m ≠ fld e 36 6 → getTile t c m = getTile s c m) ∧
        SramSame s t ∧ CoreAlone s t c ∧ t = { s with comp := t.comp, regs := t.regs } ∧
        (p.2 = 0#5 → t.regs = s.regs) ∧
        (p.2 ≠ 0#5 → getReg t (rCLU_CORE_STAT (clusterOfCore c) (indexOfCore c)) =
          getReg s (rCLU_CORE_STAT (clusterOfCore c) (indexOfCore c)) ||| BitVec.ofNat 64 p.2.toNat) ∧
        (∀ r, r ≠ rCLU_CORE_STAT (clusterOfCore c) (indexOfCore c) → getReg t r = getReg s r) ∧
        (∀ m, getBuf t c m = { getBuf s c m with
          lines := (getBuf s c m).lines.drop (need m)
          credits := (getBuf s c m).credits + (need m - (getBuf s c m).paid)
          paid := (getBuf s c m).paid - need m }) ∧
        (getCore t c).ops = (getCore s c).ops ++
          [⟨(getCore s c).nextOp, i, 0x30, doneLatch e, none, 0, false, .done, some c⟩] ∧
        (∀ d m, latchGet t c d m = latchGet s c d m + (if doneLatch e = some (d, m) then 1 else 0)) ∧
        TookTurn s t c i ∧ (∀ j, j ≠ (i : Nat) → getStrand t c j = getStrand s c j) ∧
        getStrand t c i = { (getStrand s c i).stepped with areg := (getStrand t c i).areg } ∧
        (flag e 105 = false → flag e 106 = false → (getStrand t c i).areg = regs) ∧
        (isMxCode a.code = false → isMxCode b.code = false → ra ≠ rb →
          (getStrand t c i).areg = (if flag e 106 then step b rb else id) ((if flag e 105 then step a ra else id) regs))) ∧
    (matmulShort c i s e = true →
      ∃ t, Sys2Proof.Machine.exec (.tblMatmul c i) s = .next t ∧
        t = { s with comp := { s.comp with cores := t.comp.cores } } ∧ (∀ d, d ≠ (c : Nat) → getCore t d = getCore s d) ∧
        getCore t c = { getCore s c with
          strands := (getCore s c).strands.set i { getStrand s c i with phase := .stalled }
          bufs := (getCore t c).bufs } ∧
        ∀ m, m < 4 →
          let f := getBuf s c m
          let up := min f.lines.length (need m)
          getBuf t c m = if 64 < need m then { f with credits := f.credits + (up - f.paid), paid := max f.paid up } else f)

/-- LUSTRE, EPILOGUE and the attention entries when they issue, their checks hold, every access of their items is allowed
and every fetch of micro-ops is clean: the entry completes within its own core. Its items take effect one after
another in their order and leave local SRAM and the sticky flags as the last of them does; beside these only the
strand, the operation and its latch change: no other core, no tile, no stream buffer and no memory tier does. An
element of LUSTRE is its input, scaled where AFFINE asks for it, put through the function and converted (05 R199). -/
def Obligations.LustreEntriesStayLocal : Prop :=
  ∀ (c : Fin 98304) (i : Fin 4) (s : State) (e : Entry),
    let u := advance s c i
    let clean (fn : Nat) : Prop := fnFetch c i fn u = u
    let x := natBits (getS s c i (fld e 74 4)).toNat 0 32
    let y := natBits (getS s c i (fld e 78 4)).toNat 0 32
    let inw := widthOfCode (fld e 58 4) / 8
    let outw := widthOfCode (fld e 62 4) / 8
    let src := aADDR (getA s c i (fld e 36 3))
    let dst := aADDR (getA s c i (fld e 39 3))
    let input (j : Nat) : Nat := widen32 (fld e 58 4) (sramLoad s c (src + j * inw) inw)
    let scaled (j : Nat) : Nat := if flag e 73 then (fma32 x (input j) y).1 else input j
    let element (j : Nat) : Nat :=
      (convertOut (fld e 62 4) (flag e 72) (evalFn s c (flag e 71) (fld e 66 5) (scaled j)).1).1
    let runs {α : Type} (cmd : Instr) (f : α → State → Except LocalError State) (xs : List α) : Prop :=
      (inOrder f xs u).1 = none →
      ∃ t, Sys2Proof.Machine.exec cmd s = .next t ∧ LocalRun s t (inOrder f xs u).2 c i e
    let rows := List.range (scoreRows e)
    (Issues s c i 0x41 e → lustreFaults c i s e = [] → clean (fld e 66 5) →
      lustreOverlap c i e (inOrder (lustreElem c i e x y) (List.range (fld e 42 16)) u).2 =
        (inOrder (lustreElem c i e x y) (List.range (fld e 42 16)) u).2 →
      runs (.tblLustre c i) (lustreElem c i e x y) (List.range (fld e 42 16))) ∧
    (Issues s c i 0x41 e → lustreFaults c i s e = [] → clean (fld e 66 5) → Memory.wf s.comp.sram = true →
      src + fld e 42 16 * inw ≤ dst ∨ dst + fld e 42 16 * outw ≤ src →
      (inOrder (lustreElem c i e x y) (List.range (fld e 42 16)) u).1 = none →
      ∃ t, Sys2Proof.Machine.exec (.tblLustre c i) s = .next t ∧ LocalEntry s t c i e ∧
        ∀ j, j < fld e 42 16 → sramLoad t c (dst + j * outw) outw = element j % 256 ^ outw) ∧
    (Issues s c i 0x40 e → epilogueFaults c i s e = [] → clean (fld e 77 5) →
      runs (.tblEpilogue c i) (epiCell c i e (getTile s c (fld e 36 6)))
        (List.range ((shapeOf (fld e 42 2)).1 * (shapeOf (fld e 42 2)).2))) ∧
    (Issues s c i 0x60 e → scoreFaults (fun e => [fld e 80 3]) c i s e = [] →
      runs (.tblAstep c i) (astepItem c i e) rows) ∧
    (Issues s c i 0x61 e → regSpaces (fun e => [fld e 48 3, fld e 67 3]) c i s e = [] →
      runs (.tblAfold c i) (afoldItem c i e) (rows.map (fun r => (r, readRec u c i (fld e 67 3) r (flag e 70))))) ∧
    (Issues s c i 0x62 e → regSpaces (fun e => [fld e 36 3, fld e 39 3, fld e 42 3]) c i s e = [] →
      runs (.tblAnorm c i) (anormItem c i e) (List.range (fld e 58 4 + 1))) ∧
    (Issues s c i 0x63 e → scoreFaults (fun _ => []) c i s e = [] → runs (.tblAlmax c i) (almaxItem c i e) rows) ∧
    (Issues s c i 0x64 e → scoreFaults (fun e => [fld e 80 3]) c i s e = [] →
      runs (.tblAlsum c i) (alsumItem c i e) rows) ∧
    (Issues s c i 0x65 e →
      scoreFaults (fun e => fld e 80 3 :: (if flag e 106 then [fld e 103 3] else [])) c i s e = [] →
      runs (.tblAlprob c i) (alprobItem c i e) rows) ∧
    (Issues s c i 0x66 e →
      regSpaces (fun e => fld e 36 3 :: fld e 42 3 ::
        (if flag e 87 then [] else fld e 39 3 :: fld e 45 3 :: (if flag e 89 then [fld e 90 3] else []))) c i s e = [] →
      runs (.tblAmerge c i) (amergeItem c i e) (List.range (fld e 54 4 + 1)))

/-- WADD, WMERGE, WREAD and WCLEAR over cells in the core's local SRAM that hold no poison: each cell takes the sum of
its value and its addend, or of two cells, or zero; a read-out leaves the cells and writes the converted values at
SRC. No other byte changes; a read-out raises the flags of its conversions, the others no flag (R90-R97, R187). A
wide entry over device-virtual cells that translation refuses issues, moves no byte and waits for the refusal; a
WCLEAR over cells in one page of this package's HBM leaves zeros in them and changes no other byte of HBM. -/
def Obligations.WideAccumulators : Prop :=
  (∀ (c : Fin 98304) (i : Fin 4) (s : State) (e : Entry),
      let n := wideCount e
      let cells := wideCells s c i e
      let src := getA s c i (fld e 36 3)
      let k := sramKey c (aADDR cells)
      let q := sramKey c (aADDR src)
      let cell (u : State) (a j : Nat) : Nat := memLoad u.comp.sram (a + 16 * j) 16
      let own : Option Nat := some (c : Nat)
      let others (t : State) (a m : Nat) : Prop :=
        ∀ b, b < a ∨ a + m ≤ b → memGet t.comp.sram b = memGet s.comp.sram b
      aSPACE cells = spLOCAL → Memory.wf s.comp.sram = true →
      (Issues s c i 0x50 e → wideFaults (fun e => wideCount e * addendBytes e) addendBytes c i s e = [] →
        widePoison s c i cells src n (n * addendBytes e) = .none →
        ∃ t, Sys2Proof.Machine.exec (.tblWadd c i) s = .next t ∧ Issued s t c i e none 0 false .done own ∧ CoreAlone s t c ∧
          t = { s with comp := t.comp } ∧ others t k (16 * n) ∧
          ∀ j, j < n → cell t k j = cellAdd (wideAnchor e) (cell s k j)
            (elemVal (fld e 56 4) (memLoad s.comp.sram (q + j * addendBytes e) (addendBytes e))) % 2 ^ 128) ∧
      (Issues s c i 0x51 e → wideFaults (fun e => 16 * wideCount e) (fun _ => 16) c i s e = [] → aSPACE src = spLOCAL →
        widePoison s c i cells src n (16 * n) = .none →
        ∃ t, Sys2Proof.Machine.exec (.tblWmerge c i) s = .next t ∧ Issued s t c i e none 0 false .done own ∧
          CoreAlone s t c ∧ t = { s with comp := t.comp } ∧ others t k (16 * n) ∧
          ∀ j, j < n → cell t k j = cellMerge (cell s k j) (cell s q j) % 2 ^ 128) ∧
      (Issues s c i 0x53 e → wideFaults (fun _ => 0) (fun _ => 1) c i s e = [] →
        ∃ t, Sys2Proof.Machine.exec (.tblWclear c i) s = .next t ∧ Issued s t c i e none 0 false .done none ∧
          CoreAlone s t c ∧ t = { s with comp := t.comp } ∧ others t k (16 * n) ∧ ∀ j, j < n → cell t k j = 0) ∧
      (Issues s c i 0x52 e → wideFaults (fun e => wideCount e * readoutBytes e) readoutBytes c i s e = [] →
        widePoison s c i cells src n 0 = .none →
        let out (j : Nat) : Nat × FlagSet := if fld e 56 4 = 0xD then (cell s k j, flNone)
          else cellRead (fld e 56 4) (flag e 70) (wideAnchor e) (cell s k j)
        ∃ t, Sys2Proof.Machine.exec (.tblWread c i) s = .next t ∧ Issued s t c i e none 0 false .done own ∧
          CoreAlone s t c ∧ t = { s with comp := t.comp, regs := t.regs } ∧ others t q (n * readoutBytes e) ∧
          (∀ j, j < n → memLoad t.comp.sram (q + j * readoutBytes e) (readoutBytes e) =
            (out j).1 % 256 ^ readoutBytes e) ∧
          ∀ r, r ≠ rCLU_CORE_STAT (clusterOfCore c) (indexOfCore c) → getReg t r = getReg s r)) ∧
  (∀ (c : Fin 98304) (i : Fin 4) (s : State) (e : Entry),
      let n := wideCount e
      let cells := wideCells s c i e
      let ctx := ctxOf s c i
      let own : Option Nat := some (c : Nat)
      let quiet (t : State) : Prop := SramSame s t ∧ CoreAlone s t c ∧ t = { s with comp := t.comp, regs := t.regs }
      aSPACE cells = spDV → rangeHeld s ctx (aADDR cells) (16 * n) = false →
      (Issues s c i 0x50 e → wideFaults (fun e => wideCount e * addendBytes e) addendBytes c i s e = [] →
        strandXlat s c i ctx .write (aADDR cells) (16 * n) ≠ .ok →
        ∃ t, Sys2Proof.Machine.exec (.tblWadd c i) s = .next t ∧ Issued s t c i e none 0 false .refused own ∧ quiet t) ∧
      (Issues s c i 0x51 e → wideFaults (fun e => 16 * wideCount e) (fun _ => 16) c i s e = [] →
        strandXlat s c i ctx .write (aADDR cells) (16 * n) ≠ .ok →
        ∃ t, Sys2Proof.Machine.exec (.tblWmerge c i) s = .next t ∧ Issued s t c i e none 0 false .refused own ∧ quiet t) ∧
      (Issues s c i 0x52 e → wideFaults (fun e => wideCount e * readoutBytes e) readoutBytes c i s e = [] →
        strandXlat s c i ctx .read (aADDR cells) (16 * n) ≠ .ok →
        ∃ t, Sys2Proof.Machine.exec (.tblWread c i) s = .next t ∧ Issued s t c i e none 0 false .refused own ∧ quiet t) ∧
      (Issues s c i 0x53 e → wideFaults (fun _ => 0) (fun _ => 1) c i s e = [] →
        strandXlat s c i ctx .write (aADDR cells) (16 * n) ≠ .ok →
        ∃ t, Sys2Proof.Machine.exec (.tblWclear c i) s = .next t ∧ Issued s t c i e none 0 false .refused none ∧ quiet t) ∧
      (Issues s c i 0x53 e → wideFaults (fun _ => 0) (fun _ => 1) c i s e = [] → Memory.wf s.tiers.hbm = true → 0 < n →
        ∀ l : Leaf, leafOf s ctx (aADDR cells / 2097152) = some l → l.tier = .hbm →
        aADDR cells % 2097152 + 16 * n ≤ 2097152 → launchMaps s c i .write (aADDR cells) (16 * n) = none →
        strandXlat s c i ctx .write (aADDR cells) (16 * n) = .ok →
        let p := l.frame * 2097152 + aADDR cells % 2097152
        ∃ t ph, Sys2Proof.Machine.exec (.tblWclear c i) s = .next t ∧ (ph = .done ∨ ph = .fabric 1) ∧
          Issued s t c i e none 0 false ph none ∧ CoreAlone s t c ∧
          (∀ j, j < 16 * n → memGet t.tiers.hbm (p + j) = 0#8) ∧
          (∀ b, b < p ∨ p + 16 * n ≤ b → memGet t.tiers.hbm b = memGet s.tiers.hbm b)))

/-- The final result of a wide-accumulator cell does not depend on the order in which its addends and merges arrive,
provided WRAP is clear: the sum, every flag and every read-out are the same (R94). -/
def Obligations.WideSumsIgnoreOrder : Prop :=
  ∀ (anchor : Int) (cell : Nat) (ops ops' : List (FVal ⊕ Nat)),
    let arrive (u : Nat) (o : FVal ⊕ Nat) : Nat := o.elim (cellAdd anchor u) (cellMerge u)
    let final (l : List (FVal ⊕ Nat)) : Nat := l.foldl arrive cell
    ops.Perm ops' → natBits (final ops) cellWRAP 1 = 0 → natBits (final ops') cellWRAP 1 = 0 →
    final ops = final ops' ∧
    ∀ (code : Nat) (sat : Bool), cellRead code sat anchor (final ops) = cellRead code sat anchor (final ops')

/-- The completions of issued operations. OPERATION_COMPLETE and REMOTE_DATA_RETURN end an operation: its value goes to
its register, a strand that waits in REMOTE is READY again once no remote value and no room for an access is wanting,
and its done latch falls by one (at zero it stays, with the underflow recorded). An operation that has read local SRAM
adds what its reads corrected to the counter of the core that holds it; how many there were is a free value (log entry
154). A refusal that returns ends the operation without data and faults the core (03 R117, R137; 04 R170, R176-R179). -/
def Obligations.OperationsComplete : Prop :=
  ∀ (c : Fin 98304) (id : Nat) (s : State) (o : OutOp), findOp s c id = some o →
    let written (v : Strand) : Strand := match o.dest with
      | some r => { v with sreg := v.sreg.set r o.value }
      | none => v
    let corr (k : Nat) : Field := fCLU_CORE_STAT_SRAM_CORR (clusterOfCore k) (indexOfCore k)
    let ended (t : State) : Prop :=
      let awake (v : Strand) : Strand :=
        if o.remote = true ∧ v.phase = .remote ∧ stillRemote t c o.strand = false then { v with phase := .ready } else v
      (getCore t c).ops = (getCore s c).ops.filter (fun x => x.id != o.id) ∧
      (getCore t c).strands = (getCore s c).strands.modify o.strand (fun v => awake (written v)) ∧
      (∀ b n, latchGet t c b n = latchGet s c b n - (if o.latch = some (b, n) then 1 else 0)) ∧
      (∀ l, o.latch = some l → latchGet s c l.1 l.2 = 0 → bitF t fGLB_ERR_LATCH_UNDERFLOW = true) ∧
      ((∀ l, o.latch = some l → latchGet s c l.1 l.2 ≠ 0) →
        (o.sram = none → t.regs = s.regs ∧ t.tel = s.tel ∧ t.fresh = s.fresh) ∧
        (∀ k, o.sram = some k → t.fresh = s.fresh + 1 ∧
          getF t (corr k) = min (getF s (corr k) + Config.freeNat s.fresh) (2 ^ (corr k).w - 1) ∧
          ∀ r, r ≠ rCLU_CORE_STAT (clusterOfCore k) (indexOfCore k) → getReg t r = getReg s r)) ∧
      SramSame s t ∧ CoreAlone s t c ∧
      t = { s with comp := t.comp, regs := t.regs, tel := t.tel, fresh := t.fresh }
    (mayComplete s o = true → ∃ t, Sys2Proof.Machine.exec (.operationComplete c id) s = .next t ∧ ended t) ∧
    (o.remote = true → o.phase = .done → ∃ t, Sys2Proof.Machine.exec (.remoteDataReturn c id) s = .next t ∧ ended t) ∧
    (o.phase = .refused → ∃ t u, Sys2Proof.Machine.exec (.translationRefusalReturn c id) s = .next t ∧
      t = coreFault u c o.strand .translation ∧
      (getCore u c).ops = (getCore s c).ops.filter (fun x => x.id != o.id) ∧
      (getCore u c).strands = (getCore s c).strands ∧
      ∀ b n, latchGet u c b n = latchGet s c b n - (if o.latch = some (b, n) then 1 else 0))

/-- A launch with every strand IDLE and every operation complete is done: its stream buffers are unbound and the Warden
is told. A line of the cluster store that arrives is in the strand's line buffer. A strand held in WAITING or
STALLED for more than 10 ms is an uncorrectable fault of the package, cause 0x0006, under the strand's CONTEXT.
Loading of stores and micro-program slots by the PF, outside warm reset. CLU_TBL_SEL takes its fields and empties
the staging register. A low half is staged; a high half that follows it in the same place makes a valid entry of the
two and puts it into the store, refuses an invalid one, and tears where no low half waits. A micro-op goes into the
selected slot and makes it invalid; COMMIT makes a slot that breaks no rule valid and names the first micro-op that
breaks one. -/
def Obligations.LaunchesAndStores : Prop :=
  (∀ (c : Fin 98304) (i : Fin 4) (s : State),
      (∀ l, (getCore s c).launch = some l → (getCore s c).allIdle = true → (getCore s c).ops = [] → l.done = false →
        l.faulted = false →
        ∃ t u, Sys2Proof.Machine.exec (.launchComplete c) s = .next t ∧ t = sendPassed u ∧
          (s.hinge.gating = false → t = u) ∧
          u = { s with comp := { s.comp with cores := u.comp.cores }, out := s.out ++ [⟨.report, [(c : Nat)]⟩] } ∧
          getCore u c = { getCore s c with
            launch := some { l with done := true }
            bufs := List.replicate 4 StreamBuf.empty } ∧
          ∀ d, d ≠ (c : Nat) → getCore u d = getCore s d) ∧
      (∀ p, (getStrand s c i).pc = some (1024 + p) → (i : Nat) < (getCore s c).strands.length →
        ∃ t, Sys2Proof.Machine.exec (.clusterStoreLineArrival c i) s = .next t ∧
          OnlyStrand s t c i { getStrand s c i with line := some (p / 4) } ∧ lineHeld (getStrand t c i) = true) ∧
      ((getStrand s c i).phase = .waiting ∨ (getStrand s c i).phase = .stalled → stillHeld s c i = true →
        ∃ t, Sys2Proof.Machine.exec (.waitTimeout c i) s = .next t ∧
          t = declareFault s 0x0006 ⟨dieOfCluster (clusterOfCore c), clusterOfCore c % 32, indexOfCore c, i,
            (getStrand s c i).context⟩)) ∧
  (∀ (k : Fin 512) (x : Fin 1024) (m : Fin 64) (v : Word) (s : State), inWarm s = false →
      let sel := getF s (fCLU_LUS_SEL_SLOT k)
      let clusters (t : State) : Prop := ∀ d, d ≠ (k : Nat) → getCluster t d = getCluster s d
      (natBits v.toNat 0 8 ≤ 191 → ∃ t, Sys2Proof.Machine.exec (.cluTblSelWrite 0 k v) s = .next t ∧
        getF t (fCLU_TBL_SEL_CORE k) = natBits v.toNat 0 8 ∧ getF t (fCLU_TBL_SEL_BCAST k) = natBits v.toNat 8 1 ∧
        getCluster t k = { getCluster s k with staging := none } ∧ clusters t) ∧
      (∀ clus : Bool,
        let core := if clus then 0 else getF s (fCLU_TBL_SEL_CORE k)
        let every := if clus then false else bitF s (fCLU_TBL_SEL_BCAST k)
        (storeOpen s k clus = true → ∃ t, Sys2Proof.Machine.exec (.storeEntryLowWrite 0 k clus x v) s = .next t ∧
          getCluster t k = { getCluster s k with staging := some ⟨v, clus, x, core, every⟩ } ∧ clusters t ∧
          t = { s with comp := { s.comp with clusters := t.comp.clusters } }) ∧
        (∀ low, storeOpen s k clus = true → (getCluster s k).staging = some ⟨low, clus, x, core, every⟩ →
          (entryOk (isPavilion k) (v ++ low) = true →
            ∃ t, Sys2Proof.Machine.exec (.storeEntryHighWrite 0 k clus x v) s = .next t ∧
              (∀ j, tabGet 0#128 t.comp.clusterStore j =
                if clus = true ∧ j = k * 1024 + x then v ++ low else tabGet 0#128 s.comp.clusterStore j) ∧
              (∀ j, tabGet 0#128 t.comp.coreStore j =
                if clus = false ∧ j / 1024 ∈ tblCores s k ∧ j % 1024 = x then v ++ low
                else tabGet 0#128 s.comp.coreStore j) ∧
              (getCluster t k).staging = none ∧ clusters t ∧ t = { s with comp := t.comp } ∧ t.comp.cores = s.comp.cores) ∧
          (entryOk (isPavilion k) (v ++ low) = false →
            ∃ t, Sys2Proof.Machine.exec (.storeEntryHighWrite 0 k clus x v) s = .next t ∧
              bitF t (fCLU_TBL_STAT_REFUSED k) = true ∧
              getF t (fCLU_TBL_STAT_REF_POS k) = (if clus then 1024 + (x : Nat) else x) ∧
              t.comp.clusterStore = s.comp.clusterStore ∧ t.comp.coreStore = s.comp.coreStore ∧
              (getCluster t k).staging = none)) ∧
        (storeOpen s k clus = true → (getCluster s k).staging = none →
          ∃ t, Sys2Proof.Machine.exec (.storeEntryHighWrite 0 k clus x v) s = .next t ∧
            bitF t (fCLU_TBL_STAT_TORN k) = true ∧ t.comp = s.comp) ∧
        (storeOpen s k clus = false →
          ∃ t, Sys2Proof.Machine.exec (.storeEntryLowWrite 0 k clus x v) s = .next t ∧
            bitF t (fCLU_TBL_STAT_DISCARDED k) = true ∧ t.comp = s.comp)) ∧
      (lusOpen s k = true → ∃ t, Sys2Proof.Machine.exec (.cluLusProgWrite 0 k m v) s = .next t ∧
        tabGet [] (getCluster t k).slots sel = (slotWords s k sel).set m v.toNat ∧
        (∀ j, j ≠ sel → tabGet [] (getCluster t k).slots j = tabGet [] (getCluster s k).slots j) ∧
        natBits (getF t (fCLU_LUS_STAT_VALID k)) sel 1 = 0 ∧ clusters t) ∧
      (lusOpen s k = true → slotFault (slotWords s k sel) = none →
        ∃ t, Sys2Proof.Machine.exec (.lustreSlotCommit 0 k) s = .next t ∧
          natBits (getF t (fCLU_LUS_STAT_VALID k)) sel 1 = 1 ∧ t.comp = s.comp) ∧
      (∀ j, lusOpen s k = true → slotFault (slotWords s k sel) = some j → j < 64 →
        ∃ t, Sys2Proof.Machine.exec (.lustreSlotCommit 0 k) s = .next t ∧
          natBits (getF t (fCLU_LUS_STAT_VALID k)) sel 1 = 0 ∧ bitF t (fCLU_LUS_STAT_REFUSED k) = true ∧
          getF t (fCLU_LUS_STAT_REF_INDEX k) = j ∧ getF t (fCLU_LUS_STAT_REF_SLOT k) = sel ∧ t.comp = s.comp) ∧
      (lusOpen s k = true → ∃ t, Sys2Proof.Machine.exec (.lustreSlotInvalidate 0 k) s = .next t ∧
        natBits (getF t (fCLU_LUS_STAT_VALID k)) sel 1 = 0 ∧ t.comp = s.comp))

/-- The scrubbers. A scrub read of SRAM corrects, counts or poisons the word that it reads and takes its bank off the
overdue list; one of a store marks an uncorrectable slot; one of HBM counts a correction or poisons the granule. An
overdue bank is listed and flagged. The scrubber faults nothing (03 R119, 18 R608-R611). A direction of a Girdle
link at its receiver. A good flit is accepted and clears what failed; the first bad flit asks for a replay; one that
fails three replays takes the link down. A lane goes onto a spare while there is one; with none left, or told so,
the link is down. A link that goes down does so in both directions and is an uncorrectable fault, cause 0x0005, of the
die at the receiving end; a link that is down takes nothing more (01 R39, 03 R146). -/
def Obligations.ScrubsAndLinks : Prop :=
  (∀ (c : Fin 98304) (s : State),
      let k := clusterOfCore c
      let i := indexOfCore c
      pstate s k ≤ 1 →
      (∀ (x : Nat), x * 8 < sramSize c →
        let left := (getCluster s k).scrub.filter (fun p => p != (i, x / 8 % 16))
        let cleared (t : State) : Prop := (getCluster t k).scrub = left ∧
          getF t (fCLU_STATE_SCRUB_OVERDUE k) = (if left = [] then 0 else 1) ∧ t.comp.sram = s.comp.sram ∧
          t.comp.cores = s.comp.cores ∧ t.fault = s.fault ∧ t.out = s.out
        (∃ t, Sys2Proof.Machine.exec (.sramScrubRead c false x 0) s = .next t ∧ cleared t ∧
          t.comp.sramPoison = s.comp.sramPoison) ∧
        (∃ t, Sys2Proof.Machine.exec (.sramScrubRead c false x 1) s = .next t ∧ cleared t ∧
          t.comp.sramPoison = s.comp.sramPoison ∧
          getF t (fCLU_CORE_STAT_SRAM_CORR k i) =
            min (getF s (fCLU_CORE_STAT_SRAM_CORR k i) + 1) (2 ^ (fCLU_CORE_STAT_SRAM_CORR k i).w - 1)) ∧
        (∃ t, Sys2Proof.Machine.exec (.sramScrubRead c false x 2) s = .next t ∧ cleared t ∧
          t.comp.sramPoison = nsInsert s.comp.sramPoison (sramKey c (x * 8) / 8))) ∧
      (∀ x, x < 2048 → ∃ t, Sys2Proof.Machine.exec (.sramScrubRead c true x 2) s = .next t ∧
        (getCluster t k).poisonedStore = nsInsert (getCluster s k).poisonedStore (storeSlot i x) ∧
        t = { s with comp := { s.comp with clusters := t.comp.clusters } }) ∧
      (∀ b : Fin 16, (i, (b : Nat)) ∉ (getCluster s k).scrub →
        ∃ t, Sys2Proof.Machine.exec (.sramScrubOverdue c b) s = .next t ∧
          (getCluster t k).scrub = (i, (b : Nat)) :: (getCluster s k).scrub ∧
          getF t (fCLU_STATE_SCRUB_OVERDUE k) = 1)) ∧
  (∀ (link : Fin 24) (back : Bool) (lanes : Fin 16) (s : State),
      let n := 2 * (link : Nat) + (if back then 1 else 0)
      let m := 2 * (link : Nat) + (if back then 0 else 1)
      let g := getGirdle s n
      let only (t : State) (h : Girdle) : Prop := t = { s with comp := { s.comp with girdle := t.comp.girdle } } ∧
        getGirdle t n = h ∧ ∀ j, j ≠ n → getGirdle t j = getGirdle s j
      let falls (t : State) (h : Girdle) : Prop := ∃ u, t = declareFault u 0x0005
          ⟨if back then (girdleDies link).1 else (girdleDies link).2, 0, 0, 0, (link : Nat)⟩ ∧
        u = { s with comp := { s.comp with girdle := u.comp.girdle } } ∧ getGirdle u n = { h with down := true } ∧
        getGirdle u m = { getGirdle s m with down := true } ∧ ∀ j, j ≠ n → j ≠ m → getGirdle u j = getGirdle s j
      (g.down = false → (getGirdle s m).down = false →
        (∃ t, Sys2Proof.Machine.exec (.girdleFlitReceive link back true) s = .next t ∧
          only t { g with seq := g.seq + 1, fails := 0, replay := false }) ∧
        (g.replay = false → ∃ t, Sys2Proof.Machine.exec (.girdleFlitReceive link back false) s = .next t ∧
          only t { g with fails := 0, replay := true }) ∧
        (g.replay = true → g.fails < 2 →
          ∃ t, Sys2Proof.Machine.exec (.girdleFlitReceive link back false) s = .next t ∧
            only t { g with fails := g.fails + 1 }) ∧
        (g.replay = true → g.fails = 2 →
          ∃ t, Sys2Proof.Machine.exec (.girdleFlitReceive link back false) s = .next t ∧ falls t { g with fails := 3 }) ∧
        (tabGet 0 g.repairs lanes < Config.girdleSpares →
          ∃ t, Sys2Proof.Machine.exec (.girdleLaneRepair link back lanes) s = .next t ∧
            only t { g with repairs := tabSet g.repairs lanes (tabGet 0 g.repairs lanes + 1) }) ∧
        (Config.girdleSpares ≤ tabGet 0 g.repairs lanes →
          ∃ t, Sys2Proof.Machine.exec (.girdleLaneRepair link back lanes) s = .next t ∧ falls t g) ∧
        (∃ t, Sys2Proof.Machine.exec (.girdleLinkDown link back) s = .next t ∧ falls t g)) ∧
      (g.down = true ∨ (getGirdle s m).down = true →
        (∀ good, Sys2Proof.Machine.exec (.girdleFlitReceive link back good) s = .next s) ∧
        Sys2Proof.Machine.exec (.girdleLaneRepair link back lanes) s = .next s ∧
        Sys2Proof.Machine.exec (.girdleLinkDown link back) s = .next s))

/-- The life of a page of the KV pool. A held page that nothing references and no move uses is freed: its GEN rises, and
it goes to its owner's free list, to ZEROING where that list holds its reserve, or to quarantine where GEN would
reach 0xFFFF. A zeroed page is in the global pool with zeros in its bytes and scales. The sweep counts itself, gives
quarantined pages back with GEN 1, and no page outside them changes its GEN (07 R285-R290). -/
def Obligations.PageLife : Prop :=
  ∀ (n : Fin 4294967296) (s : State),
    let r := getPage s n
    let pagesOnly (t : State) : Prop := t = { s with bezel := { s.bezel with pages := t.bezel.pages } } ∧
      ∀ m, m ≠ (n : Nat) → getPage t m = getPage s m
    (r.phase = .held → r.refs = 0 → r.inflight = 0 →
      ∃ t, Sys2Proof.Machine.exec (.pageFree n) s = .next t ∧ pagesOnly t ∧
        (r.gen + 1 < 0xFFFF → (freeList s r.owner).length < tenantField s r.owner 192 32 →
          getPage t n = { r with gen := r.gen + 1, phase := .free }) ∧
        (r.gen + 1 < 0xFFFF → tenantField s r.owner 192 32 ≤ (freeList s r.owner).length →
          getPage t n = { r with gen := r.gen + 1, phase := .zeroing }) ∧
        (0xFFFF ≤ r.gen + 1 →
          getPage t n = { r with gen := r.gen + 1, phase := .quarantine, since := s.bezel.sweeps })) ∧
    (r.phase ≠ .held ∨ r.refs ≠ 0 ∨ r.inflight ≠ 0 → Sys2Proof.Machine.exec (.pageFree n) s = .next s) ∧
    (r.phase = .zeroing →
      let a := pageAddr s n
      let size := (kvLayout s).fpp * 32768
      ∃ t, Sys2Proof.Machine.exec (.pageZeroingComplete n) s = .next t ∧
        getPage t n = { r with phase := .free, refs := 0, scaleset := 0, pooled := true, owner := 0 } ∧
        (∀ m, m ≠ (n : Nat) → getPage t m = getPage s m) ∧
        (∀ b, a ≤ b → b < a + size → memGet t.tiers.hbm b = 0#8) ∧
        (∀ b, b < a ∨ a + size ≤ b → memGet t.tiers.hbm b = memGet s.tiers.hbm b) ∧
        (∀ l k, l < 16 → k < 64 → getScale t n l k = 0) ∧
        t = { s with
          bezel := { s.bezel with pages := t.bezel.pages, scales := t.bezel.scales }
          tiers := { s.tiers with hbm := t.tiers.hbm, hbmPoison := t.tiers.hbmPoison }
          tel := t.tel }) ∧
    (∃ t, Sys2Proof.Machine.exec .generationSweep s = .next t ∧
      getF t fBZL_SWEEP_COUNT = (getF s fBZL_SWEEP_COUNT + 1) % 2 ^ fBZL_SWEEP_COUNT.w ∧
      t.bezel.sweeps = s.bezel.sweeps + 1 ∧ t.bezel.expired = 0 ∧
      (r.phase = .quarantine → getPage t n = { r with
        gen := 1, phase := .free, refs := 0, scaleset := 0, pooled := true, owner := 0, inflight := (getPage t n).inflight }) ∧
      (r.phase ≠ .quarantine → (getPage t n).gen = r.gen ∧ (getPage t n).phase = r.phase))

/-- The records that a launch has left in its write aperture are applied once, after it is done. A record that is short,
below the committed length or stale is refused with its own error bit. An accepted record whose page is resident and
held by this request alone, with the scales of its layer fixed, leaves its latent in the page, each element quantised
with its block's scale, and its positional key as E4M3 codes, and changes no other byte of HBM; what the elements clamp
or round away is counted, and the traffic is charged to the tenant (07 R260, R267-R271; 10 R381). -/
def Obligations.KvRecords : Prop :=
  ∀ (c : Fin 98304) (s : State) (l : Launch), (getCore s c).launch = some l → l.done = true → l.applied = false →
    let applied (t : State) : Prop := (getCore t c).launch = some { l with applied := true } ∧
      (∀ d, d ≠ (c : Nat) → getCore t d = getCore s d)
    ((∀ k ∈ apertureRecords s l, recordFate s l k ≠ .ok) →
      ∃ t, Sys2Proof.Machine.exec (.kvRecordApply c) s = .next t ∧ applied t ∧
        t = { s with comp := { s.comp with cores := t.comp.cores }, regs := t.regs } ∧
        (∀ k ∈ apertureRecords s l,
          (recordFate s l k = .short → bitF t fBZL_ERR_RECORD_SHORT = true) ∧
          (recordFate s l k = .committed → bitF t fBZL_ERR_COMMITTED_WRITE = true) ∧
          (recordFate s l k = .stale → bitF t fBZL_ERR_SPEC_STALE = true)) ∧
        (∀ g, g ≠ rBZL_ERR → getReg t g = getReg s g)) ∧
    (∀ (k : KvRecord) (r : PageRef),
      let y := kvLayout s
      let la := latentAddr s r.page (k.layer % y.lpg) (k.pos % 64)
      let ra := ropeAddr s r.page (k.layer % y.lpg) (k.pos % 64)
      let f := (fmtOfCode y.lfmt).getD fmtE4M3
      let latent (i : Nat) : Nat := kvElem f ((getScale s r.page (k.layer % y.lpg) (i / 32) : Int) - 127)
        (bf16Val (k.vals.getD i 0))
      apertureRecords s l = [k] → recordFate s l k = .ok →
      tabFind (getList s k.ward).ents (entIndex s (k.pos / 64) (k.layer / y.lpg)) = some r →
      (∀ x ∈ entRanges s k.ward (entIndex s (k.pos / 64) (k.layer / y.lpg)), hbmPoisoned s x.1 x.2 = false) →
      r.loc = .resident → r.gen = (getPage s r.page).gen → (getPage s r.page).refs ≤ 1 →
      natBits (getPage s r.page).scaleset (k.layer % y.lpg) 1 = 1 → Memory.wf s.tiers.hbm = true →
      ∃ t, Sys2Proof.Machine.exec (.kvRecordApply c) s = .next t ∧ applied t ∧
        t = { s with
          comp := { s.comp with cores := t.comp.cores }
          tiers := { s.tiers with hbm := t.tiers.hbm, hbmPoison := t.tiers.hbmPoison }
          warden := { s.warden with buckets := t.warden.buckets }
          tel := { s.tel with counters := t.tel.counters } } ∧
        (∀ i, i < y.ldim * y.bits / 8 → memGet t.tiers.hbm (la + i) =
          (packElems y.bits ((List.range y.ldim).map latent)).getD i 0#8) ∧
        (∀ i, i < y.rdim → memGet t.tiers.hbm (ra + i) =
          BitVec.ofNat 8 (kvElem fmtE4M3 0 (bf16Val (k.vals.getD (y.ldim + i) 0)))) ∧
        (∀ b, (b < la ∨ la + y.lb ≤ b) → (b < ra ∨ ra + y.rdim ≤ b) →
          memGet t.tiers.hbm b = memGet s.tiers.hbm b))

/-- Parking and return, the prompt lookup and the stream producer. A completed park moves every page that its move holds
and the request holds alone to the tier chosen, each copy with its CRC-32C, and reports PARKED; with no tier for them the
cache expires; while a bucket of the tenant that the moves need is empty nothing moves. A parked page that returns whole
is in a page taken for the context, with its bytes, and READY is reported with the last of them; one whose CRC fails
expires the cache. A lookup is taken off its list and leaves the matched count. A producer writes the next line of a
stream into a bound buffer for one credit, raising the flags of its expander, or on a Facet core into the launch's
scratch range (02 R79, 07 R273-R280, R291-R295, R300; 10 R381). -/
def Obligations.ParkLookupAndStream : Prop :=
  ∀ (w : Fin 65536) (s : State),
    let e := getWard s w
    let record (k : RecKind) (arg : Nat) : Out :=
      ⟨.mgmt .orderRecord, orderPkg s :: recordArgs (OrderRecord.plain k (ownPkg s) w e.aseq arg)⟩
    (∀ is, (getList s w).moving = some is → s.tiers.hbmPoison = [] →
      let ps := (soloEnts s w).filter (fun p => is.contains p.1)
      let cost (loc : PageWhere) : List Charge :=
        moveCharges s e.ctx (ps.map (fun p => p.2.page)) loc ((loanFramesFree s).headD 0)
      let moveEnded (t : State) : Prop := (getList t w).parking = false ∧ (getList t w).moving = none
      (∀ p ∈ ps, genOk s p.2 = true) →
      (ps = [] → ∃ t, Sys2Proof.Machine.exec (.parkComplete w) s = .next t ∧ moveEnded t ∧ t.out = s.out ++ [record .parked 0]) ∧
      (∀ loc, ps ≠ [] → parkTarget s e.ctx ps.length e.spill = some loc →
        (allOpen s (cost loc) = false → Sys2Proof.Machine.exec (.parkComplete w) s = .next s) ∧
        (allOpen s (cost loc) = true → (∀ p ∈ ps, tabHas (getList s w).leaves (p.1 / 512) = true) →
          (ps.map Prod.fst).Nodup →
          ∃ t, Sys2Proof.Machine.exec (.parkComplete w) s = .next t ∧ moveEnded t ∧ t.out = s.out ++ [record .parked 0] ∧
            ∀ p ∈ ps, ∃ r c, tabFind (getList t w).ents p.1 = some r ∧ r.loc = loc ∧
              tabFind t.bezel.parked r.page = some c ∧ c.loc = loc ∧ c.crc = crc32c (copyBytes s c.bytes c.scales) ∧
              ∀ b, b < (kvLayout s).pageBytes →
                memGet c.bytes b = memGet s.tiers.hbm (pageAddr s p.2.page + b))) ∧
      (ps ≠ [] → parkTarget s e.ctx ps.length e.spill = none →
        ∃ t, Sys2Proof.Machine.exec (.parkComplete w) s = .next t ∧ (getList t w).ents = [] ∧ moveEnded t ∧
          t.bezel.expired = s.bezel.expired + 1 ∧ t.out = s.out ++ [record .expire 1])) ∧
    (∀ (i : Nat) (r : PageRef) (c : ParkedCopy) (flips : List Nat),
      (parkedEnts s w).find? (fun p => p.1 == i) = some (i, r) → tabFind s.bezel.parked r.page = some c →
      (getInfo s w).restoring = true ∨ e.forked = true →
      (crc32c (c.returned s flips) ≠ c.crc →
        ∃ t, Sys2Proof.Machine.exec (.resumePageReturn w i flips) s = .next t ∧ (getList t w).ents = [] ∧
          bitF t fBZL_ERR_PARK_CHECK = true ∧ t.out = s.out ++ [record .expire 2]) ∧
      (∀ n u, crc32c (c.returned s flips) = c.crc → tabGet 0 s.bezel.resv w ≠ 0 → takePage s e.ctx = some (n, u) →
        allOpen s (moveCharges s e.ctx [n] c.loc (c.frames.headD 0)) = true →
        tabHas (getList s w).leaves (i / 512) = true → Memory.wf s.tiers.hbm = true → Memory.wf c.bytes = true →
        ∃ t, Sys2Proof.Machine.exec (.resumePageReturn w i flips) s = .next t ∧
          tabFind (getList t w).ents i = some { r with page := n, loc := .resident, gen := (getPage t n).gen } ∧
          (getPage t n).phase = .held ∧ (getPage t n).refs = 1 ∧
          tabGet 0 t.bezel.resv w = tabGet 0 s.bezel.resv w - 1 ∧
          (c.refs ≤ 1 → tabFind t.bezel.parked r.page = none) ∧
          (∀ b, b < (kvLayout s).pageBytes → memGet t.tiers.hbm (pageAddr s n + b) = memGet c.bytes b) ∧
          t.out = s.out ++
            (if (getInfo s w).restoring = true ∧ parkedEnts t w = [] then [record .ready 0] else []))) ∧
    (∀ sh, (w : Nat) ∈ s.bezel.lookups →
      ∃ t n, Sys2Proof.Machine.exec (.bittingLookup ⟨w, sh⟩) s = .next t ∧ n ≤ (e.tlen - 1) / 64 ∧
        (domainKey s (domainOf s e.ctx) = none → n = 0) ∧ (getList t w).shards = sh ∧
        t.bezel.matched = s.bezel.matched ++ [((w : Nat), e.aseq, n)] ∧ (w : Nat) ∉ t.bezel.lookups) ∧
    (∀ (c : Fin 98304) (b : Fin 4) (x : Fin 32) (sp : StreamSpec), (getBuf s c b).bound = some sp →
      let f := getBuf s c b
      let cost := hbmCharges s (getWard s sp.ward).ctx (streamRanges s sp f.sent)
      f.credits ≠ 0 → f.sent < streamLines (kvLayout s) sp → streamGenOk s sp = true →
      (∀ r ∈ streamRanges s sp f.sent, hbmPoisoned s r.1 r.2 = false) →
      (allOpen s cost = false → Sys2Proof.Machine.exec (.streamLineWrite c b x) s = .next s) ∧
      (allOpen s cost = true → isCulet c = true →
        ∃ t, Sys2Proof.Machine.exec (.streamLineWrite c b x) s = .next t ∧
          getBuf t c b = { f with
            lines := f.lines ++ [(streamLine s sp f.sent).1], credits := f.credits - 1, sent := f.sent + 1 } ∧
          (∀ d, d ≠ (b : Nat) → getBuf t c d = getBuf s c d) ∧ (∀ d, d ≠ (c : Nat) → getCore t d = getCore s d) ∧
          tabGet flNone t.bezel.expFlags x = tabGet flNone s.bezel.expFlags x ||| (streamLine s sp f.sent).2 ∧
          t = { s with
            comp := { s.comp with cores := t.comp.cores }
            bezel := { s.bezel with expFlags := t.bezel.expFlags }
            warden := { s.warden with buckets := t.warden.buckets }
            tel := { s.tel with counters := t.tel.counters } }) ∧
      (allOpen s cost = true → isCulet c = false →
        ∃ t, Sys2Proof.Machine.exec (.streamLineWrite c b x) s = .next t ∧ getBuf t c b = { f with sent := f.sent + 1 } ∧
          (∀ d, d ≠ (b : Nat) → getBuf t c d = getBuf s c d) ∧ ∀ d, d ≠ (c : Nat) → getCore t d = getCore s d))

/-- Admission at the home package: the first check that fails completes the descriptor with its status; where all pass,
a transcript extent is taken and the prompt is read, by the function's DMA or by an RDMA read on DEST_QP. The prompt,
once it has come, lies in the extent and the ADMIT record goes to the ordering package with its completion owed; one that
failed gives the extent back (09 R331-R333). A RESUME's prompt is kept until its record is applied (R348). -/
def Obligations.AdmissionAtHome : Prop :=
  ∀ (o : Origin) (subseq : Nat) (desc : BitVec 512) (s : State),
    let d := desc.toNat
    let ctx := dCtx d
    let limit := limitOf (dMAX_LEN d) (layerGroups s)
    let answers (t : State) (st : Nat) : Prop := t = complete s o subseq (dOP d) st 0 0
    let asked : Out := match o with
      | .pcie fn _ => ⟨.hostRead, [fn, dPROMPT_ADDR d, 4 * dPROMPT_LEN d]⟩
      | .qp _ _ => ⟨.rdmaRead, [dDEST_QP d, dPROMPT_ADDR d, dDEST_KEY d, 4 * dPROMPT_LEN d]⟩
    (stopped s = false →
      (admitOk s o d = false →
        ∃ t, Sys2Proof.Machine.exec (.admitDescriptor o subseq desc) s = .next t ∧ answers t 0x25) ∧
      (admitOk s o d = true → tenantRec s ctx = none ∨ bound s o ctx = false →
        ∃ t, Sys2Proof.Machine.exec (.admitDescriptor o subseq desc) s = .next t ∧ answers t 0x26) ∧
      (admitOk s o d = true → tenantRec s ctx ≠ none → bound s o ctx = true → deadlineFar s.now (dDEADLINE d) = true →
        ∃ t, Sys2Proof.Machine.exec (.admitDescriptor o subseq desc) s = .next t ∧ answers t 0x24) ∧
      (admitOk s o d = true → tenantRec s ctx ≠ none → bound s o ctx = true → deadlineFar s.now (dDEADLINE d) = false →
        findExtent (extentUnits limit) (getF s fWRD_TS_STAT_SIZE) 0 s.ward.extents = none →
        ∃ t, Sys2Proof.Machine.exec (.admitDescriptor o subseq desc) s = .next t ∧
          t = complete (raiseF s fWRD_ERR_TS_FULL) o subseq (dOP d) 0x21 0 0) ∧
      (∀ x, admitOk s o d = true → tenantRec s ctx ≠ none → bound s o ctx = true →
        deadlineFar s.now (dDEADLINE d) = false →
        findExtent (extentUnits limit) (getF s fWRD_TS_STAT_SIZE) 0 s.ward.extents = some x →
        ∃ t, Sys2Proof.Machine.exec (.admitDescriptor o subseq desc) s = .next t ∧
          t.ward.reads = s.ward.reads ++ [⟨d, o, subseq, x⟩] ∧ t.out = s.out ++ [asked] ∧
          tabFind t.ward.extents x = some (extentUnits limit) ∧
          (∀ y, y ≠ x → tabGet 0 t.ward.extents y = tabGet 0 s.ward.extents y) ∧
          t = { s with ward := { s.ward with reads := t.ward.reads, extents := t.ward.extents }, out := t.out })) ∧
    (∀ (r : PromptRead) (tokens : List Nat),
      let toks := (List.range (dPROMPT_LEN r.desc)).map (fun i => tokens.getD i 0)
      let sent (k : RecKind) : List Nat := orderPkg s :: recordArgs { OrderRecord.plain k (ownPkg s) (dWARD r.desc)
        (dASEQ r.desc) (if bound s r.origin (dCtx r.desc) then 1 else 0) with
          desc := r.desc, origin := r.origin, extent := r.extent }
      s.ward.reads.find? (fun r => r.origin == o && r.subseq == subseq) = some r →
      (dOP r.desc = 1 → promptPathOk s r = true → Memory.wf s.tiers.hbm = true →
        ∃ t, Sys2Proof.Machine.exec (.promptReadComplete o subseq true tokens) s = .next t ∧
          (∀ p, p < dPROMPT_LEN r.desc → transcriptToken t r.extent p = tokens.getD p 0 % 2 ^ 32) ∧
          t.ward.reads = s.ward.reads.erase r ∧
          t.ward.owed = s.ward.owed ++ [⟨r.origin, r.subseq, 1, r.desc, [], false⟩] ∧
          t.out = s.out ++ [⟨.mgmt .orderRecord, sent .admission⟩] ∧
          t = { s with ward := t.ward, tiers := t.tiers, out := t.out }) ∧
      (dOP r.desc = 3 → promptPathOk s r = true →
        ∃ t, Sys2Proof.Machine.exec (.promptReadComplete o subseq true tokens) s = .next t ∧
          t = { s with
            ward := { s.ward with
              reads := s.ward.reads.erase r
              owed := s.ward.owed ++ [⟨r.origin, r.subseq, 3, r.desc, toks, false⟩] }
            out := s.out ++ [⟨.mgmt .orderRecord, sent .resume⟩] }) ∧
      (dOP r.desc = 1 → ∃ t u, Sys2Proof.Machine.exec (.promptReadComplete o subseq false tokens) s = .next t ∧
        t = complete u o subseq 1 0x25 0 0 ∧ tabHas u.ward.extents r.extent = false ∧
        u.ward.reads = s.ward.reads.erase r ∧
        u = { s with ward := { s.ward with reads := u.ward.reads, extents := u.ward.extents } }))

/-- PAUSE, RESUME and CANCEL at the home package: words of another OP are completed with BAD_DESCRIPTOR; a command goes to
the ordering package as one record and its completion is owed; the DEADLINE of a RESUME is compared first, and its
prompt, where it has one, is read first. Nothing else changes (09 R331, R337, R345, R348; that the record carries the
home package's word on the carrier is the model's reading, log entry 162). -/
def Obligations.RequestCommands : Prop :=
  ∀ (o : Origin) (subseq : Nat) (desc : BitVec 512) (s : State), stopped s = false →
    let d := desc.toNat
    let sent (t : State) (k : RecKind) : Prop :=
      t.ward.owed = s.ward.owed ++ [⟨o, subseq, dOP d, d, [], false⟩] ∧
      t.out = s.out ++ [⟨.mgmt .orderRecord, orderPkg s :: recordArgs { OrderRecord.plain k (ownPkg s) (dWARD d) (dASEQ d)
        (if bound s o (dCtx d) then 1 else 0) with desc := d, origin := o }⟩] ∧
      t = { s with ward := { s.ward with owed := t.ward.owed }, out := t.out }
    let refused (t : State) (st : Nat) : Prop := t = complete s o subseq (dOP d) st (dWARD d) (dASEQ d)
    let asked : Out := match o with
      | .pcie fn _ => ⟨.hostRead, [fn, dPROMPT_ADDR d, 4 * dPROMPT_LEN d]⟩
      | .qp _ _ => ⟨.rdmaRead, [(getDeliv s (dWARD d)).destQp, dPROMPT_ADDR d, (getDeliv s (dWARD d)).destKey,
          4 * dPROMPT_LEN d]⟩
    (dOP d ≠ 2 → ∃ t, Sys2Proof.Machine.exec (.pause o subseq desc) s = .next t ∧ refused t 0x25) ∧
    (dOP d ≠ 3 → ∃ t, Sys2Proof.Machine.exec (.resume o subseq desc) s = .next t ∧ refused t 0x25) ∧
    (dOP d ≠ 4 → ∃ t, Sys2Proof.Machine.exec (.cancel o subseq desc) s = .next t ∧ refused t 0x25) ∧
    (dOP d = 2 → ∃ t, Sys2Proof.Machine.exec (.pause o subseq desc) s = .next t ∧ sent t .pause) ∧
    (dOP d = 4 → ∃ t, Sys2Proof.Machine.exec (.cancel o subseq desc) s = .next t ∧ sent t .cancel) ∧
    (dOP d = 3 → deadlineFar s.now (dDEADLINE d) = true →
      ∃ t, Sys2Proof.Machine.exec (.resume o subseq desc) s = .next t ∧ refused t 0x24) ∧
    (dOP d = 3 → deadlineFar s.now (dDEADLINE d) = false → dPROMPT_LEN d = 0 →
      ∃ t, Sys2Proof.Machine.exec (.resume o subseq desc) s = .next t ∧ sent t .resume) ∧
    (dOP d = 3 → deadlineFar s.now (dDEADLINE d) = false → dPROMPT_LEN d ≠ 0 →
      ∃ t, Sys2Proof.Machine.exec (.resume o subseq desc) s = .next t ∧
        t = { s with
          ward := { s.ward with reads := s.ward.reads ++ [⟨d, o, subseq, 0⟩] }
          out := s.out ++ [asked] })

/-- The order stream: the ordering package queues a record, and cuts its queue into the next batch, which every package
of the partition is sent with all its records, ADMIT records taking ASEQ numbers in order. A batch is held once under
its number. The wait for a missing batch is a fault of the package, cause 0x0007 (09 R338-R341). -/
def Obligations.OrderStream : Prop :=
  ∀ (r : OrderRecord) (b : Batch) (s : State),
    (orderPkg s = ownPkg s → s.cfg.active.isSome = true →
      (∃ t, Sys2Proof.Machine.exec (.orderRecordArrival r) s = .next t ∧
        t = { s with ward := { s.ward with queue := s.ward.queue ++ [r] } }) ∧
      (let period := max 1 (getF s fWRD_KR_BASE_PERIOD) * 1000
       let cut := s.now / period * period
       ∃ t, Sys2Proof.Machine.exec .batchCut s = .next t ∧
        t.out = s.out ++ (members s).map (fun p => (⟨.mgmt .batch, p :: ([s.ward.nextBatch,
          cut + getF s fWRD_TS_BASE_DELAY * 1000, s.ward.nextAseq, s.ward.queue.length] ++
            s.ward.queue.flatMap recordArgs)⟩ : Out)) ∧
        t = { s with
          out := t.out
          ward := { s.ward with
            queue := []
            lastCut := cut
            nextBatch := (s.ward.nextBatch + 1) % 2 ^ 32
            nextAseq := (s.ward.nextAseq + (s.ward.queue.filter (fun r => r.kind == .admission)).length) % 2 ^ 32 } })) ∧
    (orderPkg s ≠ ownPkg s → Sys2Proof.Machine.exec (.orderRecordArrival r) s = .next s ∧
      Sys2Proof.Machine.exec .batchCut s = .next s) ∧
    ((∀ x ∈ s.ward.batches, x.number ≠ b.number) →
      ∃ t, Sys2Proof.Machine.exec (.batchArrival b) s = .next t ∧
        t = { s with ward := { s.ward with batches := s.ward.batches ++ [b] } }) ∧
    ((∃ x ∈ s.ward.batches, x.number = b.number) → Sys2Proof.Machine.exec (.batchArrival b) s = .next s) ∧
    (serving s = true → stopped s = false → nextHeld s = none →
      ∃ t, Sys2Proof.Machine.exec .batchWaitTimeout s = .next t ∧ t = declareFault s 0x0007 ⟨16, 0, 0, 0, 0⟩)

/-- Delivery of Keyring entries at the home package: the entries written and not yet copied go out in sequence, each at
its place in the destination ring; completion of the copies counts as delivery unless an acknowledgement was asked
for; an acknowledgement from the entry's origin delivers; one that does not match is discarded and recorded; and the
progress of every request that has advanced goes out as one KDRAIN (09 R351-R353). WRD_ENT_SEL names an entry to
copy (R355). -/
def Obligations.KeyringDelivery : Prop :=
  ∀ (w : Fin 65536) (s : State),
    let e := getWard s w
    let d := getDeliv s w
    let others (t : State) : Prop := ∀ x, x ≠ (w : Nat) → getDeliv t x = getDeliv s x
    let live : Prop := e.phase.live = true ∧ e.home = ownPkg s ∧ d.failed = false
    (live → (∀ fn q, e.origin = .pcie fn q → s.tiers.hbmPoison = [] → d.copied ≤ d.written →
      ∃ t, Sys2Proof.Machine.exec (.keyringCopyOut w) s = .next t ∧
        t.out = s.out ++ (List.range (d.written - d.copied)).map (fun i =>
          let x := d.copied + 1 + i
          (⟨.hostWrite, [fn, d.destAddr + 16 * (x % (64 * 2 ^ e.krSize)), 16,
            hbmLoad s (keyringAddr s w e.krSize x) 16]⟩ : Out)) ∧
        getDeliv t w = { d with copied := d.written } ∧ others t ∧
        t = { s with ward := { s.ward with deliv := t.ward.deliv }, out := t.out })) ∧
    (live → ∀ q, d.completed < q → q ≤ d.copied →
      ∃ t, Sys2Proof.Machine.exec (.keyringWriteComplete w q true) s = .next t ∧
        getDeliv t w = { d with completed := q, delivered := if e.ackReq then d.delivered else q } ∧ others t ∧
        t = { s with ward := { s.ward with deliv := t.ward.deliv }, tel := t.tel }) ∧
    (live → ∀ q, q < 2 ^ 32 → e.aseq < 2 ^ 16 → e.ackReq = true → d.delivered < q → q ≤ d.written →
      ∃ t, Sys2Proof.Machine.exec (.keyringAck e.origin (BitVec.ofNat 64 (w + e.aseq * 2 ^ 16 + q * 2 ^ 32))) s =
          .next t ∧
        getDeliv t w = { d with delivered := q } ∧ others t ∧
        t = { s with ward := { s.ward with deliv := t.ward.deliv }, tel := t.tel }) ∧
    (∀ o v, natBits (v : Word).toNat 0 16 = w → e.phase = .free ∨ e.home ≠ ownPkg s →
      ∃ t, Sys2Proof.Machine.exec (.keyringAck o v) s = .next t ∧ bitF t fWRD_ERR_ACK_DISCARDED = true ∧
        getF t fWRD_ERR_LAST_WARD = w ∧ t = { s with regs := t.regs } ∧
        ∀ r, r ≠ rWRD_ERR → getReg t r = getReg s r) ∧
    ((∃ p ∈ s.ward.deliv, p.2.drained < p.2.delivered) →
      ∃ t, Sys2Proof.Machine.exec .kdrainSend s = .next t ∧
        t.out = s.out ++ [⟨.mgmt .orderRecord, orderPkg s :: recordArgs { OrderRecord.plain .kdrain (ownPkg s) 0 0 0 with
          list := (s.ward.deliv.filter (fun p => decide (p.2.drained < p.2.delivered))).map
            (fun p => (p.1, p.2.aseq, p.2.delivered)) }⟩] ∧
        (∀ x, (getDeliv t x).drained = (getDeliv t x).delivered) ∧
        (∀ x, { getDeliv t x with drained := (getDeliv s x).drained } = getDeliv s x) ∧
        t = { s with ward := { s.ward with deliv := t.ward.deliv }, out := t.out }) ∧
    (inWarm s = false →
      ∃ t, Sys2Proof.Machine.exec (.wrdEntSelWrite 0 w) s = .next t ∧ getF t fWRD_ENT_SEL_WARD = w ∧
        getF t fWRD_ENT_SEL_VALID = 0 ∧ t.ward = { s.ward with entWanted := true } ∧
        t = { s with ward := t.ward, regs := t.regs } ∧ ∀ r, r ≠ rWRD_ENT_SEL → getReg t r = getReg s r)

/-- The mapping commands, by the PF, with the command's context known and its range well formed. MAP maps every page of
an unmapped range within the quota, with the write right and class of the command, or none; UNMAP leaves none of the
range mapped; PROTECT sets the write right of every page of a mapped range and nothing else of it. Pages outside the
range keep their mapping. A command completes when its status and count are reported (11 R402-R405). -/
def Obligations.MappingCommands : Prop :=
  ∀ s : State, inWarm s = false → bitF s fMEM_MAP_STAT_BUSY = false →
    let ctx := mapCtx s
    let vpn := getF s fMEM_MAP_CMD0_VPN
    let n := getF s fMEM_MAP_CMD1_PAGES
    let op := getF s fMEM_MAP_CMD1_OP
    let key (v : Nat) : Nat := pageKey ctx v
    let inRange (v : Nat) : Prop := vpn ≤ v ∧ v < vpn + n
    let holds (t : State) (status pages : Nat) : Prop := t.tiers.mapCmd = some ⟨status, pages, false⟩ ∧
      getF t fMEM_MAP_STAT_BUSY = 1
    let others (t : State) : Prop := ∀ k, (∀ v, inRange v → k ≠ key v) →
      tabFind t.tiers.leaves k = tabFind s.tiers.leaves k
    (∀ c, mapCheck s = some c →
      (op = 1 → ∃ t, Sys2Proof.Machine.exec (.map 0) s = .next t ∧ holds t c 0 ∧ t.tiers.leaves = s.tiers.leaves) ∧
      (op = 2 → ∃ t, Sys2Proof.Machine.exec (.unmap 0) s = .next t ∧ holds t c 0 ∧ t.tiers.leaves = s.tiers.leaves) ∧
      (op = 3 → ∃ t, Sys2Proof.Machine.exec (.protect 0) s = .next t ∧ holds t c 0 ∧
        t.tiers.leaves = s.tiers.leaves)) ∧
    (mapCheck s = none → op = 1 →
      (rangeMapped s ctx vpn n = true →
        ∃ t, Sys2Proof.Machine.exec (.map 0) s = .next t ∧ holds t 3 0 ∧ t.tiers.leaves = s.tiers.leaves) ∧
      (rangeMapped s ctx vpn n = false → ctx = ctxSYS ∨ mappedPages s ctx + n ≤ tenantField s ctx 240 32 →
        ∀ u, placePages ctx (bitF s fMEM_MAP_CMD1_WRITE) (getF s fMEM_MAP_CMD1_PCLASS) (getF s fMEM_MAP_CMD2_STACKS)
          vpn n { s with tiers := { s.tiers with denied := false } } = .all u →
        ∃ t, Sys2Proof.Machine.exec (.map 0) s = .next t ∧ holds t 0 n ∧ others t ∧
          ∀ v, inRange v → ∃ l, tabFind t.tiers.leaves (key v) = some l ∧ l.write = bitF s fMEM_MAP_CMD1_WRITE ∧
            l.pclass = getF s fMEM_MAP_CMD1_PCLASS ∧ l.lost = false ∧ l.moving = false)) ∧
    (mapCheck s = none → op = 2 →
      ∃ t, Sys2Proof.Machine.exec (.unmap 0) s = .next t ∧ holds t 0 (leavesIn s ctx vpn n).length ∧ others t ∧
        ∀ v, inRange v → tabFind t.tiers.leaves (key v) = none) ∧
    (mapCheck s = none → op = 3 → n ≤ (leavesIn s ctx vpn n).length →
      s.tiers.leaves.Pairwise (fun p q => p.1 < q.1) →
      ∃ t, Sys2Proof.Machine.exec (.protect 0) s = .next t ∧ holds t 0 (leavesIn s ctx vpn n).length ∧ others t ∧
        ∀ v, inRange v → ∀ l, tabFind s.tiers.leaves (key v) = some l →
          tabFind t.tiers.leaves (key v) = some { l with write := bitF s fMEM_MAP_CMD1_WRITE }) ∧
    (∀ m, s.tiers.mapCmd = some m → m.waiting = false → m.status < 2 ^ fMEM_MAP_STAT_STATUS.w →
      ∃ t, Sys2Proof.Machine.exec .mapCommandComplete s = .next t ∧ t.tiers = { s.tiers with mapCmd := none } ∧
        getF t fMEM_MAP_STAT_STATUS = m.status ∧ bitF t fMEM_MAP_STAT_BUSY = false ∧
        getF t fMEM_MAP_STAT_DONE = m.pages % 2 ^ fMEM_MAP_STAT_DONE.w ∧ t = { s with tiers := t.tiers, regs := t.regs })

/-- Heat and migration. Decay halves every heat counter. A demotion moves the coldest page that may leave HBM to the
tier it finds; a promotion moves the first page that may come to a frame. A copy pass copies the whole page at first,
then the blocks written during the pass before; it is repeated while many blocks were written, three passes at most,
and then new accesses are held. The switch copies the blocks still to be copied and the page names its new place.
Passes and switch are charged to the page's owner and wait while a bucket that they need is empty; the switch also
waits for writes in flight to a loan frame, and a loan frame's zeroing for every access to it. A zeroed frame is free
and reads zero (10 R381, 11 R399, R402, R407-R411). -/
def Obligations.HeatAndMigration : Prop :=
  ∀ (page : Nat) (s : State),
    let free := freeFrames s
    let byte (u : State) (t : Tier) (f b : Nat) : Byte := match t with
      | .hbm => memGet u.tiers.hbm (f * 2097152 + b)
      | .neighbour => memGet u.tiers.loanMem (f * 2097152 + b)
      | .flash => memGet u.flash.data (f * 2097152 + b)
    (∃ t, Sys2Proof.Machine.exec .heatDecay s = .next t ∧
      (∀ k, tabFind t.tiers.leaves k = (tabFind s.tiers.leaves k).map (fun l => { l with heat := l.heat / 2 })) ∧
      (∀ k, tabFind t.tiers.sharedHeat k = (tabFind s.tiers.sharedHeat k).map (fun x => (x.1 / 2, x.2))) ∧
      t = { s with tiers := { s.tiers with leaves := t.tiers.leaves, sharedHeat := t.tiers.sharedHeat } }) ∧
    (free < getF s fMEM_CFG_LOW_WM → s.tiers.migs.length < 16 →
      ∀ p ps d f, sortBy coldFirst (s.tiers.leaves.filter (fun p => demotable s p.2)) = p :: ps →
      demoteTarget { s with tiers := { s.tiers with demoting := true } } p.2 = .at_ d f →
      ∃ t, Sys2Proof.Machine.exec .migrationStart s = .next t ∧
        t.tiers.migs = s.tiers.migs ++ [⟨p.1, d, f, [], 0, false, none⟩] ∧
        tabFind t.tiers.leaves p.1 = some { p.2 with moving := true } ∧ t.tiers.demoting = true ∧
        ∀ k, k ≠ p.1 → tabGet p.2 t.tiers.leaves k = tabGet p.2 s.tiers.leaves k) ∧
    (getF s fMEM_CFG_LOW_WM ≤ free → getF s fMEM_CFG_HIGH_WM < free → s.tiers.migs.length < 16 →
      ∀ p f, firstBy promoteFirst (s.tiers.leaves.filter (fun p => promotable s p.2)) = some p →
      localFrame s 0 (keyVpn p.1) = some f →
      ∃ t, Sys2Proof.Machine.exec .migrationStart s = .next t ∧
        t.tiers.migs = s.tiers.migs ++ [⟨p.1, .hbm, f, [], 0, false, none⟩] ∧ f ∈ t.tiers.used ∧
        tabFind t.tiers.leaves p.1 = some { p.2 with moving := true } ∧ t.tiers.demoting = false ∧
        ∀ k, k ≠ p.1 → tabGet p.2 t.tiers.leaves k = tabGet p.2 s.tiers.leaves k) ∧
    (∀ m l, s.tiers.migs.find? (fun m => m.page == page && !m.held) = some m → tabFind s.tiers.leaves page = some l →
      let cost := copyCharges s page l m ((m.copying.map List.length).getD 512)
      (allOpen s cost = false → Sys2Proof.Machine.exec (.migrationCopyPass page none) s = .next s) ∧
      (allOpen s cost = true → (m.tier, m.frame) ≠ (l.tier, l.frame) → Memory.wf s.tiers.hbm = true →
        Memory.wf s.tiers.loanMem = true → Memory.wf s.flash.data = true →
        ∃ t, Sys2Proof.Machine.exec (.migrationCopyPass page none) s = .next t ∧ t.tiers.leaves = s.tiers.leaves ∧
          t.tiers.migs = s.tiers.migs.map (fun x => if x.page ≠ page then x
            else if 64 < x.dirty.length ∧ x.pass + 1 < 3 then
              { x with dirty := [], pass := x.pass + 1, copying := some x.dirty }
            else { x with pass := x.pass + 1, held := true, copying := some [] }) ∧
          ∀ b, b < 2097152 → byte t m.tier m.frame b =
            if (m.copying.map (fun bs => bs.contains (b / 4096))).getD true then byte s l.tier l.frame b
            else byte s m.tier m.frame b)) ∧
    (∀ m l, s.tiers.migs.find? (fun m => m.page == page && m.held) = some m → tabFind s.tiers.leaves page = some l →
      (m.tier, m.frame) ≠ (l.tier, l.frame) → Memory.wf s.tiers.hbm = true → Memory.wf s.tiers.loanMem = true →
      Memory.wf s.flash.data = true → allOpen s (copyCharges s page l m m.dirty.length) = true →
      (l.tier = .neighbour → frameBusy s l.frame (fun op => op != opREAD) = false) →
      ∃ t, Sys2Proof.Machine.exec (.migrationSwitch page) s = .next t ∧
        t.tiers.migs = s.tiers.migs.filter (fun m => m.page != page) ∧
        tabFind t.tiers.leaves page = some { l with tier := m.tier, frame := m.frame, moving := false, since := s.now } ∧
        ∀ b, b < 2097152 → byte t m.tier m.frame b =
          if b / 4096 ∈ m.dirty then byte s l.tier l.frame b else byte s m.tier m.frame b) ∧
    (∀ f : Fin 1310720, (f : Nat) ∈ s.tiers.zeroing →
      (786432 ≤ (f : Nat) → frameBusy s (f - 786432) (fun _ => true) = false) →
      ∃ t, Sys2Proof.Machine.exec (.frameZeroingComplete f) s = .next t ∧ (f : Nat) ∉ t.tiers.zeroing ∧
        ((f : Nat) < 786432 → ∀ b, b < 2097152 → byte t .hbm f b = 0#8) ∧
        (786432 ≤ (f : Nat) → ∀ b, b < 2097152 → byte t .neighbour (f - 786432) b = 0#8) ∧
        t = { s with tiers := { s.tiers with
          zeroing := t.tiers.zeroing, hbm := t.tiers.hbm, hbmPoison := t.tiers.hbmPoison
          loanMem := t.tiers.loanMem, loanPoison := t.tiers.loanPoison } })

/-- Loans between packages. A request is granted the lender's lowest free unit or denied; a grant from the lender that
was asked fills the lowest free slot and its window; a denial asks the next lender of the list; an idle loan goes
back with its window gone and its bytes forgotten; the lender that gets a unit back zeroes and frees it; and an
evacuation with nothing to move is over (11 R412-R415). -/
def Obligations.LoansBetweenPackages : Prop :=
  ∀ (p : Fin 65536) (base : Fin 4503599627370496) (slot : Fin 1024) (s : State),
    let lend := (List.range (getF s fMEM_LOAN_LEND_MAX)).find? (fun u => !tabHas s.tiers.lent u)
    (∀ first n u, carveOut s 0x09 = some (first, n) → lend = some u →
      ∃ t, Sys2Proof.Machine.exec (.loanReq p) s = .next t ∧ tabFind t.tiers.lent u = some (p : Nat) ∧
        t.out = s.out ++ [⟨.mgmt .loanGrant, [(p : Nat), ownPkg s, first * 2097152 + u * 2 ^ 30]⟩] ∧
        t = { s with tiers := { s.tiers with lent := t.tiers.lent }, out := t.out }) ∧
    (carveOut s 0x09 = none ∨ lend = none →
      ∃ t, Sys2Proof.Machine.exec (.loanReq p) s = .next t ∧
        t = { s with out := s.out ++ [⟨.mgmt .loanDeny, [(p : Nat), ownPkg s]⟩] }) ∧
    (∀ n, askedLender s = some (p : Nat) → loanSlot s = some n → s.tiers.mapCmd = none →
      ∃ t, Sys2Proof.Machine.exec (.loanGrant p base) s = .next t ∧
        tabFind t.tiers.loans n = some ⟨p, base⟩ ∧ tabFind t.fab.windows n = some (loanWindow ⟨p, base⟩) ∧
        t.tiers.asked = none ∧ t = { s with
          tiers := { s.tiers with loans := t.tiers.loans, asked := none, denied := false }
          fab := { s.fab with windows := t.fab.windows }
          tel := t.tel }) ∧
    (∀ i q, s.tiers.asked = some i → askedLender s = some (p : Nat) → (lenders s)[i + 1]? = some q →
      ∃ t, Sys2Proof.Machine.exec (.loanDeny p) s = .next t ∧
        t = { s with
          tiers := { s.tiers with asked := some (i + 1) }
          out := s.out ++ [⟨.mgmt .loanReq, [q, ownPkg s]⟩] }) ∧
    (∀ l, tabFind s.tiers.loans slot = some l → loanIdle s slot l = true →
      ∃ t, Sys2Proof.Machine.exec (.loanIdleExpiry slot) s = .next t ∧
        tabFind t.tiers.loans slot = none ∧ tabFind t.fab.windows slot = none ∧
        (∀ b, (slot : Nat) * 2 ^ 30 ≤ b → b < ((slot : Nat) + 1) * 2 ^ 30 → memGet t.tiers.loanMem b = 0#8) ∧
        t.out = s.out ++ [⟨.mgmt .loanReturn, [l.lender, ownPkg s, l.base]⟩] ∧ t.tiers.hbm = s.tiers.hbm ∧
        t.tiers.leaves = s.tiers.leaves) ∧
    (∀ first n, carveOut s 0x09 = some (first, n) → first * 2097152 ≤ base →
      let u := ((base : Nat) - first * 2097152) / 2 ^ 30
      tabFind s.tiers.lent u = some (p : Nat) →
      ∃ t, Sys2Proof.Machine.exec (.loanReturn p base) s = .next t ∧ tabFind t.tiers.lent u = none ∧
        (∀ b, b < 2 ^ 30 → memGet t.tiers.hbm (first * 2097152 + u * 2 ^ 30 + b) = 0#8) ∧
        t.out = s.out ∧ t.tiers.leaves = s.tiers.leaves ∧ t.tiers.loans = s.tiers.loans) ∧
    (∀ img, s.cfg.shadow = some img → s.tiers.evacuating = true → affectedLoans s img [] = [] →
      (∀ x ∈ s.tiers.lent, x.1 < imageLendMax img) →
      ∃ t, Sys2Proof.Machine.exec (.evacuationComplete []) s = .next t ∧
        t = { s with tiers := { s.tiers with evacuating := false } })

/-- The flash write buffer and the medium. A write lands in the data that reads see and waits in the buffer, the later
of two writes of a granule replacing the earlier. A programmed granule leaves the buffer and is mapped to its block.
A checkpoint keeps the map and the one before it. A scrub read of HBM moves on by one granule, and one that failed
poisons its granule and retires its frame (11 R421-R426, 18 R608-R612). -/
def Obligations.FlashAndScrub : Prop :=
  ∀ (g : Fin 4294967294) (block : Fin 536870912) (s : State),
    (∀ (off : Fin 16384) (data : List Byte) (owner : Fin 4097) (durable : Bool), data ≠ [] →
      off.val + data.length ≤ 16384 → s.flash.buffer.length < bufferSize s → Memory.wf s.flash.data = true →
      let a := (g : Nat) * 16384 + off
      ∃ t, Sys2Proof.Machine.exec (.flashWrite g off data owner durable) s = .next t ∧
        (∀ j, j < data.length → memGet t.flash.data (a + j) = data.getD j 0#8) ∧
        (∀ b, b < a ∨ a + data.length ≤ b → memGet t.flash.data b = memGet s.flash.data b) ∧
        t.flash.buffer = s.flash.buffer.filter (fun b => b.granule != (g : Nat)) ++
          [⟨g, owner, s.flash.seq + 1,
            durable || (s.flash.buffer.filter (fun b => b.granule == (g : Nat))).any (fun b => b.durable)⟩] ∧
        t.flash.seq = s.flash.seq + 1 ∧ t.tiers = s.tiers ∧ t.out = s.out) ∧
    (∀ b, nextToProgram s = some b → nextChan s = some (blockChan block) → blockRoom s block 1 = true →
      ∃ t, Sys2Proof.Machine.exec (.flashProgramComplete block) s = .next t ∧
        t.flash.buffer = s.flash.buffer.filter (fun x => x.seq != b.seq) ∧
        tabFind t.flash.map b.granule = some (block : Nat) ∧ b.granule ∈ (getBlock t block).valid ∧
        (getBlock t block).written = (getBlock s block).written + 1 ∧
        (∀ d, d ≠ (block : Nat) → (getBlock t d).valid = nsErase (getBlock s d).valid b.granule) ∧
        t.flash.data = s.flash.data ∧ t.tiers = s.tiers) ∧
    (getF s fFLS_CFG_CHANNELS ≠ 0 →
      ∃ t, Sys2Proof.Machine.exec .ftlCheckpoint s = .next t ∧
        t = { s with flash := { s.flash with
          prevMap := s.flash.ckptMap
          prevSeq := s.flash.ckptSeq
          ckptMap := s.flash.map
          ckptSeq := s.flash.seq } }) ∧
    (∀ stack : Fin 24,
      let n := tabGet 0 s.tiers.scrubPos stack
      let addr := (stack : Nat) * 2 ^ 36 + n % 2 ^ 30 * 64
      let moved (t : State) : Prop := tabGet 0 t.tiers.scrubPos stack = n + 1 ∧
        ∀ k, k ≠ (stack : Nat) → tabGet 0 t.tiers.scrubPos k = tabGet 0 s.tiers.scrubPos k
      (∃ t, Sys2Proof.Machine.exec (.hbmScrubRead stack 0) s = .next t ∧ moved t ∧
        t = { s with tiers := { s.tiers with scrubPos := t.tiers.scrubPos }, regs := t.regs }) ∧
      (s.fault.retired.length < 4096 →
        ∃ t, Sys2Proof.Machine.exec (.hbmScrubRead stack 2) s = .next t ∧ moved t ∧
          addr / 64 ∈ t.tiers.hbmPoison ∧ addr / 2097152 ∈ t.fault.retired ∧
          ∀ f, f ∈ t.fault.retired → f = addr / 2097152 ∨ f ∈ s.fault.retired))

/-- Failures and relocation of flash blocks. A block that fails to program or erase is good no longer and its channel is
recorded; a program failure leaves the buffer as it was and schedules a relocation. Garbage collection and read
disturbance move every valid granule of a block to another and erase it, wear relocation moves it without an erase,
and the map names the other block from then on (11 R422-R425). -/
def Obligations.FlashBlocks : Prop :=
  ∀ (v dst : Fin 536870912) (s : State),
    let x := getBlock s v
    let moved (t : State) : Prop := (∀ g ∈ x.valid, tabFind t.flash.map g = some (dst : Nat)) ∧
      (∀ g, g ∉ x.valid → tabFind t.flash.map g = tabFind s.flash.map g) ∧
      (∀ g ∈ x.valid, g ∈ (getBlock t dst).valid) ∧ t.flash.data = s.flash.data ∧ t.flash.media = s.flash.media ∧
      t.flash.buffer = s.flash.buffer ∧ t = { s with flash := t.flash, tel := t.tel }
    let erased (t : State) : Prop := (getBlock t v).erases = x.erases ∨
      ((getBlock t v).erases = x.erases + 1 ∧ (getBlock t v).valid = [] ∧ (getBlock t v).written = 0 ∧
        (getBlock t v).reads = 0)
    (blockUp s v = true → x.good = true →
      (s.flash.buffer ≠ [] → ∃ t, Sys2Proof.Machine.exec (.flashProgramFail v) s = .next t ∧
        getBlock t v = { x with good := false } ∧ (∀ d, d ≠ (v : Nat) → getBlock t d = getBlock s d) ∧
        bitF t fFLS_ERR_PROGRAM_FAIL = true ∧ getF t fFLS_ERR_LAST_CH = blockChan v ∧
        (∃ r ∈ t.flash.reloc, r.block = (v : Nat)) ∧ t.flash.buffer = s.flash.buffer ∧ t.flash.map = s.flash.map) ∧
      (∃ t, Sys2Proof.Machine.exec (.flashEraseFail v) s = .next t ∧
        getBlock t v = { x with good := false } ∧ (∀ d, d ≠ (v : Nat) → getBlock t d = getBlock s d) ∧
        bitF t fFLS_ERR_ERASE_FAIL = true ∧ getF t fFLS_ERR_LAST_CH = blockChan v ∧
        t.flash = { s.flash with blocks := t.flash.blocks })) ∧
    (∀ c : Fin 32, gcVictim s c = some ((v : Nat), x) → chanUp s c = true → chanFree s c * 50 < goodBlocks s c →
      dst ≠ v → blockRoom s dst x.valid.length = true →
      ∃ t, Sys2Proof.Machine.exec (.garbageCollection c dst) s = .next t ∧ moved t ∧ erased t) ∧
    (leastErased s = some ((v : Nat), x) → 150 ≤ eraseMax s - eraseMin s → (getBlock s dst).written = 0 →
      x.erases < (getBlock s dst).erases → blockRoom s dst x.valid.length = true →
      ∃ t, Sys2Proof.Machine.exec (.wearRelocation dst) s = .next t ∧ moved t ∧ (getBlock t v).erases = x.erases) ∧
    (getF s fFLS_CFG_RD_THRESH * 1000 ≤ x.reads → blockUp s v = true → dst ≠ v →
      blockRoom s dst x.valid.length = true →
      ∃ t, Sys2Proof.Machine.exec (.readDisturbRelocation v dst) s = .next t ∧ moved t ∧ erased t) ∧
    (∃ t, Sys2Proof.Machine.exec (.relocationPriorityRaise v) s = .next t ∧
      t = { s with flash := { s.flash with reloc := t.flash.reloc } } ∧
      t.flash.reloc = s.flash.reloc.map (fun r => if r.block = (v : Nat) then { r with urgent := true } else r))

/-- A shard of an open request that arrives with the index and ALIVE expected, the CRC of the manifest and its hash is
verified: the request is closed and the payload lies at its place, and no other byte of HBM changes. One whose
index, CRC or hash differs, or that does not come in time, fails with the cause of the first check (12 R433-R438); at
a wrong ALIVE, a repeat or a skip, the request is closed and the rest of its list goes to the same source again (R434).
The doorbell of the host closes the entry of its request; one that matches none is discarded and recorded (R437). -/
def Obligations.ShardDeliveries : Prop :=
  ∀ (dest : Fin 8194) (source : Fin 3) (index : Fin 4294967296) (alive : Fin 65536) (crc : Word) (payload : List Byte)
    (s : State) (f : Fetch) (m : Nat),
    let e := manShard m f.index
    (openFetch s dest source = some f → destManifest s dest = some m →
      ((index : Nat) ≠ f.index →
        ∃ t, Sys2Proof.Machine.exec (.shardDelivery dest source index alive crc payload) s = .next t ∧
          t = shardFailed s f 6) ∧
      ((index : Nat) = f.index → (alive : Nat) = f.alive →
        (crc64 payload ≠ crc.toNat ∨ crc.toNat ≠ shardCrc e →
          ∃ t, Sys2Proof.Machine.exec (.shardDelivery dest source index alive crc payload) s = .next t ∧
            t = shardFailed s f 0) ∧
        (crc64 payload = crc.toNat → crc.toNat = shardCrc e → Config.sha384 payload ≠ shardSha e →
          ∃ t, Sys2Proof.Machine.exec (.shardDelivery dest source index alive crc payload) s = .next t ∧
            t = shardFailed s f 1) ∧
        (crc64 payload = crc.toNat → crc.toNat = shardCrc e → Config.sha384 payload = shardSha e →
          Memory.wf s.tiers.hbm = true → ∀ a, destAddr s f.dest e = some a →
          ∃ t, Sys2Proof.Machine.exec (.shardDelivery dest source index alive crc payload) s = .next t ∧
            isVerified t f.dest f.index = true ∧ f ∉ t.hinge.fetches ∧
            (∀ j, j < payload.length → memGet t.tiers.hbm (a + j) = payload.getD j 0#8) ∧
            (∀ b, b < a ∨ a + payload.length ≤ b → memGet t.tiers.hbm b = memGet s.tiers.hbm b) ∧
            t = { s with hinge := t.hinge, tiers := t.tiers, regs := t.regs, tel := t.tel })) ∧
      ((index : Nat) = f.index → (alive : Nat) ≠ f.alive →
        ∃ t, Sys2Proof.Machine.exec (.shardDelivery dest source index alive crc payload) s = .next t ∧
          t = shardFailed (reissue s f) f (if f.first = false ∧ ((alive : Nat) + 1) % 65536 = f.alive then 2 else 3))) ∧
    (s.hinge.fetches.find? (fun f => f.dest == (dest : Nat) && f.source == (source : Nat) && f.sent) = some f →
      ∃ t, Sys2Proof.Machine.exec (.shardTimeout dest source) s = .next t ∧ t = shardFailed s f 4) ∧
    (let opened := s.hinge.fetches.find? (fun f =>
        f.source == 2 && f.sent && !f.rung && f.index == (index : Nat) && f.alive == (alive : Nat))
      let n := ringSize (getF s (fGLB_HREQ_CFG_LOG 0))
      (opened = none → ∃ t, Sys2Proof.Machine.exec (.hingeHostDoorbell 0 index alive) s = .next t ∧
        bitF t fHNG_ERR_HOST_DISCARD = true ∧ t = { s with regs := t.regs }) ∧
      (opened = some f → (∀ g ∈ s.hinge.fetches, g.source = 2 → g.sent = true) →
        ∃ t, Sys2Proof.Machine.exec (.hingeHostDoorbell 0 index alive) s = .next t ∧
          t = { s with
            hinge := { s.hinge with
              fetches := s.hinge.fetches.map (fun g => if g = f then { g with rung := true } else g) }
            host := { s.host with hreq := { s.host.hreq with head := (s.host.hreq.head + 1) % n } } }))

/-- The gates of a swap while an old-version step may still launch. HINGE_PASSED and HINGE_COMMITTED from a package of
the partition are held; once every layer is committed by all, launches are gated no longer. The next layer in order
commits when every package has passed it: it is counted, every package is told, and no byte of HBM outside its
shards' places in the live copy changes (12 R448-R450). -/
def Obligations.SwapWavefront : Prop :=
  ∀ (p : Fin 65536) (k : Fin 256) (s : State),
    (s.hinge.gating = true → (p : Nat) ∈ members s → oldStepOpen s = true →
      (∃ t, Sys2Proof.Machine.exec (.hingePassed p k) s = .next t ∧ ((k : Nat), (p : Nat)) ∈ t.hinge.passed ∧
        (∀ x ∈ s.hinge.passed, x ∈ t.hinge.passed) ∧
        t = { s with hinge := { s.hinge with passed := t.hinge.passed }, regs := t.regs } ∧
        ∀ r, r ≠ rHNG_WAVE → getReg t r = getReg s r) ∧
      (∃ t, Sys2Proof.Machine.exec (.hingeCommitted p k) s = .next t ∧
        ((k : Nat), (p : Nat)) ∈ t.hinge.committed ∧ (∀ x ∈ s.hinge.committed, x ∈ t.hinge.committed) ∧
        (t.hinge.gating = false ↔ ∀ l, l < modelLayers s → gateHeld s t.hinge.committed l = true) ∧
        t = { s with
          hinge := { s.hinge with committed := t.hinge.committed, gating := t.hinge.gating }, regs := t.regs } ∧
        ∀ r, r ≠ rHNG_WAVE → getReg t r = getReg s r)) ∧
    ((p : Nat) ∉ members s → Sys2Proof.Machine.exec (.hingePassed p k) s = .next s ∧
      Sys2Proof.Machine.exec (.hingeCommitted p k) s = .next s) ∧
    (∀ m, stagedManifest s = some m → swapPhase s = 4 → getF s fHNG_WAVE_COMMITTED = k → (k : Nat) + 1 < manLayers m →
      gateHeld s s.hinge.passed k = true → s.hinge.gating = false →
      ∃ t, Sys2Proof.Machine.exec (.layerCommitComplete k) s = .next t ∧
        getF t fHNG_WAVE_COMMITTED = (k : Nat) + 1 ∧
        t.out = s.out ++ (members s).map (fun q => (⟨.mgmt .hingeCommitted, [q, ownPkg s, (k : Nat)]⟩ : Out)) ∧
        (∀ b, (∀ i ∈ heldShards s 1, commitLayer m (manShard m i) = (k : Nat) → ∀ d,
            destAddr s 0 (manShard m i) = some d → b < d ∨ d + shardLength (manShard m i) ≤ b) →
          memGet t.tiers.hbm b = memGet s.tiers.hbm b) ∧
        t = { s with tiers := { s.tiers with hbm := t.tiers.hbm, hbmPoison := t.tiers.hbmPoison }, regs := t.regs
                     out := t.out })

/-- Adapter loads and NAND reads. An accepted manifest gives the loading slot its domain, its rank and its version, and
every shard of it is asked for; one that is refused empties the slot; when every shard is verified the replica
reports ADAPTER_READY. A NAND read counts against its block and a hard one schedules its relocation; a checkpoint
that cannot be read gives way to the one before it (12 R453-R457, 11 R417, R425-R427). -/
def Obligations.AdapterLoadsAndNandReads : Prop :=
  ∀ (n : Fin 8192) (g : Fin 4294967294) (s : State),
    let v := getSlot s n
    (v.phase = .loading → tabFind s.hinge.manifests n = none →
      (∀ m, adapterOk s v.id m = true → bitF s fHNG_SRC_HOST = true →
        ∃ t, Sys2Proof.Machine.exec (.adapterLoadComplete n (some m)) s = .next t ∧
          getSlot t n = { v with
            domain := manDomain m, pub := manPublic m, rank := manRank m, version := manVersion m } ∧
          (∀ d, d ≠ (n : Nat) → getSlot t d = getSlot s d) ∧ tabFind t.hinge.manifests n = some m ∧
          ∀ i, i < manShards m → isVerified s (n + 2) i = false →
            ∃ f ∈ t.hinge.fetches, f.dest = n + 2 ∧ f.index = i) ∧
      (∀ m, adapterOk s v.id m = false →
        ∃ t, Sys2Proof.Machine.exec (.adapterLoadComplete n (some m)) s = .next t ∧
          getSlot t n = AdapterSlot.empty ∧ bitF t fHNG_ERR_ADAPTER_REFUSED = true ∧
          (∀ d, d ≠ (n : Nat) → getSlot t d = getSlot s d))) ∧
    (∀ m x, v.phase = .loading → tabFind s.hinge.manifests n = some m → versionQualifies s (manVersion m) = true →
      allVerified s (n + 2) = true →
      ∃ t, Sys2Proof.Machine.exec (.adapterLoadComplete n x) s = .next t ∧
        t = { s with out := s.out ++ [⟨.mgmt .orderRecord, orderPkg s :: recordArgs
          { OrderRecord.plain .adapterReady (ownPkg s) 0 0 n with extent := v.id }⟩] }) ∧
    (∀ (b : Nat) (level : Fin 9) (use : FlashUse), tabFind s.flash.map g = some b →
      ∃ t, Sys2Proof.Machine.exec (.flashReadComplete g level true use) s = .next t ∧
        getBlock t b = { getBlock s b with reads := (getBlock s b).reads + 1 } ∧
        (∀ d, d ≠ b → getBlock t d = getBlock s d) ∧ (4 ≤ (level : Nat) → ∃ r ∈ t.flash.reloc, r.block = b) ∧
        t = { s with flash := { s.flash with blocks := t.flash.blocks, reloc := t.flash.reloc }, tel := t.tel }) ∧
    (∀ level : Fin 9, tabFind s.flash.map g = none →
      ∃ t, Sys2Proof.Machine.exec (.flashReadComplete g level false .checkpoint) s = .next t ∧
        bitF t fFLS_ERR_UNCORRECTABLE = true ∧
        t.flash = { s.flash with ckptMap := s.flash.prevMap, ckptSeq := s.flash.prevSeq } ∧
        t = { s with flash := t.flash, regs := t.regs, tel := t.tel })

/-- The Assay engines. GO on an idle engine with a good configuration latches its registers and makes it BUSY; a bad one
ends at once with BAD_CONFIG; GO on a busy one is discarded. ABORT ends a scan with ABORTED. A scan of clean
device-physical memory ends with the check value of its bytes, and compares it where asked; one that meets an
uncorrectable granule ends there (13 R461-R474). -/
def Obligations.AssayEngines : Prop :=
  ∀ (n : Fin 32) (ctl : Word) (s : State), inWarm s = false → enginePresent s n = true → (n : Nat) ∉ s.assay.held →
    let x : Scan := ⟨natBits ctl.toNat 2 26 * 4, (getReg s (rASY_ENG_START n)).toNat, (getReg s (rASY_ENG_LEN n)).toNat,
      (getReg s (rASY_ENG_ALIVE n)).toNat, (getReg s (rASY_ENG_EXPECT n)).toNat, none⟩
    let stat (t : State) (busy done status : Nat) : Prop := getF t (fASY_ENG_STAT_BUSY n) = busy ∧
      getF t (fASY_ENG_STAT_DONE n) = done ∧ getF t (fASY_ENG_STAT_STATUS n) = status
    let others (t : State) : Prop := ∀ d, d ≠ (n : Nat) → getScan t d = getScan s d
    (natBits ctl.toNat 1 1 = 0 → getScan s n = none →
      (scanBad s n x = false → x.virt = true ∨ scanRange s x = true →
        ∃ t, Sys2Proof.Machine.exec (.assayGo 0 n ctl) s = .next t ∧ getScan t n = some x ∧ stat t 1 0 1 ∧ others t ∧
          t = { s with assay := { s.assay with scans := t.assay.scans }, regs := t.regs }) ∧
      (scanBad s n x = true →
        ∃ t, Sys2Proof.Machine.exec (.assayGo 0 n ctl) s = .next t ∧ getScan t n = none ∧ stat t 0 1 3 ∧ others t)) ∧
    (∀ y, natBits ctl.toNat 1 1 = 0 → getScan s n = some y →
      ∃ t, Sys2Proof.Machine.exec (.assayGo 0 n ctl) s = .next t ∧
        getF t (fASY_ENG_STAT_DISCARDED n) = 1 ∧ t = { s with regs := t.regs }) ∧
    (∀ y, natBits ctl.toNat 0 1 = 0 → getScan s n = some y →
      ∃ t, Sys2Proof.Machine.exec (.assayAbort 0 n ctl) s = .next t ∧ getScan t n = none ∧ stat t 0 1 7 ∧
        getF t (fASY_ENG_RESULT_VALUE n) = 0 ∧ others t) ∧
    (∀ y, getScan s n = some y → y.shard = none → y.virt = false →
      (∀ g ∈ granulesOf y.start y.len, g ∉ s.tiers.hbmPoison) → y.aliveEn = false → y.cont = false →
      let a := crcAlg y.poly
      let v := crcOut a (crcFeed a a.init (memBytes s.tiers.hbm y.start y.len))
      ∃ t, Sys2Proof.Machine.exec (.scanComplete n) s = .next t ∧ getScan t n = none ∧ stat t 0 1 2 ∧ others t ∧
        getF t (fASY_ENG_RESULT_VALUE n) = v % 2 ^ (fASY_ENG_RESULT_VALUE n).w ∧
        (getF t (fASY_ENG_STAT_MATCH n) = 1 ↔ y.cmp = true ∧ v = y.expect % 2 ^ a.width) ∧
        t = { s with assay := t.assay, regs := t.regs }) ∧
    (∀ y g, getScan s n = some y → y.shard = none → y.virt = false →
      (granulesOf y.start y.len).find? (fun g => s.tiers.hbmPoison.contains g) = some g →
      ∃ t, Sys2Proof.Machine.exec (.scanComplete n) s = .next t ∧ getScan t n = none ∧ stat t 0 1 6 ∧ others t)

/-- Input power and its cap. A sample of VIN48 and the current is reported with the mean power of its window. PTC_CAP
takes a cap from 3,000 W to 6,000 W and refuses another. Power above the effective cap lowers the consumer of lowest
priority that is above its floor; with all at their floors ten periods make CAP_UNMET; at most 98 % of the cap
counts toward a step up. An undervoltage caps at 3,000 W until it is over; a converter that fails takes 375 W (17
R568-R592). -/
def Obligations.InputAndCap : Prop :=
  ∀ (vin iin : Fin 65536) (w : Word) (s : State),
    let p := getF s fPTC_INPUT_POWER
    let cap := effectiveCap s
    let floors : Prop := ∀ i, i < 4 → stepDown s (prioCode s i) = none
    (let xs := ((vin : Nat) * iin :: s.power.samples).take (max 1 (getF s fPTC_CFG_WINDOW * 100))
     ∃ t, Sys2Proof.Machine.exec (.inputSample vin iin) s = .next t ∧ t.power.samples = xs ∧
      getF t fPTC_INPUT_VIN = vin ∧ getF t fPTC_INPUT_IIN = iin ∧
      getF t fPTC_INPUT_POWER = xs.sum / xs.length / 100000 % 2 ^ fPTC_INPUT_POWER.w ∧
      (getF t fPTC_STAT_INPUT_OK = 1 ↔ 40000 ≤ (vin : Nat) ∧ (vin : Nat) ≤ 60000) ∧
      t = { s with power := { s.power with samples := t.power.samples, energyRem := t.power.energyRem }
                   regs := t.regs }) ∧
    (let v := w.toNat % 65536
     (3000 ≤ v → v ≤ 6000 → ∃ t, Sys2Proof.Machine.exec (.capWrite 0 w) s = .next t ∧ getF t fPTC_CAP_CAP_W = v ∧
        getF t fPTC_INPUT_CAP_EFF = effectiveCap t % 2 ^ fPTC_INPUT_CAP_EFF.w ∧ t = { s with regs := t.regs } ∧
        ∀ r, r ≠ rPTC_CAP → r ≠ rPTC_INPUT → getReg t r = getReg s r) ∧
      (v < 3000 ∨ 6000 < v → ∃ t, Sys2Proof.Machine.exec (.capWrite 0 w) s = .next t ∧
        bitF t fPTC_ERR_BAD_WRITE = true ∧ t = { s with regs := t.regs } ∧
        ∀ r, r ≠ rPTC_ERR → getReg t r = getReg s r)) ∧
    (cap < p →
      (prioCode s 3 = 3 → 120 < getF s fPTC_LIMITS_CROWN_FLIM →
        ∃ t, Sys2Proof.Machine.exec .capControl s = .next t ∧
          getF t fPTC_LIMITS_CROWN_FLIM = max 120 (getF s fPTC_LIMITS_CROWN_FLIM - 5) ∧
          getF t fPTC_LIMITS_PAV_FLIM = getF s fPTC_LIMITS_PAV_FLIM ∧ getF t fPTC_STAT_LIMITER = 3 ∧
          t.power.under = 0 ∧ t.power.above = 0 ∧ t.comp = s.comp ∧ t.tiers = s.tiers) ∧
      (floors → s.power.above + 1 < 10 →
        ∃ t, Sys2Proof.Machine.exec .capControl s = .next t ∧
          t = { s with power := { s.power with under := 0, above := s.power.above + 1 } }) ∧
      (floors → s.power.above + 1 = 10 →
        ∃ t, Sys2Proof.Machine.exec .capControl s = .next t ∧ bitF t fPTC_STAT_CAP_UNMET = true ∧
          bitF t fPTC_ERR_CAP_UNMET = true ∧ t.power = { s.power with under := 0, above := 10 })) ∧
    (p * 100 ≤ cap * 98 → s.power.under + 1 < 10 →
      ∃ t, Sys2Proof.Machine.exec .capControl s = .next t ∧ getF t fPTC_STAT_CAP_UNMET = 0 ∧
        t = { s with power := { s.power with above := 0, under := s.power.under + 1 }, regs := t.regs }) ∧
    (∃ t, Sys2Proof.Machine.exec .inputUndervolt s = .next t ∧ t.power = { s.power with undervolt := true } ∧
      bitF t fPTC_ERR_UNDERVOLT = true ∧ effectiveCap t ≤ 3000 ∧
      getF t fPTC_INPUT_CAP_EFF = effectiveCap t % 2 ^ fPTC_INPUT_CAP_EFF.w) ∧
    (∃ t, Sys2Proof.Machine.exec .undervoltRecovery s = .next t ∧ t.power = { s.power with undervolt := false } ∧
      getF t fPTC_INPUT_CAP_EFF = effectiveCap t % 2 ^ fPTC_INPUT_CAP_EFF.w ∧
      t = { s with power := t.power, regs := t.regs }) ∧
    (getF s fPTC_STAT_CONV_DOWN < 8 →
      ∃ t, Sys2Proof.Machine.exec .converterFailure s = .next t ∧ bitF t fPTC_ERR_CONVERTER = true ∧
        getF t fPTC_STAT_CONV_DOWN = getF s fPTC_STAT_CONV_DOWN + 1 ∧ t.power = s.power ∧
        effectiveCap t ≤ 375 * (15 - getF s fPTC_STAT_CONV_DOWN))

/-- Operating points. When a limit changes, every cluster that is not OFF takes the frequency of its limits and runs at
most at it; VDD at its target lets it run at it. A fast limit, a droop, a hot die, a sensor that crosses its
threshold and an aged site each lower what they concern and nothing else (17 R576-R586, R598, R599). -/
def Obligations.OperatingPoints : Prop :=
  ∀ (k : Fin 512) (reading : Int) (s : State),
    let d := dieOfCluster k
    let operated (t : State) : Prop := ∀ j, j < 512 → pstate s j ≠ 3 →
      (getCP t j).flim = clusterFreq t j ∧ (getCP t j).freq ≤ (getCP t j).flim
    let others (t : State) : Prop := ∀ j, j ≠ (k : Nat) → getCP t j = getCP s j
    (∃ t, Sys2Proof.Machine.exec (.voltageTargetReached k) s = .next t ∧
      getCP t k = { getCP s k with vdd := (getCP s k).target, freq := (getCP s k).flim } ∧ others t ∧
      t = { s with power := { s.power with clusters := t.power.clusters } }) ∧
    (∃ t, Sys2Proof.Machine.exec .fastLimitEntry s = .next t ∧ bitF t fPTC_STAT_FAST = true ∧
      bitF t fPTC_ERR_FAST_LIMIT = true ∧ operated t ∧ t.comp = s.comp) ∧
    (∃ t, Sys2Proof.Machine.exec .fastLimitExit s = .next t ∧ bitF t fPTC_STAT_FAST = false ∧ operated t ∧
      t.comp = s.comp) ∧
    (pstate s k ≠ 3 →
      ∃ t, Sys2Proof.Machine.exec (.droopDetect k) s = .next t ∧ getCP t k = { getCP s k with droop := true } ∧
        others t ∧ t = { s with power := { s.power with clusters := t.power.clusters }, tel := t.tel }) ∧
    (∃ t, Sys2Proof.Machine.exec (.droopRecovery k) s = .next t ∧ getCP t k = { getCP s k with droop := false } ∧
      others t ∧ t = { s with power := { s.power with clusters := t.power.clusters } }) ∧
    (∀ x, d ∉ s.power.hot → dieReading (readSensor s k reading) d = some x → throttleT s ≤ x →
      ∃ t, Sys2Proof.Machine.exec (.thermalLimitStep k reading) s = .next t ∧
        tabFind t.power.limits d = some (max 120 ((tabFind s.power.limits d).getD (modeTarget s) - 5)) ∧
        bitF t fPTC_ERR_THROTTLED = true ∧ bitF t fPTC_STAT_THROTTLE = true ∧ operated t ∧
        tabFind t.power.temps k = some reading) ∧
    (420 ≤ reading →
      ∃ t, Sys2Proof.Machine.exec (.overtempEntry k reading) s = .next t ∧ tabFind t.power.limits d = some 120 ∧
        d ∈ t.power.hot ∧ bitF t fPTC_STAT_OVERTEMP = true ∧ operated t ∧ tabFind t.power.temps k = some reading) ∧
    (∀ n : Fin 24, ∃ t, Sys2Proof.Machine.exec (.sensorThresholdCrossing (.stack n) reading) s = .next t ∧
      ((n : Nat) ∈ t.power.refresh2 ↔ 340 ≤ reading) ∧ (380 ≤ reading → 516 + (n : Nat) ∈ t.power.throttled) ∧
      (reading < 372 → 516 + (n : Nat) ∉ t.power.throttled) ∧
      t = { s with
        power := { s.power with
          temps := t.power.temps, refresh2 := t.power.refresh2, throttled := t.power.throttled }
        regs := t.regs }) ∧
    (∀ (die : Fin 16) (i : Fin 32) (reference : Int), ∃ t,
      Sys2Proof.Machine.exec (.sensorCalibration die reference [(i, reading)]) s = .next t ∧
      let far : Prop := 20 < reading - reference ∨ 20 < reference - reading
      (((die : Nat) * 32 + i) ∈ t.power.discarded ↔ far) ∧ (far → bitF t fPTC_ERR_SENSOR = true) ∧
      tabFind t.power.temps ((die : Nat) * 32 + i) = some reading ∧
      t = { s with power := { s.power with temps := t.power.temps, discarded := t.power.discarded }, regs := t.regs }) ∧
    (∀ (site : Fin 200) (lo mid hi : Fin 1024), (site : Nat) ∈ enabledSites s k →
      let c := siteCur s k site
      (lo : Nat) < natBits c 0 10 →
      ∃ t, Sys2Proof.Machine.exec (.ageingRecalibration k site lo mid hi) s = .next t ∧
        siteCur t k site = lo + min (mid : Nat) (natBits c 10 10) * 2 ^ 10 + min (hi : Nat) (natBits c 20 10) * 2 ^ 20 +
          2 ^ 30 ∧
        (∀ j, j ≠ (site : Nat) → siteCur t k j = siteCur s k j) ∧ operated t)

/-- The power states of a cluster: idle with nothing in flight it dozes; with every strand IDLE and deep sleep allowed
it goes from DOZE to DEEP and loses its accumulator tiles; waking brings either back to RUN. The time slept and the
wakes are counted, and the record DOZE, DEEP or WAKE goes to the trace funnel (03 R111, 17 R595, R596, 20 R657). -/
def Obligations.ClusterSleep : Prop :=
  ∀ (k : Fin 512) (s : State),
    (pstate s k = 0 →
      (∀ p ∈ s.comp.cores, clusterOfCore p.1 = (k : Nat) → p.2.strands.all Strand.quiet = true ∧ p.2.ops = []) →
      ∃ t, Sys2Proof.Machine.exec (.clusterDoze k) s = .next t ∧ pstate t k = 1 ∧
        getCP t k = { getCP s k with since := s.now } ∧ (∀ j, j < 512 → j ≠ (k : Nat) → pstate t j = pstate s j) ∧
        t = { s with
          power := { s.power with clusters := t.power.clusters }
          regs := t.regs
          tel := (tracePower (advanceCycles s k) k 0x02 0).tel
          fresh := s.fresh + 3 }) ∧
    (pstate s k = 1 → clusterIdle s k = true → getF s fPTC_CFG_DEEP_IDLE ≠ 0 →
      ∃ t, Sys2Proof.Machine.exec (.clusterDeep k) s = .next t ∧ pstate t k = 2 ∧
        (∀ c, clusterOfCore c = (k : Nat) → getCore t c = { getCore s c with tiles := [] }) ∧
        (∀ c, clusterOfCore c ≠ (k : Nat) → getCore t c = getCore s c) ∧ t.comp.sram = s.comp.sram ∧
        t.comp.coreStore = s.comp.coreStore ∧ t.tel = (tracePower (countSleep s k) k 0x03 0).tel) ∧
    (pstate s k = 1 ∨ pstate s k = 2 →
      ∃ t, Sys2Proof.Machine.exec (.clusterWake k) s = .next t ∧ pstate t k = 0 ∧
        (∀ j, j < 512 → j ≠ (k : Nat) → pstate t j = pstate s j) ∧ t = { s with
          regs := t.regs
          tel := (tracePower (countCluster (countSleep s k) k 7 1) k 0x04 (pstate s k)).tel }) ∧
    (pstate s k = 0 ∨ pstate s k = 3 → Sys2Proof.Machine.exec (.clusterWake k) s = .next s)

/-- The commands of CFG_CMD. LOAD asks for the bytes of an image and begins pass 1, is discarded while a pass runs or in
FAILED, and has no effect before CFG_ is writable. DISCARD empties the shadow set and withdraws a readiness that was
sent. COMMIT and STOP are taken in the states that the rules name and discarded otherwise; once the conditions of a
commit hold, COMMIT_READY goes into the order stream. A write from a VF is recorded and changes nothing else
(16 R549-R566). -/
def Obligations.ConfigurationCommands : Prop :=
  ∀ s : State,
    let shadow := getF s fCFG_STAT_SHADOW
    let stage := getF s fCFG_STAT_STAGE
    let a := getF s fCFG_LOAD_ADDR_ADDR * 4096
    let l := getF s fCFG_LOAD_LEN_LENGTH
    let discarded (t : State) : Prop := bitF t fCFG_ERR_CMD_DISCARDED = true ∧ t = { s with regs := t.regs } ∧
      ∀ r, r ≠ rCFG_ERR → getReg t r = getReg s r
    let record (k : RecKind) (arg : Nat) : Out :=
      ⟨.mgmt .orderRecord, orderPkg s :: recordArgs (OrderRecord.plain k (ownPkg s) 0 0 arg)⟩
    (4 < stage → stage ≠ 0xF → shadow = 0 →
      ∃ t, Sys2Proof.Machine.exec (.load 0) s = .next t ∧ t.cfg.loading = some ⟨a, l, 0, 0⟩ ∧
        getF t fCFG_STAT_SHADOW = 1 ∧ t.out = s.out ++ [⟨.hostRead, [0, a, l]⟩] ∧
        t = { s with cfg := { s.cfg with loading := t.cfg.loading }, regs := t.regs, out := t.out } ∧
        ∀ r, r ≠ rCFG_STAT → getReg t r = getReg s r) ∧
    (4 ≤ stage → (1 ≤ shadow ∧ shadow ≤ 3) ∨ stage = 0xF →
      ∃ t, Sys2Proof.Machine.exec (.load 0) s = .next t ∧ discarded t) ∧
    (stage < 4 → s.cfg.warm = false → Sys2Proof.Machine.exec (.load 0) s = .next s) ∧
    (∀ fn : Fin 64, fn ≠ 0 → ∀ c : Instr, c ∈ [.load fn, .discard fn, .commit fn, .stop fn] →
      ∃ t, Sys2Proof.Machine.exec c s = .next t ∧ bitF t fGLB_ERR_VF_ACCESS = true ∧ t = { s with regs := t.regs } ∧
        ∀ r, r ≠ rGLB_ERR → r ≠ rGLB_ERR_INFO → getReg t r = getReg s r) ∧
    (shadow = 5 → swapPhase s = 0 → s.cfg.active.isSome = true →
      ∃ t, Sys2Proof.Machine.exec (.discard 0) s = .next t ∧
        t.cfg = { s.cfg with shadow := none, loading := none, wanted := false } ∧ getF t fCFG_STAT_SHADOW = 0 ∧
        bitF t fCFG_ERR_WITHDRAWN = true ∧ t.out = s.out ++ [record .commitWithdraw (getF s fCFG_GEN_SHADOW)]) ∧
    (shadow ≠ 5 → swapPhase s = 0 → s.cfg.active.isSome = true →
      ∃ t, Sys2Proof.Machine.exec (.discard 0) s = .next t ∧
        t.cfg = { s.cfg with shadow := none, loading := none, wanted := false } ∧ getF t fCFG_STAT_SHADOW = 0 ∧
        getF t fCFG_GEN_SHADOW = 0 ∧ getF t fCFG_GEN_ACTIVE = getF s fCFG_GEN_ACTIVE ∧
        t = { s with cfg := t.cfg, tiers := { s.tiers with evacuating := false }, regs := t.regs }) ∧
    (serving s = true →
      (shadow = 4 → borderCommit s = false → ∃ t, Sys2Proof.Machine.exec (.commit 0) s = .next t ∧
        t = { s with cfg := { s.cfg with wanted := true } }) ∧
      (shadow ≠ 4 ∨ borderCommit s = true → ∃ t, Sys2Proof.Machine.exec (.commit 0) s = .next t ∧ discarded t) ∧
      (∃ t, Sys2Proof.Machine.exec (.stop 0) s = .next t ∧ t = { s with out := s.out ++ [record .stop 0] }) ∧
      (commitReady s = true → swapPhase s = 0 ∨ swapPhase s = 2 →
        ∃ t, Sys2Proof.Machine.exec .commitReadySend s = .next t ∧ getF t fCFG_STAT_SHADOW = 5 ∧
          t.out = s.out ++ [record .commitReady (getF s fCFG_GEN_SHADOW)] ∧ t = { s with regs := t.regs, out := t.out })) ∧
    (serving s = false →
      (∃ t, Sys2Proof.Machine.exec (.stop 0) s = .next t ∧ discarded t) ∧
      (shadow ≠ 4 → ∃ t, Sys2Proof.Machine.exec (.commit 0) s = .next t ∧ discarded t) ∧
      (shadow = 4 → stagingDone s = false ∨ s.tiers.evacuating = true →
        ∃ t, Sys2Proof.Machine.exec (.commit 0) s = .next t ∧ t = { s with cfg := { s.cfg with wanted := true } }))

/-- The two passes of a load, with a set active. A read that fails, an image that a check of pass 1 refuses or whose
hash has changed at pass 2 empties the shadow set with its cause. Pass 1 keeps the header and hash and begins pass
2; pass 2 leaves the image in the shadow half of its carve-out, READY. A cluster that is reloaded from the active
set has its generation and leaves OFF (16 R549-R557, 04 R155). -/
def Obligations.ImageLoad : Prop :=
  ∀ (l : Loading) (bs : List Byte) (s : State), s.cfg.loading = some l → s.cfg.active.isSome = true →
    let rejected (t : State) (cause : Nat) : Prop := t.cfg.shadow = none ∧ t.cfg.loading = none ∧
      getF t fCFG_STAT_SHADOW = 0 ∧ getF t fCFG_STAT_REJECT = cause ∧ bitF t fCFG_ERR_REJECTED = true ∧
      t.cfg.active = s.cfg.active
    (getF s fCFG_STAT_SHADOW = 1 →
      (∃ t, Sys2Proof.Machine.exec (.imagePass1Complete none) s = .next t ∧ rejected t 8) ∧
      (bs.length = l.len →
        (∀ c, c < 256 → (pass1Cause s l bs).1 = some c →
          ∃ t, Sys2Proof.Machine.exec (.imagePass1Complete (some bs)) s = .next t ∧ rejected t c) ∧
        ((pass1Cause s l bs).1 = none → s.cfg.trained = true →
          ∃ t, Sys2Proof.Machine.exec (.imagePass1Complete (some bs)) s = .next t ∧
            t.cfg.loading = some { l with header := leNat bs % 2 ^ 2048, hash := Config.sha384 bs } ∧
            getF t fCFG_STAT_SHADOW = 3 ∧ t.out = s.out ++ [⟨.hostRead, [0, l.addr, l.len]⟩] ∧
            t.cfg.active = s.cfg.active ∧ t.cfg.shadow = s.cfg.shadow))) ∧
    (getF s fCFG_STAT_SHADOW = 3 → bs.length = l.len →
      (Config.sha384 bs ≠ l.hash →
        ∃ t, Sys2Proof.Machine.exec (.imagePass2Complete (some bs)) s = .next t ∧ rejected t 7) ∧
      (let i0 := parseImage (leNat bs) l.hash 0
       let i := { i0 with base := shadowBase s i0 }
       Config.sha384 bs = l.hash → i.pending = none → Memory.wf s.tiers.hbm = true →
        sectionsFail (leNat bs) i (imgDir (leNat bs)).zipIdx = none →
        ∃ t, Sys2Proof.Machine.exec (.imagePass2Complete (some bs)) s = .next t ∧ t.cfg.shadow = some i ∧
          t.cfg.loading = none ∧ t.cfg.active = s.cfg.active ∧ getF t fCFG_STAT_SHADOW = 4 ∧
          getF t fCFG_GEN_SHADOW = i.gen % 2 ^ 32 ∧
          (∀ j, j < bs.length → memGet t.tiers.hbm (i.base + j) = bs.getD j 0#8) ∧
          ∀ b, b < i.base ∨ i.base + bs.length ≤ b → memGet t.tiers.hbm b = memGet s.tiers.hbm b)) ∧
    (∀ (k : Fin 512) (i : CfgImage), s.cfg.active = some i → (k : Nat) ∈ s.cfg.reloads →
      8 ≤ getF s fCFG_STAT_STAGE → i.role k ≠ 0 →
      ∃ t, Sys2Proof.Machine.exec (.clusterReloadComplete k) s = .next t ∧ (k : Nat) ∉ t.cfg.reloads ∧
        pstate t k = 0 ∧ getF t (fCLU_TBL_STAT_LOAD_GEN k) = i.gen % 2 ^ (fCLU_TBL_STAT_LOAD_GEN k).w ∧
        (getCluster t k).enmask = i.enmask k ∧ (getCluster t k).poisonedStore = [] ∧ t.comp.sram = s.comp.sram)

/-- What the resets leave. A cold reset restarts at ROM with the time base and what the always-on domain holds; a
power-on reset leaves every register but the reference flag and the rebuilt flash map at its reset value; a warm
reset resumes at RAILS with the active set kept and every core, ward and scan gone. VIN48 that is restored is a cold
reset (16 R561, R562, 17 R571). -/
def Obligations.ResetsLeave : Prop :=
  ∀ (bad : Bool) (s : State),
    let serviceLost (t : State) : Prop := t.ward = State.reset.ward ∧ t.warden = State.reset.warden ∧
      t.router = State.reset.router ∧ t.assay = State.reset.assay ∧ t.pending = s.pending ∧ t.time = s.time
    let secrets (t : State) : Prop := t.padlock.life = s.padlock.life ∧ t.padlock.svn = s.padlock.svn ∧
      t.padlock.fused = s.padlock.fused ∧ t.padlock.digests = s.padlock.digests ∧ t.padlock.nor = s.padlock.nor
    (∃ t, Sys2Proof.Machine.exec (.coldReset bad) s = .next t ∧ serviceLost t ∧ secrets t ∧
      getF t fCFG_STAT_STAGE = 1 ∧ getF t fCFG_STAT_LAST_RESET = 1 ∧ t.cfg = State.reset.cfg ∧
      t.tiers = State.reset.tiers ∧ t.comp.cores = [] ∧ t.comp.sram = [] ∧ t.bezel = State.reset.bezel ∧
      getReg t rPTC_ENERGY = getReg s rPTC_ENERGY ∧ t.fault.retired = s.fault.retired ∧ t.padlock.nonce = none) ∧
    (∃ t, Sys2Proof.Machine.exec (.powerOnReset bad) s = .next t ∧ t.comp = State.reset.comp ∧
      t.tiers = State.reset.tiers ∧ t.fab = State.reset.fab ∧ t.cfg = State.reset.cfg ∧ t.ward = State.reset.ward ∧
      secrets t ∧ t.pending = s.pending ∧ (bitF t fGLB_TIME_STAT_REF_LOST = true ↔ s.time.refclk = false) ∧
      ∀ r, r ≠ rGLB_TIME_STAT → r ≠ rFLS_ERR → r ≠ rFLS_STAT → getReg t r = getReg State.reset r) ∧
    (s.cfg.active.isSome = true → getF s fGLB_FAULT_STAT_PHASE = 0 → getF s fCFG_STAT_STAGE ≠ 0xF →
      inTransition s = false → serving s = false →
      ∃ t, Sys2Proof.Machine.exec .warmReset s = .next t ∧ serviceLost t ∧ secrets t ∧
        getF t fCFG_STAT_STAGE = 3 ∧ getF t fCFG_STAT_LAST_RESET = 2 ∧ t.cfg.active = s.cfg.active ∧
        t.cfg.shadow = none ∧ t.cfg.warm = true ∧ (∀ c, c < 98304 → getCore t c = Core.empty) ∧
        t.hinge.slots = [] ∧ getReg t rPTC_ENERGY = getReg s rPTC_ENERGY) ∧
    (s.power.lost = true → s.power.tripped = false →
      ∃ t, Sys2Proof.Machine.exec .vin48Restored s = .next t ∧
        Sys2Proof.Machine.exec (.coldReset false) { s with power := { s.power with lost := false } } = .next t)

/-- The stages of start-up follow one another: firmware that meets its conditions runs and the package goes on to RAILS;
rails that stand, trained memory, optics, fabric, tenants and weights each end their stage, and READY announces
itself. A rail or a memory that fails ends in FAILED. The stages of a package that waits for its dump or is HALTED do not
end (16 R563-R565, Table 16-9, 18 R619, R623). -/
def Obligations.StartUpStages : Prop :=
  ∀ s : State,
    let stage := getF s fCFG_STAT_STAGE
    (stage = 1 → s.time.refclk = true → fwOk s (norCopy s 0) = true →
      ∃ t, Sys2Proof.Machine.exec .firmwareAccepted s = .next t ∧ getF t fCFG_STAT_STAGE = 3 ∧
        getF t fPDL_LIFE_COPY = 0 ∧ t.padlock.running = fwSVN (norCopy s 0) ∧
        t.padlock.fwDigest = Config.sha384 (norCopy s 0)) ∧
    (stage = 1 → s.time.refclk = true → fwOk s (norCopy s 0) = false → fwOk s (norCopy s 1) = true →
      ∃ t, Sys2Proof.Machine.exec .firmwareAccepted s = .next t ∧ getF t fCFG_STAT_STAGE = 3 ∧
        getF t fPDL_LIFE_COPY = 1 ∧ t.padlock.running = fwSVN (norCopy s 1)) ∧
    (stage = 3 → s.power.lost = false →
      (inTransition s = false →
        ∃ t, Sys2Proof.Machine.exec (.railsComplete true) s = .next t ∧
          getF t fCFG_STAT_STAGE = (if s.cfg.warm then 5 else 4) ∧
          t.host = (if s.host.perst then s.host else { s.host with linkUp := true }) ∧
          t = { s with host := t.host, regs := t.regs, out := t.out }) ∧
      (∃ t, Sys2Proof.Machine.exec (.railsComplete false) s = .next t ∧ t = stageFailed s 2)) ∧
    (∀ l, s.cfg.loading = some l → s.cfg.trained = false → getF s fCFG_STAT_SHADOW = 2 →
      s.cfg.active.isSome = true → stage ≠ 0xF →
      (∃ t, Sys2Proof.Machine.exec (.hbmTrainingComplete true) s = .next t ∧ t.cfg = { s.cfg with trained := true } ∧
        getF t fCFG_STAT_SHADOW = 3 ∧ t.out = s.out ++ [⟨.hostRead, [0, l.addr, l.len]⟩] ∧
        t = { s with cfg := t.cfg, regs := t.regs, out := t.out }) ∧
      (∃ t, Sys2Proof.Machine.exec (.hbmTrainingComplete false) s = .next t ∧ t = stageFailed s 3)) ∧
    (startHeld s = true →
      Sys2Proof.Machine.exec .opticsStageComplete s = .next s ∧ Sys2Proof.Machine.exec .fabricStageComplete s = .next s ∧
      Sys2Proof.Machine.exec .tenantsStageComplete s = .next s ∧
      Sys2Proof.Machine.exec .weightsStageComplete s = .next s) ∧
    (startHeld s = false → stage = 9 → (∀ p ∈ s.fab.ports, p.2.phase ≠ .training) →
      ∃ t, Sys2Proof.Machine.exec .opticsStageComplete s = .next t ∧ getF t fCFG_STAT_STAGE = 0xA ∧
        t = { s with regs := t.regs, out := t.out }) ∧
    (startHeld s = false → stage = 0xA →
      ∃ t, Sys2Proof.Machine.exec .fabricStageComplete s = .next t ∧ getF t fCFG_STAT_STAGE = 0xB ∧
        t = { s with regs := t.regs, out := t.out }) ∧
    (startHeld s = false → stage = 0xB → s.cfg.active.isSome = true → s.cfg.warm = true →
      ∃ t, Sys2Proof.Machine.exec .tenantsStageComplete s = .next t ∧ getF t fCFG_STAT_STAGE = 0xC ∧
        t.cfg = s.cfg ∧ t.tiers = s.tiers) ∧
    (stage = 0xC → allVerified s 0 = true → s.assay.held = [] → swapPhase s ≠ 4 → stopped s = false →
      ∃ t, Sys2Proof.Machine.exec .weightsStageComplete s = .next t ∧ getF t fCFG_STAT_STAGE = 0xD ∧
        t.cfg = { s.cfg with warm := false } ∧
        (∃ es, t.out = s.out ++ es ++ [⟨.mgmt .orderRecord,
          orderPkg s :: recordArgs (OrderRecord.plain .jobReady (ownPkg s) 0 0 (activeGen s))⟩]) ∧
        t = { s with cfg := t.cfg, regs := t.regs, out := t.out })

/-- Loss of input power, a trip and lost dies. Below its range VIN48 takes down the rails, which pins say, and
everything they powered is lost; a trip says so too and lasts until the input is gone. A lost Gateway die is a fault
of the package with its ports disabled; without G0 the package halts at once with every strand stopped (17
R570-R571, R601, 01 R46, 18 R615). -/
def Obligations.PowerAndDieLoss : Prop :=
  ∀ (s : State),
    let down (t : State) : Prop := t.power.lost = true ∧ getF t fCFG_STAT_STAGE = 3 ∧ t.comp.cores = [] ∧
      t.tiers = State.reset.tiers ∧ t.ward = State.reset.ward ∧ t.cfg = State.reset.cfg ∧
      bitF t fGLB_FAULT_STAT_FAULT_N = true ∧ t.pending = s.pending ∧ t.padlock.life = s.padlock.life ∧
      t.padlock.svn = s.padlock.svn ∧ t.time = s.time
    (s.power.tripped = false → s.power.lost = false →
      ∃ t es, Sys2Proof.Machine.exec .inputPowerLoss s = .next t ∧ down t ∧
        t.out = s.out ++ es ++ [⟨.pin, [0, 0]⟩]) ∧
    (s.power.tripped = true →
      (∃ t, Sys2Proof.Machine.exec .inputPowerLoss s = .next t ∧ t = { s with
        power := { s.power with tripped := false }
        out := s.out ++ [⟨.pin, [1, 1]⟩] ++ [⟨.pin, [2, 1]⟩] }) ∧
      Sys2Proof.Machine.exec .inputOvervolt s = .next s ∧ Sys2Proof.Machine.exec .vin48Restored s = .next s) ∧
    (s.power.tripped = false →
      ∃ t es, Sys2Proof.Machine.exec .inputOvervolt s = .next t ∧ down t ∧
        t.out = s.out ++ es ++ [⟨.pin, [0, 0]⟩, ⟨.pin, [2, 0]⟩]) ∧
    (∀ (die : Fin 20) (sensor : Fin 2), s.power.tripped = false → bitF s fPTC_TRIP_TRIPPED = false →
      ∃ t es, Sys2Proof.Machine.exec (.deadboltTrip die sensor) s = .next t ∧ down t ∧ t.power.tripped = true ∧
        bitF t fPTC_TRIP_TRIPPED = true ∧ getF t fPTC_TRIP_DIE = die ∧ getF t fPTC_TRIP_SENSOR = sensor ∧
        t.out = s.out ++ [⟨.pin, [1, 0]⟩, ⟨.pin, [2, 0]⟩] ++ es) ∧
    (∀ die : Fin 3, (die : Nat) + 1 ∉ s.fault.lostGw →
      ∃ t u, Sys2Proof.Machine.exec (.gatewayLoss die) s = .next t ∧
        t = declareFault u 0x000E ⟨17 + (die : Nat), 0, 0, 0, 17 + (die : Nat)⟩ ∧ (die : Nat) + 1 ∈ u.fault.lostGw ∧
        (∀ n, n / 4 = (die : Nat) + 1 → (getPort u n).phase = .disabled) ∧
        (∀ n, n / 4 ≠ (die : Nat) + 1 → getPort u n = getPort s n) ∧ u.comp = s.comp ∧ u.tiers = s.tiers ∧
        u.ward = s.ward) ∧
    (∃ t, Sys2Proof.Machine.exec .g0Loss s = .next t ∧ getF t fGLB_FAULT_STAT_PHASE = 5 ∧ serving t = false ∧
      t.host.linkUp = false ∧ t.warden.lanes = [] ∧ (∀ n, n < 16 → (getPort t n).phase = .disabled) ∧
      ∀ c i, (getStrand t c i).phase = .idle ∨ (getStrand t c i).phase = .faulted)

/-- Steps of the Warden. An exchange from a package of the partition is held once per sender and step. When the
package's share is complete its exchange goes out and is held, the step's launches are done with, and the lane has
sent. A missing exchange is a fault, cause 0x0007. At a boundary whose exchanges are all held, the job stops, or a
due commit holds the lane, or the lane's next step is formed and the boundary's time is shown (10 R362-R369, 16
R555-R560). -/
def Obligations.StepsAndBoundaries : Prop :=
  ∀ (lane : Fin 3) (s : State), serving s = true → stopped s = false →
    let l := getLane s lane
    let formed (t : State) (n b : Nat) : Prop := getReg t (rWDN_LANE_BND n) = BitVec.ofNat 64 b ∧
      (getLane t n).step = getF t fWDN_STEP_STEP ∧ (getLane t n).sent = false ∧
      ∀ d ∈ (getLane t n).decisions, d.kind < 3
    (∀ x : StepExchange, x.lane = lane → x.sender ∈ members s → l.step ≤ x.step →
      ((∀ y ∈ l.exch, y.sender ≠ x.sender ∨ y.step ≠ x.step) →
        ∃ t, Sys2Proof.Machine.exec (.stepExchange x) s = .next t ∧ getLane t lane = { l with exch := l.exch ++ [x] } ∧
          (∀ n, n ≠ (lane : Nat) → getLane t n = getLane s n) ∧
          t = { s with warden := { s.warden with lanes := t.warden.lanes } }) ∧
      ((∃ y ∈ l.exch, y.sender = x.sender ∧ y.step = x.step) →
        Sys2Proof.Machine.exec (.stepExchange x) s = .next s)) ∧
    (∀ xs : List Sampled, l.step ≠ 0 → l.sent = false → launchesDone s lane l.step = true →
      (∀ y ∈ l.exch, y.sender ≠ ownPkg s ∨ y.step ≠ l.step) →
      ∃ t, Sys2Proof.Machine.exec (.stepShareComplete lane xs) s = .next t ∧ (getLane t lane).sent = true ∧
        (∃ x ∈ (getLane t lane).exch, x.sender = ownPkg s ∧ x.step = l.step ∧ x.matched = s.bezel.matched ∧
          x.digest = l.digest) ∧
        (∀ n, n ≠ (lane : Nat) → getLane t n = getLane s n) ∧ t.bezel.matched = [] ∧
        (∀ c n, (getCore s c).launch = some n → n.lane = lane → n.step = l.step → (getCore t c).launch = none)) ∧
    (∀ p, l.step ≠ 0 → l.sent = true → (members s).find? (fun p => !l.now.any (fun x => x.sender == p)) = some p →
      ∃ t, Sys2Proof.Machine.exec (.exchangeWaitTimeout lane) s = .next t ∧
        t = declareFault s 0x0007 ⟨16, 0, 0, 0, p⟩) ∧
    (∀ proposed disp, allExchanged s lane = true → earlierLane s lane = false →
      batchMissing s (boundaryTime s lane) = false →
      stopped (digestCheck s lane) = false →
      ∃ t, Sys2Proof.Machine.exec (.stepBoundary lane proposed disp) s = .next t ∧
        (serving t = false ∨ t.cfg.due = true ∨ t.cfg.resume.isSome = true ∨ formed t lane (boundaryTime s lane))) ∧
    (∀ b proposed disp, s.cfg.resume = some b → batchMissing s b = false →
      ∃ t, Sys2Proof.Machine.exec (.commitResumeBoundary proposed disp) s = .next t ∧ formed t 2 b)

/-- Without a job the next batch is applied at its time; an empty one changes only what names it. A launch that its
lane, its cluster and its gates allow starts the strands of its entry point on a core that is free, with its
latches, its tiles and its fault record cleared. A bucket that refills is full, and what waits in it goes in order,
charged, while its tokens last (16 R560, 10 R381-R389, 03 R139, 04 R158, R159). -/
def Obligations.LaunchesAndBuckets : Prop :=
  ∀ (c : Fin 98304) (s : State),
    (∀ b proposed disp, serving s = false → getF s fGLB_FAULT_STAT_PHASE = 0 → nextHeld s = some b → b.apply ≤ s.now →
      b.recs = [] →
      ∃ t, Sys2Proof.Machine.exec (.batchApplyIdle proposed disp) s = .next t ∧
        t.ward = { s.ward with
          batches := s.ward.batches.filter (fun y => y.number != b.number), lastApply := some b.apply } ∧
        getF t fWRD_ORDER_STAT_LAST_BATCH = b.number % 2 ^ fWRD_ORDER_STAT_LAST_BATCH.w ∧
        t = { s with ward := t.ward, fault := { s.fault with batches := t.fault.batches }, regs := t.regs }) ∧
    (∀ (sp : LaunchSpec) (r : Nat), launchRecord s c sp = some r → serving s = true → stopped s = false → sp.lane < 3 →
      let k := clusterOfCore c
      let l := getLane s sp.lane
      l.step ≠ 0 → l.sent = false → pstate s k ≠ 3 → coreFree (getCore s c) = true → swapPhase s ≠ 4 →
      roleOk s k sp.lane = true → rowsOk s k r l sp = true → headsOk s c l sp = true →
      shardsOk s k r l.step sp = true → presetsOk s k r l.step sp = true → streamsOk s sp = true →
      ∃ t, Sys2Proof.Machine.exec (.coreLaunch c sp) s = .next t ∧
        (∀ j, j < 4 → (natBits r (12 * j + 11) 1 = 1 → (getStrand t c j).phase = .ready ∧
            (getStrand t c j).pc = some (natBits r (12 * j) 11) ∧
            (getStrand t c j).context = (if launchSys s k r then ctxSYS
              else (sp.strands.getD j ⟨ctxSYS, 0, 0, []⟩).context)) ∧
          (natBits r (12 * j + 11) 1 = 0 → getStrand t c j = Strand.idle)) ∧
        (getCore t c).latches = [] ∧ (getCore t c).ops = [] ∧ (getCore t c).tiles = [] ∧ (getCore t c).last = 3 ∧
        (∃ n, (getCore t c).launch = some n ∧ n.tset = sp.tset ∧ n.ep = sp.ep ∧ n.lane = sp.lane ∧
          n.step = l.step ∧ n.heads = sp.heads ∧ n.done = false ∧ n.applied = false ∧ n.faulted = false ∧
          n.issued = false) ∧
        getF t (fCLU_CORE_STAT_FAULT_CAUSE k (indexOfCore c)) = 0 ∧ pstate t k = 0 ∧
        (∀ d, d ≠ (c : Nat) → clusterOfCore d ≠ k ∨ clusterLaunches s k sp.lane l.step ≠ [] →
          getCore t d = getCore s d) ∧
        (clusterLaunches s k sp.lane l.step = [] → ∀ d, clusterOfCore d = k →
          ∀ o ∈ (getCore t d).ops, ∀ n, o.latch ≠ some (true, n)) ∧
        t.comp.sram = s.comp.sram ∧ t.tiers = s.tiers) ∧
    (∀ b : Fin 640,
      let q := (getBucket s b).held
      let spent (n : Nat) : Nat := ((q.take n).map HeldReq.bytes).sum
      (∀ h ∈ q, h.reqs = []) →
      ∃ t n, Sys2Proof.Machine.exec (.bucketRefill b) s = .next t ∧ n ≤ q.length ∧
        (getBucket t b).held = q.drop n ∧
        (bucketPoliced s b = true → (getBucket t b).left = bucketDepth s b - spent n ∧
          ∀ m, m < n → spent m < bucketDepth s b) ∧
        (n < q.length → bucketPoliced s b = true ∧ bucketDepth s b ≤ spent n) ∧
        (∀ d, d ≠ (b : Nat) → getBucket t d = getBucket s d) ∧
        (∀ h c i, q.take n = [h] → h.agent = .coreOp c i →
          (getCore t c).ops = (getCore s c).ops.map (fun o => if o.id = i then unheld 0 o else o)) ∧
        (∀ c, (∀ h ∈ q.take n, ∀ i, h.agent ≠ .coreOp c i) → getCore t c = getCore s c) ∧
        t = { s with
          comp := { s.comp with cores := t.comp.cores }
          warden := { s.warden with buckets := t.warden.buckets }
          tel := { s.tel with counters := t.tel.counters } }) ∧
    (∀ (b : Fin 640) (h : HeldReq), (getBucket s b).held = [h] → bucketPoliced s b = false ∨ bucketDepth s b ≠ 0 →
      ∃ t, Sys2Proof.Machine.exec (.bucketRefill b) s = .next t ∧
        t = releaseHeld (setBucket s b ⟨bucketDepth s b, []⟩) b h)

/-- What an uncorrectable fault does. The first of an episode raises the episode number, records its cause, its place,
its time and its origin, tells every package, asserts FAULT_N, and stops every strand; the package is in phase
STOPPED. A fault declared while the package is stopped stops nothing more: the second own one is recorded as CAUSE2
(18 R613-R618, R623). -/
def Obligations.FaultsStopThePackage : Prop :=
  ∀ (cause : Nat) (loc : FaultAt) (s : State), cause < 2 ^ 16 →
    (stopped s = false →
      let t := declareFault s cause loc
      let own := cause ≠ 0x0007 ∧ cause ≠ 0x0100
      let ep := (getF s fGLB_FAULT_STAT_EPISODE + 1) % 2 ^ 32
      getF t fGLB_FAULT_STAT_EPISODE = ep ∧ getF t fGLB_FAULT_STAT_PHASE = 1 ∧
      getF t fGLB_FAULT_STAT_OWN = (if own then 1 else 0) ∧ getF t fGLB_FAULT_STAT_ORIGIN = ownPkg s % 2 ^ 16 ∧
      bitF t fGLB_FAULT_STAT_FAULT_N = true ∧ getF t fGLB_FAULT_CAUSE_CAUSE = cause ∧
      getReg t rGLB_FAULT_TIME = BitVec.ofNat 64 s.now ∧
      (∀ c i, getStrand t c i = (if (getStrand s c i).phase = .idle then getStrand s c i
        else { getStrand s c i with phase := .faulted })) ∧
      (∃ es, t.out = s.out ++ (members s).map (fun p => (⟨.mgmt .jobFault, [p, ep, cause, ownPkg s]⟩ : Out)) ++ es) ∧
      (∃ f, t.fault.recs = [f] ∧ f.cause = cause ∧ f.time = s.now ∧ f.detail = loc.detail) ∧
      t.comp.sram = s.comp.sram ∧ t.padlock = s.padlock ∧ t.cfg = s.cfg ∧ t.pending = s.pending) ∧
    (stopped s = true →
      let t := declareFault s cause loc
      t.comp = s.comp ∧ t.tiers = s.tiers ∧ t.ward = s.ward ∧ t.cfg = s.cfg ∧
      getF t fGLB_FAULT_STAT_EPISODE = getF s fGLB_FAULT_STAT_EPISODE ∧
      (cause ≠ 0x0007 → cause ≠ 0x0100 → getF s fGLB_FAULT_STAT_OWN = 1 → s.fault.graceEnd = false →
        getF t fGLB_FAULT_STAT_OWN = 2 ∧ getF t fGLB_FAULT_CAUSE_CAUSE2 = cause ∧ t.fault.want = some (max 2 (s.fault.want.getD 0))))

/-- The commands of recovery. A newer JOB_FAULT is adopted and stops the package; one that is not newer changes nothing.
The end of the grace abandons the operations in flight and starts the dump that is due; the end of the delivery
window loses what is undelivered; a written dump is PINNED; with all this done recovery is a warm reset in phase
RESETTING; a READY dump slot that the PF releases is empty (18 R616-R629). -/
def Obligations.RecoveryCommands : Prop :=
  ∀ (episode : Fin 4294967296) (pkg : Fin 65536) (slot : Fin 2) (v : Word) (s : State),
    (getF s fGLB_FAULT_STAT_EPISODE < (episode : Nat) → 0 ∉ s.fault.lostGw → stopped s = false →
      ∃ t es, Sys2Proof.Machine.exec (.jobFault episode pkg) s = .next t ∧
        getF t fGLB_FAULT_STAT_EPISODE = episode ∧ getF t fGLB_FAULT_STAT_ORIGIN = pkg ∧
        getF t fGLB_FAULT_STAT_PHASE = 1 ∧ getF t fGLB_FAULT_CAUSE_CAUSE = 0x0100 ∧
        getF t fGLB_FAULT_STAT_OWN = 0 ∧ bitF t fGLB_FAULT_STAT_FAULT_N = true ∧
        t.out = s.out ++ (members s).map (fun p => (⟨.mgmt .jobFault,
          [p, (episode : Nat), 0x0100, ownPkg s]⟩ : Out)) ++ es ∧
        ∀ c i, (getStrand t c i).phase = .idle ∨ (getStrand t c i).phase = .faulted) ∧
    ((episode : Nat) ≤ getF s fGLB_FAULT_STAT_EPISODE → Sys2Proof.Machine.exec (.jobFault episode pkg) s = .next s) ∧
    (stopped s = true → s.fault.graceEnd = false →
      (s.fault.want = none → ∃ t, Sys2Proof.Machine.exec .coreStopGraceExpiry s = .next t ∧
        t.fault = { s.fault with graceEnd := true } ∧ (∀ c, getCore t c = { getCore s c with ops := [] }) ∧
        t.regs = s.regs) ∧
      (∀ own n, s.fault.want = some own → chooseSlot s = some n → n < 2 →
        ∃ t, Sys2Proof.Machine.exec .coreStopGraceExpiry s = .next t ∧ t.fault.graceEnd = true ∧
          t.fault.want = none ∧ dumpState t n = 1 ∧ t.fault.dumping = s.fault.dumping ++ [(n, own)] ∧
          (∀ c, getCore t c = { getCore s c with ops := [] }))) ∧
    (stopped s = true → s.fault.windowEnd = false →
      ∃ t, Sys2Proof.Machine.exec .deliveryWindowExpiry s = .next t ∧ t.fault = { s.fault with windowEnd := true } ∧
        (∀ p ∈ t.ward.deliv, p.2.failed = true) ∧
        t = { s with fault := t.fault, ward := { s.ward with deliv := t.ward.deliv } }) ∧
    (∀ own x bad, tabFind s.fault.dumping slot = some own → own ≠ 2 → tabFind s.fault.slots slot = some x →
      ∃ t, Sys2Proof.Machine.exec (.dumpComplete slot bad) s = .next t ∧ dumpState t slot = 2 ∧
        tabFind t.fault.dumping slot = none ∧ t.comp = s.comp ∧ t.ward = s.ward) ∧
    (getF s fGLB_FAULT_STAT_PHASE = 2 → s.fault.dumped = true → s.fault.windowEnd = true → s.fault.graceEnd = true →
      s.cfg.active.isSome = true → getF s fCFG_STAT_STAGE ≠ 0xF →
      ∃ t, Sys2Proof.Machine.exec .recoveryWarmReset s = .next t ∧ t = warmReset s ∧
        getF t fGLB_FAULT_STAT_PHASE = 3) ∧
    (natBits v.toNat 0 1 = 1 → natBits v.toNat 1 1 = 0 → dumpState s 0 = 3 →
      ∃ t, Sys2Proof.Machine.exec (.dumpRelease 0 v) s = .next t ∧ dumpState t 0 = 0 ∧
        dumpState t 1 = dumpState s 1 ∧ tabFind t.fault.slots 0 = none ∧
        getF t fGLB_DUMP_CTL_KEEP0 = natBits v.toNat 2 1 ∧ getF t fGLB_DUMP_CTL_KEEP1 = natBits v.toNat 3 1 ∧
        t = { s with fault := { s.fault with slots := t.fault.slots }, regs := t.regs })

/-- Host queues. A write of a queue's configuration moves its ring sizes only while the queue is not ACTIVE, and
enabling a queue that owes nothing resets it; one that owes completions is reset when none is owed. A doorbell that
is no whole 64-bit write, one to a disabled queue and an index out of range are each recorded and discarded, the
last stopping its queue; a good one moves its index. A fetch takes the descriptor at the head while F + U < N - 1,
and a failed fetch stops the queue (15 R513-R521). -/
def Obligations.HostQueues : Prop :=
  ∀ (fn q : Fin 64) (w : Word) (s : State),
    let h := getHQ s fn q
    let v := w.toNat
    let i := v % 4096
    let n := ringSize (getF s (fGLB_Q_CFG_CQ_LOG fn q))
    let on : Prop := getF s (fGLB_Q_CFG_EN fn q) = 1
    let kept (t : State) (h' : HostQueue) : Prop :=
      getHQ t fn q = h' ∧ t = { s with host := { s.host with queues := t.host.queues } } ∧
      ∀ k, k ≠ 64 * (fn : Nat) + q → tabGet HostQueue.reset t.host.queues k = tabGet HostQueue.reset s.host.queues k
    let noted (t : State) (f : Field) : Prop :=
      bitF t f = true ∧ t = { s with regs := t.regs } ∧ ∀ r, r ≠ rGLB_HOST_ERR fn → getReg t r = getReg s r
    let size (f : Field) (lo : Nat) : Nat := if natBits v lo 4 ≤ 8 then natBits v lo 4 else getF s f
    (∃ t, Sys2Proof.Machine.exec (.queueCfgWrite fn q w) s = .next t ∧
      getF t (fGLB_Q_CFG_EN fn q) = natBits v 8 1 ∧ getF t (fGLB_Q_CFG_IEN fn q) = natBits v 9 1 ∧
      (on ∨ h.owed ≠ 0 →
        getF t (fGLB_Q_CFG_SQ_LOG fn q) = getF s (fGLB_Q_CFG_SQ_LOG fn q) ∧
        getF t (fGLB_Q_CFG_CQ_LOG fn q) = getF s (fGLB_Q_CFG_CQ_LOG fn q) ∧
        (size (fGLB_Q_CFG_SQ_LOG fn q) 0 ≠ getF s (fGLB_Q_CFG_SQ_LOG fn q) → bitF t (fGLB_HOST_ERR_CFG_BUSY fn) = true)) ∧
      (¬ on → h.owed = 0 →
        getF t (fGLB_Q_CFG_SQ_LOG fn q) = size (fGLB_Q_CFG_SQ_LOG fn q) 0 ∧
        getF t (fGLB_Q_CFG_CQ_LOG fn q) = size (fGLB_Q_CFG_CQ_LOG fn q) 4 ∧
        (natBits v 8 1 = 1 → getHQ t fn q = HostQueue.reset)) ∧
      (¬ on → h.owed ≠ 0 → natBits v 8 1 = 1 → getHQ t fn q = { h with resetAt := true }) ∧
      (on → natBits v 8 1 = 1 → getHQ t fn q = h) ∧
      t = { s with regs := t.regs, host := { s.host with queues := t.host.queues } } ∧
      ∀ r, r ≠ rGLB_Q_CFG fn q → r ≠ rGLB_HOST_ERR fn → getReg t r = getReg s r) ∧
    (h.resetAt = true → h.owed = 0 →
      ∃ t, Sys2Proof.Machine.exec (.queueDeferredReset fn q) s = .next t ∧ kept t HostQueue.reset) ∧
    (∃ t, Sys2Proof.Machine.exec (.eqCfgWrite fn w) s = .next t ∧
      getF t (fGLB_EQ_CFG_EN fn) = natBits v 4 1 ∧ getF t (fGLB_EQ_CFG_IEN fn) = natBits v 5 1 ∧
      (getF s (fGLB_EQ_CFG_EN fn) = 0 → natBits v 4 1 = 1 → getRing t fn = ⟨0, 0, true⟩) ∧
      (getF s (fGLB_EQ_CFG_EN fn) = 1 → getRing t fn = getRing s fn) ∧
      t = { s with regs := t.regs, host := { s.host with events := t.host.events } } ∧
      ∀ r, r ≠ rGLB_EQ_CFG fn → getReg t r = getReg s r) ∧
    (∃ t, Sys2Proof.Machine.exec (.hreqCfgWrite 0 w) s = .next t ∧ getF t (fGLB_HREQ_CFG_EN 0) = natBits v 4 1 ∧
      getF t (fGLB_HREQ_CFG_LOG 0) = size (fGLB_HREQ_CFG_LOG 0) 0 ∧
      (getF s (fGLB_HREQ_CFG_EN 0) = 0 → natBits v 4 1 = 1 → t.host.hreq = ⟨0, 0, true⟩) ∧
      t = { s with regs := t.regs, host := { s.host with hreq := t.host.hreq } } ∧
      ∀ r, r ≠ rGLB_HREQ_CFG 0 → getReg t r = getReg s r) ∧
    (∀ d : Instr, d ∈ [.sqTailDoorbell fn q w false, .cqHeadDoorbell fn q w false, .eqHeadDoorbell fn w false] →
      ∃ t, Sys2Proof.Machine.exec d s = .next t ∧ noted t (fGLB_HOST_ERR_DB_WIDTH fn)) ∧
    (¬ on ∨ h.resetAt = true → ∀ d : Instr, d ∈ [.sqTailDoorbell fn q w true, .cqHeadDoorbell fn q w true] →
      ∃ t, Sys2Proof.Machine.exec d s = .next t ∧ noted t (fGLB_HOST_ERR_DB_DISABLED fn) ∧
        getF t (fGLB_HOST_ERR_LAST_Q fn) = q) ∧
    (on → h.resetAt = false →
      (i < ringSize (getF s (fGLB_Q_CFG_SQ_LOG fn q)) →
        ∃ t, Sys2Proof.Machine.exec (.sqTailDoorbell fn q w true) s = .next t ∧ kept t { h with tail := i }) ∧
      (ringSize (getF s (fGLB_Q_CFG_SQ_LOG fn q)) ≤ i →
        ∃ t, Sys2Proof.Machine.exec (.sqTailDoorbell fn q w true) s = .next t ∧
          getHQ t fn q = { h with stopped := true } ∧ bitF t (fGLB_HOST_ERR_DB_RANGE fn) = true ∧
          getF t (fGLB_HOST_ERR_LAST_Q fn) = q) ∧
      (i < n → ∃ t, Sys2Proof.Machine.exec (.cqHeadDoorbell fn q w true) s = .next t ∧
        kept t { h with cqHead := i, unread := (h.cqTail + n - i) % n })) ∧
    (getF s (fGLB_EQ_CFG_EN fn) = 1 → i < ringSize (getF s (fGLB_EQ_CFG_LOG fn)) →
      ∃ t, Sys2Proof.Machine.exec (.eqHeadDoorbell fn w true) s = .next t ∧
        getRing t fn = { getRing s fn with head := i } ∧
        t = { s with host := { s.host with events := t.host.events } }) ∧
    (getF s fCFG_STAT_STOPPING = 1 → ∀ d, Sys2Proof.Machine.exec (.descriptorFetch fn q d) s = .next s) ∧
    (on → h.resetAt = false → h.stopped = false → h.head ≠ h.tail → stopped s = false → getF s fCFG_STAT_STOPPING = 0 →
      h.owed + h.unread + 1 < n →
      (∀ d : BitVec 512, 1 ≤ d.toNat % 256 → d.toNat % 256 ≤ 4 →
        ∃ t, Sys2Proof.Machine.exec (.descriptorFetch fn q (some d)) s = .next t ∧
          getHQ t fn q = { h with
            head := (h.head + 1) % ringSize (getF s (fGLB_Q_CFG_SQ_LOG fn q))
            subseq := (h.subseq + 1) % 2 ^ 32
            owed := h.owed + 1 } ∧
          t.out = s.out ++ [⟨.hostRead, [fn, getF s (fGLB_SQ_BASE_ADDR fn q) * 4096 + 64 * h.head, 64]⟩] ∧
          t = { s with host := { s.host with queues := t.host.queues }, out := t.out, tel := t.tel }) ∧
      (∃ t, Sys2Proof.Machine.exec (.descriptorFetch fn q none) s = .next t ∧
        getHQ t fn q = { h with stopped := true } ∧ bitF t (fGLB_HOST_ERR_FETCH_FAIL fn) = true ∧
        getF t (fGLB_HOST_ERR_LAST_Q fn) = q))

/-- The endpoint beside its queues. An MSI-X message covers everything its vector has pending; a function reset leaves
no queue of its function enabled, and a reset of the PF none at all; PERST# takes the link and BAR2's base too, and
its end trains the link once stage RAILS has ended, when configuration requests are answered; BAR2 reaches
HOST_VISIBLE carve-outs and refuses everything else, reading as zero (15 R512, R520, R526, 16 R561, R564, 22 R704). -/
def Obligations.EndpointEvents : Prop :=
  ∀ (fn : Fin 64) (vec : Fin 66) (off : Fin 68719476736) (len : Nat) (bs : List Byte) (s : State),
    let a := getF s (fGLB_BAR2_BASE_BASE 0) * 2 ^ 30 + (off : Nat)
    ((fn : Nat) * 128 + vec ∈ s.host.msixPend →
      ∃ t, Sys2Proof.Machine.exec (.msixMessage fn vec) s = .next t ∧ t.out = s.out ++ [⟨.msix, [fn, vec]⟩] ∧
        (fn : Nat) * 128 + vec ∉ t.host.msixPend ∧
        t = { s with out := t.out, host := { s.host with msixPend := t.host.msixPend } }) ∧
    (∃ t, Sys2Proof.Machine.exec (.functionLevelReset fn) s = .next t ∧
      (∀ q, q < 64 → getF t (fGLB_Q_CFG_EN fn q) = 0) ∧ getF t (fGLB_EQ_CFG_EN fn) = 0 ∧
      (∀ r ∈ t.ward.reads, fromFn fn r.origin = false) ∧
      (∀ x ∈ t.ward.owed, fromFn fn x.origin = true → x.lost = true) ∧ t.comp = s.comp ∧ t.fab.routes = s.fab.routes) ∧
    (∃ t, Sys2Proof.Machine.exec .perst s = .next t ∧ t.host.linkUp = false ∧ t.host.perst = true ∧
      getF t (fGLB_BAR2_BASE_BASE 0) = 0 ∧
      (∀ f q, f < 64 → q < 64 → getF t (fGLB_Q_CFG_EN f q) = 0) ∧ t.comp = s.comp) ∧
    (∃ t, Sys2Proof.Machine.exec .perstDeassertion s = .next t ∧
      t = { s with host := { s.host with perst := false, linkUp := railsEnded s } }) ∧
    (∃ t, Sys2Proof.Machine.exec (.configurationRequest fn) s = .next t ∧
      t = { s with out := s.out ++ [⟨.pcie, [fn, if railsEnded s then 1 else 0]⟩] }) ∧
    (hostVisible s a len = true →
      ∃ t, Sys2Proof.Machine.exec (.bar2Access off len none) s = .next t ∧
        t = { s with out := s.out ++ [⟨.readData, [hbmLoad s a len]⟩] }) ∧
    (hostVisible s a len = false →
      ∃ t, Sys2Proof.Machine.exec (.bar2Access off len none) s = .next t ∧
        bitF t (fGLB_HOST_ERR_BAR2_REFUSED 0) = true ∧ t.out = s.out ++ [⟨.readData, [0]⟩] ∧
        t = { s with regs := t.regs, out := t.out }) ∧
    (hostVisible s a bs.length = true → Memory.wf s.tiers.hbm = true →
      ∃ t, Sys2Proof.Machine.exec (.bar2Access off 0 (some bs)) s = .next t ∧
        (∀ i, i < bs.length → hbmLoad t (a + i) 1 = (bs.getD i 0#8).toNat) ∧
        (∀ b, b < a ∨ a + bs.length ≤ b → memGet t.tiers.hbm b = memGet s.tiers.hbm b)) ∧
    (hostVisible s a bs.length = false →
      ∃ t, Sys2Proof.Machine.exec (.bar2Access off 0 (some bs)) s = .next t ∧
        bitF t (fGLB_HOST_ERR_BAR2_REFUSED 0) = true ∧ t = { s with regs := t.regs })

/-- RoCEv2 queue pairs. A write under a wrong key or past the window is refused with a remote-access NAK; a whole
descriptor slot is one descriptor while there is room and no STOP is applied, a partial one is discarded; a marked packet is answered with
one notification per 50 us. A timed-out or NAKed packet is sent again up to 7 times, and then, or on a NAK of
another kind, the queue pair enters ERROR, which only a reset by the PF leaves, with both PSNs at 0. A notification
halves the rate, 55 us without one raise it by 5 %. A port whose Gateway die is lost takes nothing (15 R528-R534, 01 R46). -/
def Obligations.RocePairs : Prop :=
  ∀ (i : Fin 16384) (key : Fin 4294967296) (addr : Fin 18446744073709551616) (data : List Byte) (psn : Fin 16777216)
    (port : Fin 4) (w : Word) (marked access : Bool) (s : State),
    let p := getQP s i
    let e := qpEntry s i
    let sent (kind n : Nat) : Out := ⟨.roce, [i, kind, n]⟩
    let only (t : State) (p' : QPair) : Prop :=
      getQP t i = p' ∧ (∀ j, j ≠ (i : Nat) → getQP t j = getQP s j) ∧
      t = { s with host := { s.host with qps := t.host.qps }, out := t.out, tel := t.tel }
    let failed (t : State) : Prop :=
      (getQP t i).err = true ∧ bitF t fETH_ERR_QP_ERROR = true ∧ getF t fETH_ERR_LAST_QP = i
    (qpValid s i = true → p.err = false →
      (natBits e 192 32 ≠ (key : Nat) ∨ 0x4040 < (addr : Nat) + data.length →
        (∃ t, Sys2Proof.Machine.exec (.ingressWrite i key addr data false) s = .next t ∧
          t = { s with out := s.out ++ [sent 2 p.recvPsn] }) ∧
        (p.lastCnp = none ∨ (∃ u, p.lastCnp = some u ∧ u + 50000 ≤ s.now) →
          ∃ t, Sys2Proof.Machine.exec (.ingressWrite i key addr data true) s = .next t ∧
            t.out = s.out ++ [sent 3 0, sent 2 p.recvPsn] ∧ only t { p with lastCnp := some s.now }) ∧
        (∀ u, p.lastCnp = some u → s.now < u + 50000 →
          ∃ t, Sys2Proof.Machine.exec (.ingressWrite i key addr data true) s = .next t ∧
            t = { s with out := s.out ++ [sent 2 p.recvPsn] })) ∧
      (natBits e 192 32 = (key : Nat) → ∀ k, k < 256 → (addr : Nat) = 64 * k →
        (data.length = 64 → 1 ≤ leNat data % 256 → leNat data % 256 ≤ 4 → stopped s = false →
          getF s fCFG_STAT_STOPPING = 0 → p.owed + qpUnread s i + 1 < ringSize (natBits e 320 4) →
          ∃ t, Sys2Proof.Machine.exec (.ingressWrite i key addr data false) s = .next t ∧
            t.out = s.out ++ [sent 0 p.recvPsn] ∧
            only t { p with
              recvPsn := (p.recvPsn + 1) % 2 ^ 24
              owed := p.owed + 1
              subseq := (p.subseq + 1) % 2 ^ 32 }) ∧
        (data.length = 64 → stopped s = false → getF s fCFG_STAT_STOPPING = 1 →
          ∃ t, Sys2Proof.Machine.exec (.ingressWrite i key addr data false) s = .next t ∧
            t.out = s.out ++ [sent 0 p.recvPsn] ∧ only t { p with recvPsn := (p.recvPsn + 1) % 2 ^ 24 }) ∧
        (0 < data.length → data.length < 64 →
          ∃ t, Sys2Proof.Machine.exec (.ingressWrite i key addr data false) s = .next t ∧
            t.out = s.out ++ [sent 0 p.recvPsn] ∧ getQP t i = { p with recvPsn := (p.recvPsn + 1) % 2 ^ 24 } ∧
            bitF t fETH_ERR_INGRESS_PARTIAL = true ∧ getF t fETH_ERR_LAST_QP = i ∧
            t = { s with host := { s.host with qps := t.host.qps }, out := t.out, regs := t.regs })) ∧
      (natBits e 192 32 = (key : Nat) → (addr : Nat) = 0x4008 → data.length = 8 →
        ∃ t, Sys2Proof.Machine.exec (.ingressWrite i key addr data false) s = .next t ∧
          t.out = s.out ++ [sent 0 p.recvPsn] ∧
          only t { p with recvPsn := (p.recvPsn + 1) % 2 ^ 24, cqHead := leNat data % 4096 }) ∧
      (∃ t, Sys2Proof.Machine.exec (.roceOtherOpcode i access) s = .next t ∧
        t = { s with out := s.out ++ [sent (if access then 2 else 1) p.recvPsn] }) ∧
      (let n := if p.ackPsn = psn then p.retries else 0
       ∀ c : Instr, c ∈ [.roceAckTimeout i psn, .roceNak i 0 psn] →
        (n < 7 → ∃ t, Sys2Proof.Machine.exec c s = .next t ∧ t.out = s.out ++ [sent 4 psn] ∧
          only t { p with retries := n + 1, ackPsn := psn }) ∧
        (7 ≤ n → ∃ t, Sys2Proof.Machine.exec c s = .next t ∧ failed t)) ∧
      (∀ kind : Fin 3, kind ≠ 0 → ∃ t, Sys2Proof.Machine.exec (.roceNak i kind psn) s = .next t ∧ failed t)) ∧
    (p.err = true → Sys2Proof.Machine.exec (.ingressWrite i key addr data marked) s = .next s ∧
      Sys2Proof.Machine.exec (.roceAckTimeout i psn) s = .next s) ∧
    (p.err = true → inWarm s = false → w.toNat % 2 ^ 14 = (i : Nat) → natBits w.toNat 14 1 = 1 →
      ∃ t, Sys2Proof.Machine.exec (.qpReset 0 w) s = .next t ∧ t.out = s.out ∧
        only t { p with err := false, sendPsn := 0, recvPsn := 0, ackPsn := 0, retries := 0 }) ∧
    (qpValid s i = true →
      (∃ t, Sys2Proof.Machine.exec (.cnpReceive i) s = .next t ∧ t.out = s.out ∧
        only t { p with rate := max 1000 (min p.rate (qpPortRate s i) / 2) }) ∧
      (∃ t, Sys2Proof.Machine.exec (.roceRateIncrease i) s = .next t ∧ t.out = s.out ∧
        only t { p with rate := min (p.rate + qpPortRate s i / 20) (qpPortRate s i) })) ∧
    (ethLost s port = false → ∃ t, Sys2Proof.Machine.exec (.ethernetFrameDrop port) s = .next t ∧
      t = { s with tel := t.tel } ∧
      tabGet 0 t.tel.counters (0x804 + (port : Nat)) =
        (tabGet 0 s.tel.counters (0x804 + (port : Nat)) + 1) % 2 ^ 64) ∧
    (ethLost s port = true → Sys2Proof.Machine.exec (.ethernetFrameDrop port) s = .next s) ∧
    (ethLost s (qpPort s i) = true → Sys2Proof.Machine.exec (.ingressWrite i key addr data marked) s = .next s)

/-- PTP and the time base. GO hands the frame of LEN bytes over unless one is on its way; with TS its departure is
timestamped. A received frame is timestamped into a queue of 16, and dropped beyond. An accepted edge of SYNC_IN
loads the counter where ARM is set, is corrected where the error is at most 100 ns and is reported where it is more;
an edge that is not accepted is ignored; a second without one counts as missed. A lost reference clock is a fault of
the package; a port whose Gateway die is lost takes no frame (15 R535-R540, 21 R682, 01 R46). -/
def Obligations.PtpAndTime : Prop :=
  ∀ (n : Fin 4) (w : Word) (sub : Bool) (bytes : List Byte) (s : State),
    let v := w.toNat
    let busy : Prop := getF s (fETH_PTP_TXCTL_BUSY n) = 1
    let len := if 14 ≤ v % 512 ∧ v % 512 ≤ 256 then v % 512 else getF s (fETH_PTP_TXCTL_LEN n)
    let buf := tabGet [] s.host.ptpTx n
    let queue := tabGet [] s.host.ptpRx n
    let e := edgeError s.now
    let taken : Prop := s.time.firstEdge = true ∨ (-1000 ≤ e ∧ e ≤ 1000)
    let armed : Prop := getF s fGLB_TIME_NEXT_ARM = 1
    let next := v % 2 ^ 63
    let arm := v / 2 ^ 63
    (inWarm s = false → natBits v 10 1 = 1 →
      (¬ busy → ethLost s n = false → ∃ t, Sys2Proof.Machine.exec (.ptpTxGo 0 n w) s = .next t ∧
        tabGet [] t.host.ptpSend n = (buf ++ List.replicate (256 - buf.length) 0#8).take len ∧
        getF t (fETH_PTP_TXCTL_BUSY n) = 1 ∧ getF t (fETH_PTP_TXCTL_LEN n) = len ∧
        getF t (fETH_PTP_TXCTL_TS n) = natBits v 9 1 ∧
        t = { s with regs := t.regs, host := { s.host with ptpSend := t.host.ptpSend } }) ∧
      (busy → ∃ t, Sys2Proof.Machine.exec (.ptpTxGo 0 n w) s = .next t ∧ t = { s with regs := t.regs } ∧
        getF t (fETH_PTP_TXCTL_BUSY n) = 1)) ∧
    (busy → ethLost s n = false → ∃ t, Sys2Proof.Machine.exec (.ptpTxDone n) s = .next t ∧
      t.out = s.out ++ [⟨.ptp, (n : Nat) :: (tabGet [] s.host.ptpSend n).map BitVec.toNat⟩] ∧
      getF t (fETH_PTP_TXCTL_BUSY n) = 0 ∧
      (getF s (fETH_PTP_TXCTL_TS n) = 1 →
        getF t (fETH_PTP_TXTS_TIME n) = s.now % 2 ^ 64 ∧ getF t (fETH_PTP_TXCTL_DONE n) = 1) ∧
      (getF s (fETH_PTP_TXCTL_TS n) = 0 → getReg t (rETH_PTP_TXTS n) = getReg s (rETH_PTP_TXTS n)) ∧
      t = { s with regs := t.regs, out := t.out, tel := t.tel, host := { s.host with ptpSend := t.host.ptpSend } }) ∧
    (queue.length < 16 → ethLost s n = false → ∃ t, Sys2Proof.Machine.exec (.ptpFrameReceive n sub bytes) s = .next t ∧
      tabGet [] t.host.ptpRx n = queue ++ [⟨bytes, s.now, sub⟩] ∧
      t = { s with tel := t.tel, host := { s.host with ptpRx := t.host.ptpRx } }) ∧
    (16 ≤ queue.length → ethLost s n = false → ∃ t, Sys2Proof.Machine.exec (.ptpFrameReceive n sub bytes) s = .next t ∧
      getF t (fETH_PTP_RXSTAT_DROP n) = 1 ∧ t = { s with regs := t.regs }) ∧
    (ethLost s n = true → Sys2Proof.Machine.exec (.ptpFrameReceive n sub bytes) s = .next s) ∧
    (inWarm s = false → natBits v 14 1 = 1 → ∃ t, Sys2Proof.Machine.exec (.ptpRxPop 0 n w) s = .next t ∧
      tabGet [] t.host.ptpRx n = queue.drop 1 ∧
      t = { s with regs := t.regs, host := { s.host with ptpRx := t.host.ptpRx } }) ∧
    (¬ taken → Sys2Proof.Machine.exec .syncInEdge s = .next s) ∧
    (taken → armed → ∃ t, Sys2Proof.Machine.exec .syncInEdge s = .next t ∧ getF t fGLB_TIME_NEXT_ARM = 0 ∧
      (getF s fGLB_TIME_NEXT_VALUE % 2 = 0 → t.now = getF s fGLB_TIME_NEXT_VALUE) ∧ t.time.slew = 0 ∧
      t = { s with regs := t.regs, time := t.time } ∧ ∀ r, r ≠ rGLB_TIME_NEXT → getReg t r = getReg s r) ∧
    (taken → ¬ armed → ∃ t, Sys2Proof.Machine.exec .syncInEdge s = .next t ∧ t.time.ticks = s.time.ticks ∧
      getF t fGLB_TIME_STAT_ERR_NS = (e % 2 ^ 32).toNat ∧
      (-100 ≤ e ∧ e ≤ 100 → t.time.slew = e ∧ t.time.slewPos = 0 ∧ getF t fGLB_TIME_STAT_LOCKED = 1) ∧
      (e < -100 ∨ 100 < e → t.time.slew = s.time.slew ∧ getF t fGLB_TIME_STAT_SYNC_LOST = 1 ∧
        getF t fGLB_TIME_STAT_LOCKED = 0) ∧
      t = { s with regs := t.regs, time := t.time } ∧ ∀ r, r ≠ rGLB_TIME_STAT → getReg t r = getReg s r) ∧
    (∃ t, Sys2Proof.Machine.exec .syncMissed s = .next t ∧ t.time = { s.time with seenEdge := false } ∧
      getF t fGLB_TIME_STAT_MISSED =
        (if s.time.seenEdge then getF s fGLB_TIME_STAT_MISSED else min (getF s fGLB_TIME_STAT_MISSED + 1) 65535) ∧
      t = { s with regs := t.regs, time := t.time }) ∧
    (next % 1000000000 ≠ 0 ∨ (arm = 1 ∧ getF s fGLB_TIME_STAT_SERVING = 1) →
      Sys2Proof.Machine.exec (.timeArm 0 w) s = .next s) ∧
    (next % 1000000000 = 0 → arm = 1 → getF s fGLB_TIME_STAT_SERVING = 0 →
      ∃ t, Sys2Proof.Machine.exec (.timeArm 0 w) s = .next t ∧ getF t fGLB_TIME_NEXT_VALUE = next ∧
        getF t fGLB_TIME_NEXT_ARM = 1 ∧ t.time = { s.time with firstEdge := true } ∧
        t = { s with regs := t.regs, time := t.time } ∧ ∀ r, r ≠ rGLB_TIME_NEXT → getReg t r = getReg s r) ∧
    (s.time.refclk = true → ∃ t u, Sys2Proof.Machine.exec .refclkLoss s = .next t ∧
      t = declareFault u 0x000C ⟨16, 0, 0, 0, 0⟩ ∧ getF u fGLB_TIME_STAT_REF_LOST = 1 ∧
      u = { s with regs := u.regs, time := { s.time with refclk := false } }) ∧
    (∃ t, Sys2Proof.Machine.exec .refclkRestored s = .next t ∧ t = { s with time := { s.time with refclk := true } }) ∧
    (∃ t, Sys2Proof.Machine.exec .mirrorRefresh s = .next t ∧ t = { s with power := { s.power with mirror := t.power.mirror } } ∧
      ∀ r, r ∈ [rPTC_INPUT, rPTC_TEMP] → tabFind t.power.mirror r = some (getReg s r))

/-- The Padlock island. A command of the PF joins its queue while it is not BUSY, and is discarded otherwise or from a
VF; one operation runs at a time and ends with its STATUS. PROGRAM fuses a slot's digest in PROVISION, REVOKE leaves
another usable slot, LOCK and ADVANCE_SVN need their state, RETIRE its key; a transition begins with every key
destroyed, and its end leaves HBM zero (19 R631, R634-R639, R643-R646). -/
def Obligations.PadlockCommands : Prop :=
  ∀ (fn : Fin 64) (slot : Fin 4) (key : Fin 65536) (bs : List Byte) (data : Option (List Byte)) (s : State),
    let busy : Prop := getF s fPDL_STAT_BUSY = 1
    let cmds : List (Instr × PdlOp) := [
      (.program fn slot, ⟨1, slot, 0, 0, []⟩), (.revoke fn slot, ⟨2, slot, 0, 0, []⟩), (.lock fn, ⟨3, 0, 0, 0, []⟩),
      (.advanceSvn fn, ⟨4, 0, 0, 0, []⟩), (.retire fn key, ⟨5, 0, key, 0, []⟩), (.nonce fn, ⟨6, 0, 0, 0, []⟩),
      (.openDebug fn, ⟨7, 0, 0, 0, []⟩), (.closeDebug fn, ⟨8, 0, 0, 0, []⟩)]
    let fetch (op : Nat) : List Out :=
      if op = 1 then [⟨.hostRead, [0, getF s fPDL_CMD_ADDR_ADDR * 8, 2689]⟩]
      else if op = 7 then [⟨.hostRead, [0, getF s fPDL_CMD_ADDR_ADDR * 8, 4800]⟩] else []
    let runs (op : Nat) : Prop := s.padlock.queue = [⟨op, slot, key, 0, []⟩]
    let ends (t : State) (st : Nat) : Prop :=
      getF t fPDL_STAT_STATUS = st ∧ getF t fPDL_STAT_DONE = 1 ∧ getF t fPDL_STAT_BUSY = 0 ∧ t.padlock.queue = [] ∧
      t = { s with padlock := t.padlock, regs := t.regs } ∧ ∀ r, r ≠ rPDL_STAT → getReg t r = getReg s r
    let usable (m : Nat) : Prop := slotUsable s m = true
    let fused (b : Nat) : List Nat := List.replicate 3 (voteList s.padlock.fused ||| 2 ^ b)
    let waits (p : Padlock) : Padlock := { p with queue := [] }
    (∀ c ∈ cmds,
      ((fn : Nat) = 0 → ¬ busy → ∃ t, Sys2Proof.Machine.exec c.1 s = .next t ∧
        t.padlock = { s.padlock with queue := s.padlock.queue ++ [c.2] } ∧ getF t fPDL_STAT_BUSY = 1 ∧
        t = { s with padlock := t.padlock, regs := t.regs, out := s.out ++ fetch c.2.op } ∧
        ∀ r, r ≠ rPDL_STAT → getReg t r = getReg s r) ∧
      ((fn : Nat) = 0 → busy → ∃ t, Sys2Proof.Machine.exec c.1 s = .next t ∧ getF t fPDL_STAT_DISCARDED = 1 ∧
        t = { s with regs := t.regs } ∧ ∀ r, r ≠ rPDL_STAT → getReg t r = getReg s r) ∧
      ((fn : Nat) ≠ 0 → ∃ t, Sys2Proof.Machine.exec c.1 s = .next t ∧ getF t fPDL_STAT_DISCARDED = 1 ∧
        bitF t fGLB_ERR_VF_ACCESS = true ∧ t = { s with regs := t.regs })) ∧
    (runs 1 → lifeCode s = 0x5A5A → slotProg s slot = false → bs.length = 2689 →
      ∃ t, Sys2Proof.Machine.exec (.padlockCommandComplete (some bs)) s = .next t ∧ ends t 0 ∧
        tabFind t.padlock.pairs slot = some bs ∧ tabFind t.padlock.digests slot = some (Config.sha384 bs) ∧
        t.padlock.fused = fused (2 * (slot : Nat)) ∧
        t.padlock = waits { s.padlock with
          pairs := t.padlock.pairs, digests := t.padlock.digests, fused := t.padlock.fused }) ∧
    (runs 1 → lifeCode s ≠ 0x5A5A →
      ∃ t, Sys2Proof.Machine.exec (.padlockCommandComplete data) s = .next t ∧ ends t 1 ∧ t.padlock = waits s.padlock) ∧
    (runs 2 → lifeCode s ≠ 0x6996 → (∃ m, m ≠ (slot : Nat) ∧ usable m) →
      ∃ t, Sys2Proof.Machine.exec (.padlockCommandComplete data) s = .next t ∧ ends t 0 ∧
        t.padlock = waits { s.padlock with fused := fused (2 * (slot : Nat) + 1) }) ∧
    (runs 2 → (∀ m, usable m → m = (slot : Nat)) →
      ∃ t, Sys2Proof.Machine.exec (.padlockCommandComplete data) s = .next t ∧ ends t 1 ∧ t.padlock = waits s.padlock) ∧
    (runs 3 → lifeCode s = 0x5A5A → (∃ m, usable m) →
      ∃ t, Sys2Proof.Machine.exec (.padlockCommandComplete data) s = .next t ∧ ends t 0 ∧
        t.padlock = waits { s.padlock with life := List.replicate 3 0xA5A5 }) ∧
    (runs 4 → lifeCode s = 0xA5A5 →
      ∃ t, Sys2Proof.Machine.exec (.padlockCommandComplete data) s = .next t ∧ ends t 0 ∧
        t.padlock = waits { s.padlock with
          svn := List.replicate 3 (max (voteList s.padlock.svn) s.padlock.running) }) ∧
    (runs 5 → lifeCode s ≠ 0xA5A5 ∨ (key : Nat) ≠ 0x5A3C →
      ∃ t, Sys2Proof.Machine.exec (.padlockCommandComplete data) s = .next t ∧ ends t 1 ∧ t.padlock = waits s.padlock) ∧
    (runs 5 → lifeCode s = 0xA5A5 → (key : Nat) = 0x5A3C → serving s = false →
      ∃ t, Sys2Proof.Machine.exec (.padlockCommandComplete data) s = .next t ∧ lifeCode t = 0x6996 ∧
        debugCode t = 0x33CC ∧ cfgStage t = 1 ∧ t.padlock.flashKeys = [] ∧ t.padlock.derived = none ∧
        t.bezel.domains = [] ∧ t.padlock.nonce = none) ∧
    (runs 6 → ∃ t, Sys2Proof.Machine.exec (.padlockCommandComplete data) s = .next t ∧ ends t 0 ∧
      t.padlock = waits { s.padlock with nonce := some s.padlock.draws, draws := s.padlock.draws + 1 }) ∧
    (runs 7 → debugCode s = 0x0F0F → serving s = true →
      ∃ t, Sys2Proof.Machine.exec (.padlockCommandComplete data) s = .next t ∧ ends t 2 ∧ t.padlock = waits s.padlock) ∧
    (runs 8 → debugCode s ≠ 0xF0F0 →
      ∃ t, Sys2Proof.Machine.exec (.padlockCommandComplete data) s = .next t ∧ ends t 1 ∧ t.padlock = waits s.padlock) ∧
    (runs 8 → debugCode s = 0xF0F0 → lifeCode s ≠ 0x6996 → serving s = false →
      ∃ t, Sys2Proof.Machine.exec (.padlockCommandComplete data) s = .next t ∧ debugCode t = 0xCC33 ∧
        cfgStage t = 1 ∧ t.padlock.flashKeys = [] ∧ t.bezel.domains = []) ∧
    (∃ t, Sys2Proof.Machine.exec .nonceExpiry s = .next t ∧
      t = { s with padlock := { s.padlock with nonce := none } }) ∧
    (inTransition s = true → cfgStage s = 3 → s.cfg.trained = true →
      ∃ t, Sys2Proof.Machine.exec .debugTransitionComplete s = .next t ∧ t.tiers.hbm = [] ∧ cfgStage t = 4 ∧
        debugCode t = (if debugCode s = 0x33CC then 0xF0F0 else 0x0F0F) ∧ t.comp = s.comp) ∧
    (inTransition s = false → Sys2Proof.Machine.exec .debugTransitionComplete s = .next s)

/-- The test port and attestation. IDCODE, BYPASS, DBG_STAT and the nonce of DBG_NONCE are shifted out; the debug
instructions put their operation into the island's queue; EXTEST, INTSCAN and INTEST act as BYPASS unless debug
allows them. The endpoint answers the SPDM requests with the chain of slot 0, a fresh nonce where it signs, and the
measurements in order, and an unsupported request with an error; before stage IO_TRAIN it answers nothing (19
R640-R642, R648). -/
def Obligations.TestPortAndAttestation : Prop :=
  ∀ (v : Nat) (token : BitVec 38400) (slot : Fin 16) (off len : Fin 65536) (nonce : BitVec 256) (index code : Fin 256)
    (p384 sha384 signed : Bool) (s : State),
    let shifts (t : State) (ir dr : Nat) : Prop :=
      t.padlock.jtagIr = ir ∧ t.padlock.jtagDr = dr ∧ t.out = s.out ++ [⟨.jtag, [ir, dr]⟩]
    let quiet (t : State) : Prop :=
      t.padlock = { s.padlock with jtagIr := t.padlock.jtagIr, jtagDr := t.padlock.jtagDr } ∧
      t = { s with padlock := t.padlock, out := t.out, fresh := t.fresh }
    let answers (t : State) (l : List Nat) : Prop :=
      t.out = s.out ++ [⟨.i3c, 5 :: l⟩] ∧ t = { s with out := t.out, tel := t.tel }
    let signs (t : State) (l : List Nat) : Prop :=
      t.out = s.out ++ [⟨.i3c, 5 :: l⟩] ∧
      t = { s with out := t.out, tel := t.tel, padlock := { s.padlock with draws := s.padlock.draws + 1 } }
    let rnd := Config.randomBits s.padlock.draws % 2 ^ 256
    let chain := Config.sha384 (chainBytes s)
    let values : List Nat :=
      if (index : Nat) = 0 then [5]
      else if (index : Nat) = 255 then [1, 2, 3, 4, 5].map (measurement s) else [measurement s index]
    (∃ t, Sys2Proof.Machine.exec .jtagIdcode s = .next t ∧ shifts t 0x01 0x19600ABD ∧ quiet t) ∧
    (∃ t, Sys2Proof.Machine.exec .jtagBypass s = .next t ∧ shifts t 0xFF 0 ∧ quiet t) ∧
    (∃ t, Sys2Proof.Machine.exec .jtagDbgStat s = .next t ∧
      t.padlock.jtagDr % 2 ^ 16 = voteList s.padlock.debug % 2 ^ 16 ∧ t.out = s.out ++ [⟨.jtag, [0x10, t.padlock.jtagDr]⟩] ∧
      t = { s with padlock := t.padlock, out := t.out, regs := t.regs }) ∧
    (s.padlock.queue = [] → ∃ t, Sys2Proof.Machine.exec .jtagDbgNonce s = .next t ∧ shifts t 0x11 rnd ∧
      t.padlock.nonce = some s.padlock.draws ∧ t.padlock.draws = s.padlock.draws + 1 ∧ t.padlock.queue = []) ∧
    (∃ t, Sys2Proof.Machine.exec (.jtagDbgToken token) s = .next t ∧ shifts t 0x12 0 ∧
      t.padlock.queue = s.padlock.queue ++ [⟨7, 0, 0, 1, leBytes 4800 token.toNat⟩] ∧
      t = { s with padlock := t.padlock, out := t.out }) ∧
    (∃ t, Sys2Proof.Machine.exec .jtagDbgClose s = .next t ∧ shifts t 0x13 0 ∧
      t.padlock.queue = s.padlock.queue ++ [⟨8, 0, 0, 1, []⟩] ∧ t = { s with padlock := t.padlock, out := t.out }) ∧
    (∃ t, Sys2Proof.Machine.exec (.jtagSamplePreload v) s = .next t ∧ t.padlock.boundary = v ∧
      t.padlock.jtagIr = 0x02 ∧ t = { s with padlock := t.padlock, out := t.out, fresh := t.fresh }) ∧
    (extestOk s = true → ∃ t, Sys2Proof.Machine.exec (.jtagExtest v) s = .next t ∧ t.padlock.boundary = v ∧
      t.padlock.jtagIr = 0x00 ∧ t = { s with padlock := t.padlock, out := t.out, fresh := t.fresh }) ∧
    (extestOk s = false → ∃ t, Sys2Proof.Machine.exec (.jtagExtest v) s = .next t ∧ shifts t 0x00 0 ∧ quiet t) ∧
    (∀ c ∈ [(Instr.jtagIntscan, 0x20), (Instr.jtagIntest, 0x21)],
      (debugOpen s = true → ∃ t, Sys2Proof.Machine.exec c.1 s = .next t ∧ t.padlock.jtagIr = c.2 ∧ quiet t ∧
        t.fresh = s.fresh + 1) ∧
      (debugOpen s = false → ∃ t, Sys2Proof.Machine.exec c.1 s = .next t ∧ shifts t c.2 0 ∧ quiet t ∧
        t.fresh = s.fresh)) ∧
    (endpointUp s = true →
      (∃ t, Sys2Proof.Machine.exec .getVersion s = .next t ∧ answers t [0x04, 0x12, 0x13]) ∧
      (∃ t, Sys2Proof.Machine.exec .getCapabilities s = .next t ∧ answers t [0x61, 0x16]) ∧
      (∃ t, Sys2Proof.Machine.exec (.negotiateAlgorithms p384 sha384) s = .next t ∧
        answers t [0x63, if p384 then 1 else 0, if sha384 then 1 else 0]) ∧
      (∃ t, Sys2Proof.Machine.exec .getDigests s = .next t ∧ answers t [0x01, 0, chain]) ∧
      (∃ t, Sys2Proof.Machine.exec (.getCertificate 0 off len) s = .next t ∧
        answers t (0x02 :: (((chainBytes s).drop off).take len).map BitVec.toNat)) ∧
      (∃ t, Sys2Proof.Machine.exec (.challenge 0 nonce) s = .next t ∧
        signs t [0x03, chain, rnd, aliasSign s (leBytes 32 nonce.toNat ++ leBytes 48 chain ++ leBytes 32 rnd)]) ∧
      (slot ≠ 0 →
        (∃ t, Sys2Proof.Machine.exec (.getCertificate slot off len) s = .next t ∧ answers t [0x7F, 0x01]) ∧
        (∃ t, Sys2Proof.Machine.exec (.challenge slot nonce) s = .next t ∧ answers t [0x7F, 0x01])) ∧
      ((index : Nat) ≤ 5 ∨ (index : Nat) = 255 →
        (∃ t, Sys2Proof.Machine.exec (.getMeasurements index false nonce) s = .next t ∧ answers t (0x60 :: values)) ∧
        (∃ t, Sys2Proof.Machine.exec (.getMeasurements index true nonce) s = .next t ∧
          signs t (0x60 :: values ++
            [rnd, aliasSign s (leBytes 32 nonce.toNat ++ values.flatMap (leBytes 48) ++ leBytes 32 rnd)]))) ∧
      (∃ t, Sys2Proof.Machine.exec (.spdmUnsupported code) s = .next t ∧ answers t [0x7F, 0x07, code])) ∧
    (endpointUp s = false →
      ∀ c : Instr, c ∈ [.getVersion, .getCapabilities, .negotiateAlgorithms p384 sha384, .getDigests,
          .getCertificate slot off len, .challenge slot nonce, .getMeasurements index signed nonce,
          .spdmUnsupported code] →
        Sys2Proof.Machine.exec c s = .next s)

/-- BAR0. A write that is not 8-byte aligned, or of another width, is recorded and discarded, and such a read gives
zero; a VF's write to a register of the PF, a write to a block that a warm reset closes and a write to a reserved
offset change no register but the error record; a write to a register with a command of its own is that command; an
RW field takes the value, a W1C bit falls where 1 is written. A /T field reads as the vote of its copies, and an
upset copy is written back and counted (00 R21, R28-R32, 15 R541, 21 R677, R678, R680, R684). -/
def Obligations.RegisterAccess : Prop :=
  ∀ (fn q : Fin 64) (off : Fin 134217728) (w : Word) (x : TripleField) (copy : Fin 3) (flip c lo n : Nat)
    (s : State),
    let o : Nat := off
    let noted (t : State) (f : Field) : Prop :=
      bitF t f = true ∧ t = { s with regs := t.regs } ∧
      (∀ r, r ≠ rGLB_ERR → r ≠ rGLB_ERR_INFO → getReg t r = getReg s r) ∧
      (getF s fGLB_ERR_INFO_VALID = 1 → getReg t rGLB_ERR_INFO = getReg s rGLB_ERR_INFO) ∧
      (getF s fGLB_ERR_INFO_VALID = 0 →
        getF t fGLB_ERR_INFO_VALID = 1 ∧ getF t fGLB_ERR_INFO_OFFSET = o ∧ getF t fGLB_ERR_INFO_FUNCTION = fn)
    let writes (t : State) : Prop := Sys2Proof.Machine.exec (.registerWrite fn off w) s = .next t
    let common : Prop := ¬ (0x8000 ≤ o ∧ o < 0x8840) ∧ 0x28 ≤ o ∧ o ≠ rGLB_TIME ∧ o ≠ rPDL_CMD ∧ o ≠ rPDL_CMD_ADDR
    (o % 8 ≠ 0 → ∃ t, writes t ∧ noted t fGLB_ERR_WIDTH) ∧
    (∃ t, Sys2Proof.Machine.exec (.badWidthAccess fn off true) s = .next t ∧ noted t fGLB_ERR_WIDTH) ∧
    (∃ t, Sys2Proof.Machine.exec (.badWidthAccess fn off false) s = .next t ∧ bitF t fGLB_ERR_WIDTH = true ∧
      t.out = s.out ++ [⟨.readData, [0]⟩] ∧ t = { s with regs := t.regs, out := t.out }) ∧
    (o % 8 = 0 → fn ≠ 0 → common → ∃ t, writes t ∧ noted t fGLB_ERR_VF_ACCESS) ∧
    (o % 8 = 0 → fn = 0 → regSpecOf o ≠ none → inWarm s = true → warmBlock o = true →
      ∃ t, writes t ∧ noted t fGLB_ERR_NOT_READY) ∧
    (o % 8 = 0 → fn = 0 → regSpecOf o = none → writes s) ∧
    (o = 0x8010 + 0x20 * (q : Nat) →
      Sys2Proof.Machine.exec (.registerWrite fn off w) s = Sys2Proof.Machine.exec (.queueCfgWrite fn q w) s) ∧
    (fn = 0 → o = rPTC_CAP →
      Sys2Proof.Machine.exec (.registerWrite fn off w) s = Sys2Proof.Machine.exec (.capWrite 0 w) s) ∧
    (fn = 0 → o = rPDL_CMD_ADDR → ∃ t, writes t ∧ getF t fPDL_CMD_ADDR_ADDR = w.toNat / 8 ∧
      t = { s with regs := t.regs } ∧ ∀ r, r ≠ rPDL_CMD_ADDR → getReg t r = getReg s r) ∧
    (fn = 0 → o = rGLB_ERR → ∃ t, writes t ∧
      (∀ b, b < 5 → natBits (getReg t rGLB_ERR).toNat b 1 =
        (if natBits w.toNat b 1 = 1 then 0 else natBits (getReg s rGLB_ERR).toNat b 1)) ∧
      t = { s with regs := t.regs } ∧ ∀ r, r ≠ rGLB_ERR → getReg t r = getReg s r) ∧
    (∀ l m k, tripleCopies s x = (l, m, k) → l.length = 3 →
      ∃ t v, Sys2Proof.Machine.exec (.tripleFieldRead x copy 0) s = .next t ∧ t.out = s.out ++ [⟨.readData, [v]⟩] ∧
        v < 2 ^ k ∧ (∀ b, b < k → (v.testBit b = true ↔ 2 ≤ l.countP (fun d => d.testBit (m + b)))) ∧
        (∀ d ∈ (tripleCopies t x).1, natBits d m k = v) ∧ (tripleCopies t x).1.length = 3 ∧
        tabGet 0 t.tel.counters 2 = (if ∃ d ∈ l, ∃ e ∈ l, natBits d m k ≠ natBits e m k then
          (tabGet 0 s.tel.counters 2 + 1) % 2 ^ 64 else tabGet 0 s.tel.counters 2) ∧
        t = { s with out := t.out, tel := t.tel, regs := t.regs, padlock := t.padlock, comp := t.comp }) ∧
    (tripleCopies s x = ([c, c, c], lo, n) →
      ∃ t, Sys2Proof.Machine.exec (.tripleFieldRead x copy flip) s = .next t ∧
        t.out = s.out ++ [⟨.readData, [natBits c lo n]⟩] ∧ tripleCopies t x = ([c, c, c], lo, n) ∧
        tabGet 0 t.tel.counters 2 =
          (if flip % 2 ^ n = 0 then tabGet 0 s.tel.counters 2 else (tabGet 0 s.tel.counters 2 + 1) % 2 ^ 64) ∧
        t = { s with out := t.out, tel := t.tel, regs := t.regs, padlock := t.padlock, comp := t.comp })

/-- Snapshots, samples and trace. GO and SNAP latch every counter for their set, and completion moves them there; a
sample is taken of all counters every time. An enabled record is written behind the last while the funnel accepts it
and its time fits, and one that is lost is counted; TIMESYNC carries the time; HOST mode copies what the ring has
room for, and a failed copy ends it; a mark is a record of its own (20 R652-R660). -/
def Obligations.TelemetryAndTrace : Prop :=
  ∀ (type : Fin 256) (src : Fin 4096) (arg : Fin 1048576) (data : Word) (time : Nat) (good : Bool) (s : State),
    let counters := (snapshotCounters s).1
    let telOnly (t : State) : Prop := t = { s with tel := t.tel }
    let snapped (t : State) : Prop := t = { s with tel := t.tel, fresh := t.fresh }
    let grown (t : State) (id : Nat) : Prop :=
      tabGet 0 t.tel.counters id = (tabGet 0 s.tel.counters id + 1) % 2 ^ 64
    let emits : Prop := traceEmits s src type = true ∧ (type : Nat) ≠ 0x01 ∧ (type : Nat) ≠ 0x1F
    let free : Prop := s.tel.trace.length < traceDepth
    let wptr := getF s fTEL_TRACE_STAT_WPTR
    let n := min s.tel.trace.length (traceRing s - (wptr + 2 ^ 32 - getF s fTEL_TRACE_RPTR_RPTR) % 2 ^ 32)
    let copies : Prop := getF s fTEL_TRACE_CTL_MODE = 2 ∧ traceFrozen s = false ∧ n ≠ 0
    let traced (t : State) : Prop := Sys2Proof.Machine.exec (.traceRecord type src arg data time false) s = .next t
    (tabHas s.tel.filling 0 = false →
      ∃ t, Sys2Proof.Machine.exec (.snapGo 0) s = .next t ∧ tabFind t.tel.filling 0 = some counters ∧ grown t 3 ∧
        t.tel.hold = s.tel.hold ∧ snapped t) ∧
    (tabHas s.tel.filling 0 = true →
      ∃ t, Sys2Proof.Machine.exec (.snapGo 0) s = .next t ∧ bitF t fTEL_SNAP_STAT_DISCARDED = true ∧
        t = { s with regs := t.regs }) ∧
    (∀ l, tabFind s.tel.filling 0 = some l →
      ∃ t, Sys2Proof.Machine.exec (.snapshotComplete 0) s = .next t ∧ tabFind t.tel.hold 0 = some l ∧
        tabHas t.tel.filling 0 = false ∧ bitF t fTEL_SNAP_STAT_DONE = true ∧
        getF t fTEL_SNAP_STAT_SEQ = (getF s fTEL_SNAP_STAT_SEQ + 1) % 2 ^ 32 ∧
        t = { s with tel := t.tel, regs := t.regs }) ∧
    (∀ l r, tabFind s.tel.filling 1 = some l → s.tel.snapReq = some r →
      ∃ t, Sys2Proof.Machine.exec (.snapshotComplete 1) s = .next t ∧ tabFind t.tel.hold 1 = some l ∧
        t.tel.snapReq = none ∧ t.tel.seq1 = (s.tel.seq1 + 1) % 2 ^ 32 ∧
        t.out = s.out ++ [⟨.i3c, [1, r, 0x3F, 2, 0, t.tel.seq1]⟩] ∧ t = { s with tel := t.tel, out := t.out }) ∧
    (∃ t, Sys2Proof.Machine.exec (.samplerTick good) s = .next t ∧ tabFind t.tel.hold 2 = some counters ∧
      t.tel.samples = s.tel.samples + 1 ∧ t.tel.history.length ≤ 1024 ∧
      (getF s fTEL_SRING_CFG_EN = 0 → snapped t) ∧
      (getF s fTEL_SRING_CFG_EN = 1 → good = false → bitF t fTEL_SRING_STAT_FAIL = true ∧
        getF t fTEL_SRING_CFG_EN = 0 ∧ t.out = s.out) ∧
      (getF s fTEL_SRING_CFG_EN = 1 → good = true → getF t fTEL_SRING_STAT_SEQ = s.tel.samples % 2 ^ 32 ∧
        t.out.length = s.out.length + 1)) ∧
    (traceEmits s src type = false → traced s) ∧
    (emits → ∃ t, Sys2Proof.Machine.exec (.traceRecord type src arg data time true) s = .next t ∧ grown t 5 ∧
      tabGet 0 t.tel.lossy src = tabGet 0 s.tel.lossy src + 1 ∧ t.tel.trace = s.tel.trace ∧ telOnly t) ∧
    (emits → traceOpen s = false → ∃ t, traced t ∧ grown t 5 ∧ t.tel.trace = s.tel.trace ∧ telOnly t) ∧
    (∀ d, emits → traceOpen s = true → traceDelta s time = some d → free →
      ∃ t, traced t ∧ t.tel.trace = s.tel.trace ++ [traceWord type src d arg data.toNat] ∧ grown t 4 ∧ telOnly t) ∧
    (traceOpen s = true → free →
      ∃ t, Sys2Proof.Machine.exec .timesync s = .next t ∧ t.tel.lastSync = some (s.now / 2 ^ 20 * 2 ^ 20) ∧
        t.tel.trace = s.tel.trace ++ [traceWord 0x01 0xFFF 0 0 (s.now / 2 ^ 20 * 2 ^ 20)] ∧ telOnly t) ∧
    (copies → ∃ t, Sys2Proof.Machine.exec (.traceHostCopy true) s = .next t ∧ t.tel.trace = s.tel.trace.drop n ∧
      getF t fTEL_TRACE_STAT_WPTR = (wptr + n) % 2 ^ 32 ∧ t.out.length = s.out.length + n ∧
      t = { s with tel := t.tel, out := t.out, regs := t.regs }) ∧
    (copies → ∃ t, Sys2Proof.Machine.exec (.traceHostCopy false) s = .next t ∧ t.tel = s.tel ∧
      getF t fTEL_TRACE_CTL_MODE = 0 ∧ bitF t fTEL_TRACE_STAT_HOST_FAIL = true ∧ t = { s with regs := t.regs }) ∧
    ∃ t, Sys2Proof.Machine.exec (.traceMark 0 data) s = .next t ∧
      Sys2Proof.Machine.exec (.traceRecord 0x14 0x233 0 data s.now false) s = .next t

/-- The management endpoint and the console. A control message is answered where it is addressed to the endpoint; a
request whose requester waits for a SNAP is not ready; otherwise sensors are read, the cap is set within its range,
a reset starts, firmware is rewritten only when the first copy proves good, registers, dumps and counters are read.
A byte goes into the 64-byte FIFO; a console line is answered OK or ERR, and rd, wr and trace need debug to be open
(20 R661-R669). -/
def Obligations.ManagementAndConsole : Prop :=
  ∀ (addr : Fin 128) (dest eid type req value : Fin 256) (id watts : Fin 65536) (image : List Byte)
    (off : Fin 134217728) (slot : Fin 2) (offset d : Nat) (len : Fin 1025) (byte : Byte) (w : Word) (s : State),
    let up : Prop := endpointUp s = true
    let hears : Prop := up ∧ ((dest : Nat) = 0 ∨ (s.tel.eid ≠ 0 ∧ (dest : Nat) = s.tel.eid))
    let sends (t : State) (l : List Nat) : Prop := t.out = s.out ++ [⟨.i3c, l⟩]
    let only (t : State) (l : List Nat) : Prop := sends t l ∧ t = { s with out := t.out, tel := t.tel }
    let pldm (ty code cc : Nat) (l : List Nat) : List Nat := [1, (req : Nat), ty, code, cc] ++ l
    let good : Prop := up ∧ s.tel.snapReq ≠ some (req : Nat)
    let line (t : State) (l : List Nat) : Prop := t.out = s.out ++ [⟨.console, l⟩] ∧ t.tel.rxFifo = []
    let other : Nat := 1 - getF s fPDL_LIFE_COPY
    let requests : List (Instr × Nat × Nat) := [
      (.pldmSensorRead req id, 2, 0x11), (.capEffecter req watts, 2, 0x31), (.resetEffecter req value, 2, 0x39),
      (.firmwareUpdate req image, 5, 0x1A), (.readReg req off, 0x3F, 1), (.snap req, 0x3F, 2),
      (.readDump req slot offset len, 0x3F, 3), (.releaseDump req slot, 0x3F, 4)]
    (up → s.tel.i3cAddr = none → ∃ t, Sys2Proof.Machine.exec (.dynamicAddressAssign true addr) s = .next t ∧
      t = { s with tel := { s.tel with i3cAddr := some addr } }) ∧
    (hears → (eid : Nat) ≠ 0 → (eid : Nat) ≠ 0xFF →
      ∃ t, Sys2Proof.Machine.exec (.setEndpointId dest eid) s = .next t ∧ t.tel.eid = eid ∧
        only t [0, 0x01, 0, 0, eid]) ∧
    (hears →
      (∃ t, Sys2Proof.Machine.exec (.getEndpointId dest) s = .next t ∧ only t [0, 0x02, 0, s.tel.eid]) ∧
      (∃ t, Sys2Proof.Machine.exec (.getEndpointUuid dest) s = .next t ∧
        only t [0, 0x03, 0, Config.mctpUuid Config.serial % 2 ^ 128]) ∧
      (∃ t, Sys2Proof.Machine.exec (.getMctpVersionSupport dest type) s = .next t ∧
        only t (0 :: 0x04 :: 0 :: Config.mctpVersions type)) ∧
      (∃ t, Sys2Proof.Machine.exec (.getMessageTypeSupport dest) s = .next t ∧ only t [0, 0x05, 0, 3, 0, 1, 5])) ∧
    Sys2Proof.Machine.exec (.mctpDiscard type) s = .next s ∧
    (up → s.tel.snapReq = some (req : Nat) → ∀ r ∈ requests,
      ∃ t, Sys2Proof.Machine.exec r.1 s = .next t ∧ only t (pldm r.2.1 r.2.2 4 [])) ∧
    (good →
      (∀ v, sensorReading s id = some v →
        ∃ t, Sys2Proof.Machine.exec (.pldmSensorRead req id) s = .next t ∧ only t (pldm 2 0x11 0 [v])) ∧
      (sensorReading s id = none →
        ∃ t, Sys2Proof.Machine.exec (.pldmSensorRead req id) s = .next t ∧ only t (pldm 2 0x11 0x80 [])) ∧
      (3000 ≤ (watts : Nat) → (watts : Nat) ≤ 6000 →
        ∃ t, Sys2Proof.Machine.exec (.capEffecter req watts) s = .next t ∧ getF t fPTC_CAP_CAP_W = watts ∧
          sends t (pldm 2 0x31 0 []) ∧ t = { s with out := t.out, tel := t.tel, regs := t.regs }) ∧
      ((value : Nat) ≠ 1 → (value : Nat) ≠ 2 →
        ∃ t, Sys2Proof.Machine.exec (.resetEffecter req value) s = .next t ∧ only t (pldm 2 0x39 2 [])) ∧
      ((value : Nat) = 2 → ∃ t, Sys2Proof.Machine.exec (.resetEffecter req value) s = .next t ∧ cfgStage t = 1 ∧
        getF t fCFG_STAT_LAST_RESET = 1 ∧ t.cfg.active = none) ∧
      (fwOk s image = true → ∃ t, Sys2Proof.Machine.exec (.firmwareUpdate req image) s = .next t ∧
        tabFind t.padlock.nor other = some image ∧ tabFind t.padlock.nor (getF s fPDL_LIFE_COPY) = some image ∧
        sends t (pldm 5 0x1A 0 [])) ∧
      (fwOk s image = false → ∃ t, Sys2Proof.Machine.exec (.firmwareUpdate req image) s = .next t ∧
        tabFind t.padlock.nor other = some image ∧ sends t (pldm 5 0x1A 1 []) ∧
        ∀ m, m ≠ other → tabFind t.padlock.nor m = tabFind s.padlock.nor m) ∧
      ((off : Nat) % 8 = 0 → (off : Nat) < 0x8000 → regSpecOf off ≠ none → (off : Nat) ≠ rGLB_TIME →
        ∃ t, Sys2Proof.Machine.exec (.readReg req off) s = .next t ∧
          only t (pldm 0x3F 1 0 [(getReg s off).toNat])) ∧
      (tabHas s.tel.filling 1 = false → ∃ t, Sys2Proof.Machine.exec (.snap req) s = .next t ∧
        t.tel.snapReq = some (req : Nat) ∧ tabFind t.tel.filling 1 = some (snapshotCounters s).1 ∧
        t = { s with tel := t.tel }) ∧
      (∀ p, (len : Nat) ≠ 0 → 2 ≤ dumpState s slot → dumpPlace s slot = some p → offset + len ≤ p.2 →
        ∃ t, Sys2Proof.Machine.exec (.readDump req slot offset len) s = .next t ∧
          only t (pldm 0x3F 3 0 ((memBytes s.tiers.hbm (p.1 + offset) len).map BitVec.toNat))) ∧
      ((len : Nat) ≠ 0 → dumpState s slot < 2 →
        ∃ t, Sys2Proof.Machine.exec (.readDump req slot offset len) s = .next t ∧ only t (pldm 0x3F 3 1 [])) ∧
      (∃ t, Sys2Proof.Machine.exec (.releaseDump req slot) s = .next t ∧ sends t (pldm 0x3F 4 0 []) ∧
        dumpState t slot = (if dumpState s slot = 3 then 0 else dumpState s slot))) ∧
    (s.tel.rxFifo.length < 64 → ∃ t, Sys2Proof.Machine.exec (.uartByteReceive byte true) s = .next t ∧
      t = { s with tel := { s.tel with rxFifo := s.tel.rxFifo ++ [byte] } }) ∧
    (∃ t, Sys2Proof.Machine.exec (.uartByteReceive byte false) s = .next t ∧ bitF t fTEL_UART_STAT_FRAMING = true ∧
      t.tel.rxFifo = s.tel.rxFifo) ∧
    (∃ t, Sys2Proof.Machine.exec .conVer s = .next t ∧ line t [1, getF s fGLB_ID_STEPPING, fwVersion s,
      getF s fPDL_LIFE_COPY, voteList s.padlock.life, voteList s.padlock.debug]) ∧
    (∃ t, Sys2Proof.Machine.exec .conStat s = .next t ∧
      line t [1, (getReg s rCFG_STAT).toNat, (getReg s rGLB_FAULT_STAT).toNat, (getReg s rPTC_STAT).toNat]) ∧
    (∃ t, Sys2Proof.Machine.exec .conTime s = .next t ∧ line t [1, s.now, (getReg s rGLB_TIME_STAT).toNat]) ∧
    (∃ t, Sys2Proof.Machine.exec .conTemp s = .next t ∧ line t [1, powerValue s rPTC_TEMP 0, powerValue s rPTC_INPUT 0]) ∧
    (4 ≤ d → d ≤ 104 → ∃ t, Sys2Proof.Machine.exec (.conBaud d) s = .next t ∧ line t [1] ∧ getF t fTEL_UART_CFG_DIV = d) ∧
    (d < 4 ∨ 104 < d → ∃ t, Sys2Proof.Machine.exec (.conBaud d) s = .next t ∧ line t [0] ∧ t.regs = s.regs) ∧
    (debugOpen s = false → ∀ c : Instr, c ∈ [.conRd off, .conWr off w, .conTrace d] →
      ∃ t, Sys2Proof.Machine.exec c s = .next t ∧ line t [0] ∧ t = { s with out := t.out, tel := t.tel }) ∧
    (debugOpen s = true →
      (∃ t, Sys2Proof.Machine.exec (.conTrace d) s = .next t ∧ line t (1 :: s.tel.trace.drop (s.tel.trace.length - d))) ∧
      ((off : Nat) % 8 = 0 → (off : Nat) < 0x8000 → regSpecOf off ≠ none → (off : Nat) ≠ rGLB_TIME →
        ∃ t, Sys2Proof.Machine.exec (.conRd off) s = .next t ∧ line t [1, (getReg s off).toNat]) ∧
      (regSpecOf off = none → (off : Nat) % 8 = 0 →
        ∃ t, Sys2Proof.Machine.exec (.conWr off w) s = .next t ∧ line t [1] ∧ t.regs = s.regs)) ∧
    (∃ t, Sys2Proof.Machine.exec .consoleUnknown s = .next t ∧ line t [0] ∧ t.regs = s.regs)

/-- The router's entries when they issue over unpoisoned memory. XSELECT completes within its own core and writes each
selected pair of weight and expert as a record; XDISPATCH numbers the claims of its valid slots and sends one each,
and completes at once only without slots; XRETURN sends its rows, or records a range that its expert does not have;
XGATHER writes a row of its table, or zeros where the index names none; XBAG writes the reduced row of a bag. An entry
whose engine is busy or lost, or that finds a page held, waits at issue (08 R310-R314, R322, R326-R328, 11 R409). -/
def Obligations.RouterEntries : Prop :=
  ∀ (c : Fin 98304) (i : Fin 4) (s : State) (e : Entry),
    let u := advance s c i
    let eng := engineOfCore c
    let clean : Prop := s.comp.sramPoison = [] ∧ s.tiers.hbmPoison = [] ∧ s.tiers.loanPoison = [] ∧ s.flash.poison = []
    let begun (t : State) (op : Nat) (ph : OpPhase) : Prop :=
      (getCore t c).nextOp = (getCore s c).nextOp + 1 ∧ getStrand t c i = (getStrand s c i).stepped ∧ (getCore t c).last = i ∧
      ∃ ops, (getCore t c).ops = ops ++ [⟨(getCore s c).nextOp, i, op, doneLatch e, none, 0, false, ph, some (c : Nat)⟩]
    let waits (r : Instr) : Prop := ∃ t, Sys2Proof.Machine.exec r s = .next t ∧
      OnlyStrand s t c i { getStrand s c i with phase := .ready }
    let sentOf (t : State) (m : Msg) (n : Nat) : Prop :=
      t.out.countP (fun x => x.kind == .mgmt m) = s.out.countP (fun x => x.kind == .mgmt m) + n
    let bytesAt (t : State) (a : Word) (n : Nat) : List Byte := memBytes t.comp.sram (sramKey c (aADDR a)) n
    (Issues s c i 0x71 e → xdispatchBusy c i s e = true → waits (.tblXdispatch c i)) ∧
    (Issues s c i 0x72 e → xreturnBusy c i s e = true → waits (.tblXreturn c i)) ∧
    (Issues s c i 0x73 e → xgatherBusy c i s e = true → waits (.tblXgather c i)) ∧
    (Issues s c i 0x74 e → xbagBusy c i s e = true → waits (.tblXbag c i)) ∧
    (clean → Memory.wf s.comp.sram = true →
    (Issues s c i 0x70 e → xselectFaults c i s e = [] →
      let r := layerRec s (fld e 51 8)
      let scores := (List.range (lyE r)).map (fun q => sramLoad s c (aADDR (getA s c i (fld e 36 3)) + 4 * q) 4)
      let biases := (List.range (lyE r)).map (fun q => sramLoad s c (aADDR (getA s c i (fld e 42 3)) + 4 * q) 4)
      ∃ t, Sys2Proof.Machine.exec (.tblXselect c i) s = .next t ∧ LocalEntry s t c i e ∧
        ∀ l, xselCount s c i e = 1 →
          (selectToken (lyK r) (if flag e 45 then some biases else none) (flag e 46) scores).1 = some l →
          ∀ (j : Nat) (x : Nat × Nat), l[j]? = some x →
            memLoad t.comp.sram (sramKey c (aADDR (getA s c i (fld e 39 3))) + 8 * j) 8 =
              (x.1 + x.2 % 1024 * 2 ^ 32 + 2 ^ 42) % 2 ^ 64) ∧
    (Issues s c i 0x71 e → xdispatchFaults c i s e = [] → xdispatchBusy c i s e = false →
      let r := layerRec s (xdLayer e)
      let n := xdCount s c i e
      let k := stepOfCore s c * 256 + xdLayer e
      let d : Dispatch := ⟨c, nextId s c, i, ctxOf s c i, n, lyK r, getA s c i (fld e 36 3), getA s c i (fld e 42 3),
        getA s c i (fld e 45 3), getA s c i (fld e 48 3), fld e 73 16, sfld e 63 10, false, []⟩
      let slots := (List.range n).flatMap (tokenClaims u d (getA s c i (fld e 39 3)))
      xdXlat u d r = .ok → (∀ t, t < n → nanToken u d t = false) →
      ∃ t, Sys2Proof.Machine.exec (.tblXdispatch c i) s = .next t ∧
        begun t 0x71 (if slots = [] then .done else .engine) ∧ sentOf t .claim slots.length ∧
        (getEngine t eng).order = (getEngine s eng).order + slots.length ∧
        tabGet 0 (getEngine t eng).expected k = tabGet 0 (getEngine s eng).expected k - 1 ∧
        (getCore t c).launch.map Launch.disp =
          (getCore s c).launch.map (fun l => tabMod 0 l.disp (xdLayer e) (fun v => v - 1))) ∧
    (Issues s c i 0x72 e → xreturnFaults c i s e = [] → xreturnBusy c i s e = false →
      let first := (getS s c i (fld e 39 4)).toNat
      let n := (getS s c i (fld e 43 4)).toNat
      let short : Prop := ∀ x, returnRows s c i e = some x → x.2.length < first + n
      (short → ∃ t, Sys2Proof.Machine.exec (.tblXreturn c i) s = .next t ∧ Issued s t c i e none 0 false .done (some (c : Nat)) ∧
        bitF t (fXRT_ENG_ERR_RETURN_RANGE eng) = true ∧ t.out = s.out ∧ SramSame s t) ∧
      (∀ x, returnRows s c i e = some x → first + n ≤ x.2.length →
        (∀ j, j < n → xlatAt u c i .read (plusBytes (getA s c i (fld e 36 3)) (j * fld e 51 16))
          (outBytes (layerRec s x.1)) = .ok) →
        let own := (((x.2.drop first).take n).filter (fun y => y.pkg == ownPkg s)).map (fun y => (y.engine, y.order))
        ∃ t, Sys2Proof.Machine.exec (.tblXreturn c i) s = .next t ∧ begun t 0x72 (if n = 0 then .done else .returns own) ∧
          sentOf t .returnRow n)) ∧
    (Issues s c i 0x73 e → xgatherFaults c i s e = [] → xgatherBusy c i s e = false → xgCount s c i e = 1 →
      let n := fld e 56 10 * 64
      let tab := getA s c i (fld e 39 3)
      let dst := getA s c i (fld e 42 3)
      let stat := getA s c i (fld e 45 3)
      let row := indexKind (getS s c i (fld e 52 4)).toNat (sramLoad s c (aADDR (getA s c i (fld e 36 3))) 4)
      aSPACE dst = spLOCAL → aSPACE stat = spDV →
      tableXlat u c i tab n n [row] = .ok → xlatAt u c i .write stat 1 = .ok →
      ∃ t, Sys2Proof.Machine.exec (.tblXgather c i) s = .next t ∧ (getCore t c).nextOp = (getCore s c).nextOp + 1 ∧
        (row = none → bytesAt t dst n = List.replicate n 0#8) ∧
        ∀ q, row = some q → bytesAt t dst n = getAt u c i (plusBytes tab (q * n)) n) ∧
    (Issues s c i 0x74 e → xbagFaults c i s e = [] → xbagBusy c i s e = false → xbCount s c i e = 1 →
      let tab := getA s c i (fld e 42 3)
      let dst := getA s c i (fld e 45 3)
      let stat := getA s c i (fld e 91 3)
      let d := bagDesc s c i e 0
      aSPACE dst = spLOCAL → aSPACE stat = spDV →
      tableXlat u c i tab (fld e 94 16) (xbDim e * xbInBytes e) ((bagMembers u c i e d).1.map (fun m => some m.1)) = .ok →
      xlatAt u c i .write stat 1 = .ok →
      ∃ t, Sys2Proof.Machine.exec (.tblXbag c i) s = .next t ∧ (getCore t c).nextOp = (getCore s c).nextOp + 1 ∧
        bytesAt t dst (xbDim e * xbOutBytes e) = (bagResult u c i e d).1.flatMap (leBytes (xbOutBytes e))))

/-- The router's messages. A claim or a seal joins its group; one too many, or one after the decision, is a fault of the
package. A group with every seal and every claim is decided once, and its first expert grants at most its capacity.
A granted claim's row is sent, a dropped slot is counted; a dispatched row takes its place; a returned row is
weighted and added to its token's cells. An engine whose die is lost takes no message, and an outcome or a row whose
page a migration holds waits (08 R315-R323, 01 R46, 11 R409). -/
def Obligations.RouterMessages : Prop :=
  ∀ (q : Fin 4) (step order : Nat) (layer : Fin 256) (cl : Claim) (share : Seal) (pkg : Fin 65536) (src : Fin 4)
    (data : List Byte) (s : State),
    let g := ownGroup (getEngine s q) step layer
    let r := layerRec s layer
    let group (t : State) : OwnGroup := ownGroup (getEngine t q) step layer
    let routed (t : State) : Prop := t = { s with router := { s.router with engines := t.router.engines } } ∧
      ∀ p, p ≠ (q : Nat) → getEngine t p = getEngine s p
    let over_ : Prop := ∃ x, sealOf g cl.pkg cl.engine = some x ∧ x.claims ≤ claimsOf g cl.pkg cl.engine
    let tokens := (g.seals.map Seal.tokens).sum
    let mine (y : Claim) : Bool := y.pkg == (pkg : Nat) && y.engine == (src : Nat) && y.order == order
    (engineLost s q = true → ∀ k : Instr, k ∈ [.claim q step layer cl, .sealArrival q step layer share,
        .groupDecide q step layer, .claimOutcome q order true, .claimOutcome q order false,
        .dispatchedRow q step layer pkg src order data, .returnedRow q order data] →
      Sys2Proof.Machine.exec k s = .next s) ∧
    (engineLost s q = false → lyValid r = true → expertOwner s layer cl.expert = (ownPkg s, (q : Nat)) →
      (g.decided = false → ¬ over_ → ∃ t, Sys2Proof.Machine.exec (.claim q step layer cl) s = .next t ∧
        group t = { g with claims := g.claims ++ [cl] } ∧ routed t) ∧
      (g.decided = true ∨ over_ → ∃ t u, Sys2Proof.Machine.exec (.claim q step layer cl) s = .next t ∧
        t = declareFault u 0x000A ⟨16, 0, 0, 0, cl.pkg⟩ ∧ bitF u (fXRT_ENG_ERR_PROTO q) = true ∧
        u = { s with regs := u.regs })) ∧
    (engineLost s q = false → g.decided = false → sealOf g share.pkg share.engine = none → claimsOf g share.pkg share.engine ≤ share.claims →
      ∃ t, Sys2Proof.Machine.exec (.sealArrival q step layer share) s = .next t ∧
        group t = { g with seals := g.seals ++ [share] } ∧ routed t) ∧
    (engineLost s q = false → g.decided = false → lyValid r = true → decidable s g = true →
      ∃ t, Sys2Proof.Machine.exec (.groupDecide q step layer) s = .next t ∧ (group t).decided = true ∧
        (group t).total = tokens ∧ (group t).claims = g.claims ∧
        (∀ x ∈ (group t).grants, ∀ y ∈ x.claims, y ∈ g.claims ∧ y.expert = x.expert) ∧
        (expertOwner s layer 0 = (ownPkg s, (q : Nat)) → ∃ x, (group t).grants.head? = some x ∧ x.expert = 0 ∧
          x.claims.length = min (g.claims.filter (fun y => y.expert == 0)).length
            (capacity r (natBits (mapEntry s layer 0) 40 24) tokens)) ∧
        getF t (fXRT_ENG_STAT_LAST_LAYER q) = layer) ∧
    (g.decided = true ∨ decidable s g = false →
      Sys2Proof.Machine.exec (.groupDecide q step layer) s = .next s) ∧
    (∀ x, openClaim (getEngine s q) order = some x → x.2.2.decided = false → engineLost s q = false →
      outcomeHeld s x.1 x.2.1 x.2.2 = false →
      (∃ t, Sys2Proof.Machine.exec (.claimOutcome q order false) s = .next t ∧
        tabGet 0 t.router.drops x.2.2.ward = tabGet 0 s.router.drops x.2.2.ward + 1) ∧
      (∃ t, Sys2Proof.Machine.exec (.claimOutcome q order true) s = .next t ∧ t.router.drops = s.router.drops ∧
        (x.2.1.behalf.xlat s .read (rowAddr s x.1 x.2.1 x.2.2) (rowSize (layerRec s x.1.layer)) = .ok →
          s.out.countP (fun y => y.kind == .mgmt .row) < t.out.countP (fun y => y.kind == .mgmt .row)))) ∧
    (∀ x b, openClaim (getEngine s q) order = some x → outcomeHeld s x.1 x.2.1 x.2.2 = true →
      Sys2Proof.Machine.exec (.claimOutcome q order b) s = .next s) ∧
    (∀ x, g.grants.find? (fun x => x.claims.any mine) = some x →
      let i := x.claims.findIdx mine
      let full := decide (x.claims.length ≤ (nsInsert x.rows i).length)
      let n := rowSize r
      let va := natBits (mapEntry s layer x.expert) 64 57 + 64 + i * n
      (rangeHeld s ctxSYS va n = true →
        Sys2Proof.Machine.exec (.dispatchedRow q step layer pkg src order data) s = .next s) ∧
      (rangeHeld s ctxSYS va n = false → engineLost s q = false → ∃ t,
        Sys2Proof.Machine.exec (.dispatchedRow q step layer pkg src order data) s = .next t ∧
        (group t).grants = g.grants.map (fun y =>
          if y.expert = x.expert then { y with rows := nsInsert x.rows i, ready := full || y.ready } else y) ∧
        t.comp.cores = s.comp.cores ∧
        ∀ l, leafOf s ctxSYS (va / 2097152) = some l → l.tier = .hbm → va % 2097152 + n ≤ 2097152 →
          rangeXlat s ctxSYS .write va n = .ok → Memory.wf s.tiers.hbm = true →
          t.out = s.out ∧ memBytes t.tiers.hbm (l.frame * 2097152 + va % 2097152) n =
            (data ++ List.replicate (n - data.length) 0#8).take n)) ∧
    (∀ x, findClaim (getEngine s q) order = some x → x.2.2.decided = true → x.2.2.dropped = false →
      engineLost s q = false →
      let d := x.2.1
      let l := layerRec s x.1.layer
      let a := plusBytes d.cells (x.2.2.token * d.cstride)
      let k := sramKey d.core (aADDR a)
      let w := widthOfCode (lyOFMT l) / 8
      aSPACE a = spLOCAL → sramPoisoned s d.core (aADDR a) (16 * lyH l) = false → Memory.wf s.comp.sram = true →
      ∃ t, Sys2Proof.Machine.exec (.returnedRow q order data) s = .next t ∧
        (∀ j, j < lyH l → memLoad t.comp.sram (k + 16 * j) 16 =
          (combineCell d.anchor x.2.2.weight (lyOFMT l) (memLoad s.comp.sram (k + 16 * j) 16)
            (leNat ((data.drop (w * j)).take w))).1 % 2 ^ 128) ∧
        (∀ b, b < k ∨ k + 16 * lyH l ≤ b → memGet t.comp.sram b = memGet s.comp.sram b) ∧ t.out = s.out)

/-- Fabric ports. A port that is not UP takes no flit; a flit that cannot be corrected, whose CRC is wrong or that comes
too early asks for a replay, one that has come before is dropped, the expected one advances the sequence, and one
with a reserved encoding is recorded as bad. Eight fruitless resends begin a retraining and its third failure takes
the port DOWN, losing its replay buffer; training ends UP or HELD by what the far end says; recalibration and
overload move the port as their rules say (14 R482-R488, R506). -/
def Obligations.FabricPorts : Prop :=
  ∀ (n : Fin 16) (flit : BitVec 2048) (fec : Bool) (far ack : Fin 65536) (farPort : Fin 16) (farPart : Fin 256)
    (lanes : Fin 25) (s : State),
    let p := getPort s n
    let v := flit.toNat
    let seq := natBits v 0 16
    let crc : Prop := crc32c (leBytes 252 v) = natBits v 2016 32
    let idle : Prop := natBits v 33 3 = 7
    let phase (t : State) : PortPhase := (getPort t n).phase
    let only (t : State) (q : Port) : Prop :=
      getPort t n = q ∧ (∀ m, m ≠ (n : Nat) → getPort t m = getPort s m) ∧
      t = { s with fab := { s.fab with ports := t.fab.ports }, tel := t.tel }
    let right : Prop := (far : Nat) = getF s (fFAB_PORT_CFG_EXP_ID n) ∧
      (farPort : Nat) = getF s (fFAB_PORT_CFG_EXP_PORT n) ∧ (farPart : Nat) = getF s fFAB_CFG_PARTITION
    (p.phase ≠ .up → Sys2Proof.Machine.exec (.fabricFlitReceive n flit fec) s = .next s) ∧
    (p.phase = .up →
      (∃ t, Sys2Proof.Machine.exec (.fabricFlitReceive n flit false) s = .next t ∧ only t { p with nak := true }) ∧
      (¬ crc → ∃ t, Sys2Proof.Machine.exec (.fabricFlitReceive n flit true) s = .next t ∧
        only t { p with nak := true }) ∧
      (crc → ¬ idle → seq ≠ p.expSeq → seqLe seq ((p.expSeq + 65535) % 65536) = true →
        Sys2Proof.Machine.exec (.fabricFlitReceive n flit true) s = .next s) ∧
      (crc → ¬ idle → seq ≠ p.expSeq → seqLe seq ((p.expSeq + 65535) % 65536) = false →
        ∃ t, Sys2Proof.Machine.exec (.fabricFlitReceive n flit true) s = .next t ∧ only t { p with nak := true }) ∧
      (crc → ¬ idle → seq = p.expSeq →
        ∃ t, Sys2Proof.Machine.exec (.fabricFlitReceive n flit true) s = .next t ∧
          (getPort t n).expSeq = (p.expSeq + 1) % 65536 ∧
          (flitLegal v = false → bitF t fFAB_ERR_BAD_FLIT = true ∧ getF t fFAB_ERR_LAST_PORT = n ∧
            t.comp = s.comp ∧ t.tiers = s.tiers)) ∧
      (∃ t x, Sys2Proof.Machine.exec (.fabricAckTimer n) s = .next t ∧ t.out = s.out ++ [⟨.flit, [n, x]⟩] ∧
        (getPort t n).sinceAck = 0 ∧ (getPort t n).expSeq = p.expSeq ∧ (getPort t n).replay = p.replay)) ∧
    (p.phase = .up → 8 ≤ p.resends →
      ∃ t, Sys2Proof.Machine.exec (.portRetrainStart n) s = .next t ∧ phase t = .retrain ∧ (getPort t n).fails = 0) ∧
    (p.phase = .retrain →
      (∃ t, Sys2Proof.Machine.exec (.retrainEnd n true ack) s = .next t ∧ phase t = .up) ∧
      (p.fails + 1 < 3 → ∃ t, Sys2Proof.Machine.exec (.retrainEnd n false ack) s = .next t ∧
        only t { p with fails := p.fails + 1 }) ∧
      (3 ≤ p.fails + 1 → ∃ t, Sys2Proof.Machine.exec (.retrainEnd n false ack) s = .next t ∧ phase t = .down ∧
        (getPort t n).replay = [] ∧ (getPort t n).lost = p.lost + p.replay.length)) ∧
    (p.phase = .training →
      ∃ t, Sys2Proof.Machine.exec (.trainingIdentity n far farPort farPart lanes) s = .next t ∧
        (right → phase t = .up) ∧ (¬ right → phase t = .held) ∧ (getPort t n).farId = far ∧
        (getPort t n).lanes = lanes) ∧
    (p.phase = .recal → ∃ t, Sys2Proof.Machine.exec (.recalibrationComplete n) s = .next t ∧ phase t = .up) ∧
    (p.phase ≠ .recal → Sys2Proof.Machine.exec (.recalibrationComplete n) s = .next s) ∧
    (mayRecal s n = false → Sys2Proof.Machine.exec (.recalibrationDue n) s = .next s) ∧
    (mayRecal s n = true → p.replay = [] →
      ∃ t, Sys2Proof.Machine.exec (.recalibrationDue n) s = .next t ∧ phase t = .recal) ∧
    (mayRecal s n = true → p.replay ≠ [] →
      ∃ t, Sys2Proof.Machine.exec (.recalibrationDue n) s = .next t ∧ only t { p with recalDue := true }) ∧
    (inWarm s = false →
      (∃ t, Sys2Proof.Machine.exec (.recal 0 n) s = .next t ∧ Sys2Proof.Machine.exec (.recalibrationDue n) s = .next t) ∧
      (p.phase = .held ∨ p.phase = .down ∨ p.phase = .recable →
        ∃ t, Sys2Proof.Machine.exec (.retrain 0 n) s = .next t ∧ phase t = .training)) ∧
    (p.phase = .up → ∃ t, Sys2Proof.Machine.exec (.receiveOverload n) s = .next t ∧
      only t { p with overlit := true, nak := true }) ∧
    (p.overlit = true → p.phase = .up ∨ p.phase = .retrain →
      ∃ t, Sys2Proof.Machine.exec (.overloadPersist n) s = .next t ∧ phase t = .overload) ∧
    (p.overlit = true → p.phase = .overload → ∃ t, Sys2Proof.Machine.exec (.overloadClear n) s = .next t ∧
      only t { p with overlit := false, phase := .retrain, fails := 0 }) ∧
    (p.phase = .overload ∨ p.phase = .retrain → ∃ t, Sys2Proof.Machine.exec (.overloadTimeout n) s = .next t ∧
      phase t = .down ∧ (getPort t n).lost = p.lost + p.replay.length)

/-- Fabric operations. At its destination a READ answers the granules, a WRITE stores them, a WRITE_PART its masked
bytes and an ATOMIC its new value, answering the old; memory that does not exist is an address error. A response
ends its request, an unknown tag nothing, no response in time is a fault. An egress window gathers writes into a
block, fetches a block to read it, sends a block when its time is up and answers when its RDMA operations end. A DMA
read that times out is one that failed (14 R495-R505, 15 R510). -/
def Obligations.FabricOperations : Prop :=
  ∀ (header : BitVec 256) (data : List Line) (tag : Fin 16777216) (st : Fin 5) (w : Fin 256) (blk : Nat) (bytes : List Byte)
    (fn q : Fin 64) (origin : Origin) (subseq : Nat) (slot : Fin 8192) (s : State),
    let p := Packet.ofHeader header data
    let n := 64 * p.ng
    let comes (op : Nat) (eth : Bool) : Prop :=
      headerLegal header = true ∧ p.op = op ∧ p.eth = eth ∧ p.dest = ownPkg s
    let line (g : Nat) : Line := BitVec.ofNat 512 (hbmLoad s (p.addr + 64 * g) 64)
    let hbmOnly (u : State) : Prop := u = { s with tiers := { s.tiers with hbm := u.tiers.hbm, hbmPoison := u.tiers.hbmPoison } }
    let outside (u : State) (a m : Nat) : Prop := ∀ b, b < a ∨ a + m ≤ b → memGet u.tiers.hbm b = memGet s.tiers.hbm b
    let old := hbmLoad s p.addr 8
    let x := ((data.headD 0#512).toNat) % 2 ^ 128
    let qp := ewinQp s p.ewin
    let part := p.addr / 4096
    let oneBlock : Prop := 0 < p.ng ∧ p.addr % 4096 + n ≤ 4096
    let is (b : EgressBlock) : Bool := b.ewin == (w : Nat) && b.block == blk && b.sent && b.fetch == false
    (comes opREAD false → packetExists p = true → hbmPoisoned s p.addr n = false →
      ∃ t, Sys2Proof.Machine.exec (.fabricRead header) s = .next t ∧
        t = answer s p.src p.tag opREADRSP 0 ((List.range p.ng).map line)) ∧
    (comes opREAD false → packetExists p = false →
      ∃ t, Sys2Proof.Machine.exec (.fabricRead header) s = .next t ∧ t = answer s p.src p.tag opREADRSP 1 []) ∧
    (comes opWRITE false → packetExists p = true → p.notify = false → Memory.wf s.tiers.hbm = true →
      ∃ t u, Sys2Proof.Machine.exec (.fabricWrite header data) s = .next t ∧
        t = answer u p.src p.tag opWRITEACK 0 [] ∧ hbmOnly u ∧ outside u p.addr n ∧
        ∀ g, g < p.ng → hbmLoad u (p.addr + 64 * g) 64 = (data.getD g 0#512).toNat) ∧
    (comes opWRITEPART false → packetExists p = true → p.notify = false → Memory.wf s.tiers.hbm = true →
      ∃ t u, Sys2Proof.Machine.exec (.fabricWritePart header data) s = .next t ∧
        t = answer u p.src p.tag opWRITEACK 0 [] ∧ hbmOnly u ∧ outside u (p.addr / 64 * 64) 64 ∧
        ∀ i, i < 64 → memGet u.tiers.hbm (p.addr / 64 * 64 + i) =
          (if natBits p.bmask i 1 = 1 then (leBytes 64 (data.headD 0#512).toNat).getD i 0#8
           else memGet s.tiers.hbm (p.addr / 64 * 64 + i))) ∧
    (comes opATOMIC false → packetExists p = true → hbmPoisoned s p.addr 8 = false → Memory.wf s.tiers.hbm = true →
      ∃ t u, Sys2Proof.Machine.exec (.fabricAtomic header data) s = .next t ∧
        t = answer u p.src p.tag opATOMICRSP 0 [BitVec.ofNat 512 old] ∧ hbmOnly u ∧ outside u p.addr 8 ∧
        hbmLoad u p.addr 8 =
          atomicNew (p.bmask % 8) (natBits p.bmask 3 1 == 1) old (x % 2 ^ 64) (x / 2 ^ 64) % 2 ^ 64) ∧
    (s.fab.reqs.find? (fun r => r.tag == (tag : Nat)) = none →
      Sys2Proof.Machine.exec (.fabricResponse tag st) s = .next s) ∧
    (∀ r, s.fab.reqs.find? (fun r => r.tag == (tag : Nat)) = some r →
      (∃ t, Sys2Proof.Machine.exec (.fabricResponse tag st) s = .next t ∧
        t.fab.reqs = s.fab.reqs.filter (fun r => r.tag != (tag : Nat)) ∧
        (st = 1 → bitF t fFAB_ERR_ADDR_ERROR = true ∧ getF t fFAB_ERR_LAST_PKG = r.dest % 2 ^ 16) ∧
        (∀ c id, st = 0 → r.agent = .coreOp c id →
          t = modOp { s with fab := { s.fab with reqs := t.fab.reqs } } c id fabricStep)) ∧
      (∃ t u, Sys2Proof.Machine.exec (.fabricRequestTimeout tag) s = .next t ∧
        t = declareFault u 0x000B ⟨16, 0, 0, 0, r.dest⟩ ∧ bitF u fFAB_ERR_REQ_TIMEOUT = true ∧
        u.fab.reqs = s.fab.reqs.filter (fun r => r.tag != (tag : Nat)))) ∧
    (comes opWRITE true → oneBlock →
      (ewinAllows s p.ewin 4 p.addr n = false →
        ∃ t, Sys2Proof.Machine.exec (.egressWrite header data) s = .next t ∧
          t = answer s p.src p.tag opWRITEACK 1 []) ∧
      (ewinAllows s p.ewin 4 p.addr n = true → openBlock s p.ewin part = none →
        (s.fab.egress.filter (fun b => !b.sent && !b.fetch)).length < 512 →
        ∃ t b, Sys2Proof.Machine.exec (.egressWrite header data) s = .next t ∧ t.fab.egress = s.fab.egress ++ [b] ∧
          b.ewin = p.ewin ∧ b.block = part ∧ b.acks = [(p.src, p.tag)] ∧ b.sent = false ∧ b.fetch = false ∧
          b.bytes.length = n ∧ t = { s with fab := { s.fab with egress := t.fab.egress } })) ∧
    (comes opREAD true → oneBlock →
      (ewinAllows s p.ewin 3 p.addr n = false →
        ∃ t, Sys2Proof.Machine.exec (.egressRead header) s = .next t ∧ t = answer s p.src p.tag opREADRSP 1 []) ∧
      (ewinAllows s p.ewin 3 p.addr n = true → openBlock s p.ewin part = none →
        s.fab.egress.any (fun b => b.ewin == p.ewin && b.block == part && b.fetch) = false →
        qpValid s qp = true → (getQP s qp).err = false →
        ∃ t, Sys2Proof.Machine.exec (.egressRead header) s = .next t ∧
          t.fab.egress = s.fab.egress ++ [⟨p.ewin, part, [], [], [(p.src, p.tag, p.addr, n)], true, true, 1⟩] ∧
          t.out = s.out ++ [⟨.rdmaRead, [qp, ewinAddr s p.ewin (part * 4096), ewinKey s p.ewin,
            min 4096 (natBits (ewinRec s p.ewin) 128 40 - part * 4096)]⟩] ∧
          t = { s with fab := { s.fab with egress := t.fab.egress }, out := t.out })) ∧
    (openBlock s w blk = none → Sys2Proof.Machine.exec (.egressBlockTimeout w blk) s = .next s) ∧
    (∀ b, openBlock s w blk = some b → qpValid s (ewinQp s w) = true → (getQP s (ewinQp s w)).err = false →
      ∃ t, Sys2Proof.Machine.exec (.egressBlockTimeout w blk) s = .next t ∧
        t.fab.egress = replaceFirst (fun y => y == b)
          (fun _ => some { b with sent := true, ops := (runsOf b.bytes).length }) s.fab.egress ∧
        t.out.length = s.out.length + (runsOf b.bytes).length) ∧
    (∀ b, s.fab.egress.find? is = some b → b.ops ≤ 1 → b.acks = [] →
      ∃ t, Sys2Proof.Machine.exec (.egressRdmaComplete w blk false true bytes) s = .next t ∧
        t = setEgress s (replaceFirst is (fun _ => none) s.fab.egress)) ∧
    (∀ b, s.fab.egress.find? is = some b →
      ∃ t, Sys2Proof.Machine.exec (.egressRdmaComplete w blk false false bytes) s = .next t ∧ t = failEgress s b) ∧
    (∃ t, Sys2Proof.Machine.exec (.dmaReadTimeout (.descriptor fn q)) s = .next t ∧
      Sys2Proof.Machine.exec (.descriptorFetch fn q none) s = .next t) ∧
    (∃ t, Sys2Proof.Machine.exec (.dmaReadTimeout (.prompt origin subseq)) s = .next t ∧
      Sys2Proof.Machine.exec (.promptReadComplete origin subseq false []) s = .next t) ∧
    (tabHas s.hinge.manifests slot = false →
      ∃ t, Sys2Proof.Machine.exec (.dmaReadTimeout (.adapter slot)) s = .next t ∧
        Sys2Proof.Machine.exec (.adapterLoadComplete slot none) s = .next t)
end

