-- ==== Sys2Proof/Laws/Memory.lean ====
section
/-!
SUPPORT. The laws of byte memory and of sparse tables: the canonical form is kept by every operation, a read after a
write gives what was written, and a write leaves every other place alone.
-/
namespace Sys2Proof.Machine

open Sys2Proof

/-! ### The canonical form -/

/-- The canonical form, as a statement about pairs of entries. -/
theorem memory_wf_iff (m : Mem) :
    Memory.wf m = true ↔ m.Pairwise (fun c d => c.1 < d.1) ∧ ∀ c ∈ m, c.2 ≠ 0#8 := by
  induction m with
  | nil => simp [Memory.wf]
  | cons c m ih =>
    obtain ⟨a, b⟩ := c
    cases m with
    | nil => simp [Memory.wf]
    | cons d t =>
      obtain ⟨a', b'⟩ := d
      simp only [Memory.wf, Bool.and_eq_true, bne_iff_ne, decide_eq_true_eq, ih]
      constructor
      · rintro ⟨⟨hb, ha⟩, hp, hn⟩
        refine ⟨List.pairwise_cons.2 ⟨?_, hp⟩, ?_⟩
        · intro x hx
          rcases List.mem_cons.1 hx with rfl | hx
          · exact ha
          · exact lt_trans ha ((List.pairwise_cons.1 hp).1 x hx)
        · intro x hx
          rcases List.mem_cons.1 hx with rfl | hx
          · exact hb
          · exact hn x hx
      · rintro ⟨hp, hn⟩
        have hp' := List.pairwise_cons.1 hp
        exact ⟨⟨hn (a, b) (by simp), hp'.1 (a', b') (by simp)⟩, hp'.2,
          fun x hx => hn x (List.mem_cons_of_mem _ hx)⟩

theorem memory_wf_filter {m : Mem} (p : Host.Cell → Bool) (h : Memory.wf m = true) :
    Memory.wf (m.filter p) = true := by
  rw [memory_wf_iff] at h ⊢
  exact ⟨h.1.filter p, fun c hc => h.2 c (List.mem_filter.1 hc).1⟩

/-- What a byte write may put into the list: old entries and the new one. -/
theorem mem_memSet {m : Mem} {a : Nat} {b : Byte} {c : Host.Cell} (hc : c ∈ memSet m a b) :
    c ∈ m ∨ (c = (a, b) ∧ b ≠ 0#8) := by
  induction m with
  | nil =>
    by_cases hb : b = 0#8
    · simp [memSet, hb] at hc
    · simp [memSet, hb] at hc; exact Or.inr ⟨hc, hb⟩
  | cons d t ih =>
    obtain ⟨k, w⟩ := d
    by_cases hb : b = 0#8 <;> simp only [memSet, hb, if_true, if_false] at hc <;> split at hc
    · exact Or.inl hc
    · split at hc
      · exact Or.inl (List.mem_cons_of_mem _ hc)
      · rcases List.mem_cons.1 hc with rfl | hc
        · exact Or.inl (by simp)
        · rw [← hb] at hc
          rcases ih hc with h | h
          · exact Or.inl (List.mem_cons_of_mem _ h)
          · exact absurd hb h.2
    · rcases List.mem_cons.1 hc with rfl | hc
      · exact Or.inr ⟨rfl, hb⟩
      · exact Or.inl hc
    · split at hc
      · rcases List.mem_cons.1 hc with rfl | hc
        · exact Or.inr ⟨rfl, hb⟩
        · exact Or.inl (List.mem_cons_of_mem _ hc)
      · rcases List.mem_cons.1 hc with rfl | hc
        · exact Or.inl (by simp)
        · rcases ih hc with h | h
          · exact Or.inl (List.mem_cons_of_mem _ h)
          · exact Or.inr h

/-- A byte write keeps the canonical form. -/
theorem memSet_wf {m : Mem} (a : Nat) (b : Byte) (h : Memory.wf m = true) : Memory.wf (memSet m a b) = true := by
  rw [memory_wf_iff] at h ⊢
  refine ⟨?_, fun c hc => ?_⟩
  · induction m with
    | nil => simp only [memSet]; split <;> simp
    | cons d t ih =>
      obtain ⟨k, w⟩ := d
      have hp := List.pairwise_cons.1 h.1
      have ht := ih ⟨hp.2, fun x hx => h.2 x (List.mem_cons_of_mem _ hx)⟩
      simp only [memSet]
      split
      · rename_i hlt
        split
        · exact h.1
        · refine List.pairwise_cons.2 ⟨fun x hx => ?_, h.1⟩
          rcases List.mem_cons.1 hx with rfl | hx
          · exact hlt
          · exact lt_trans hlt (hp.1 x hx)
      · split
        · rename_i hak
          split
          · exact hp.2
          · exact List.pairwise_cons.2 ⟨fun x hx => by subst hak; exact hp.1 x hx, hp.2⟩
        · refine List.pairwise_cons.2 ⟨fun x hx => ?_, ht⟩
          rcases mem_memSet hx with hx | ⟨rfl, _⟩
          · exact hp.1 x hx
          · show k < a
            omega
  · rcases mem_memSet hc with hc | ⟨rfl, hb⟩
    · exact h.2 c hc
    · exact hb

theorem memSetBytes_wf {m : Mem} (a : Nat) (bs : List Byte) (h : Memory.wf m = true) :
    Memory.wf (memSetBytes m a bs) = true := by
  induction bs generalizing m a with
  | nil => exact h
  | cons b bs ih => exact ih (a + 1) (memSet_wf a b h)

theorem memStore_wf {m : Mem} (a n v : Nat) (h : Memory.wf m = true) : Memory.wf (memStore m a n v) = true :=
  memSetBytes_wf a _ h

theorem memZero_wf {m : Mem} (a n : Nat) (h : Memory.wf m = true) : Memory.wf (memZero m a n) = true :=
  memory_wf_filter _ h

theorem memPaste_wf {m : Mem} (a n : Nat) (sl : Mem) (h : Memory.wf m = true) :
    Memory.wf (memPaste m a n sl) = true := by
  have hz := memZero_wf a n h
  unfold memPaste
  generalize memZero m a n = z at hz
  induction sl generalizing z with
  | nil => exact hz
  | cons c sl ih => exact ih _ (memSet_wf _ _ hz)

/-- A slice of a memory in canonical form is in canonical form. -/
theorem memSlice_wf {m : Mem} (a n : Nat) (h : Memory.wf m = true) : Memory.wf (memSlice m a n) = true := by
  rw [memory_wf_iff] at h ⊢
  unfold memSlice
  refine ⟨?_, ?_⟩
  · rw [List.pairwise_map]
    refine List.Pairwise.imp_of_mem ?_ (h.1.filter _)
    intro c d hc hd hlt
    have h1 := (List.mem_filter.1 hc).2
    have h2 := (List.mem_filter.1 hd).2
    simp only [Bool.and_eq_true, decide_eq_true_eq] at h1 h2
    show c.1 - a < d.1 - a
    omega
  · intro c hc
    obtain ⟨d, hd, rfl⟩ := List.mem_map.1 hc
    exact h.2 d (List.mem_filter.1 hd).1

/-! ### Read after write -/

theorem tabGet_of_lt {α : Type} (d : α) {t : List (Nat × α)} {a : Nat} (h : ∀ c ∈ t, a < c.1) : tabGet d t a = d := by
  induction t with
  | nil => rfl
  | cons c t ih =>
    obtain ⟨k, w⟩ := c
    have hk : a < k := h (k, w) (by simp)
    have hne : ¬ k = a := by omega
    simp only [tabGet, if_neg hne]
    exact ih (fun c hc => h c (List.mem_cons_of_mem _ hc))

/-- A read after a write of the same byte. -/
theorem memGet_memSet_same {m : Mem} (a : Nat) (b : Byte) (h : Memory.wf m = true) :
    memGet (memSet m a b) a = b := by
  rw [memory_wf_iff] at h
  unfold memGet
  induction m with
  | nil => by_cases hb : b = 0#8 <;> simp [memSet, tabGet, hb]
  | cons c t ih =>
    obtain ⟨k, w⟩ := c
    have hp := List.pairwise_cons.1 h.1
    simp only [memSet]
    split
    · rename_i hlt
      split
      · rename_i hb
        rw [hb]
        refine tabGet_of_lt _ (fun c hc => ?_)
        rcases List.mem_cons.1 hc with rfl | hc
        · exact hlt
        · exact lt_trans hlt (hp.1 c hc)
      · simp [tabGet]
    · split
      · rename_i hak
        split
        · rename_i hb
          rw [hb]
          exact tabGet_of_lt _ (fun c hc => by subst hak; exact hp.1 c hc)
        · simp [tabGet]
      · rename_i hne
        have hk : ¬ k = a := fun e => hne e.symm
        simp only [tabGet, if_neg hk]
        exact ih ⟨hp.2, fun x hx => h.2 x (List.mem_cons_of_mem _ hx)⟩

/-- A write leaves every other byte alone. -/
theorem memGet_memSet_other {m : Mem} {a a' : Nat} (b : Byte) (hne : a' ≠ a) :
    memGet (memSet m a b) a' = memGet m a' := by
  have hne' : ¬ a = a' := fun e => hne e.symm
  unfold memGet
  induction m with
  | nil => by_cases hb : b = 0#8 <;> simp [memSet, tabGet, hb, hne']
  | cons c t ih =>
    obtain ⟨k, w⟩ := c
    simp only [memSet]
    split
    · split
      · rfl
      · simp [tabGet, hne']
    · split
      · rename_i hak
        have hk : ¬ k = a' := by subst hak; exact hne'
        split
        · simp [tabGet, hk]
        · simp [tabGet, hk, hne']
      · by_cases hk : k = a'
        · simp [tabGet, hk]
        · simp only [tabGet, if_neg hk]
          exact ih

/-- Bytes outside a run of writes are left alone. -/
theorem memGet_memSetBytes_outside {m : Mem} {a x : Nat} {bs : List Byte} (h : x < a ∨ a + bs.length ≤ x) :
    memGet (memSetBytes m a bs) x = memGet m x := by
  induction bs generalizing m a with
  | nil => rfl
  | cons b bs ih =>
    simp only [List.length_cons] at h
    simp only [memSetBytes]
    rw [ih (by omega), memGet_memSet_other b (by omega)]

/-- What a run of writes leaves at each of its bytes. -/
theorem memGet_memSetBytes_inside {m : Mem} {a i : Nat} {bs : List Byte} (h : Memory.wf m = true)
    (hi : i < bs.length) : memGet (memSetBytes m a bs) (a + i) = bs.getD i 0#8 := by
  induction bs generalizing m a i with
  | nil => simp at hi
  | cons b bs ih =>
    simp only [memSetBytes]
    cases i with
    | zero =>
      rw [memGet_memSetBytes_outside (by omega)]
      simpa using memGet_memSet_same a b h
    | succ i =>
      have e : a + (i + 1) = a + 1 + i := by omega
      rw [e, ih (memSet_wf a b h) (by simpa using hi)]
      simp

/-- A zeroed range reads as zero. -/
theorem memGet_memZero_inside {m : Mem} {a n x : Nat} (h : a ≤ x ∧ x < a + n) : memGet (memZero m a n) x = 0#8 := by
  unfold memGet memZero
  induction m with
  | nil => rfl
  | cons c t ih =>
    obtain ⟨k, w⟩ := c
    rw [List.filter_cons]
    split
    · rename_i hk
      have hne : ¬ k = x := by
        rintro rfl
        simp [h.1, h.2] at hk
      simp only [tabGet, if_neg hne]
      exact ih
    · exact ih

/-- Zeroing a range leaves every byte outside it alone. -/
theorem memGet_memZero_outside {m : Mem} {a n x : Nat} (h : x < a ∨ a + n ≤ x) :
    memGet (memZero m a n) x = memGet m x := by
  unfold memGet memZero
  induction m with
  | nil => rfl
  | cons c t ih =>
    obtain ⟨k, w⟩ := c
    rw [List.filter_cons]
    by_cases hk : k = x
    · subst hk
      have : (!(decide (a ≤ k) && decide (k < a + n))) = true := by
        rcases h with h | h
        · simp only [Bool.not_eq_true', Bool.and_eq_false_iff, decide_eq_false_iff_not]; omega
        · simp only [Bool.not_eq_true', Bool.and_eq_false_iff, decide_eq_false_iff_not]; omega
      rw [if_pos this]
      simp [tabGet]
    · split
      · simp only [tabGet, if_neg hk]; exact ih
      · simp only [tabGet, if_neg hk]; exact ih

/-! ### Tables -/

@[simp] theorem tabGet_tabSet_same {α : Type} (d : α) (t : List (Nat × α)) (i : Nat) (v : α) :
    tabGet d (tabSet t i v) i = v := by
  induction t with
  | nil => simp [tabSet, tabGet]
  | cons c t ih =>
    obtain ⟨k, w⟩ := c
    simp only [tabSet]
    split
    · simp [tabGet]
    · split
      · simp [tabGet]
      · rename_i hne
        have hk : ¬ k = i := fun e => hne e.symm
        simp only [tabGet, if_neg hk]
        exact ih

theorem tabGet_tabSet_other {α : Type} (d : α) (t : List (Nat × α)) {i j : Nat} (v : α) (h : j ≠ i) :
    tabGet d (tabSet t i v) j = tabGet d t j := by
  have h' : ¬ i = j := fun e => h e.symm
  induction t with
  | nil => simp [tabSet, tabGet, h']
  | cons c t ih =>
    obtain ⟨k, w⟩ := c
    simp only [tabSet]
    split
    · simp [tabGet, h']
    · split
      · rename_i hik
        have hk : ¬ k = j := by subst hik; exact h'
        simp [tabGet, h', hk]
      · by_cases hk : k = j
        · simp [tabGet, hk]
        · simp only [tabGet, if_neg hk]
          exact ih

@[simp] theorem tabFind_nil {α : Type} (i : Nat) : tabFind ([] : List (Nat × α)) i = none := rfl

theorem tabFind_cons {α : Type} (k : Nat) (w : α) (t : List (Nat × α)) (i : Nat) :
    tabFind ((k, w) :: t) i = if k = i then some w else tabFind t i := by
  unfold tabFind
  rw [List.find?_cons]
  by_cases h : k = i
  · simp [h]
  · have hk : (k == i) = false := by simpa using h
    rw [if_neg h, hk]

@[simp] theorem tabFind_tabSet_same {α : Type} (t : List (Nat × α)) (i : Nat) (v : α) :
    tabFind (tabSet t i v) i = some v := by
  induction t with
  | nil => simp [tabSet, tabFind_cons]
  | cons c t ih =>
    obtain ⟨k, w⟩ := c
    simp only [tabSet]
    split
    · simp [tabFind_cons]
    · split
      · simp [tabFind_cons]
      · rename_i hne
        have hk : ¬ k = i := fun e => hne e.symm
        rw [tabFind_cons, if_neg hk]
        exact ih

theorem tabFind_tabSet_other {α : Type} (t : List (Nat × α)) {i j : Nat} (v : α) (h : j ≠ i) :
    tabFind (tabSet t i v) j = tabFind t j := by
  have h' : ¬ i = j := fun e => h e.symm
  induction t with
  | nil => simp [tabSet, tabFind_cons, h']
  | cons c t ih =>
    obtain ⟨k, w⟩ := c
    simp only [tabSet]
    split
    · simp [tabFind_cons, h']
    · split
      · rename_i hik
        have hk : ¬ k = j := by subst hik; exact h'
        simp [tabFind_cons, h', hk]
      · rw [tabFind_cons, tabFind_cons, ih]

@[simp] theorem tabFind_tabDel_same {α : Type} (t : List (Nat × α)) (i : Nat) : tabFind (tabDel t i) i = none := by
  unfold tabFind tabDel
  simp only [Option.map_eq_none_iff, List.find?_eq_none]
  intro x hx
  have := (List.mem_filter.1 hx).2
  simpa using this

theorem tabFind_tabDel_other {α : Type} (t : List (Nat × α)) {i j : Nat} (h : j ≠ i) :
    tabFind (tabDel t i) j = tabFind t j := by
  induction t with
  | nil => rfl
  | cons c t ih =>
    obtain ⟨k, w⟩ := c
    unfold tabDel at ih ⊢
    rw [List.filter_cons]
    by_cases hk : k = i
    · subst hk
      have h' : ¬ k = j := fun e => h e.symm
      simp [tabFind_cons, h', ih]
    · simp [hk, tabFind_cons, ih]

/-! ### The register file -/

theorem regFile_wf_iff (r : List (Nat × Word)) : RegFile.wf r = true ↔ r.Pairwise (fun c d => c.1 < d.1) := by
  induction r with
  | nil => simp [RegFile.wf]
  | cons c m ih =>
    obtain ⟨a, b⟩ := c
    cases m with
    | nil => simp [RegFile.wf]
    | cons d t =>
      obtain ⟨a', b'⟩ := d
      simp only [RegFile.wf, Bool.and_eq_true, decide_eq_true_eq, ih]
      constructor
      · rintro ⟨ha, hp⟩
        refine List.pairwise_cons.2 ⟨fun x hx => ?_, hp⟩
        rcases List.mem_cons.1 hx with rfl | hx
        · exact ha
        · exact lt_trans ha ((List.pairwise_cons.1 hp).1 x hx)
      · intro hp
        have hp' := List.pairwise_cons.1 hp
        exact ⟨hp'.1 (a', b') (by simp), hp'.2⟩

theorem regFile_wf_filter {r : List (Nat × Word)} (p : Nat × Word → Bool) (h : RegFile.wf r = true) :
    RegFile.wf (r.filter p) = true := by
  rw [regFile_wf_iff] at h ⊢
  exact h.filter p

theorem regFile_wf_tabDel {r : List (Nat × Word)} (k : Nat) (h : RegFile.wf r = true) :
    RegFile.wf (tabDel r k) = true := regFile_wf_filter _ h

theorem mem_tabSet {α : Type} {t : List (Nat × α)} {i : Nat} {v : α} {c : Nat × α} (hc : c ∈ tabSet t i v) :
    c ∈ t ∨ c = (i, v) := by
  induction t with
  | nil => exact Or.inr (by simpa [tabSet] using hc)
  | cons d t ih =>
    obtain ⟨k, w⟩ := d
    simp only [tabSet] at hc
    split at hc
    · rcases List.mem_cons.1 hc with rfl | hc
      · exact Or.inr rfl
      · exact Or.inl hc
    · split at hc
      · rcases List.mem_cons.1 hc with rfl | hc
        · exact Or.inr rfl
        · exact Or.inl (List.mem_cons_of_mem _ hc)
      · rcases List.mem_cons.1 hc with rfl | hc
        · exact Or.inl (by simp)
        · rcases ih hc with h | h
          · exact Or.inl (List.mem_cons_of_mem _ h)
          · exact Or.inr h

theorem regFile_wf_tabSet {r : List (Nat × Word)} (k : Nat) (v : Word) (h : RegFile.wf r = true) :
    RegFile.wf (tabSet r k v) = true := by
  rw [regFile_wf_iff] at h ⊢
  induction r with
  | nil => simp [tabSet]
  | cons d t ih =>
    obtain ⟨a, w⟩ := d
    have hp := List.pairwise_cons.1 h
    simp only [tabSet]
    split
    · rename_i hlt
      refine List.pairwise_cons.2 ⟨fun x hx => ?_, h⟩
      rcases List.mem_cons.1 hx with rfl | hx
      · exact hlt
      · exact lt_trans hlt (hp.1 x hx)
    · split
      · rename_i hka
        exact List.pairwise_cons.2 ⟨fun x hx => by subst hka; exact hp.1 x hx, hp.2⟩
      · refine List.pairwise_cons.2 ⟨fun x hx => ?_, ih hp.2⟩
        rcases mem_tabSet hx with hx | rfl
        · exact hp.1 x hx
        · show a < k
          omega

end Sys2Proof.Machine
end

