-- ==== Sys2Proof/Laws/State.lean ====
section
/-!
SUPPORT. Reading back what was written: bits of a number, registers and their fields, and the parts of the state that
each named update leaves alone (one lemma per part per update, true by unfolding).
-/
namespace Sys2Proof

/-! ### Bits of a number -/

theorem testBit_natBits (n lo w i : Nat) : (natBits n lo w).testBit i = (decide (i < w) && n.testBit (lo + i)) := by
  unfold natBits
  rw [Nat.testBit_mod_two_pow, Nat.testBit_shiftRight]

theorem testBit_natSetBits (n lo w v i : Nat) :
    (natSetBits n lo w v).testBit i =
      if i < lo then n.testBit i else if i < lo + w then v.testBit (i - lo) else n.testBit i := by
  have e : natSetBits n lo w v = 2 ^ lo * (2 ^ w * (n >>> (lo + w)) + v % 2 ^ w) + n % 2 ^ lo := by
    unfold natSetBits
    rw [Nat.pow_add]
    ring
  rw [e, Nat.testBit_two_pow_mul_add _ (Nat.mod_lt _ (Nat.two_pow_pos _))]
  by_cases h1 : i < lo
  · rw [if_pos h1, if_pos h1, Nat.testBit_mod_two_pow]
    simp [h1]
  · rw [if_neg h1, if_neg h1, Nat.testBit_two_pow_mul_add _ (Nat.mod_lt _ (Nat.two_pow_pos _))]
    by_cases h2 : i < lo + w
    · rw [if_pos h2, if_pos (by omega), Nat.testBit_mod_two_pow]
      simp [show i - lo < w by omega]
    · rw [if_neg h2, if_neg (by omega), Nat.testBit_shiftRight]
      congr 1
      omega

theorem natBits_natSetBits_same (n lo w v : Nat) : natBits (natSetBits n lo w v) lo w = v % 2 ^ w := by
  apply Nat.eq_of_testBit_eq
  intro i
  rw [testBit_natBits, testBit_natSetBits, Nat.testBit_mod_two_pow]
  by_cases h : i < w
  · simp [h, show ¬ lo + i < lo by omega]
  · simp [h]

theorem natBits_natSetBits_other {n lo w v lo' w' : Nat} (h : lo' + w' ≤ lo ∨ lo + w ≤ lo') :
    natBits (natSetBits n lo w v) lo' w' = natBits n lo' w' := by
  apply Nat.eq_of_testBit_eq
  intro i
  rw [testBit_natBits, testBit_natBits, testBit_natSetBits]
  by_cases hi : i < w'
  · simp only [hi, decide_true, Bool.true_and]
    rcases h with h | h
    · rw [if_pos (by omega)]
    · rw [if_neg (by omega), if_neg (by omega)]
  · simp [hi]

theorem natSetBits_lt {n lo w v k : Nat} (hn : n < 2 ^ k) (h : lo + w ≤ k) : natSetBits n lo w v < 2 ^ k := by
  apply Nat.lt_pow_two_of_testBit
  intro i hi
  rw [testBit_natSetBits, if_neg (by omega), if_neg (by omega)]
  exact Nat.testBit_lt_two_pow (lt_of_lt_of_le hn (Nat.pow_le_pow_right (by decide) hi))

theorem natBits_lt (n lo w : Nat) : natBits n lo w < 2 ^ w := Nat.mod_lt _ (Nat.two_pow_pos _)

namespace Machine

/-! ### Registers -/

@[simp] theorem getReg_setReg_same (s : State) (k : Nat) (v : Word) : getReg (setReg s k v) k = v := by
  simp [getReg, setReg]

theorem getReg_setReg_other (s : State) {k k' : Nat} (v : Word) (h : k' ≠ k) :
    getReg (setReg s k v) k' = getReg s k' := by
  simp [getReg, setReg, tabFind_tabSet_other _ _ h]

theorem getReg_setF_other (s : State) {f : Field} {k : Nat} (v : Nat) (h : k ≠ f.reg) :
    getReg (setF s f v) k = getReg s k := getReg_setReg_other s _ h

theorem toNat_getReg_setF (s : State) {f : Field} (v : Nat) (h : f.lo + f.w ≤ 64) :
    (getReg (setF s f v) f.reg).toNat = natSetBits (getReg s f.reg).toNat f.lo f.w v := by
  unfold setF
  rw [getReg_setReg_same, BitVec.toNat_ofNat, Nat.mod_eq_of_lt]
  exact natSetBits_lt (getReg s f.reg).isLt h

/-- A field reads as it was set. -/
theorem getF_setF_same (s : State) {f : Field} (v : Nat) (h : f.lo + f.w ≤ 64) :
    getF (setF s f v) f = v % 2 ^ f.w := by
  unfold getF
  rw [toNat_getReg_setF s v h, natBits_natSetBits_same]

/-- Setting a field leaves every field of another register alone. -/
theorem getF_setF_reg (s : State) {f g : Field} (v : Nat) (h : g.reg ≠ f.reg) : getF (setF s f v) g = getF s g := by
  unfold getF
  rw [getReg_setF_other s v h]

/-- Setting a field leaves the other fields of its register alone. -/
theorem getF_setF_disj (s : State) {f g : Field} (v : Nat) (hr : g.reg = f.reg) (hf : f.lo + f.w ≤ 64)
    (h : g.lo + g.w ≤ f.lo ∨ f.lo + f.w ≤ g.lo) : getF (setF s f v) g = getF s g := by
  unfold getF
  rw [hr, toNat_getReg_setF s v hf, natBits_natSetBits_other h]

theorem getF_setReg_other (s : State) {f : Field} {k : Nat} (v : Word) (h : f.reg ≠ k) :
    getF (setReg s k v) f = getF s f := by
  unfold getF
  rw [getReg_setReg_other s v h]

theorem getF_setReg_same (s : State) (f : Field) (v : Word) : getF (setReg s f.reg v) f = natBits v.toNat f.lo f.w := by
  unfold getF
  rw [getReg_setReg_same]

/-- A one-bit field that was raised is set. -/
theorem bitF_raiseF_same (s : State) {f : Field} (hw : f.w = 1) (h : f.lo < 64) : bitF (raiseF s f) f = true := by
  unfold bitF raiseF
  rw [getF_setF_same s 1 (by omega), hw]
  rfl

theorem getF_congr {s t : State} (h : t.regs = s.regs) (f : Field) : getF t f = getF s f := by
  unfold getF getReg
  rw [h]

theorem getReg_congr {s t : State} (h : t.regs = s.regs) (k : Nat) : getReg t k = getReg s k := by
  unfold getReg
  rw [h]

/-! ### What an update leaves alone -/

@[simp] theorem setReg_pending (s : State) (k : Nat) (v : Word) : (setReg s k v).pending = s.pending := rfl
@[simp] theorem setReg_fresh (s : State) (k : Nat) (v : Word) : (setReg s k v).fresh = s.fresh := rfl
@[simp] theorem setReg_out (s : State) (k : Nat) (v : Word) : (setReg s k v).out = s.out := rfl
@[simp] theorem setReg_comp (s : State) (k : Nat) (v : Word) : (setReg s k v).comp = s.comp := rfl
@[simp] theorem setReg_tiers (s : State) (k : Nat) (v : Word) : (setReg s k v).tiers = s.tiers := rfl
@[simp] theorem setReg_flash (s : State) (k : Nat) (v : Word) : (setReg s k v).flash = s.flash := rfl
@[simp] theorem setReg_fab (s : State) (k : Nat) (v : Word) : (setReg s k v).fab = s.fab := rfl
@[simp] theorem setReg_host (s : State) (k : Nat) (v : Word) : (setReg s k v).host = s.host := rfl
@[simp] theorem setReg_time (s : State) (k : Nat) (v : Word) : (setReg s k v).time = s.time := rfl
@[simp] theorem setReg_cfg (s : State) (k : Nat) (v : Word) : (setReg s k v).cfg = s.cfg := rfl
@[simp] theorem setReg_fault (s : State) (k : Nat) (v : Word) : (setReg s k v).fault = s.fault := rfl
@[simp] theorem setReg_bezel (s : State) (k : Nat) (v : Word) : (setReg s k v).bezel = s.bezel := rfl
@[simp] theorem setReg_router (s : State) (k : Nat) (v : Word) : (setReg s k v).router = s.router := rfl
@[simp] theorem setReg_ward (s : State) (k : Nat) (v : Word) : (setReg s k v).ward = s.ward := rfl
@[simp] theorem setReg_warden (s : State) (k : Nat) (v : Word) : (setReg s k v).warden = s.warden := rfl
@[simp] theorem setReg_hinge (s : State) (k : Nat) (v : Word) : (setReg s k v).hinge = s.hinge := rfl
@[simp] theorem setReg_assay (s : State) (k : Nat) (v : Word) : (setReg s k v).assay = s.assay := rfl
@[simp] theorem setReg_power (s : State) (k : Nat) (v : Word) : (setReg s k v).power = s.power := rfl
@[simp] theorem setReg_padlock (s : State) (k : Nat) (v : Word) : (setReg s k v).padlock = s.padlock := rfl
@[simp] theorem setReg_tel (s : State) (k : Nat) (v : Word) : (setReg s k v).tel = s.tel := rfl

@[simp] theorem setF_pending (s : State) (f : Field) (v : Nat) : (setF s f v).pending = s.pending := rfl
@[simp] theorem setF_fresh (s : State) (f : Field) (v : Nat) : (setF s f v).fresh = s.fresh := rfl
@[simp] theorem setF_out (s : State) (f : Field) (v : Nat) : (setF s f v).out = s.out := rfl
@[simp] theorem setF_comp (s : State) (f : Field) (v : Nat) : (setF s f v).comp = s.comp := rfl
@[simp] theorem setF_tiers (s : State) (f : Field) (v : Nat) : (setF s f v).tiers = s.tiers := rfl
@[simp] theorem setF_flash (s : State) (f : Field) (v : Nat) : (setF s f v).flash = s.flash := rfl
@[simp] theorem setF_fab (s : State) (f : Field) (v : Nat) : (setF s f v).fab = s.fab := rfl
@[simp] theorem setF_host (s : State) (f : Field) (v : Nat) : (setF s f v).host = s.host := rfl
@[simp] theorem setF_time (s : State) (f : Field) (v : Nat) : (setF s f v).time = s.time := rfl
@[simp] theorem setF_cfg (s : State) (f : Field) (v : Nat) : (setF s f v).cfg = s.cfg := rfl
@[simp] theorem setF_fault (s : State) (f : Field) (v : Nat) : (setF s f v).fault = s.fault := rfl
@[simp] theorem setF_bezel (s : State) (f : Field) (v : Nat) : (setF s f v).bezel = s.bezel := rfl
@[simp] theorem setF_router (s : State) (f : Field) (v : Nat) : (setF s f v).router = s.router := rfl
@[simp] theorem setF_ward (s : State) (f : Field) (v : Nat) : (setF s f v).ward = s.ward := rfl
@[simp] theorem setF_warden (s : State) (f : Field) (v : Nat) : (setF s f v).warden = s.warden := rfl
@[simp] theorem setF_hinge (s : State) (f : Field) (v : Nat) : (setF s f v).hinge = s.hinge := rfl
@[simp] theorem setF_assay (s : State) (f : Field) (v : Nat) : (setF s f v).assay = s.assay := rfl
@[simp] theorem setF_power (s : State) (f : Field) (v : Nat) : (setF s f v).power = s.power := rfl
@[simp] theorem setF_padlock (s : State) (f : Field) (v : Nat) : (setF s f v).padlock = s.padlock := rfl
@[simp] theorem setF_tel (s : State) (f : Field) (v : Nat) : (setF s f v).tel = s.tel := rfl

@[simp] theorem raiseF_pending (s : State) (f : Field) : (raiseF s f).pending = s.pending := setF_pending s f 1
@[simp] theorem raiseF_fresh (s : State) (f : Field) : (raiseF s f).fresh = s.fresh := setF_fresh s f 1
@[simp] theorem raiseF_out (s : State) (f : Field) : (raiseF s f).out = s.out := setF_out s f 1
@[simp] theorem raiseF_comp (s : State) (f : Field) : (raiseF s f).comp = s.comp := setF_comp s f 1
@[simp] theorem raiseF_tiers (s : State) (f : Field) : (raiseF s f).tiers = s.tiers := setF_tiers s f 1
@[simp] theorem raiseF_flash (s : State) (f : Field) : (raiseF s f).flash = s.flash := setF_flash s f 1
@[simp] theorem raiseF_fab (s : State) (f : Field) : (raiseF s f).fab = s.fab := setF_fab s f 1
@[simp] theorem raiseF_host (s : State) (f : Field) : (raiseF s f).host = s.host := setF_host s f 1
@[simp] theorem raiseF_time (s : State) (f : Field) : (raiseF s f).time = s.time := setF_time s f 1
@[simp] theorem raiseF_cfg (s : State) (f : Field) : (raiseF s f).cfg = s.cfg := setF_cfg s f 1
@[simp] theorem raiseF_fault (s : State) (f : Field) : (raiseF s f).fault = s.fault := setF_fault s f 1
@[simp] theorem raiseF_bezel (s : State) (f : Field) : (raiseF s f).bezel = s.bezel := setF_bezel s f 1
@[simp] theorem raiseF_router (s : State) (f : Field) : (raiseF s f).router = s.router := setF_router s f 1
@[simp] theorem raiseF_ward (s : State) (f : Field) : (raiseF s f).ward = s.ward := setF_ward s f 1
@[simp] theorem raiseF_warden (s : State) (f : Field) : (raiseF s f).warden = s.warden := setF_warden s f 1
@[simp] theorem raiseF_hinge (s : State) (f : Field) : (raiseF s f).hinge = s.hinge := setF_hinge s f 1
@[simp] theorem raiseF_assay (s : State) (f : Field) : (raiseF s f).assay = s.assay := setF_assay s f 1
@[simp] theorem raiseF_power (s : State) (f : Field) : (raiseF s f).power = s.power := setF_power s f 1
@[simp] theorem raiseF_padlock (s : State) (f : Field) : (raiseF s f).padlock = s.padlock := setF_padlock s f 1
@[simp] theorem raiseF_tel (s : State) (f : Field) : (raiseF s f).tel = s.tel := setF_tel s f 1

@[simp] theorem bumpF_pending (s : State) (f : Field) (n : Nat) : (bumpF s f n).pending = s.pending := setF_pending s f _
@[simp] theorem bumpF_fresh (s : State) (f : Field) (n : Nat) : (bumpF s f n).fresh = s.fresh := setF_fresh s f _
@[simp] theorem bumpF_out (s : State) (f : Field) (n : Nat) : (bumpF s f n).out = s.out := setF_out s f _
@[simp] theorem bumpF_comp (s : State) (f : Field) (n : Nat) : (bumpF s f n).comp = s.comp := setF_comp s f _
@[simp] theorem bumpF_tiers (s : State) (f : Field) (n : Nat) : (bumpF s f n).tiers = s.tiers := setF_tiers s f _
@[simp] theorem bumpF_flash (s : State) (f : Field) (n : Nat) : (bumpF s f n).flash = s.flash := setF_flash s f _
@[simp] theorem bumpF_fab (s : State) (f : Field) (n : Nat) : (bumpF s f n).fab = s.fab := setF_fab s f _
@[simp] theorem bumpF_host (s : State) (f : Field) (n : Nat) : (bumpF s f n).host = s.host := setF_host s f _
@[simp] theorem bumpF_time (s : State) (f : Field) (n : Nat) : (bumpF s f n).time = s.time := setF_time s f _
@[simp] theorem bumpF_cfg (s : State) (f : Field) (n : Nat) : (bumpF s f n).cfg = s.cfg := setF_cfg s f _
@[simp] theorem bumpF_fault (s : State) (f : Field) (n : Nat) : (bumpF s f n).fault = s.fault := setF_fault s f _
@[simp] theorem bumpF_bezel (s : State) (f : Field) (n : Nat) : (bumpF s f n).bezel = s.bezel := setF_bezel s f _
@[simp] theorem bumpF_router (s : State) (f : Field) (n : Nat) : (bumpF s f n).router = s.router := setF_router s f _
@[simp] theorem bumpF_ward (s : State) (f : Field) (n : Nat) : (bumpF s f n).ward = s.ward := setF_ward s f _
@[simp] theorem bumpF_warden (s : State) (f : Field) (n : Nat) : (bumpF s f n).warden = s.warden := setF_warden s f _
@[simp] theorem bumpF_hinge (s : State) (f : Field) (n : Nat) : (bumpF s f n).hinge = s.hinge := setF_hinge s f _
@[simp] theorem bumpF_assay (s : State) (f : Field) (n : Nat) : (bumpF s f n).assay = s.assay := setF_assay s f _
@[simp] theorem bumpF_power (s : State) (f : Field) (n : Nat) : (bumpF s f n).power = s.power := setF_power s f _
@[simp] theorem bumpF_padlock (s : State) (f : Field) (n : Nat) : (bumpF s f n).padlock = s.padlock := setF_padlock s f _
@[simp] theorem bumpF_tel (s : State) (f : Field) (n : Nat) : (bumpF s f n).tel = s.tel := setF_tel s f _

@[simp] theorem bumpWrapF_pending (s : State) (f : Field) (n : Nat) : (bumpWrapF s f n).pending = s.pending := setF_pending s f _
@[simp] theorem bumpWrapF_fresh (s : State) (f : Field) (n : Nat) : (bumpWrapF s f n).fresh = s.fresh := setF_fresh s f _
@[simp] theorem bumpWrapF_out (s : State) (f : Field) (n : Nat) : (bumpWrapF s f n).out = s.out := setF_out s f _
@[simp] theorem bumpWrapF_comp (s : State) (f : Field) (n : Nat) : (bumpWrapF s f n).comp = s.comp := setF_comp s f _
@[simp] theorem bumpWrapF_tiers (s : State) (f : Field) (n : Nat) : (bumpWrapF s f n).tiers = s.tiers := setF_tiers s f _
@[simp] theorem bumpWrapF_flash (s : State) (f : Field) (n : Nat) : (bumpWrapF s f n).flash = s.flash := setF_flash s f _
@[simp] theorem bumpWrapF_fab (s : State) (f : Field) (n : Nat) : (bumpWrapF s f n).fab = s.fab := setF_fab s f _
@[simp] theorem bumpWrapF_host (s : State) (f : Field) (n : Nat) : (bumpWrapF s f n).host = s.host := setF_host s f _
@[simp] theorem bumpWrapF_time (s : State) (f : Field) (n : Nat) : (bumpWrapF s f n).time = s.time := setF_time s f _
@[simp] theorem bumpWrapF_cfg (s : State) (f : Field) (n : Nat) : (bumpWrapF s f n).cfg = s.cfg := setF_cfg s f _
@[simp] theorem bumpWrapF_fault (s : State) (f : Field) (n : Nat) : (bumpWrapF s f n).fault = s.fault := setF_fault s f _
@[simp] theorem bumpWrapF_bezel (s : State) (f : Field) (n : Nat) : (bumpWrapF s f n).bezel = s.bezel := setF_bezel s f _
@[simp] theorem bumpWrapF_router (s : State) (f : Field) (n : Nat) : (bumpWrapF s f n).router = s.router := setF_router s f _
@[simp] theorem bumpWrapF_ward (s : State) (f : Field) (n : Nat) : (bumpWrapF s f n).ward = s.ward := setF_ward s f _
@[simp] theorem bumpWrapF_warden (s : State) (f : Field) (n : Nat) : (bumpWrapF s f n).warden = s.warden := setF_warden s f _
@[simp] theorem bumpWrapF_hinge (s : State) (f : Field) (n : Nat) : (bumpWrapF s f n).hinge = s.hinge := setF_hinge s f _
@[simp] theorem bumpWrapF_assay (s : State) (f : Field) (n : Nat) : (bumpWrapF s f n).assay = s.assay := setF_assay s f _
@[simp] theorem bumpWrapF_power (s : State) (f : Field) (n : Nat) : (bumpWrapF s f n).power = s.power := setF_power s f _
@[simp] theorem bumpWrapF_padlock (s : State) (f : Field) (n : Nat) : (bumpWrapF s f n).padlock = s.padlock := setF_padlock s f _
@[simp] theorem bumpWrapF_tel (s : State) (f : Field) (n : Nat) : (bumpWrapF s f n).tel = s.tel := setF_tel s f _

@[simp] theorem resetReg_pending (s : State) (k : Nat) : (resetReg s k).pending = s.pending := rfl
@[simp] theorem resetReg_fresh (s : State) (k : Nat) : (resetReg s k).fresh = s.fresh := rfl
@[simp] theorem resetReg_out (s : State) (k : Nat) : (resetReg s k).out = s.out := rfl
@[simp] theorem resetReg_comp (s : State) (k : Nat) : (resetReg s k).comp = s.comp := rfl
@[simp] theorem resetReg_tiers (s : State) (k : Nat) : (resetReg s k).tiers = s.tiers := rfl
@[simp] theorem resetReg_flash (s : State) (k : Nat) : (resetReg s k).flash = s.flash := rfl
@[simp] theorem resetReg_fab (s : State) (k : Nat) : (resetReg s k).fab = s.fab := rfl
@[simp] theorem resetReg_host (s : State) (k : Nat) : (resetReg s k).host = s.host := rfl
@[simp] theorem resetReg_time (s : State) (k : Nat) : (resetReg s k).time = s.time := rfl
@[simp] theorem resetReg_cfg (s : State) (k : Nat) : (resetReg s k).cfg = s.cfg := rfl
@[simp] theorem resetReg_fault (s : State) (k : Nat) : (resetReg s k).fault = s.fault := rfl
@[simp] theorem resetReg_bezel (s : State) (k : Nat) : (resetReg s k).bezel = s.bezel := rfl
@[simp] theorem resetReg_router (s : State) (k : Nat) : (resetReg s k).router = s.router := rfl
@[simp] theorem resetReg_ward (s : State) (k : Nat) : (resetReg s k).ward = s.ward := rfl
@[simp] theorem resetReg_warden (s : State) (k : Nat) : (resetReg s k).warden = s.warden := rfl
@[simp] theorem resetReg_hinge (s : State) (k : Nat) : (resetReg s k).hinge = s.hinge := rfl
@[simp] theorem resetReg_assay (s : State) (k : Nat) : (resetReg s k).assay = s.assay := rfl
@[simp] theorem resetReg_power (s : State) (k : Nat) : (resetReg s k).power = s.power := rfl
@[simp] theorem resetReg_padlock (s : State) (k : Nat) : (resetReg s k).padlock = s.padlock := rfl
@[simp] theorem resetReg_tel (s : State) (k : Nat) : (resetReg s k).tel = s.tel := rfl

@[simp] theorem emit_pending (s : State) (k : OutKind) (l : List Nat) : (s.emit k l).pending = s.pending := rfl
@[simp] theorem emit_fresh (s : State) (k : OutKind) (l : List Nat) : (s.emit k l).fresh = s.fresh := rfl
@[simp] theorem emit_regs (s : State) (k : OutKind) (l : List Nat) : (s.emit k l).regs = s.regs := rfl
@[simp] theorem emit_comp (s : State) (k : OutKind) (l : List Nat) : (s.emit k l).comp = s.comp := rfl
@[simp] theorem emit_tiers (s : State) (k : OutKind) (l : List Nat) : (s.emit k l).tiers = s.tiers := rfl
@[simp] theorem emit_flash (s : State) (k : OutKind) (l : List Nat) : (s.emit k l).flash = s.flash := rfl
@[simp] theorem emit_fab (s : State) (k : OutKind) (l : List Nat) : (s.emit k l).fab = s.fab := rfl
@[simp] theorem emit_host (s : State) (k : OutKind) (l : List Nat) : (s.emit k l).host = s.host := rfl
@[simp] theorem emit_time (s : State) (k : OutKind) (l : List Nat) : (s.emit k l).time = s.time := rfl
@[simp] theorem emit_cfg (s : State) (k : OutKind) (l : List Nat) : (s.emit k l).cfg = s.cfg := rfl
@[simp] theorem emit_fault (s : State) (k : OutKind) (l : List Nat) : (s.emit k l).fault = s.fault := rfl
@[simp] theorem emit_bezel (s : State) (k : OutKind) (l : List Nat) : (s.emit k l).bezel = s.bezel := rfl
@[simp] theorem emit_router (s : State) (k : OutKind) (l : List Nat) : (s.emit k l).router = s.router := rfl
@[simp] theorem emit_ward (s : State) (k : OutKind) (l : List Nat) : (s.emit k l).ward = s.ward := rfl
@[simp] theorem emit_warden (s : State) (k : OutKind) (l : List Nat) : (s.emit k l).warden = s.warden := rfl
@[simp] theorem emit_hinge (s : State) (k : OutKind) (l : List Nat) : (s.emit k l).hinge = s.hinge := rfl
@[simp] theorem emit_assay (s : State) (k : OutKind) (l : List Nat) : (s.emit k l).assay = s.assay := rfl
@[simp] theorem emit_power (s : State) (k : OutKind) (l : List Nat) : (s.emit k l).power = s.power := rfl
@[simp] theorem emit_padlock (s : State) (k : OutKind) (l : List Nat) : (s.emit k l).padlock = s.padlock := rfl
@[simp] theorem emit_tel (s : State) (k : OutKind) (l : List Nat) : (s.emit k l).tel = s.tel := rfl

@[simp] theorem takeFree_pending (s : State) : s.takeFree.2.pending = s.pending := rfl
@[simp] theorem takeFree_out (s : State) : s.takeFree.2.out = s.out := rfl
@[simp] theorem takeFree_regs (s : State) : s.takeFree.2.regs = s.regs := rfl
@[simp] theorem takeFree_comp (s : State) : s.takeFree.2.comp = s.comp := rfl
@[simp] theorem takeFree_tiers (s : State) : s.takeFree.2.tiers = s.tiers := rfl
@[simp] theorem takeFree_flash (s : State) : s.takeFree.2.flash = s.flash := rfl
@[simp] theorem takeFree_fab (s : State) : s.takeFree.2.fab = s.fab := rfl
@[simp] theorem takeFree_host (s : State) : s.takeFree.2.host = s.host := rfl
@[simp] theorem takeFree_time (s : State) : s.takeFree.2.time = s.time := rfl
@[simp] theorem takeFree_cfg (s : State) : s.takeFree.2.cfg = s.cfg := rfl
@[simp] theorem takeFree_fault (s : State) : s.takeFree.2.fault = s.fault := rfl
@[simp] theorem takeFree_bezel (s : State) : s.takeFree.2.bezel = s.bezel := rfl
@[simp] theorem takeFree_router (s : State) : s.takeFree.2.router = s.router := rfl
@[simp] theorem takeFree_ward (s : State) : s.takeFree.2.ward = s.ward := rfl
@[simp] theorem takeFree_warden (s : State) : s.takeFree.2.warden = s.warden := rfl
@[simp] theorem takeFree_hinge (s : State) : s.takeFree.2.hinge = s.hinge := rfl
@[simp] theorem takeFree_assay (s : State) : s.takeFree.2.assay = s.assay := rfl
@[simp] theorem takeFree_power (s : State) : s.takeFree.2.power = s.power := rfl
@[simp] theorem takeFree_padlock (s : State) : s.takeFree.2.padlock = s.padlock := rfl
@[simp] theorem takeFree_tel (s : State) : s.takeFree.2.tel = s.tel := rfl

@[simp] theorem setCore_pending (s : State) (c : Nat) (v : Core) : (setCore s c v).pending = s.pending := rfl
@[simp] theorem setCore_fresh (s : State) (c : Nat) (v : Core) : (setCore s c v).fresh = s.fresh := rfl
@[simp] theorem setCore_out (s : State) (c : Nat) (v : Core) : (setCore s c v).out = s.out := rfl
@[simp] theorem setCore_regs (s : State) (c : Nat) (v : Core) : (setCore s c v).regs = s.regs := rfl
@[simp] theorem setCore_tiers (s : State) (c : Nat) (v : Core) : (setCore s c v).tiers = s.tiers := rfl
@[simp] theorem setCore_flash (s : State) (c : Nat) (v : Core) : (setCore s c v).flash = s.flash := rfl
@[simp] theorem setCore_fab (s : State) (c : Nat) (v : Core) : (setCore s c v).fab = s.fab := rfl
@[simp] theorem setCore_host (s : State) (c : Nat) (v : Core) : (setCore s c v).host = s.host := rfl
@[simp] theorem setCore_time (s : State) (c : Nat) (v : Core) : (setCore s c v).time = s.time := rfl
@[simp] theorem setCore_cfg (s : State) (c : Nat) (v : Core) : (setCore s c v).cfg = s.cfg := rfl
@[simp] theorem setCore_fault (s : State) (c : Nat) (v : Core) : (setCore s c v).fault = s.fault := rfl
@[simp] theorem setCore_bezel (s : State) (c : Nat) (v : Core) : (setCore s c v).bezel = s.bezel := rfl
@[simp] theorem setCore_router (s : State) (c : Nat) (v : Core) : (setCore s c v).router = s.router := rfl
@[simp] theorem setCore_ward (s : State) (c : Nat) (v : Core) : (setCore s c v).ward = s.ward := rfl
@[simp] theorem setCore_warden (s : State) (c : Nat) (v : Core) : (setCore s c v).warden = s.warden := rfl
@[simp] theorem setCore_hinge (s : State) (c : Nat) (v : Core) : (setCore s c v).hinge = s.hinge := rfl
@[simp] theorem setCore_assay (s : State) (c : Nat) (v : Core) : (setCore s c v).assay = s.assay := rfl
@[simp] theorem setCore_power (s : State) (c : Nat) (v : Core) : (setCore s c v).power = s.power := rfl
@[simp] theorem setCore_padlock (s : State) (c : Nat) (v : Core) : (setCore s c v).padlock = s.padlock := rfl
@[simp] theorem setCore_tel (s : State) (c : Nat) (v : Core) : (setCore s c v).tel = s.tel := rfl

@[simp] theorem modCore_pending (s : State) (c : Nat) (g : Core → Core) : (modCore s c g).pending = s.pending := rfl
@[simp] theorem modCore_fresh (s : State) (c : Nat) (g : Core → Core) : (modCore s c g).fresh = s.fresh := rfl
@[simp] theorem modCore_out (s : State) (c : Nat) (g : Core → Core) : (modCore s c g).out = s.out := rfl
@[simp] theorem modCore_regs (s : State) (c : Nat) (g : Core → Core) : (modCore s c g).regs = s.regs := rfl
@[simp] theorem modCore_tiers (s : State) (c : Nat) (g : Core → Core) : (modCore s c g).tiers = s.tiers := rfl
@[simp] theorem modCore_flash (s : State) (c : Nat) (g : Core → Core) : (modCore s c g).flash = s.flash := rfl
@[simp] theorem modCore_fab (s : State) (c : Nat) (g : Core → Core) : (modCore s c g).fab = s.fab := rfl
@[simp] theorem modCore_host (s : State) (c : Nat) (g : Core → Core) : (modCore s c g).host = s.host := rfl
@[simp] theorem modCore_time (s : State) (c : Nat) (g : Core → Core) : (modCore s c g).time = s.time := rfl
@[simp] theorem modCore_cfg (s : State) (c : Nat) (g : Core → Core) : (modCore s c g).cfg = s.cfg := rfl
@[simp] theorem modCore_fault (s : State) (c : Nat) (g : Core → Core) : (modCore s c g).fault = s.fault := rfl
@[simp] theorem modCore_bezel (s : State) (c : Nat) (g : Core → Core) : (modCore s c g).bezel = s.bezel := rfl
@[simp] theorem modCore_router (s : State) (c : Nat) (g : Core → Core) : (modCore s c g).router = s.router := rfl
@[simp] theorem modCore_ward (s : State) (c : Nat) (g : Core → Core) : (modCore s c g).ward = s.ward := rfl
@[simp] theorem modCore_warden (s : State) (c : Nat) (g : Core → Core) : (modCore s c g).warden = s.warden := rfl
@[simp] theorem modCore_hinge (s : State) (c : Nat) (g : Core → Core) : (modCore s c g).hinge = s.hinge := rfl
@[simp] theorem modCore_assay (s : State) (c : Nat) (g : Core → Core) : (modCore s c g).assay = s.assay := rfl
@[simp] theorem modCore_power (s : State) (c : Nat) (g : Core → Core) : (modCore s c g).power = s.power := rfl
@[simp] theorem modCore_padlock (s : State) (c : Nat) (g : Core → Core) : (modCore s c g).padlock = s.padlock := rfl
@[simp] theorem modCore_tel (s : State) (c : Nat) (g : Core → Core) : (modCore s c g).tel = s.tel := rfl

@[simp] theorem modStrand_pending (s : State) (c i : Nat) (g : Strand → Strand) : (modStrand s c i g).pending = s.pending := rfl
@[simp] theorem modStrand_fresh (s : State) (c i : Nat) (g : Strand → Strand) : (modStrand s c i g).fresh = s.fresh := rfl
@[simp] theorem modStrand_out (s : State) (c i : Nat) (g : Strand → Strand) : (modStrand s c i g).out = s.out := rfl
@[simp] theorem modStrand_regs (s : State) (c i : Nat) (g : Strand → Strand) : (modStrand s c i g).regs = s.regs := rfl
@[simp] theorem modStrand_tiers (s : State) (c i : Nat) (g : Strand → Strand) : (modStrand s c i g).tiers = s.tiers := rfl
@[simp] theorem modStrand_flash (s : State) (c i : Nat) (g : Strand → Strand) : (modStrand s c i g).flash = s.flash := rfl
@[simp] theorem modStrand_fab (s : State) (c i : Nat) (g : Strand → Strand) : (modStrand s c i g).fab = s.fab := rfl
@[simp] theorem modStrand_host (s : State) (c i : Nat) (g : Strand → Strand) : (modStrand s c i g).host = s.host := rfl
@[simp] theorem modStrand_time (s : State) (c i : Nat) (g : Strand → Strand) : (modStrand s c i g).time = s.time := rfl
@[simp] theorem modStrand_cfg (s : State) (c i : Nat) (g : Strand → Strand) : (modStrand s c i g).cfg = s.cfg := rfl
@[simp] theorem modStrand_fault (s : State) (c i : Nat) (g : Strand → Strand) : (modStrand s c i g).fault = s.fault := rfl
@[simp] theorem modStrand_bezel (s : State) (c i : Nat) (g : Strand → Strand) : (modStrand s c i g).bezel = s.bezel := rfl
@[simp] theorem modStrand_router (s : State) (c i : Nat) (g : Strand → Strand) : (modStrand s c i g).router = s.router := rfl
@[simp] theorem modStrand_ward (s : State) (c i : Nat) (g : Strand → Strand) : (modStrand s c i g).ward = s.ward := rfl
@[simp] theorem modStrand_warden (s : State) (c i : Nat) (g : Strand → Strand) : (modStrand s c i g).warden = s.warden := rfl
@[simp] theorem modStrand_hinge (s : State) (c i : Nat) (g : Strand → Strand) : (modStrand s c i g).hinge = s.hinge := rfl
@[simp] theorem modStrand_assay (s : State) (c i : Nat) (g : Strand → Strand) : (modStrand s c i g).assay = s.assay := rfl
@[simp] theorem modStrand_power (s : State) (c i : Nat) (g : Strand → Strand) : (modStrand s c i g).power = s.power := rfl
@[simp] theorem modStrand_padlock (s : State) (c i : Nat) (g : Strand → Strand) : (modStrand s c i g).padlock = s.padlock := rfl
@[simp] theorem modStrand_tel (s : State) (c i : Nat) (g : Strand → Strand) : (modStrand s c i g).tel = s.tel := rfl

@[simp] theorem setCluster_pending (s : State) (k : Nat) (v : Cluster) : (setCluster s k v).pending = s.pending := rfl
@[simp] theorem setCluster_fresh (s : State) (k : Nat) (v : Cluster) : (setCluster s k v).fresh = s.fresh := rfl
@[simp] theorem setCluster_out (s : State) (k : Nat) (v : Cluster) : (setCluster s k v).out = s.out := rfl
@[simp] theorem setCluster_regs (s : State) (k : Nat) (v : Cluster) : (setCluster s k v).regs = s.regs := rfl
@[simp] theorem setCluster_tiers (s : State) (k : Nat) (v : Cluster) : (setCluster s k v).tiers = s.tiers := rfl
@[simp] theorem setCluster_flash (s : State) (k : Nat) (v : Cluster) : (setCluster s k v).flash = s.flash := rfl
@[simp] theorem setCluster_fab (s : State) (k : Nat) (v : Cluster) : (setCluster s k v).fab = s.fab := rfl
@[simp] theorem setCluster_host (s : State) (k : Nat) (v : Cluster) : (setCluster s k v).host = s.host := rfl
@[simp] theorem setCluster_time (s : State) (k : Nat) (v : Cluster) : (setCluster s k v).time = s.time := rfl
@[simp] theorem setCluster_cfg (s : State) (k : Nat) (v : Cluster) : (setCluster s k v).cfg = s.cfg := rfl
@[simp] theorem setCluster_fault (s : State) (k : Nat) (v : Cluster) : (setCluster s k v).fault = s.fault := rfl
@[simp] theorem setCluster_bezel (s : State) (k : Nat) (v : Cluster) : (setCluster s k v).bezel = s.bezel := rfl
@[simp] theorem setCluster_router (s : State) (k : Nat) (v : Cluster) : (setCluster s k v).router = s.router := rfl
@[simp] theorem setCluster_ward (s : State) (k : Nat) (v : Cluster) : (setCluster s k v).ward = s.ward := rfl
@[simp] theorem setCluster_warden (s : State) (k : Nat) (v : Cluster) : (setCluster s k v).warden = s.warden := rfl
@[simp] theorem setCluster_hinge (s : State) (k : Nat) (v : Cluster) : (setCluster s k v).hinge = s.hinge := rfl
@[simp] theorem setCluster_assay (s : State) (k : Nat) (v : Cluster) : (setCluster s k v).assay = s.assay := rfl
@[simp] theorem setCluster_power (s : State) (k : Nat) (v : Cluster) : (setCluster s k v).power = s.power := rfl
@[simp] theorem setCluster_padlock (s : State) (k : Nat) (v : Cluster) : (setCluster s k v).padlock = s.padlock := rfl
@[simp] theorem setCluster_tel (s : State) (k : Nat) (v : Cluster) : (setCluster s k v).tel = s.tel := rfl

@[simp] theorem modCluster_pending (s : State) (k : Nat) (g : Cluster → Cluster) : (modCluster s k g).pending = s.pending := rfl
@[simp] theorem modCluster_fresh (s : State) (k : Nat) (g : Cluster → Cluster) : (modCluster s k g).fresh = s.fresh := rfl
@[simp] theorem modCluster_out (s : State) (k : Nat) (g : Cluster → Cluster) : (modCluster s k g).out = s.out := rfl
@[simp] theorem modCluster_regs (s : State) (k : Nat) (g : Cluster → Cluster) : (modCluster s k g).regs = s.regs := rfl
@[simp] theorem modCluster_tiers (s : State) (k : Nat) (g : Cluster → Cluster) : (modCluster s k g).tiers = s.tiers := rfl
@[simp] theorem modCluster_flash (s : State) (k : Nat) (g : Cluster → Cluster) : (modCluster s k g).flash = s.flash := rfl
@[simp] theorem modCluster_fab (s : State) (k : Nat) (g : Cluster → Cluster) : (modCluster s k g).fab = s.fab := rfl
@[simp] theorem modCluster_host (s : State) (k : Nat) (g : Cluster → Cluster) : (modCluster s k g).host = s.host := rfl
@[simp] theorem modCluster_time (s : State) (k : Nat) (g : Cluster → Cluster) : (modCluster s k g).time = s.time := rfl
@[simp] theorem modCluster_cfg (s : State) (k : Nat) (g : Cluster → Cluster) : (modCluster s k g).cfg = s.cfg := rfl
@[simp] theorem modCluster_fault (s : State) (k : Nat) (g : Cluster → Cluster) : (modCluster s k g).fault = s.fault := rfl
@[simp] theorem modCluster_bezel (s : State) (k : Nat) (g : Cluster → Cluster) : (modCluster s k g).bezel = s.bezel := rfl
@[simp] theorem modCluster_router (s : State) (k : Nat) (g : Cluster → Cluster) : (modCluster s k g).router = s.router := rfl
@[simp] theorem modCluster_ward (s : State) (k : Nat) (g : Cluster → Cluster) : (modCluster s k g).ward = s.ward := rfl
@[simp] theorem modCluster_warden (s : State) (k : Nat) (g : Cluster → Cluster) : (modCluster s k g).warden = s.warden := rfl
@[simp] theorem modCluster_hinge (s : State) (k : Nat) (g : Cluster → Cluster) : (modCluster s k g).hinge = s.hinge := rfl
@[simp] theorem modCluster_assay (s : State) (k : Nat) (g : Cluster → Cluster) : (modCluster s k g).assay = s.assay := rfl
@[simp] theorem modCluster_power (s : State) (k : Nat) (g : Cluster → Cluster) : (modCluster s k g).power = s.power := rfl
@[simp] theorem modCluster_padlock (s : State) (k : Nat) (g : Cluster → Cluster) : (modCluster s k g).padlock = s.padlock := rfl
@[simp] theorem modCluster_tel (s : State) (k : Nat) (g : Cluster → Cluster) : (modCluster s k g).tel = s.tel := rfl

@[simp] theorem sramStoreBytes_pending (s : State) (c a : Nat) (l : List Byte) : (sramStoreBytes s c a l).pending = s.pending := rfl
@[simp] theorem sramStoreBytes_fresh (s : State) (c a : Nat) (l : List Byte) : (sramStoreBytes s c a l).fresh = s.fresh := rfl
@[simp] theorem sramStoreBytes_out (s : State) (c a : Nat) (l : List Byte) : (sramStoreBytes s c a l).out = s.out := rfl
@[simp] theorem sramStoreBytes_regs (s : State) (c a : Nat) (l : List Byte) : (sramStoreBytes s c a l).regs = s.regs := rfl
@[simp] theorem sramStoreBytes_tiers (s : State) (c a : Nat) (l : List Byte) : (sramStoreBytes s c a l).tiers = s.tiers := rfl
@[simp] theorem sramStoreBytes_flash (s : State) (c a : Nat) (l : List Byte) : (sramStoreBytes s c a l).flash = s.flash := rfl
@[simp] theorem sramStoreBytes_fab (s : State) (c a : Nat) (l : List Byte) : (sramStoreBytes s c a l).fab = s.fab := rfl
@[simp] theorem sramStoreBytes_host (s : State) (c a : Nat) (l : List Byte) : (sramStoreBytes s c a l).host = s.host := rfl
@[simp] theorem sramStoreBytes_time (s : State) (c a : Nat) (l : List Byte) : (sramStoreBytes s c a l).time = s.time := rfl
@[simp] theorem sramStoreBytes_cfg (s : State) (c a : Nat) (l : List Byte) : (sramStoreBytes s c a l).cfg = s.cfg := rfl
@[simp] theorem sramStoreBytes_fault (s : State) (c a : Nat) (l : List Byte) : (sramStoreBytes s c a l).fault = s.fault := rfl
@[simp] theorem sramStoreBytes_bezel (s : State) (c a : Nat) (l : List Byte) : (sramStoreBytes s c a l).bezel = s.bezel := rfl
@[simp] theorem sramStoreBytes_router (s : State) (c a : Nat) (l : List Byte) : (sramStoreBytes s c a l).router = s.router := rfl
@[simp] theorem sramStoreBytes_ward (s : State) (c a : Nat) (l : List Byte) : (sramStoreBytes s c a l).ward = s.ward := rfl
@[simp] theorem sramStoreBytes_warden (s : State) (c a : Nat) (l : List Byte) : (sramStoreBytes s c a l).warden = s.warden := rfl
@[simp] theorem sramStoreBytes_hinge (s : State) (c a : Nat) (l : List Byte) : (sramStoreBytes s c a l).hinge = s.hinge := rfl
@[simp] theorem sramStoreBytes_assay (s : State) (c a : Nat) (l : List Byte) : (sramStoreBytes s c a l).assay = s.assay := rfl
@[simp] theorem sramStoreBytes_power (s : State) (c a : Nat) (l : List Byte) : (sramStoreBytes s c a l).power = s.power := rfl
@[simp] theorem sramStoreBytes_padlock (s : State) (c a : Nat) (l : List Byte) : (sramStoreBytes s c a l).padlock = s.padlock := rfl
@[simp] theorem sramStoreBytes_tel (s : State) (c a : Nat) (l : List Byte) : (sramStoreBytes s c a l).tel = s.tel := rfl


@[simp] theorem hbmStoreBytes_pending (s : State) (a : Nat) (l : List Byte) : (hbmStoreBytes s a l).pending = s.pending := rfl
@[simp] theorem hbmStoreBytes_fresh (s : State) (a : Nat) (l : List Byte) : (hbmStoreBytes s a l).fresh = s.fresh := rfl
@[simp] theorem hbmStoreBytes_out (s : State) (a : Nat) (l : List Byte) : (hbmStoreBytes s a l).out = s.out := rfl
@[simp] theorem hbmStoreBytes_regs (s : State) (a : Nat) (l : List Byte) : (hbmStoreBytes s a l).regs = s.regs := rfl
@[simp] theorem hbmStoreBytes_comp (s : State) (a : Nat) (l : List Byte) : (hbmStoreBytes s a l).comp = s.comp := rfl
@[simp] theorem hbmStoreBytes_flash (s : State) (a : Nat) (l : List Byte) : (hbmStoreBytes s a l).flash = s.flash := rfl
@[simp] theorem hbmStoreBytes_fab (s : State) (a : Nat) (l : List Byte) : (hbmStoreBytes s a l).fab = s.fab := rfl
@[simp] theorem hbmStoreBytes_host (s : State) (a : Nat) (l : List Byte) : (hbmStoreBytes s a l).host = s.host := rfl
@[simp] theorem hbmStoreBytes_time (s : State) (a : Nat) (l : List Byte) : (hbmStoreBytes s a l).time = s.time := rfl
@[simp] theorem hbmStoreBytes_cfg (s : State) (a : Nat) (l : List Byte) : (hbmStoreBytes s a l).cfg = s.cfg := rfl
@[simp] theorem hbmStoreBytes_fault (s : State) (a : Nat) (l : List Byte) : (hbmStoreBytes s a l).fault = s.fault := rfl
@[simp] theorem hbmStoreBytes_bezel (s : State) (a : Nat) (l : List Byte) : (hbmStoreBytes s a l).bezel = s.bezel := rfl
@[simp] theorem hbmStoreBytes_router (s : State) (a : Nat) (l : List Byte) : (hbmStoreBytes s a l).router = s.router := rfl
@[simp] theorem hbmStoreBytes_ward (s : State) (a : Nat) (l : List Byte) : (hbmStoreBytes s a l).ward = s.ward := rfl
@[simp] theorem hbmStoreBytes_warden (s : State) (a : Nat) (l : List Byte) : (hbmStoreBytes s a l).warden = s.warden := rfl
@[simp] theorem hbmStoreBytes_hinge (s : State) (a : Nat) (l : List Byte) : (hbmStoreBytes s a l).hinge = s.hinge := rfl
@[simp] theorem hbmStoreBytes_assay (s : State) (a : Nat) (l : List Byte) : (hbmStoreBytes s a l).assay = s.assay := rfl
@[simp] theorem hbmStoreBytes_power (s : State) (a : Nat) (l : List Byte) : (hbmStoreBytes s a l).power = s.power := rfl
@[simp] theorem hbmStoreBytes_padlock (s : State) (a : Nat) (l : List Byte) : (hbmStoreBytes s a l).padlock = s.padlock := rfl
@[simp] theorem hbmStoreBytes_tel (s : State) (a : Nat) (l : List Byte) : (hbmStoreBytes s a l).tel = s.tel := rfl

@[simp] theorem hbmPoison_pending (s : State) (g : Nat) : (hbmPoison s g).pending = s.pending := rfl
@[simp] theorem hbmPoison_fresh (s : State) (g : Nat) : (hbmPoison s g).fresh = s.fresh := rfl
@[simp] theorem hbmPoison_out (s : State) (g : Nat) : (hbmPoison s g).out = s.out := rfl
@[simp] theorem hbmPoison_regs (s : State) (g : Nat) : (hbmPoison s g).regs = s.regs := rfl
@[simp] theorem hbmPoison_comp (s : State) (g : Nat) : (hbmPoison s g).comp = s.comp := rfl
@[simp] theorem hbmPoison_flash (s : State) (g : Nat) : (hbmPoison s g).flash = s.flash := rfl
@[simp] theorem hbmPoison_fab (s : State) (g : Nat) : (hbmPoison s g).fab = s.fab := rfl
@[simp] theorem hbmPoison_host (s : State) (g : Nat) : (hbmPoison s g).host = s.host := rfl
@[simp] theorem hbmPoison_time (s : State) (g : Nat) : (hbmPoison s g).time = s.time := rfl
@[simp] theorem hbmPoison_cfg (s : State) (g : Nat) : (hbmPoison s g).cfg = s.cfg := rfl
@[simp] theorem hbmPoison_fault (s : State) (g : Nat) : (hbmPoison s g).fault = s.fault := rfl
@[simp] theorem hbmPoison_bezel (s : State) (g : Nat) : (hbmPoison s g).bezel = s.bezel := rfl
@[simp] theorem hbmPoison_router (s : State) (g : Nat) : (hbmPoison s g).router = s.router := rfl
@[simp] theorem hbmPoison_ward (s : State) (g : Nat) : (hbmPoison s g).ward = s.ward := rfl
@[simp] theorem hbmPoison_warden (s : State) (g : Nat) : (hbmPoison s g).warden = s.warden := rfl
@[simp] theorem hbmPoison_hinge (s : State) (g : Nat) : (hbmPoison s g).hinge = s.hinge := rfl
@[simp] theorem hbmPoison_assay (s : State) (g : Nat) : (hbmPoison s g).assay = s.assay := rfl
@[simp] theorem hbmPoison_power (s : State) (g : Nat) : (hbmPoison s g).power = s.power := rfl
@[simp] theorem hbmPoison_padlock (s : State) (g : Nat) : (hbmPoison s g).padlock = s.padlock := rfl
@[simp] theorem hbmPoison_tel (s : State) (g : Nat) : (hbmPoison s g).tel = s.tel := rfl

@[simp] theorem hbmZero_pending (s : State) (a n : Nat) : (hbmZero s a n).pending = s.pending := rfl
@[simp] theorem hbmZero_fresh (s : State) (a n : Nat) : (hbmZero s a n).fresh = s.fresh := rfl
@[simp] theorem hbmZero_out (s : State) (a n : Nat) : (hbmZero s a n).out = s.out := rfl
@[simp] theorem hbmZero_regs (s : State) (a n : Nat) : (hbmZero s a n).regs = s.regs := rfl
@[simp] theorem hbmZero_comp (s : State) (a n : Nat) : (hbmZero s a n).comp = s.comp := rfl
@[simp] theorem hbmZero_flash (s : State) (a n : Nat) : (hbmZero s a n).flash = s.flash := rfl
@[simp] theorem hbmZero_fab (s : State) (a n : Nat) : (hbmZero s a n).fab = s.fab := rfl
@[simp] theorem hbmZero_host (s : State) (a n : Nat) : (hbmZero s a n).host = s.host := rfl
@[simp] theorem hbmZero_time (s : State) (a n : Nat) : (hbmZero s a n).time = s.time := rfl
@[simp] theorem hbmZero_cfg (s : State) (a n : Nat) : (hbmZero s a n).cfg = s.cfg := rfl
@[simp] theorem hbmZero_fault (s : State) (a n : Nat) : (hbmZero s a n).fault = s.fault := rfl
@[simp] theorem hbmZero_bezel (s : State) (a n : Nat) : (hbmZero s a n).bezel = s.bezel := rfl
@[simp] theorem hbmZero_router (s : State) (a n : Nat) : (hbmZero s a n).router = s.router := rfl
@[simp] theorem hbmZero_ward (s : State) (a n : Nat) : (hbmZero s a n).ward = s.ward := rfl
@[simp] theorem hbmZero_warden (s : State) (a n : Nat) : (hbmZero s a n).warden = s.warden := rfl
@[simp] theorem hbmZero_hinge (s : State) (a n : Nat) : (hbmZero s a n).hinge = s.hinge := rfl
@[simp] theorem hbmZero_assay (s : State) (a n : Nat) : (hbmZero s a n).assay = s.assay := rfl
@[simp] theorem hbmZero_power (s : State) (a n : Nat) : (hbmZero s a n).power = s.power := rfl
@[simp] theorem hbmZero_padlock (s : State) (a n : Nat) : (hbmZero s a n).padlock = s.padlock := rfl
@[simp] theorem hbmZero_tel (s : State) (a n : Nat) : (hbmZero s a n).tel = s.tel := rfl

@[simp] theorem count_pending (s : State) (i n : Nat) : (count s i n).pending = s.pending := rfl
@[simp] theorem count_fresh (s : State) (i n : Nat) : (count s i n).fresh = s.fresh := rfl
@[simp] theorem count_out (s : State) (i n : Nat) : (count s i n).out = s.out := rfl
@[simp] theorem count_regs (s : State) (i n : Nat) : (count s i n).regs = s.regs := rfl
@[simp] theorem count_comp (s : State) (i n : Nat) : (count s i n).comp = s.comp := rfl
@[simp] theorem count_tiers (s : State) (i n : Nat) : (count s i n).tiers = s.tiers := rfl
@[simp] theorem count_flash (s : State) (i n : Nat) : (count s i n).flash = s.flash := rfl
@[simp] theorem count_fab (s : State) (i n : Nat) : (count s i n).fab = s.fab := rfl
@[simp] theorem count_host (s : State) (i n : Nat) : (count s i n).host = s.host := rfl
@[simp] theorem count_time (s : State) (i n : Nat) : (count s i n).time = s.time := rfl
@[simp] theorem count_cfg (s : State) (i n : Nat) : (count s i n).cfg = s.cfg := rfl
@[simp] theorem count_fault (s : State) (i n : Nat) : (count s i n).fault = s.fault := rfl
@[simp] theorem count_bezel (s : State) (i n : Nat) : (count s i n).bezel = s.bezel := rfl
@[simp] theorem count_router (s : State) (i n : Nat) : (count s i n).router = s.router := rfl
@[simp] theorem count_ward (s : State) (i n : Nat) : (count s i n).ward = s.ward := rfl
@[simp] theorem count_warden (s : State) (i n : Nat) : (count s i n).warden = s.warden := rfl
@[simp] theorem count_hinge (s : State) (i n : Nat) : (count s i n).hinge = s.hinge := rfl
@[simp] theorem count_assay (s : State) (i n : Nat) : (count s i n).assay = s.assay := rfl
@[simp] theorem count_power (s : State) (i n : Nat) : (count s i n).power = s.power := rfl
@[simp] theorem count_padlock (s : State) (i n : Nat) : (count s i n).padlock = s.padlock := rfl

@[simp] theorem setHQ_pending (s : State) (fn q : Nat) (v : HostQueue) : (setHQ s fn q v).pending = s.pending := rfl
@[simp] theorem setHQ_fresh (s : State) (fn q : Nat) (v : HostQueue) : (setHQ s fn q v).fresh = s.fresh := rfl
@[simp] theorem setHQ_out (s : State) (fn q : Nat) (v : HostQueue) : (setHQ s fn q v).out = s.out := rfl
@[simp] theorem setHQ_regs (s : State) (fn q : Nat) (v : HostQueue) : (setHQ s fn q v).regs = s.regs := rfl
@[simp] theorem setHQ_comp (s : State) (fn q : Nat) (v : HostQueue) : (setHQ s fn q v).comp = s.comp := rfl
@[simp] theorem setHQ_tiers (s : State) (fn q : Nat) (v : HostQueue) : (setHQ s fn q v).tiers = s.tiers := rfl
@[simp] theorem setHQ_flash (s : State) (fn q : Nat) (v : HostQueue) : (setHQ s fn q v).flash = s.flash := rfl
@[simp] theorem setHQ_fab (s : State) (fn q : Nat) (v : HostQueue) : (setHQ s fn q v).fab = s.fab := rfl
@[simp] theorem setHQ_time (s : State) (fn q : Nat) (v : HostQueue) : (setHQ s fn q v).time = s.time := rfl
@[simp] theorem setHQ_cfg (s : State) (fn q : Nat) (v : HostQueue) : (setHQ s fn q v).cfg = s.cfg := rfl
@[simp] theorem setHQ_fault (s : State) (fn q : Nat) (v : HostQueue) : (setHQ s fn q v).fault = s.fault := rfl
@[simp] theorem setHQ_bezel (s : State) (fn q : Nat) (v : HostQueue) : (setHQ s fn q v).bezel = s.bezel := rfl
@[simp] theorem setHQ_router (s : State) (fn q : Nat) (v : HostQueue) : (setHQ s fn q v).router = s.router := rfl
@[simp] theorem setHQ_ward (s : State) (fn q : Nat) (v : HostQueue) : (setHQ s fn q v).ward = s.ward := rfl
@[simp] theorem setHQ_warden (s : State) (fn q : Nat) (v : HostQueue) : (setHQ s fn q v).warden = s.warden := rfl
@[simp] theorem setHQ_hinge (s : State) (fn q : Nat) (v : HostQueue) : (setHQ s fn q v).hinge = s.hinge := rfl
@[simp] theorem setHQ_assay (s : State) (fn q : Nat) (v : HostQueue) : (setHQ s fn q v).assay = s.assay := rfl
@[simp] theorem setHQ_power (s : State) (fn q : Nat) (v : HostQueue) : (setHQ s fn q v).power = s.power := rfl
@[simp] theorem setHQ_padlock (s : State) (fn q : Nat) (v : HostQueue) : (setHQ s fn q v).padlock = s.padlock := rfl
@[simp] theorem setHQ_tel (s : State) (fn q : Nat) (v : HostQueue) : (setHQ s fn q v).tel = s.tel := rfl

@[simp] theorem setQP_pending (s : State) (i : Nat) (v : QPair) : (setQP s i v).pending = s.pending := rfl
@[simp] theorem setQP_fresh (s : State) (i : Nat) (v : QPair) : (setQP s i v).fresh = s.fresh := rfl
@[simp] theorem setQP_out (s : State) (i : Nat) (v : QPair) : (setQP s i v).out = s.out := rfl
@[simp] theorem setQP_regs (s : State) (i : Nat) (v : QPair) : (setQP s i v).regs = s.regs := rfl
@[simp] theorem setQP_comp (s : State) (i : Nat) (v : QPair) : (setQP s i v).comp = s.comp := rfl
@[simp] theorem setQP_tiers (s : State) (i : Nat) (v : QPair) : (setQP s i v).tiers = s.tiers := rfl
@[simp] theorem setQP_flash (s : State) (i : Nat) (v : QPair) : (setQP s i v).flash = s.flash := rfl
@[simp] theorem setQP_fab (s : State) (i : Nat) (v : QPair) : (setQP s i v).fab = s.fab := rfl
@[simp] theorem setQP_time (s : State) (i : Nat) (v : QPair) : (setQP s i v).time = s.time := rfl
@[simp] theorem setQP_cfg (s : State) (i : Nat) (v : QPair) : (setQP s i v).cfg = s.cfg := rfl
@[simp] theorem setQP_fault (s : State) (i : Nat) (v : QPair) : (setQP s i v).fault = s.fault := rfl
@[simp] theorem setQP_bezel (s : State) (i : Nat) (v : QPair) : (setQP s i v).bezel = s.bezel := rfl
@[simp] theorem setQP_router (s : State) (i : Nat) (v : QPair) : (setQP s i v).router = s.router := rfl
@[simp] theorem setQP_ward (s : State) (i : Nat) (v : QPair) : (setQP s i v).ward = s.ward := rfl
@[simp] theorem setQP_warden (s : State) (i : Nat) (v : QPair) : (setQP s i v).warden = s.warden := rfl
@[simp] theorem setQP_hinge (s : State) (i : Nat) (v : QPair) : (setQP s i v).hinge = s.hinge := rfl
@[simp] theorem setQP_assay (s : State) (i : Nat) (v : QPair) : (setQP s i v).assay = s.assay := rfl
@[simp] theorem setQP_power (s : State) (i : Nat) (v : QPair) : (setQP s i v).power = s.power := rfl
@[simp] theorem setQP_padlock (s : State) (i : Nat) (v : QPair) : (setQP s i v).padlock = s.padlock := rfl
@[simp] theorem setQP_tel (s : State) (i : Nat) (v : QPair) : (setQP s i v).tel = s.tel := rfl

end Machine

end Sys2Proof
end

