-- ==== Sys2Proof/Laws/Bytes.lean ====
section
/-!
SUPPORT. The bytes of numbers and of memory, and what a store leaves byte by byte.
-/
namespace Sys2Proof.Machine

open Sys2Proof

@[simp] theorem length_leBytes (n v : Nat) : (leBytes n v).length = n := by
  induction n generalizing v with
  | zero => rfl
  | succ n ih => simp [leBytes, ih]

theorem getD_leBytes {n v i : Nat} (h : i < n) : (leBytes n v).getD i 0#8 = BitVec.ofNat 8 (v / 256 ^ i) := by
  induction n generalizing v i with
  | zero => omega
  | succ n ih =>
    cases i with
    | zero => simp [leBytes]
    | succ i =>
      have := ih (v := v / 256) (i := i) (by omega)
      simp only [leBytes, List.getD_cons_succ, this, Nat.div_div_eq_div_mul, pow_succ, Nat.mul_comm]

@[simp] theorem length_memBytes (m : Mem) (a n : Nat) : (memBytes m a n).length = n := by
  induction n generalizing a with
  | zero => rfl
  | succ n ih => simp [memBytes, ih]

theorem getD_memBytes {m : Mem} {a n i : Nat} (h : i < n) : (memBytes m a n).getD i 0#8 = memGet m (a + i) := by
  induction n generalizing a i with
  | zero => omega
  | succ n ih =>
    cases i with
    | zero => simp [memBytes]
    | succ i =>
      have := ih (a := a + 1) (i := i) (by omega)
      simp only [memBytes, List.getD_cons_succ, this]
      congr 1
      omega

/-- What a store to local SRAM leaves. -/
theorem sramStoreBytes_inside {s : State} {c a i : Nat} {bs : List Byte} (h : Memory.wf s.comp.sram = true)
    (hi : i < bs.length) : memGet (sramStoreBytes s c a bs).comp.sram (sramKey c a + i) = bs.getD i 0#8 :=
  memGet_memSetBytes_inside h hi

theorem sramStoreBytes_outside {s : State} {c a x : Nat} {bs : List Byte}
    (h : x < sramKey c a ∨ sramKey c a + bs.length ≤ x) :
    memGet (sramStoreBytes s c a bs).comp.sram x = memGet s.comp.sram x :=
  memGet_memSetBytes_outside h

theorem mem_wordsOf {k n w : Nat} : w ∈ wordsOf k n ↔ k / 8 ≤ w ∧ w < (k + n + 7) / 8 := by
  simp only [wordsOf, List.mem_map, List.mem_range]
  constructor
  · rintro ⟨i, hi, rfl⟩; omega
  · rintro ⟨h1, h2⟩; exact ⟨w - k / 8, by omega, by omega⟩

/-- Which words keep their poison after a store: those that it does not cover. -/
theorem sramStoreBytes_poison (s : State) (c a : Nat) {bs : List Byte} (hn : bs ≠ []) (w : Nat) :
    w ∈ (sramStoreBytes s c a bs).comp.sramPoison ↔
      w ∈ s.comp.sramPoison ∧ ¬(sramKey c a ≤ w * 8 ∧ w * 8 + 8 ≤ sramKey c a + bs.length) := by
  have hl : 0 < bs.length := List.length_pos_iff.2 hn
  simp only [sramStoreBytes, List.mem_filter, Bool.not_eq_true', List.contains_eq_mem, decide_eq_false_iff_not,
    mem_wordsOf, Bool.and_eq_true, decide_eq_true_eq]
  constructor
  · rintro ⟨h1, h2⟩
    exact ⟨h1, fun h3 => h2 ⟨by omega, h3⟩⟩
  · rintro ⟨h1, h2⟩
    exact ⟨h1, fun h3 => h2 h3.2⟩

/-- What a store to HBM leaves. -/
theorem hbmStoreBytes_inside {s : State} {a i : Nat} {bs : List Byte} (h : Memory.wf s.tiers.hbm = true)
    (hi : i < bs.length) : memGet (hbmStoreBytes s a bs).tiers.hbm (a + i) = bs.getD i 0#8 :=
  memGet_memSetBytes_inside h hi

theorem hbmStoreBytes_outside {s : State} {a x : Nat} {bs : List Byte} (h : x < a ∨ a + bs.length ≤ x) :
    memGet (hbmStoreBytes s a bs).tiers.hbm x = memGet s.tiers.hbm x :=
  memGet_memSetBytes_outside h

theorem leNat_leBytes (n v : Nat) : leNat (leBytes n v) = v % 256 ^ n := by
  induction n generalizing v with
  | zero => simp [leBytes, leNat, Nat.mod_one]
  | succ n ih =>
    simp only [leBytes, leNat, ih, BitVec.toNat_ofNat]
    have h : v % 256 ^ (n + 1) = v % 256 + 256 * (v / 256 % 256 ^ n) := by
      rw [pow_succ, Nat.mul_comm, Nat.mod_mul]
    rw [h]

theorem memBytes_congr {m m' : Mem} {a b n : Nat} (h : ∀ i, i < n → memGet m (a + i) = memGet m' (b + i)) :
    memBytes m a n = memBytes m' b n := by
  induction n generalizing a b with
  | zero => rfl
  | succ n ih =>
    have h0 := h 0 (by omega)
    simp only [Nat.add_zero] at h0
    simp only [memBytes, h0]
    rw [ih (a := a + 1) (b := b + 1)]
    intro i hi
    have := h (i + 1) (by omega)
    rw [show a + (i + 1) = a + 1 + i by omega, show b + (i + 1) = b + 1 + i by omega] at this
    exact this

/-- Bytes read where bytes were written. -/
theorem memBytes_of_getD {m : Mem} {a n : Nat} {bs : List Byte} (hl : bs.length = n)
    (h : ∀ i, i < n → memGet m (a + i) = bs.getD i 0#8) : memBytes m a n = bs := by
  apply List.ext_getElem
  · simp [hl]
  · intro i h1 h2
    have hi : i < n := by simpa using h1
    have e1 := getD_memBytes (m := m) (a := a) hi
    rw [List.getD_eq_getElem _ _ h1] at e1
    rw [e1, h i hi, List.getD_eq_getElem _ _ h2]

theorem length_flatMap_leBytes (l : List Nat) (w : Nat) : (l.flatMap (leBytes w)).length = l.length * w := by
  induction l with
  | nil => simp
  | cons x l ih => simp only [List.flatMap_cons, List.length_append, ih, length_leBytes, List.length_cons]; ring

theorem getD_flatMap_leBytes {l : List Nat} {w j i : Nat} (hj : j < l.length) (hi : i < w) :
    (l.flatMap (leBytes w)).getD (j * w + i) 0#8 = (leBytes w (l.getD j 0)).getD i 0#8 := by
  induction l generalizing j with
  | nil => simp at hj
  | cons x l ih =>
    simp only [List.flatMap_cons]
    cases j with
    | zero => rw [List.getD_append _ _ _ _ (by simpa using hi)]; simp
    | succ j =>
      rw [List.getD_append_right _ _ _ _ (by simp only [length_leBytes]; rw [Nat.succ_mul]; omega)]
      have : (j + 1) * w + i - (leBytes w x).length = j * w + i := by
        simp only [length_leBytes]; rw [Nat.succ_mul]; omega
      rw [this, ih (by simpa using hj)]
      simp

/-- A number read from an array of numbers that has been stored. -/
theorem memLoad_cells {m : Mem} {a j w : Nat} {l : List Nat} (h : Memory.wf m = true) (hj : j < l.length) :
    memLoad (memSetBytes m a (l.flatMap (leBytes w))) (a + j * w) w = l.getD j 0 % 256 ^ w := by
  rw [memLoad, memBytes_of_getD (bs := leBytes w (l.getD j 0)) (by simp), leNat_leBytes]
  intro i hi
  have hlt : j * w + i < (l.flatMap (leBytes w)).length := by
    rw [length_flatMap_leBytes]
    have : (j + 1) * w ≤ l.length * w := Nat.mul_le_mul_right w hj
    rw [Nat.succ_mul] at this
    omega
  rw [Nat.add_assoc, memGet_memSetBytes_inside h hlt, getD_flatMap_leBytes hj hi]

/-- A part of the bytes of a range. -/
theorem memBytes_part {m : Mem} {a n x k : Nat} (h : x + k ≤ n) :
    ((memBytes m a n).drop x).take k = memBytes m (a + x) k := by
  symm
  apply memBytes_of_getD
  · simp; omega
  · intro i hi
    have e := getD_memBytes (m := m) (a := a) (n := n) (i := x + i) (by omega)
    rw [show a + x + i = a + (x + i) by omega, ← e]
    simp [List.getD_eq_getElem?_getD, List.getElem?_take, hi]

end Sys2Proof.Machine
end

