-- ==== Sys2Proof/Laws/Issue.lean ====
section
/-!
SUPPORT. What issue does to an entry that nothing holds (04 R160-R177): the cores and clusters read after they are
written, the gate, and what an issued operation leaves.
-/
namespace Sys2Proof.Machine

open Sys2Proof

/-! ### Cores and clusters, read after written -/

@[simp] theorem getCore_setCore_same (s : State) (c : Nat) (v : Core) : getCore (setCore s c v) c = v := by
  simp [getCore, setCore]

theorem getCore_setCore_other (s : State) {c d : Nat} (v : Core) (h : d ≠ c) :
    getCore (setCore s c v) d = getCore s d := by
  simp [getCore, setCore, tabGet_tabSet_other, h]

@[simp] theorem getCore_modCore_same (s : State) (c : Nat) (f : Core → Core) :
    getCore (modCore s c f) c = f (getCore s c) := by
  simp [modCore]

theorem getCore_modCore_other (s : State) {c d : Nat} (f : Core → Core) (h : d ≠ c) :
    getCore (modCore s c f) d = getCore s d := by
  simp [modCore, getCore_setCore_other, h]

@[simp] theorem getCluster_modCluster_same (s : State) (k : Nat) (f : Cluster → Cluster) :
    getCluster (modCluster s k f) k = f (getCluster s k) := by
  simp [getCluster, modCluster, setCluster]

theorem getCluster_modCluster_other (s : State) {k d : Nat} (f : Cluster → Cluster) (h : d ≠ k) :
    getCluster (modCluster s k f) d = getCluster s d := by
  simp [getCluster, modCluster, setCluster, tabGet_tabSet_other, h]

@[simp] theorem getCore_modCluster (s : State) (k d : Nat) (f : Cluster → Cluster) :
    getCore (modCluster s k f) d = getCore s d := rfl

@[simp] theorem getCluster_modCore (s : State) (c k : Nat) (f : Core → Core) :
    getCluster (modCore s c f) k = getCluster s k := rfl

theorem getCore_congr {s t : State} (h : t.comp.cores = s.comp.cores) (d : Nat) : getCore t d = getCore s d := by
  simp [getCore, h]

/-! ### Strands -/

theorem awake_lt {s : State} {c i : Nat} (h : (getStrand s c i).phase ≠ .idle) :
    i < (getCore s c).strands.length := by
  by_contra hn
  exact h (by rw [getStrand, List.getD_eq_default _ _ (Nat.le_of_not_lt hn)]; rfl)

theorem getStrand_modStrand_same {s : State} {c i : Nat} (f : Strand → Strand)
    (h : i < (getCore s c).strands.length) : getStrand (modStrand s c i f) c i = f (getStrand s c i) := by
  simp [getStrand, modStrand, listMod, List.getD_eq_getElem?_getD, h]

theorem getStrand_modStrand_strand (s : State) {c i j : Nat} (f : Strand → Strand) (h : j ≠ i) :
    getStrand (modStrand s c i f) c j = getStrand s c j := by
  simp [getStrand, modStrand, listMod, List.getD_eq_getElem?_getD, h.symm]

@[simp] theorem length_strands_modStrand (s : State) (c i : Nat) (f : Strand → Strand) :
    (getCore (modStrand s c i f) c).strands.length = (getCore s c).strands.length := by
  simp [modStrand, listMod]

theorem core_modStrand {s : State} {c i : Nat} (f : Strand → Strand) (h : i < (getCore s c).strands.length) :
    getCore (modStrand s c i f) c =
      { getCore s c with strands := (getCore s c).strands.set i (f (getStrand s c i)) } := by
  simp only [modStrand, getCore_modCore_same, listMod, getStrand]
  congr 1
  rw [List.modify_eq_set_getElem?, List.getElem?_eq_getElem h]
  simp [List.getD_eq_getElem?_getD, List.getElem?_eq_getElem h]

/-- A change of one strand changes nothing else. -/
theorem modStrand_only {s : State} {c i : Nat} (f : Strand → Strand) (h : i < (getCore s c).strands.length) :
    OnlyStrand s (modStrand s c i f) c i (f (getStrand s c i)) :=
  ⟨rfl, fun _ hd => getCore_modCore_other s _ hd, core_modStrand f h, getStrand_modStrand_same f h⟩

/-- A strand has issued: it has stepped, and its turn is noted. -/
theorem advance_only {s : State} {c i : Nat} (h : i < (getCore s c).strands.length) :
    OnlyIssued s (advance s c i) c i (getStrand s c i).stepped := by
  have hs := core_modStrand (fun t => { t with phase := .ready, pc := t.pc.bind nextPos }) h
  refine ⟨rfl, fun d hd => ?_, ?_, ?_⟩
  · rw [advance, getCore_modCore_other _ _ hd, modStrand, getCore_modCore_other _ _ hd]
  · rw [advance, getCore_modCore_same, hs]
    rfl
  · simp only [getStrand, advance, getCore_modCore_same, hs]
    simp [List.getD_eq_getElem?_getD, h, Strand.stepped, getStrand]

theorem OnlyIssued.turn {s t : State} {c i : Nat} {v : Strand} (h : OnlyIssued s t c i v) : TookTurn s t c i := by
  simp [TookTurn, h.2.2.1]

theorem OnlyIssued.length {s t : State} {c i : Nat} {v : Strand} (h : OnlyIssued s t c i v) :
    (getCore t c).strands.length = (getCore s c).strands.length := by
  rw [h.2.2.1]
  simp

/-! ### The gate -/

theorem firstCause_nil_iff (l : List CoreFault) : firstCause l = none ↔ l = [] := by
  cases l with
  | nil => simp [firstCause]
  | cons f fs =>
    simp only [firstCause, reduceCtorEq, iff_false]
    cases firstCause fs with
    | none => simp
    | some g => dsimp only; split <;> simp

theorem Issues.noTurn {s : State} {c i op : Nat} {e : Entry} (h : Issues s c i op e) :
    (triedBefore (getCore s c).last i).any (takesTurn s c) = false := by
  rw [List.any_eq_false]
  intro j hj
  simp [h.turn j hj]

/-- An entry that nothing holds issues, if its checks find nothing and its own conditions hold. -/
theorem gate_go {s : State} {c i op : Nat} {e : Entry} (h : Issues s c i op e) {chk : Entry → List CoreFault}
    {short busy : Entry → Bool} (hc : chk e = []) (hs : short e = false) (hb : busy e = false) :
    gate s c i op chk short busy = .go e := by
  have hw : waitGate s c i e (short e) (busy e) = .go e := by
    have hz : (windowLatches e ++ cmaskLatches e).any (fun l => latchGet s c l.1 l.2 != 0) = false := by
      rw [List.any_eq_false]
      intro l hl
      simp [h.zero l hl]
    have hr : (entryRegs e).filterMap (pendingOp (getCore s c) i) = [] := by
      rw [List.filterMap_eq_nil_iff]
      exact h.ready
    have hl : (entryRemote s c i e && decide (8 ≤ remoteCount (getCore s c) i)) = false := by
      rw [Bool.and_eq_false_iff]
      by_cases hx : entryRemote s c i e = true
      · right
        have := h.loads hx
        simpa using this
      · left
        simpa using hx
    have hd : (doneLatch e).any (fun l => decide (latchMax l.1 ≤ latchGet s c l.1 l.2)) = false := by
      cases hdl : doneLatch e with
      | none => rfl
      | some l => simpa using h.room l hdl
    simp [waitGate, hz, hr, hl, hd, hs, hb]
  have hn : (getStrand s c i).phase ≠ .idle ∧ (getStrand s c i).phase ≠ .faulted := h.awake
  have ht := h.noTurn
  simp [gate, h.here, hn.1, hn.2, h.power, h.line, h.clean, h.code, h.valid, hw, hc, firstCause, ht]

/-- The fault of an entry whose checks find something. -/
theorem gate_fault {s : State} {c i op : Nat} {e : Entry} (h : Issues s c i op e) {chk : Entry → List CoreFault}
    {short busy : Entry → Bool} {f : CoreFault} (hc : firstCause (chk e) = some f) (hs : short e = false)
    (hb : busy e = false) : gate s c i op chk short busy = .fault f := by
  have hg : gate s c i op (fun _ => []) short busy = .go e := gate_go h rfl hs hb
  have hw : waitGate s c i e (short e) (busy e) = .go e := by
    have hn : (getStrand s c i).phase ≠ .idle ∧ (getStrand s c i).phase ≠ .faulted := h.awake
    simp only [gate, h.here, h.power, h.line, h.clean, h.code, h.valid, firstCause, h.noTurn] at hg
    revert hg
    simp only [hn.1, hn.2, beq_iff_eq, Bool.or_eq_true, bne_self_eq_false, Bool.not_true, Bool.false_eq_true, or_self,
      if_false]
    split <;> simp_all
  have hn : (getStrand s c i).phase ≠ .idle ∧ (getStrand s c i).phase ≠ .faulted := h.awake
  have ht := h.noTurn
  simp [gate, h.here, hn.1, hn.2, h.power, h.line, h.clean, h.code, h.valid, hw, hc, ht]

/-- An entry that issues has its effect after its strand has stepped. -/
theorem runEntry_go {s : State} {c i op : Nat} {e : Entry} (h : Issues s c i op e)
    {chk : State → Entry → List CoreFault} {short busy : State → Entry → Bool} {body : Entry → State → State}
    (hc : chk s e = []) (hs : short s e = false) (hb : busy s e = false) :
    runEntry op chk short busy body c i s = body e (advance s c i) := by
  simp [runEntry, gate_go h hc hs hb]

theorem runPlain_go {s : State} {c : Fin 98304} {i : Fin 4} {op : Nat} {e : Entry} (h : Issues s c i op e)
    (body : Entry → State → State) : runPlain op body c i s = .next (body e (advance s c i)) := by
  simp [runPlain, runEntry_go h (chk := noFaults) (short := notShort) (busy := notShort) rfl rfl rfl]

theorem Issues.lt {s : State} {c i op : Nat} {e : Entry} (h : Issues s c i op e) :
    i < (getCore s c).strands.length := awake_lt h.awake.1

theorem Issues.stepped {s : State} {c i op : Nat} {e : Entry} (h : Issues s c i op e) :
    OnlyIssued s (advance s c i) c i (getStrand s c i).stepped := advance_only h.lt

/-- A second change of the strand that has stepped. -/
theorem OnlyIssued.mod {s t : State} {c i : Nat} {v : Strand} (h : OnlyIssued s t c i v)
    (hi : i < (getCore s c).strands.length) (f : Strand → Strand) : OnlyIssued s (modStrand t c i f) c i (f v) := by
  obtain ⟨a', b', d', e'⟩ := modStrand_only (s := t) (c := c) (i := i) f (by rw [h.length]; exact hi)
  obtain ⟨a, b, d, e⟩ := h
  rw [e] at d' e'
  generalize modStrand t c i f = u at a' b' d' e' ⊢
  refine ⟨?_, fun x hx => (b' x hx).trans (b x hx), ?_, e'⟩
  · rw [a']
    conv_lhs => rw [a]
  · rw [d', d]
    simp

/-! ### Latches -/

theorem latchGet_latchSet (s : State) (c : Nat) (b b' : Bool) (n n' v : Nat) :
    latchGet (latchSet s c b n v) c b' n' = if (b', n') = (b, n) then v else latchGet s c b' n' := by
  cases b <;> cases b' <;> simp only [latchGet, latchSet, Bool.false_eq_true, if_true, if_false, Prod.mk.injEq,
    reduceCtorEq, false_and, true_and, getCluster_modCluster_same, getCore_modCore_same, getCore_modCluster,
    getCluster_modCore]
  all_goals
    by_cases h : n' = n
    · subst h; simp
    · simp [h, tabGet_tabSet_other]

theorem getStrand_latchSet (s : State) (c d j : Nat) (b : Bool) (n v : Nat) :
    getStrand (latchSet s c b n v) d j = getStrand s d j := by
  cases b
  · by_cases h : d = c
    · subst h; simp [latchSet, getStrand]
    · simp [latchSet, getStrand, getCore_modCore_other, h]
  · rfl

theorem ops_latchSet (s : State) (c d : Nat) (b : Bool) (n v : Nat) :
    (getCore (latchSet s c b n v) d).ops = (getCore s d).ops ∧
    (getCore (latchSet s c b n v) d).nextOp = (getCore s d).nextOp ∧
    (getCore (latchSet s c b n v) d).last = (getCore s d).last ∧
    (getCore (latchSet s c b n v) d).launch = (getCore s d).launch := by
  cases b
  · by_cases h : d = c
    · subst h; simp [latchSet]
    · simp [latchSet, getCore_modCore_other, h]
  · exact ⟨rfl, rfl, rfl, rfl⟩

theorem CoreAlone.refl (s : State) (c : Nat) : CoreAlone s s c := ⟨fun _ _ => rfl, rfl, fun _ _ => rfl, rfl⟩

theorem CoreAlone.trans {s t u : State} {c : Nat} (h : CoreAlone s t c) (g : CoreAlone t u c) : CoreAlone s u c :=
  ⟨fun d hd => (g.cores d hd).trans (h.cores d hd), by rw [g.cluster, h.cluster],
    fun k hk => (g.clusters k hk).trans (h.clusters k hk), g.stores.trans h.stores⟩

theorem OnlyIssued.alone {s t : State} {c i : Nat} {v : Strand} (h : OnlyIssued s t c i v) : CoreAlone s t c := by
  obtain ⟨a, b, d, _⟩ := h
  refine ⟨b, ?_, ?_, ?_⟩
  · rw [a]; rfl
  · intro k _; rw [a]; rfl
  · rw [a]

theorem OnlyIssued.same {s t : State} {c i : Nat} {v : Strand} (h : OnlyIssued s t c i v) :
    SramSame s t ∧ t = { s with comp := t.comp } := by
  obtain ⟨a, _⟩ := h
  refine ⟨⟨by rw [a], by rw [a]⟩, ?_⟩
  conv_lhs => rw [a]
  rw [a]

theorem latchSet_alone (s : State) (c : Nat) (b : Bool) (n v : Nat) : CoreAlone s (latchSet s c b n v) c := by
  cases b
  · exact ⟨fun d hd => by simp [latchSet, getCore_modCore_other, hd], rfl, fun _ _ => rfl, rfl⟩
  · refine ⟨fun _ _ => rfl, ?_, fun k hk => by simp [latchSet, getCluster_modCluster_other, hk], rfl⟩
    simp [latchSet]

theorem latchSet_same (s : State) (c : Nat) (b : Bool) (n v : Nat) :
    SramSame s (latchSet s c b n v) ∧ latchSet s c b n v = { s with comp := (latchSet s c b n v).comp } := by
  cases b <;> exact ⟨⟨rfl, rfl⟩, rfl⟩

/-! ### Issued operations -/

theorem issueOp_same (s : State) (c i : Nat) (e : Entry) (dest : Option Nat) (value : Word) (remote : Bool) (ph : OpPhase) :
    SramSame s (issueOp s c i e dest value remote ph) ∧
    issueOp s c i e dest value remote ph = { s with comp := (issueOp s c i e dest value remote ph).comp } := by
  simp only [issueOp]
  cases doneLatch e with
  | none => exact ⟨⟨rfl, rfl⟩, rfl⟩
  | some l =>
    obtain ⟨⟨a, b⟩, d⟩ := latchSet_same s c l.1 l.2 (latchGet s c l.1 l.2 + 1)
    refine ⟨⟨a, b⟩, ?_⟩
    dsimp only [latchRaise]
    conv_lhs => rw [d]
    rfl

theorem issueOp_alone (s : State) (c i : Nat) (e : Entry) (dest : Option Nat) (value : Word) (remote : Bool)
    (ph : OpPhase) : CoreAlone s (issueOp s c i e dest value remote ph) c := by
  simp only [issueOp]
  have hm : ∀ t : State, ∀ f : Core → Core, CoreAlone t (modCore t c f) c :=
    fun t f => ⟨fun d hd => getCore_modCore_other t _ hd, rfl, fun _ _ => rfl, rfl⟩
  cases doneLatch e with
  | none => exact hm _ _
  | some l => exact (latchSet_alone s c l.1 l.2 _).trans (hm _ _)

/-- An operation issued on a state whose operations, latches and strands are those of `s`, but for the step. -/
theorem issueOp_issued {s s' : State} {c i : Nat} {e : Entry} (dest : Option Nat) (value : Word) (remote : Bool)
    (ph : OpPhase) (ho : (getCore s' c).ops = (getCore s c).ops) (hn : (getCore s' c).nextOp = (getCore s c).nextOp)
    (hi : getStrand s' c i = (getStrand s c i).stepped) (hj : ∀ j, j ≠ i → getStrand s' c j = getStrand s c j)
    (hl : ∀ b n, latchGet s' c b n = latchGet s c b n) (ht : TookTurn s s' c i) :
    Issued s (issueOp s' c i e dest value remote ph) c i e dest value remote ph
      (if readsSram (eOP e) then some c else none) := by
  simp only [issueOp]
  cases hd : doneLatch e with
  | none =>
    refine ⟨?_, ?_, ?_, ?_, ?_, ?_⟩
    · simp [ho, hn, hd]
    · simpa [TookTurn] using ht
    · simp [hn]
    · simpa [getStrand] using hi
    · intro j hx; simpa [getStrand] using hj j hx
    · intro b n
      rw [← hl b n]
      cases b <;> simp [latchGet, hd]
  | some l =>
    have h1 := ops_latchSet s' c c l.1 l.2 (latchGet s' c l.1 l.2 + 1)
    refine ⟨?_, ?_, ?_, ?_, ?_, ?_⟩
    · simp [latchRaise, h1.1, h1.2.1, ho, hn, hd]
    · simpa [TookTurn, latchRaise, h1.2.2.1, h1.2.2.2] using ht
    · simp [latchRaise, h1.2.1, hn]
    · have := getStrand_latchSet s' c c i l.1 l.2 (latchGet s' c l.1 l.2 + 1)
      rw [hi] at this
      simpa [latchRaise, getStrand] using this
    · intro j hx
      have := getStrand_latchSet s' c c j l.1 l.2 (latchGet s' c l.1 l.2 + 1)
      rw [hj j hx] at this
      simpa [latchRaise, getStrand] using this
    · intro b n
      have h2 := latchGet_latchSet s' c l.1 b l.2 n (latchGet s' c l.1 l.2 + 1)
      have h3 : latchGet (modCore (latchRaise s' c l.1 l.2) c (fun k => { k with
          nextOp := k.nextOp + 1
          ops := k.ops ++ [⟨k.nextOp, i, eOP e, some l, dest, value, remote, ph,
            if readsSram (eOP e) then some c else none⟩] })) c b n
          = latchGet (latchRaise s' c l.1 l.2) c b n := by
        cases b <;> simp [latchGet]
      rw [h3, latchRaise, h2, hd]
      by_cases hx : (b, n) = (l.1, l.2)
      · have hx' : l = (b, n) := hx.symm
        subst hx'
        simp [hl]
      · have hx' : ¬ some l = some (b, n) := fun hh => hx (by cases hh; rfl)
        simp [hx, hx', hl]

/-- The latches of a core where its table of latches and its cluster's are the same. -/
theorem OnlyIssued.latches {s t : State} {c i : Nat} {v : Strand} (h : OnlyIssued s t c i v) (b : Bool) (n : Nat) :
    latchGet t c b n = latchGet s c b n := by
  cases b
  · simp [latchGet, h.2.2.1]
  · have : t.comp.clusters = s.comp.clusters := by rw [h.1]
    simp [latchGet, getCluster, this]

theorem OnlyIssued.others {s t : State} {c i : Nat} {v : Strand} (h : OnlyIssued s t c i v) (j : Nat) (hj : j ≠ i) :
    getStrand t c j = getStrand s c j := by
  simp [getStrand, h.2.2.1, List.getD_eq_getElem?_getD, hj.symm]

/-- An operation issued as the entry's whole effect on the core, after other parts of the state have changed. -/
theorem Issues.issued {s s' : State} {c i op : Nat} {e : Entry} (h : Issues s c i op e) (dest : Option Nat) (value : Word)
    (remote : Bool) (ph : OpPhase) (h1 : getCore s' c = getCore (advance s c i) c)
    (h2 : s'.comp.clusters = s.comp.clusters) :
    Issued s (issueOp s' c i e dest value remote ph) c i e dest value remote ph
      (if readsSram (eOP e) then some c else none) := by
  have hs := h.stepped
  refine issueOp_issued dest value remote ph ?_ ?_ ?_ ?_ ?_ ?_
  · rw [h1, hs.2.2.1]
  · rw [h1, hs.2.2.1]
  · rw [← hs.2.2.2]; simp [getStrand, h1]
  · intro j hj; rw [← hs.others j hj]; simp [getStrand, h1]
  · intro b n
    rw [← hs.latches b n]
    cases b
    · simp [latchGet, h1]
    · have : (advance s c i).comp.clusters = s.comp.clusters := rfl
      simp [latchGet, getCluster, h2, this]
  · simpa [TookTurn, h1] using hs.turn

end Sys2Proof.Machine
end

