-- ==== Sys2Proof/Laws/Access.lean ====
section
/-!
SUPPORT. Device-virtual accesses of entries (11 R400-R410): what the step of a strand leaves of an access, what an access
that translation refuses leaves, what the accounting of an access leaves (`Traffic`), and what an access to a page of
HBM leaves.
-/
namespace Sys2Proof.Machine

open Sys2Proof

/-- The launch of a core after a step: the same, or the same with an entry of it issued. -/
theorem launch_advance (s : State) (c i d : Nat) : (getCore (advance s c i) d).launch = (getCore s d).launch ∨
    (getCore (advance s c i) d).launch = (getCore s d).launch.map Launch.begun := by
  by_cases h : d = c
  · subst h; right; simp [advance, modStrand]; rfl
  · left; simp [advance, modStrand, getCore_modCore_other, h]

theorem launchMaps_advance (s : State) (c i d j : Nat) (nd : Need) (a n : Nat) :
    launchMaps (advance s c i) d j nd a n = launchMaps s d j nd a n := by
  simp only [launchMaps]
  rcases launch_advance s c i d with h | h <;> rw [h] <;> cases (getCore s d).launch <;> rfl

theorem strandBytes_advance (s : State) (c i d j ctx va n : Nat) :
    strandBytes (advance s c i) d j ctx va n = strandBytes s d j ctx va n := by
  simp only [strandBytes]
  rcases launch_advance s c i d with h | h <;> rw [h] <;> cases (getCore s d).launch <;> rfl

theorem strandXlat_advance (s : State) (c i d j ctx : Nat) (nd : Need) (a n : Nat) :
    strandXlat (advance s c i) d j ctx nd a n = strandXlat s d j ctx nd a n := by
  simp only [strandXlat, launchMaps_advance]
  rfl

theorem ctx_advance {s : State} {c i op : Nat} {e : Entry} (h : Issues s c i op e) :
    ctxOf (advance s c i) c i = ctxOf s c i := by
  simp [ctxOf, h.stepped.2.2.2, Strand.stepped]

theorem getA_advance {s : State} {c i op : Nat} {e : Entry} (h : Issues s c i op e) (r : Nat) :
    getA (advance s c i) c i r = getA s c i r := by simp [getA, h.stepped.2.2.2, Strand.stepped]

theorem getS_advance {s : State} {c i op : Nat} {e : Entry} (h : Issues s c i op e) (r : Nat) :
    getS (advance s c i) c i r = getS s c i r := by simp [getS, h.stepped.2.2.2, Strand.stepped]

theorem eff_advance {s : State} {c i op : Nat} {e : Entry} (h : Issues s c i op e) :
    effAddr (advance s c i) c i e = effAddr s c i e := by simp [effAddr, getA_advance h]

theorem noteRefusal_same (s : State) (x : Xlat) : ∃ r, noteRefusal s x = { s with regs := r } := by
  cases x with
  | window d => exact ⟨_, rfl⟩
  | _ => exact ⟨_, rfl⟩

theorem dv_refused {s : State} {c i op : Nat} {e : Entry} (h : Issues s c i op e) (x : DvAccess) (hc : x.core = c)
    (hi : x.strand = i) (hx : strandXlat s x.core x.strand x.ctx x.need x.va x.len ≠ .ok) (dest value remote put) :
    Issued s (dvIssue x e dest value remote put (advance s c i)) c i e dest value remote .refused
      (if readsSram (eOP e) then some c else none) ∧
    SramSame s (dvIssue x e dest value remote put (advance s c i)) ∧
    CoreAlone s (dvIssue x e dest value remote put (advance s c i)) c ∧
    dvIssue x e dest value remote put (advance s c i) = { s with
      comp := (dvIssue x e dest value remote put (advance s c i)).comp
      regs := (dvIssue x e dest value remote put (advance s c i)).regs } := by
  have hd : dvIssue x e dest value remote put (advance s c i) = issueOp (noteRefusal (advance s c i) (strandXlat s x.core x.strand x.ctx x.need x.va x.len)) c i e dest value remote .refused := by
    simp only [dvIssue, strandXlat_advance, hc, hi]
    rw [hc, hi] at hx
    split
    · exact absurd ‹_› hx
    · rfl
  rw [hd]
  obtain ⟨r, hr⟩ := noteRefusal_same (advance s c i) (strandXlat s x.core x.strand x.ctx x.need x.va x.len)
  rw [hr]
  have hsame := issueOp_same { advance s c i with regs := r } c i e dest value remote .refused
  refine ⟨h.issued _ _ _ _ rfl rfl, hsame.1, ?_, ?_⟩
  · have h2 : CoreAlone (advance s c i) { advance s c i with regs := r } c := ⟨fun _ _ => rfl, rfl, fun _ _ => rfl, rfl⟩
    exact (h.stepped.alone.trans h2).trans (issueOp_alone _ _ _ _ _ _ _ _)
  · conv_lhs => rw [hsame.2]
    rw [hsame.2]
    rfl

/-- `u` is `s` after the accounting of an access: heat, dirty blocks, buckets and counters alone have changed. -/
def Traffic (s u : State) : Prop := u = { s with
  tiers := u.tiers
  warden := u.warden
  tel := u.tel } ∧ u.tiers.hbm = s.tiers.hbm ∧
  ∀ k, (tabFind u.tiers.leaves k).map (fun l => (l.tier, l.frame)) = (tabFind s.tiers.leaves k).map (fun l => (l.tier, l.frame))

theorem Traffic.refl (s : State) : Traffic s s := ⟨rfl, rfl, fun _ => rfl⟩
theorem Traffic.trans {s t u : State} (h : Traffic s t) (g : Traffic t u) : Traffic s u := by
  obtain ⟨a, b, d⟩ := h; obtain ⟨a', b', d'⟩ := g
  refine ⟨?_, b'.trans b, fun k => (d' k).trans (d k)⟩
  conv_lhs => rw [a']
  rw [a]
theorem Traffic.foldl {α : Type} (f : State → α → State) (hf : ∀ s x, Traffic s (f s x)) (l : List α) (s : State) : Traffic s (l.foldl f s) := by
  induction l generalizing s with
  | nil => exact Traffic.refl s
  | cons x l ih => exact (hf s x).trans (ih _)
theorem Traffic.foldl2 {α β : Type} (f : β × State → α → β × State) (hf : ∀ s x, Traffic s.2 (f s x).2) (l : List α) (s : β × State) : Traffic s.2 (l.foldl f s).2 := by
  induction l generalizing s with
  | nil => exact Traffic.refl s.2
  | cons x l ih => exact (hf s x).trans (ih _)

theorem Traffic.of_parts {s u : State} (h : u = { s with warden := u.warden, tel := u.tel }) : Traffic s u := by
  refine ⟨?_, by rw [h], fun k => by rw [h]⟩
  conv_lhs => rw [h]
  rw [h]

theorem count_traffic (s : State) (id n : Nat) : Traffic s (count s id n) := Traffic.of_parts rfl

theorem setBucket_traffic (s : State) (n : Nat) (b : Bucket) : Traffic s (setBucket s n b) := Traffic.of_parts rfl

theorem spend_traffic (s : State) (x : Charge) : Traffic s (spend s x) := by
  simp only [spend]
  split
  · exact (count_traffic s _ _).trans (setBucket_traffic _ _ _)
  · exact count_traffic s _ _

theorem markDirty_traffic (s : State) (k : Nat) (bs : List Nat) : Traffic s (markDirty s k bs) :=
  ⟨rfl, rfl, fun _ => rfl⟩

theorem touch_traffic (ctx : Nat) (need : Need) (s : State) (p) : Traffic s (touchPage s ctx need p) := by
  simp only [touchPage]
  cases leafOf s ctx p.1 with
  | none => exact Traffic.refl s
  | some f =>
    dsimp only
    split
    · exact ⟨rfl, rfl, fun _ => rfl⟩
    · cases hf : tabFind s.tiers.leaves (pageKey ctx p.1) with
      | none => exact Traffic.refl s
      | some l =>
        have h1 : Traffic s (setLeaf s (pageKey ctx p.1)
            { l with heat := (heatAfter l.heat l.traffic p.2.2).1, traffic := (heatAfter l.heat l.traffic p.2.2).2 }) := by
          refine ⟨rfl, rfl, fun k => ?_⟩
          by_cases hk : k = pageKey ctx p.1
          · subst hk; simp [setLeaf, hf]
          · simp only [setLeaf]; rw [tabFind_tabSet_other _ _ hk]
        dsimp only
        split <;> split
        · exact h1.trans (count_traffic _ _ _)
        · exact h1
        · exact (h1.trans (count_traffic _ _ _)).trans (markDirty_traffic _ _ _)
        · exact h1.trans (markDirty_traffic _ _ _)

theorem partsOf_page {va n : Nat} (hn : 0 < n) (ha : va % 2097152 + n ≤ 2097152) : partsOf va n = [(va / 2097152, va, n)] := by
  have hx : (va + n + 2097151) / 2097152 - va / 2097152 = 1 := by omega
  simp only [partsOf, hx, List.range_succ, List.range_zero, List.nil_append, List.map_cons, List.map_nil, Nat.add_zero]
  have h1 : max va (va / 2097152 * 2097152) = va := by omega
  have h2 : min (va + n) ((va / 2097152 + 1) * 2097152) = va + n := by omega
  rw [h1, h2]
  simp

theorem page_of {va n : Nat} (hn : n = 4 ∨ n = 8) (ha : va % n = 0) : 0 < n ∧ va % 2097152 + n ≤ 2097152 := by
  rcases hn with rfl | rfl <;> omega

theorem leaf_traffic {s u : State} {ctx vpn : Nat} {l l' : Leaf} (hacc : Traffic s u) (hl : leafOf s ctx vpn = some l) (h' : leafOf u ctx vpn = some l') :
    l'.tier = l.tier ∧ l'.frame = l.frame := by
  have hf1 : ∀ a b d, fixedLeaf u a b d = fixedLeaf s a b d := by
    intro a b d; rw [hacc.1]; rfl
  have hf2 : ∀ f, getF u f = getF s f := by intro f; rw [hacc.1]; rfl
  simp only [leafOf, hf1, hf2] at h' hl
  split at h'
  · rename_i l1 h1
    rw [h1] at hl
    dsimp only at hl
    cases hl; cases h'; exact ⟨rfl, rfl⟩
  · rename_i h1
    rw [h1] at hl
    dsimp only at hl
    split at h'
    · rename_i l1 h2
      rw [h2] at hl
      dsimp only at hl
      cases hl; cases h'; exact ⟨rfl, rfl⟩
    · rename_i h2
      rw [h2] at hl
      dsimp only at hl
      have := hacc.2.2 (pageKey ctx vpn)
      rw [h', hl] at this
      simp at this
      exact this

theorem leaf_traffic_some {s u : State} {ctx vpn : Nat} {l : Leaf} (hacc : Traffic s u) (hl : leafOf s ctx vpn = some l) : ∃ l', leafOf u ctx vpn = some l' := by
  have hf1 : ∀ a b d, fixedLeaf u a b d = fixedLeaf s a b d := by
    intro a b d; rw [hacc.1]; rfl
  have hf2 : ∀ f, getF u f = getF s f := by intro f; rw [hacc.1]; rfl
  simp only [leafOf, hf1, hf2] at hl ⊢
  split
  · exact ⟨_, rfl⟩
  · rename_i h1
    rw [h1] at hl
    dsimp only at hl
    split
    · exact ⟨_, rfl⟩
    · rename_i h2
      rw [h2] at hl
      dsimp only at hl
      have := hacc.2.2 (pageKey ctx vpn)
      rw [hl] at this
      cases hq : tabFind u.tiers.leaves (pageKey ctx vpn) with
      | none => rw [hq] at this; cases this
      | some l' => exact ⟨l', rfl⟩

/-- A part that lies in HBM sends no request: it is accounted, or waits in its bucket. -/
theorem part_hbm {x : Flow} {acc : Nat × State} {p : Nat × Nat × Nat} {l : Leaf} (hl : leafOf acc.2 x.ctx p.1 = some l)
    (ht : l.tier = .hbm) (h0 : acc.1 = 0) :
    ((x.part acc p).1 = 0 ∨ (x.part acc p).1 = 1) ∧ Traffic acc.2 (x.part acc p).2 := by
  have ht1 := touch_traffic x.ctx x.need acc.2 p
  simp only [Flow.part]
  generalize touchPage acc.2 x.ctx x.need p = u at *
  have hr : x.requests u p = [] := by
    simp only [Flow.requests]
    split
    · rename_i l' h'
      have : l'.tier = .hbm := (leaf_traffic ht1 hl h').1.trans ht
      simp [this]
    · rfl
  rw [hr, h0]
  cases x.charge u p with
  | none => exact ⟨Or.inl rfl, ht1⟩
  | some c =>
    dsimp only
    split
    · exact ⟨Or.inl rfl, ht1.trans (spend_traffic _ _)⟩
    · exact ⟨Or.inr rfl, ht1.trans (setBucket_traffic _ _ _)⟩

/-- The dispatch of an access to HBM. -/
theorem dispatch_hbm {x : DvAccess} {s : State} {l : Leaf} (hl : leafOf s x.ctx (x.va / 2097152) = some l) (ht : l.tier = .hbm)
    (hn : 0 < x.len) (ha : x.va % 2097152 + x.len ≤ 2097152) (hm : launchMaps s x.core x.strand x.need x.va x.len = none) :
    ((x.dispatch s).1 = 0 ∨ (x.dispatch s).1 = 1) ∧ Traffic s (x.dispatch s).2 := by
  have hd : x.dispatch s = Flow.part ⟨.coreOp x.core x.op, x.ctx, x.need, x.ord, x.va, x.data, x.aop, x.sink⟩ (0, s)
      (x.va / 2097152, x.va, x.len) := by
    simp only [DvAccess.dispatch, hm, Flow.run, partsOf_page hn ha]
    rfl
  rw [hd]
  exact part_hbm (acc := (0, s)) (x := ⟨.coreOp x.core x.op, x.ctx, x.need, x.ord, x.va, x.data, x.aop, x.sink⟩) hl ht rfl

theorem Traffic.frame {s u : State} (h : Traffic s u) : u.comp = s.comp ∧ u.flash = s.flash ∧ u.regs = s.regs ∧
      u.bezel = s.bezel ∧ u.ward = s.ward ∧ u.padlock = s.padlock ∧ u.cfg = s.cfg ∧ u.out = s.out := by
  rw [h.1]; exact ⟨rfl, rfl, rfl, rfl, rfl, rfl, rfl, rfl⟩

theorem phase_cases {n : Nat} (h : n = 0 ∨ n = 1) : phaseOf n = .done ∨ phaseOf n = .fabric 1 := by
  rcases h with rfl | rfl <;> simp [phaseOf]

/-- A device-virtual access to HBM that issues: `put` changes memory alone. -/
theorem dv_hbm {s s0 : State} {c i op : Nat} {e : Entry} (h : Issues s c i op e) (x : DvAccess) (hc : x.core = c)
    (hi : x.strand = i) {l : Leaf} (hs0 : s0 = advance s c i)
    (hl : leafOf s x.ctx (x.va / 2097152) = some l) (ht : l.tier = .hbm)
    (hn : 0 < x.len) (ha : x.va % 2097152 + x.len ≤ 2097152) (hm : launchMaps s x.core x.strand x.need x.va x.len = none)
    (hx : strandXlat s x.core x.strand x.ctx x.need x.va x.len = .ok) (dest value remote) (put : State → State)
    (hput : ∀ u, Traffic s0 u → ∃ ti sr po re, put u =
      { u with tiers := ti, regs := re, comp := { u.comp with sram := sr, sramPoison := po } }) :
    ∃ u ph, Traffic s0 u ∧ (ph = .done ∨ ph = .fabric 1) ∧
    Issued s (dvIssue x e dest value remote put s0) c i e dest value remote ph (if readsSram (eOP e) then some c else none) ∧
    SramSame (put u) (dvIssue x e dest value remote put s0) ∧ CoreAlone s (dvIssue x e dest value remote put s0) c ∧
    (dvIssue x e dest value remote put s0).tiers = (put u).tiers ∧
    (dvIssue x e dest value remote put s0).regs = (put u).regs ∧
    (dvIssue x e dest value remote put s0).flash = s.flash ∧
      (dvIssue x e dest value remote put s0).bezel = s.bezel ∧ (dvIssue x e dest value remote put s0).ward = s.ward ∧
      (dvIssue x e dest value remote put s0).padlock = s.padlock ∧ (dvIssue x e dest value remote put s0).cfg = s.cfg ∧
      (dvIssue x e dest value remote put s0).out = s.out := by
  subst hs0
  obtain ⟨hd1, hd2⟩ := dispatch_hbm (x := x) (s := advance s c i) (l := l) hl ht hn ha (by rw [launchMaps_advance]; exact hm)
  refine ⟨(x.dispatch (advance s c i)).2, phaseOf (x.dispatch (advance s c i)).1, hd2, phase_cases hd1, ?_⟩
  have hdv : dvIssue x e dest value remote put (advance s c i) =
      issueOp (put (x.dispatch (advance s c i)).2) c i e dest value remote (phaseOf (x.dispatch (advance s c i)).1) := by
    rw [hc, hi] at hx
    simp only [dvIssue, strandXlat_advance, hx, hc, hi]
  rw [hdv]
  generalize phaseOf (x.dispatch (advance s c i)).1 = ph at *
  generalize (x.dispatch (advance s c i)).2 = u at *
  obtain ⟨ti, sr, po, re, hti⟩ := hput u hd2
  have hpc : ∀ d, getCore (put u) d = getCore (advance s c i) d := by intro d; rw [hti]; simp [getCore, hd2.frame.1]
  have hpk : (put u).comp.clusters = s.comp.clusters := by rw [hti]; show u.comp.clusters = _; rw [hd2.frame.1]; rfl
  have hps : ((put u).comp.coreStore, (put u).comp.clusterStore, (put u).comp.girdle) =
      ((advance s c i).comp.coreStore, (advance s c i).comp.clusterStore, (advance s c i).comp.girdle) := by
    rw [hti]; show (u.comp.coreStore, u.comp.clusterStore, u.comp.girdle) = _; rw [hd2.frame.1]
  have hframe : (put u).flash = s.flash ∧ (put u).bezel = s.bezel ∧ (put u).ward = s.ward ∧
      (put u).padlock = s.padlock ∧ (put u).cfg = s.cfg ∧ (put u).out = s.out := by
    rw [hti]
    have := hd2.frame
    exact ⟨this.2.1, this.2.2.2.1, this.2.2.2.2.1, this.2.2.2.2.2.1, this.2.2.2.2.2.2.1, this.2.2.2.2.2.2.2⟩
  clear hti
  generalize put u = w at *
  have hvs := issueOp_same w c i e dest value remote ph
  have hal := issueOp_alone w c i e dest value remote ph
  have his := h.issued dest value remote ph (hpc c) hpk
  have hau : CoreAlone s w c := by
    refine h.stepped.alone.trans ⟨fun d _ => hpc d, ?_, fun d _ => by simp only [getCluster, hpk]; rfl, hps⟩
    simp only [getCluster, hpk]; rfl
  generalize issueOp w c i e dest value remote ph = v at *
  have hvf : v.tiers = w.tiers ∧ v.regs = w.regs ∧ v.flash = w.flash ∧ v.bezel = w.bezel ∧ v.ward = w.ward ∧
      v.padlock = w.padlock ∧ v.cfg = w.cfg ∧ v.out = w.out := by
    rw [hvs.2]; exact ⟨rfl, rfl, rfl, rfl, rfl, rfl, rfl, rfl⟩
  obtain ⟨v1, v2, v3, v4, v5, v6, v7, v8⟩ := hvf
  obtain ⟨w1, w3, w4, w5, w6, w7⟩ := hframe
  exact ⟨his, hvs.1, hau.trans hal, v1, v2, v3.trans w1, v4.trans w3, v5.trans w4, v6.trans w5, v7.trans w6, v8.trans w7⟩

theorem align_of {c i : Nat} {s : State} {e : Entry} (h : loadStoreFaults c i s e = []) : aADDR (effAddr s c i e) % sizeBytes (fld e 75 2) = 0 := by
  have hn : sizeBytes (fld e 75 2) ≠ 0 := by simp only [sizeBytes]; split <;> omega
  simp only [loadStoreFaults, accessFaults, List.append_eq_nil_iff] at h
  by_contra hc
  simp [hn, hc] at h

theorem size_cases (k : Nat) : sizeBytes k = 4 ∨ sizeBytes k = 8 := by simp only [sizeBytes]; split <;> simp

theorem virt_hbm {s : State} {c i ctx va n : Nat} {l : Leaf} (hl : leafOf s ctx (va / 2097152) = some l) (ht : l.tier = .hbm)
    (hlost : l.lost = false) (hn : 0 < n) (ha : va % 2097152 + n ≤ 2097152) (hm : launchMaps s c i .read va n = none) :
    leNat (strandBytes s c i ctx va n) = memLoad s.tiers.hbm (l.frame * 2097152 + va % 2097152) n := by
  have hv : virtBytes s ctx va n = memBytes s.tiers.hbm (l.frame * 2097152 + va % 2097152) n := by
    apply List.ext_getElem
    · simp [virtBytes]
    · intro j h1 h2
      have hj : j < n := by simpa [virtBytes] using h1
      have e1 : (va + j) / 2097152 = va / 2097152 := by omega
      have e2 : (va + j) % 2097152 = va % 2097152 + j := by omega
      have := getD_memBytes (m := s.tiers.hbm) (a := l.frame * 2097152 + va % 2097152) hj
      rw [List.getD_eq_getElem _ _ h2] at this
      rw [this]
      simp [virtBytes, virtByte, e1, e2, hl, hlost, ht, Nat.add_assoc]
  simp only [strandBytes, launchMaps] at hm ⊢
  cases hk : (getCore s c).launch with
  | none => simp only [hv]; rfl
  | some k =>
    rw [hk] at hm
    dsimp only at hm ⊢
    split at hm
    · cases hm
    · rename_i hap
      rw [if_neg hap]
      cases hr : rowListAt k i va n with
      | none => simp only [hv]; rfl
      | some y => rw [hr] at hm; cases hm

theorem xlat_lost {s : State} {c i ctx va n : Nat} {nd : Need} {l : Leaf} (hl : leafOf s ctx (va / 2097152) = some l)
    (hn : 0 < n) (ha : va % 2097152 + n ≤ 2097152) (hm : launchMaps s c i nd va n = none) (hx : strandXlat s c i ctx nd va n = .ok) : l.lost = false := by
  simp only [strandXlat, hm, rangeXlat, partsOf_page hn ha, List.map_cons, List.map_nil, firstBad] at hx
  split at hx
  · rename_i hp
    simp only [pageXlat, hl] at hp
    by_contra hh
    simp only [Bool.not_eq_false] at hh
    simp [hh] at hp
  · exact absurd hx ‹_›

theorem read_advance {s : State} {c i ctx va n : Nat} (h1 : virtHbmPoison s ctx va n = none) :
    readValue (advance s c i) c i ctx va n = (leNat (strandBytes s c i ctx va n), advance s c i) := by
  have : virtHbmPoison (advance s c i) ctx va n = none := h1
  have hb := strandBytes_advance s c i c i ctx va n
  simp only [readValue, launchMaps_advance, this]
  split <;> rename_i h2
  · split at h2 <;> cases h2
  · simp [hb]

theorem launch_traffic {s u : State} (h : Traffic s u) (c i : Nat) (nd : Need) (a n : Nat) : launchMaps u c i nd a n = launchMaps s c i nd a n := by
  have h1 : getCore u c = getCore s c := by simp [getCore, h.frame.1]
  simp only [launchMaps, h1]
  have : ∀ l a n, inAperture u l a n = inAperture s l a n := by
    intro l a n; rw [h.1]; rfl
  simp [this]

theorem put_hbm {s0 u : State} (hu : Traffic s0 u) {c i ctx va : Nat} {bs : List Byte} {l : Leaf} (hl : leafOf s0 ctx (va / 2097152) = some l) (ht : l.tier = .hbm)
   (hn : 0 < bs.length) (ha : va % 2097152 + bs.length ≤ 2097152) (hm : launchMaps s0 c i .write va bs.length = none) :
   strandPut u c i ctx va bs = hbmStoreBytes u (l.frame * 2097152 + va % 2097152) bs := by
  obtain ⟨l', hl'⟩ := leaf_traffic_some hu hl
  obtain ⟨h1, h2⟩ := leaf_traffic hu hl hl'
  simp only [strandPut, launch_traffic hu, hm, virtPut, partsOf_page hn ha, List.foldl_cons, List.foldl_nil, pagePut, hl', h1, h2, ht, Nat.sub_self, List.drop_zero, List.take_length]

end Sys2Proof.Machine
end

