-- ==== Sys2Proof/Laws/KeptBase.lean ====
section
/-!
SUPPORT. What every operation of the model keeps, as one relation between a state and what became of it: legality, the
waiting queue, the free values taken so far and the outputs recorded so far; and how the relation passes through a change
of a part that it does not look at, through a choice, through a fold.
-/
namespace Sys2Proof.Machine

open Sys2Proof

/-- A legal state that came from `s₀`: the queue is that of `s₀`, no free value is taken back, no output is unsaid. -/
structure Kept (s₀ s : State) : Prop where
  regs  : RegFile.wf s.regs = true
  sram  : Memory.wf s.comp.sram = true
  hbm   : Memory.wf s.tiers.hbm = true
  loan  : Memory.wf s.tiers.loanMem = true
  flash : Memory.wf s.flash.data = true
  media : Memory.wf s.flash.media = true
  time  : s.time.Legal
  voted : s.padlock.Voted
  queue : s.pending = s₀.pending
  fresh : s₀.fresh ≤ s.fresh
  out   : s₀.out <+: s.out

theorem Kept.sound {s₀ s : State} (h : Kept s₀ s) : s.Sound :=
  ⟨h.regs, h.sram, h.hbm, h.loan, h.flash, h.media, h.time, h.voted⟩

theorem Kept.refl {s : State} (h : s.Sound) : Kept s s :=
  ⟨h.regs, h.sram, h.hbm, h.loan, h.flash, h.media, h.time, h.voted, rfl, le_refl _, List.prefix_rfl⟩

variable {s₀ : State}

/-- The relation looks at these parts alone. -/
theorem Kept.congr {s t : State} (h : Kept s₀ s) (eq : t.pending = s.pending) (en : t.fresh = s.fresh)
    (eo : t.out = s.out) (e1 : t.regs = s.regs) (e2 : t.comp.sram = s.comp.sram)
    (e3 : t.tiers.hbm = s.tiers.hbm) (e4 : t.tiers.loanMem = s.tiers.loanMem) (e5 : t.flash.data = s.flash.data)
    (em : t.flash.media = s.flash.media)
    (e6 : (t.time.slew, t.time.slewPos) = (s.time.slew, s.time.slewPos))
    (l : t.padlock.life = s.padlock.life) (v : t.padlock.svn = s.padlock.svn)
    (f : t.padlock.fused = s.padlock.fused) (d : t.padlock.debug = s.padlock.debug) : Kept s₀ t := by
  rw [Prod.mk.injEq] at e6
  exact ⟨e1 ▸ h.regs, e2 ▸ h.sram, e3 ▸ h.hbm, e4 ▸ h.loan, e5 ▸ h.flash, em ▸ h.media,
    by simpa only [TimeBase.Legal, e6.1, e6.2] using h.time,
    ⟨l ▸ h.voted.1, v ▸ h.voted.2.1, f ▸ h.voted.2.2.1, d ▸ h.voted.2.2.2⟩, eq ▸ h.queue, en ▸ h.fresh, eo ▸ h.out⟩

/-- The state with other parts changed. -/
theorem Kept.mk_congr {s : State} {c ti fl fa ho tm cf fau be ro wd wn hi asy pw pd tl}
    (h : Kept s₀ s) (e2 : c.sram = s.comp.sram) (e3 : ti.hbm = s.tiers.hbm) (e4 : ti.loanMem = s.tiers.loanMem)
    (e5 : (fl.data, fl.media) = (s.flash.data, s.flash.media)) (e6 : (tm.slew, tm.slewPos) = (s.time.slew, s.time.slewPos))
    (ep : (pd.life, pd.svn, pd.fused, pd.debug)
      = (s.padlock.life, s.padlock.svn, s.padlock.fused, s.padlock.debug)) :
    Kept s₀ ⟨s.pending, s.fresh, s.out, s.regs, c, ti, fl, fa, ho, tm, cf, fau, be, ro, wd, wn, hi, asy, pw, pd, tl⟩ := by
  simp only [Prod.mk.injEq] at ep e5
  exact Kept.congr h rfl rfl rfl rfl e2 e3 e4 e5.1 e5.2 e6 ep.1 ep.2.1 ep.2.2.1 ep.2.2.2

/-- The state with a memory written in a way that keeps the canonical form. -/
theorem Kept.mk_touch {s : State} {c ti fl fa ho tm cf fau be ro wd wn hi asy pw pd tl}
    (h : Kept s₀ s) (e2 : Memory.wf s.comp.sram = true → Memory.wf c.sram = true)
    (e3 : Memory.wf s.tiers.hbm = true → Memory.wf ti.hbm = true)
    (e4 : Memory.wf s.tiers.loanMem = true → Memory.wf ti.loanMem = true)
    (e5 : Memory.wf s.flash.data = true → Memory.wf fl.data = true)
    (em : Memory.wf s.flash.media = true → Memory.wf fl.media = true) (e6 : s.time.Legal → tm.Legal)
    (ep : s.padlock.Voted → pd.Voted) :
    Kept s₀ ⟨s.pending, s.fresh, s.out, s.regs, c, ti, fl, fa, ho, tm, cf, fau, be, ro, wd, wn, hi, asy, pw, pd, tl⟩ :=
  ⟨h.regs, e2 h.sram, e3 h.hbm, e4 h.loan, e5 h.flash, em h.media, e6 h.time, ep h.voted, h.queue, h.fresh, h.out⟩

/-- Free values are taken. -/
theorem Kept.take {s : State} (h : Kept s₀ s) (n : Nat) : Kept s₀ { s with fresh := s.fresh + n } :=
  ⟨h.regs, h.sram, h.hbm, h.loan, h.flash, h.media, h.time, h.voted, h.queue, le_trans h.fresh (Nat.le_add_right _ _),
    h.out⟩

/-- An output is recorded. -/
theorem Kept.say {s : State} (h : Kept s₀ s) (l : List Out) : Kept s₀ { s with out := s.out ++ l } :=
  ⟨h.regs, h.sram, h.hbm, h.loan, h.flash, h.media, h.time, h.voted, h.queue, h.fresh,
    h.out.trans (List.prefix_append _ _)⟩

theorem Kept.ite {c : Prop} [Decidable c] {s t : State} (h1 : Kept s₀ s) (h2 : Kept s₀ t) :
    Kept s₀ (if c then s else t) := by
  split <;> assumption

theorem Kept.foldl {α : Type} {f : State → α → State} {l : List α} {s : State}
    (hf : ∀ t x, Kept s₀ t → Kept s₀ (f t x)) (h : Kept s₀ s) : Kept s₀ (l.foldl f s) := by
  induction l generalizing s with
  | nil => exact h
  | cons x l ih => exact ih (hf s x h)

theorem Kept.ite_snd {α : Type} {c : Prop} [Decidable c] {a b : α × State} (h1 : Kept s₀ a.2) (h2 : Kept s₀ b.2) :
    Kept s₀ (if c then a else b).2 := by
  split <;> assumption

theorem Kept.ite_snd2 {α β : Type} {c : Prop} [Decidable c] {a b : α × β × State} (h1 : Kept s₀ a.2.2)
    (h2 : Kept s₀ b.2.2) : Kept s₀ (if c then a else b).2.2 := by
  split <;> assumption

theorem Kept.foldl_snd {α β : Type} {f : β × State → α → β × State} {l : List α} {a : β × State}
    (hf : ∀ b x, Kept s₀ b.2 → Kept s₀ (f b x).2) (h : Kept s₀ a.2) : Kept s₀ (l.foldl f a).2 := by
  induction l generalizing a with
  | nil => exact h
  | cons x l ih => exact ih (hf a x h)

theorem Kept.foldl_snd2 {α β γ : Type} {f : β × γ × State → α → β × γ × State} {l : List α}
    {a : β × γ × State} (hf : ∀ b x, Kept s₀ b.2.2 → Kept s₀ (f b x).2.2) (h : Kept s₀ a.2.2) :
    Kept s₀ (l.foldl f a).2.2 := by
  induction l generalizing a with
  | nil => exact h
  | cons x l ih => exact ih (hf a x h)

theorem Kept.foldl_fst {α β : Type} {f : State × β → α → State × β} {l : List α} {a : State × β}
    (hf : ∀ b x, Kept s₀ b.1 → Kept s₀ (f b x).1) (h : Kept s₀ a.1) : Kept s₀ (l.foldl f a).1 := by
  induction l generalizing a with
  | nil => exact h
  | cons x l ih => exact ih (hf a x h)

theorem Kept.of_pair1 {α : Type} {p : α × State} {a : α} {s : State} (e : p = (a, s)) (h : Kept s₀ p.2) :
    Kept s₀ s := by
  rw [e] at h; exact h

theorem Kept.of_pair2 {α β : Type} {p : α × β × State} {a : α} {b : β} {s : State} (e : p = (a, b, s))
    (h : Kept s₀ p.2.2) : Kept s₀ s := by
  rw [e] at h; exact h

theorem Kept.of_fst {α : Type} {p : State × α} {a : α} {s : State} (e : p = (s, a)) (h : Kept s₀ p.1) :
    Kept s₀ s := by
  rw [e] at h; exact h

/-- The outcome is a next state that is legal. -/
def OutKept (s₀ : State) : Host.Outcome State Fault Refusal → Prop
  | .next t => Kept s₀ t
  | _ => False

theorem OutKept.to {o : Host.Outcome State Fault Refusal} {t : State} (h : OutKept s₀ o) (e : o = .next t) : Kept s₀ t := by
  rw [e] at h; exact h

theorem OutKept.next {t : State} (h : Kept s₀ t) : OutKept s₀ (.next t) := h

end Sys2Proof.Machine
end

