-- ==== Sys2Proof/Laws/KeptOps.lean ====
section
/-!
SUPPORT. What every operation keeps (see KeptBase), operation by operation: the shared operations.
-/
namespace Sys2Proof.Machine

open Sys2Proof

set_option maxRecDepth 4000

variable {s₀ : State}

theorem TimeBase.reset_legal : TimeBase.reset.Legal := by
  simp [TimeBase.Legal, TimeBase.reset]

theorem state_takeFree_keeps {s : State} (h : Kept s₀ s) : Kept s₀ (State.takeFree s).2 := h.take 1

theorem state_emit_keeps {s : State} (h : Kept s₀ s) (k : OutKind) (args : List Nat) : Kept s₀ (State.emit s k args) :=
  h.say _

theorem setReg_keeps {s : State} (h : Kept s₀ s) (key : Nat) (v : Word) : Kept s₀ (setReg s key v) :=
  ⟨regFile_wf_tabSet key v h.regs, h.sram, h.hbm, h.loan, h.flash, h.media, h.time, h.voted, h.queue, h.fresh, h.out⟩

theorem setF_keeps {s : State} (h : Kept s₀ s) (f : Field) (v : Nat) : Kept s₀ (setF s f v) := by
  unfold setF
  repeat' first
    | with_reducible assumption
    | with_reducible apply Kept.ite
    | with_reducible apply setReg_keeps

theorem raiseF_keeps {s : State} (h : Kept s₀ s) (f : Field) : Kept s₀ (raiseF s f) := by
  unfold raiseF
  repeat' first
    | with_reducible assumption
    | with_reducible apply Kept.ite
    | with_reducible apply setF_keeps

theorem bumpF_keeps {s : State} (h : Kept s₀ s) (f : Field) (n : Nat) : Kept s₀ (bumpF s f n) := by
  unfold bumpF
  repeat' first
    | with_reducible assumption
    | with_reducible apply Kept.ite
    | with_reducible apply setF_keeps

theorem bumpWrapF_keeps {s : State} (h : Kept s₀ s) (f : Field) (n : Nat) : Kept s₀ (bumpWrapF s f n) := by
  unfold bumpWrapF
  repeat' first
    | with_reducible assumption
    | with_reducible apply Kept.ite
    | with_reducible apply setF_keeps

theorem resetReg_keeps {s : State} (h : Kept s₀ s) (key : Nat) : Kept s₀ (resetReg s key) :=
  ⟨regFile_wf_tabDel key h.regs, h.sram, h.hbm, h.loan, h.flash, h.media, h.time, h.voted, h.queue, h.fresh, h.out⟩

theorem setCore_keeps {s : State} (h : Kept s₀ s) (c : Nat) (v : Core) : Kept s₀ (setCore s c v) := by
  unfold setCore
  repeat' first
    | with_reducible assumption
    | with_reducible apply Kept.ite
    | split
    | with_reducible refine Kept.mk_congr ?_ rfl rfl rfl rfl rfl rfl

theorem modCore_keeps {s : State} (h : Kept s₀ s) (c : Nat) (f : Core → Core) : Kept s₀ (modCore s c f) := by
  unfold modCore
  repeat' first
    | with_reducible assumption
    | with_reducible apply Kept.ite
    | with_reducible apply setCore_keeps

theorem setCluster_keeps {s : State} (h : Kept s₀ s) (k : Nat) (v : Cluster) : Kept s₀ (setCluster s k v) := by
  unfold setCluster
  repeat' first
    | with_reducible assumption
    | with_reducible apply Kept.ite
    | split
    | with_reducible refine Kept.mk_congr ?_ rfl rfl rfl rfl rfl rfl

theorem modCluster_keeps {s : State} (h : Kept s₀ s) (k : Nat) (f : Cluster → Cluster) :
    Kept s₀ (modCluster s k f) := by
  unfold modCluster
  repeat' first
    | with_reducible assumption
    | with_reducible apply Kept.ite
    | with_reducible apply setCluster_keeps

theorem modStrand_keeps {s : State} (h : Kept s₀ s) (c i : Nat) (f : Strand → Strand) :
    Kept s₀ (modStrand s c i f) := by
  unfold modStrand
  repeat' first
    | with_reducible assumption
    | with_reducible apply Kept.ite
    | with_reducible apply modCore_keeps

theorem raiseCoreFlags_keeps {s : State} (h : Kept s₀ s) (c : Nat) (f : BitVec 5) :
    Kept s₀ (raiseCoreFlags s c f) := by
  unfold raiseCoreFlags
  repeat' first
    | with_reducible assumption
    | with_reducible apply Kept.ite
    | with_reducible apply setReg_keeps

theorem sramPoisonRange_keeps {s : State} (h : Kept s₀ s) (c a n : Nat) : Kept s₀ (sramPoisonRange s c a n) := by
  unfold sramPoisonRange
  repeat' first
    | with_reducible assumption
    | with_reducible apply Kept.ite
    | with_reducible refine Kept.foldl (fun _ _ _ => ?_) ?_
    | with_reducible refine Kept.foldl_snd (fun _ _ _ => ?_) ?_
    | with_reducible refine Kept.foldl_snd2 (fun _ _ _ => ?_) ?_
    | with_reducible refine Kept.foldl_fst (fun _ _ _ => ?_) ?_
    | split
    | with_reducible refine Kept.mk_congr ?_ rfl rfl rfl rfl rfl rfl

theorem sramStoreBytes_keeps {s : State} (h : Kept s₀ s) (c a : Nat) (bs : List Byte) :
    Kept s₀ (sramStoreBytes s c a bs) :=
  ⟨h.regs, memSetBytes_wf _ bs h.sram, h.hbm, h.loan, h.flash, h.media, h.time, h.voted, h.queue, h.fresh, h.out⟩

theorem sramStore_keeps {s : State} (h : Kept s₀ s) (c a n v : Nat) : Kept s₀ (sramStore s c a n v) := by
  unfold sramStore
  repeat' first
    | with_reducible assumption
    | with_reducible apply Kept.ite
    | with_reducible apply sramStoreBytes_keeps

theorem hbmStoreBytes_keeps {s : State} (h : Kept s₀ s) (a : Nat) (bs : List Byte) : Kept s₀ (hbmStoreBytes s a bs) :=
  ⟨h.regs, h.sram, memSetBytes_wf _ bs h.hbm, h.loan, h.flash, h.media, h.time, h.voted, h.queue, h.fresh, h.out⟩

theorem hbmStore_keeps {s : State} (h : Kept s₀ s) (a n v : Nat) : Kept s₀ (hbmStore s a n v) := by
  unfold hbmStore
  repeat' first
    | with_reducible assumption
    | with_reducible apply Kept.ite
    | with_reducible apply hbmStoreBytes_keeps

theorem hbmPoison_keeps {s : State} (h : Kept s₀ s) (g : Nat) : Kept s₀ (hbmPoison s g) := by
  unfold hbmPoison
  repeat' first
    | with_reducible assumption
    | with_reducible apply Kept.ite
    | split
    | with_reducible refine Kept.mk_congr ?_ rfl rfl rfl rfl rfl rfl

theorem hbmZero_keeps {s : State} (h : Kept s₀ s) (a n : Nat) : Kept s₀ (hbmZero s a n) :=
  ⟨h.regs, h.sram, memZero_wf a n h.hbm, h.loan, h.flash, h.media, h.time, h.voted, h.queue, h.fresh, h.out⟩

theorem count_keeps {s : State} (h : Kept s₀ s) (id n : Nat) : Kept s₀ (count s id n) := by
  unfold count
  repeat' first
    | with_reducible assumption
    | with_reducible apply Kept.ite
    | split
    | with_reducible refine Kept.mk_congr ?_ rfl rfl rfl rfl rfl rfl

theorem advanceCounter_keeps {s : State} (h : Kept s₀ s) (id width : Nat) :
    Kept s₀ (advanceCounter s id width) := by
  unfold advanceCounter
  repeat' first
    | with_reducible assumption
    | with_reducible apply Kept.ite
    | with_reducible apply state_takeFree_keeps
    | (refine Kept.of_pair1 (by assumption) ?_)
    | split
    | with_reducible refine Kept.mk_congr ?_ rfl rfl rfl rfl rfl rfl
    | dsimp only

theorem advanceCycles_keeps {s : State} (h : Kept s₀ s) (k : Nat) : Kept s₀ (advanceCycles s k) :=
  advanceCounter_keeps (advanceCounter_keeps (advanceCounter_keeps h _ _) _ _) _ _

theorem snapshotCounters_keeps {s : State} (h : Kept s₀ s) :
    Kept s₀ (snapshotCounters s).2 := by
  unfold snapshotCounters
  repeat' first
    | with_reducible assumption
    | with_reducible apply Kept.ite
    | with_reducible apply count_keeps
    | with_reducible apply advanceCycles_keeps
    | with_reducible refine Kept.foldl (fun _ _ _ => ?_) ?_
    | with_reducible refine Kept.foldl_snd (fun _ _ _ => ?_) ?_
    | with_reducible refine Kept.foldl_snd2 (fun _ _ _ => ?_) ?_
    | with_reducible refine Kept.foldl_fst (fun _ _ _ => ?_) ?_
    | with_reducible apply Kept.ite_snd
    | split
    | dsimp only

theorem globalError_keeps {s : State} (h : Kept s₀ s) (kind : Nat) (f : Field) (off fn : Nat) (write : Bool) :
    Kept s₀ (globalError s kind f off fn write) := by
  unfold globalError
  repeat' first
    | with_reducible assumption
    | with_reducible apply Kept.ite
    | with_reducible apply raiseF_keeps
    | with_reducible apply setReg_keeps

theorem errWidth_keeps {s : State} (h : Kept s₀ s) (off fn : Nat) (write : Bool) :
    Kept s₀ (errWidth s off fn write) := by
  unfold errWidth
  repeat' first
    | with_reducible assumption
    | with_reducible apply Kept.ite
    | with_reducible apply globalError_keeps

theorem errVfAccess_keeps {s : State} (h : Kept s₀ s) (off fn : Nat) : Kept s₀ (errVfAccess s off fn) := by
  unfold errVfAccess
  repeat' first
    | with_reducible assumption
    | with_reducible apply Kept.ite
    | with_reducible apply globalError_keeps

theorem errWindowClosed_keeps {s : State} (h : Kept s₀ s) (off fn : Nat) : Kept s₀ (errWindowClosed s off fn) := by
  unfold errWindowClosed
  repeat' first
    | with_reducible assumption
    | with_reducible apply Kept.ite
    | with_reducible apply globalError_keeps

theorem errNotReady_keeps {s : State} (h : Kept s₀ s) (off fn : Nat) : Kept s₀ (errNotReady s off fn) := by
  unfold errNotReady
  repeat' first
    | with_reducible assumption
    | with_reducible apply Kept.ite
    | with_reducible apply globalError_keeps

theorem latchUnderflow_keeps {s : State} (h : Kept s₀ s) (cl : Nat) (bank : Bool) (latch core context : Nat) :
    Kept s₀ (latchUnderflow s cl bank latch core context) := by
  unfold latchUnderflow
  repeat' first
    | with_reducible assumption
    | with_reducible apply Kept.ite
    | with_reducible apply raiseF_keeps
    | with_reducible apply setReg_keeps

theorem latchSet_keeps {s : State} (h : Kept s₀ s) (c : Nat) (bank : Bool) (n v : Nat) :
    Kept s₀ (latchSet s c bank n v) := by
  unfold latchSet
  repeat' first
    | with_reducible assumption
    | with_reducible apply Kept.ite
    | with_reducible apply modCluster_keeps
    | with_reducible apply modCore_keeps

theorem latchRaise_keeps {s : State} (h : Kept s₀ s) (c : Nat) (bank : Bool) (n : Nat) :
    Kept s₀ (latchRaise s c bank n) := by
  unfold latchRaise
  repeat' first
    | with_reducible assumption
    | with_reducible apply Kept.ite
    | with_reducible apply latchSet_keeps

theorem latchLower_keeps {s : State} (h : Kept s₀ s) (c : Nat) (bank : Bool) (n context : Nat) :
    Kept s₀ (latchLower s c bank n context) := by
  unfold latchLower
  repeat' first
    | with_reducible assumption
    | with_reducible apply Kept.ite
    | with_reducible apply latchUnderflow_keeps
    | with_reducible apply latchSet_keeps

theorem done_keeps {s : State} (h : Kept s₀ s) : OutKept s₀ (done s) := by
  unfold done
  try refine OutKept.next ?_
  repeat' (with_reducible assumption)

theorem pfWrite_keeps {s : State} (h : Kept s₀ s) (off fn : Nat) (f : State → State)
    (hf : ∀ t, Kept s₀ t → Kept s₀ (f t)) : Kept s₀ (pfWrite s off fn f) := by
  unfold pfWrite
  split
  · exact errVfAccess_keeps h off fn
  · split
    · exact errNotReady_keeps h off fn
    · exact hf s h

theorem setHQ_keeps {s : State} (h : Kept s₀ s) (fn q : Nat) (v : HostQueue) : Kept s₀ (setHQ s fn q v) := by
  unfold setHQ
  repeat' first
    | with_reducible assumption
    | with_reducible apply Kept.ite
    | split
    | with_reducible refine Kept.mk_congr ?_ rfl rfl rfl rfl rfl rfl

theorem setQP_keeps {s : State} (h : Kept s₀ s) (i : Nat) (v : QPair) : Kept s₀ (setQP s i v) := by
  unfold setQP
  repeat' first
    | with_reducible assumption
    | with_reducible apply Kept.ite
    | split
    | with_reducible refine Kept.mk_congr ?_ rfl rfl rfl rfl rfl rfl

theorem rdmaPut_keeps {s : State} (h : Kept s₀ s) (i addr key n v : Nat) : Kept s₀ (rdmaPut s i addr key n v) := by
  unfold rdmaPut
  repeat' first
    | with_reducible assumption
    | with_reducible apply Kept.ite
    | with_reducible apply state_emit_keeps
    | with_reducible apply setQP_keeps

theorem msixRequest_keeps {s : State} (h : Kept s₀ s) (fn vec : Nat) (ien : Bool) :
    Kept s₀ (msixRequest s fn vec ien) := by
  unfold msixRequest
  repeat' first
    | with_reducible assumption
    | with_reducible apply Kept.ite
    | split
    | with_reducible refine Kept.mk_congr ?_ rfl rfl rfl rfl rfl rfl

theorem completePcie_keeps {s : State} (h : Kept s₀ s) (fn q subseq op status ward aseq : Nat) :
    Kept s₀ (completePcie s fn q subseq op status ward aseq) := by
  unfold completePcie
  repeat' first
    | with_reducible assumption
    | with_reducible apply Kept.ite
    | with_reducible apply state_emit_keeps
    | with_reducible apply setHQ_keeps
    | with_reducible apply count_keeps
    | with_reducible apply msixRequest_keeps

theorem completeQp_keeps {s : State} (h : Kept s₀ s) (i subseq op status ward aseq : Nat) :
    Kept s₀ (completeQp s i subseq op status ward aseq) := by
  unfold completeQp
  repeat' first
    | with_reducible assumption
    | with_reducible apply Kept.ite
    | with_reducible apply rdmaPut_keeps
    | with_reducible apply count_keeps
    | with_reducible apply setQP_keeps

theorem complete_keeps {s : State} (h : Kept s₀ s) (o : Origin) (subseq op status ward aseq : Nat) :
    Kept s₀ (complete s o subseq op status ward aseq) := by
  unfold complete
  repeat' first
    | with_reducible assumption
    | with_reducible apply Kept.ite
    | with_reducible apply completePcie_keeps
    | with_reducible apply completeQp_keeps
    | split

theorem setRing_keeps {s : State} (h : Kept s₀ s) (fn : Nat) (r : Ring) : Kept s₀ (setRing s fn r) := by
  unfold setRing
  repeat' first
    | with_reducible assumption
    | with_reducible apply Kept.ite
    | split
    | with_reducible refine Kept.mk_congr ?_ rfl rfl rfl rfl rfl rfl

theorem postFn_keeps {s : State} (h : Kept s₀ s) (fn code cause argA argC argB : Nat) :
    Kept s₀ (postFn s fn code cause argA argC argB) := by
  unfold postFn
  repeat' first
    | with_reducible assumption
    | with_reducible apply Kept.ite
    | with_reducible apply raiseF_keeps
    | with_reducible apply count_keeps
    | with_reducible apply bumpF_keeps
    | with_reducible apply state_emit_keeps
    | with_reducible apply setRing_keeps
    | with_reducible apply msixRequest_keeps

theorem postQp_keeps {s : State} (h : Kept s₀ s) (i code cause argA argC argB : Nat) :
    Kept s₀ (postQp s i code cause argA argC argB) := by
  unfold postQp
  repeat' first
    | with_reducible assumption
    | with_reducible apply Kept.ite
    | with_reducible apply count_keeps
    | with_reducible apply rdmaPut_keeps
    | with_reducible apply setQP_keeps

theorem postOrigin_keeps {s : State} (h : Kept s₀ s) (o : Origin) (sys : Bool) (code cause argA argC argB : Nat) :
    Kept s₀ (postOrigin s o sys code cause argA argC argB) := by
  unfold postOrigin
  repeat' first
    | with_reducible assumption
    | with_reducible apply Kept.ite
    | with_reducible apply postFn_keeps
    | with_reducible apply postQp_keeps
    | split

theorem postPF_keeps {s : State} (h : Kept s₀ s) (code cause argA argC argB : Nat) :
    Kept s₀ (postPF s code cause argA argC argB) := by
  unfold postPF
  repeat' first
    | with_reducible assumption
    | with_reducible apply Kept.ite
    | with_reducible apply postFn_keeps

theorem platformEvent_keeps {s : State} (h : Kept s₀ s) (args : List Nat) : Kept s₀ (platformEvent s args) := by
  unfold platformEvent
  repeat' first
    | with_reducible assumption
    | with_reducible apply Kept.ite
    | with_reducible apply state_emit_keeps

theorem setFaultPhase_keeps {s : State} (h : Kept s₀ s) (v : Nat) : Kept s₀ (setFaultPhase s v) := by
  unfold setFaultPhase
  repeat' first
    | with_reducible assumption
    | with_reducible apply Kept.ite
    | with_reducible apply setF_keeps
    | with_reducible apply platformEvent_keeps

theorem setStage_keeps {s : State} (h : Kept s₀ s) (v : Nat) : Kept s₀ (setStage s v) := by
  unfold setStage
  repeat' first
    | with_reducible assumption
    | with_reducible apply Kept.ite
    | with_reducible apply setF_keeps
    | with_reducible apply platformEvent_keeps

theorem assertFaultN_keeps {s : State} (h : Kept s₀ s) : Kept s₀ (assertFaultN s) := by
  unfold assertFaultN
  repeat' first
    | with_reducible assumption
    | with_reducible apply Kept.ite
    | with_reducible apply setF_keeps
    | with_reducible apply platformEvent_keeps

theorem sendMsg_keeps {s : State} (h : Kept s₀ s) (m : Msg) (dest : Nat) (args : List Nat) :
    Kept s₀ (sendMsg s m dest args) := by
  unfold sendMsg
  repeat' first
    | with_reducible assumption
    | with_reducible apply Kept.ite
    | with_reducible apply state_emit_keeps

theorem sendAll_keeps {s : State} (h : Kept s₀ s) (m : Msg) (args : List Nat) : Kept s₀ (sendAll s m args) := by
  unfold sendAll
  repeat' first
    | with_reducible assumption
    | with_reducible apply Kept.ite
    | with_reducible apply sendMsg_keeps
    | with_reducible refine Kept.foldl (fun _ _ _ => ?_) ?_

theorem sendRecord_keeps {s : State} (h : Kept s₀ s) (r : OrderRecord) : Kept s₀ (sendRecord s r) := by
  unfold sendRecord
  repeat' first
    | with_reducible assumption
    | with_reducible apply Kept.ite
    | with_reducible apply sendMsg_keeps

theorem sendPlain_keeps {s : State} (h : Kept s₀ s) (k : RecKind) (ward aseq arg : Nat) :
    Kept s₀ (sendPlain s k ward aseq arg) := by
  unfold sendPlain
  repeat' first
    | with_reducible assumption
    | with_reducible apply Kept.ite
    | with_reducible apply sendRecord_keeps

theorem useFrame_keeps {s : State} (h : Kept s₀ s) (f : Nat) : Kept s₀ (useFrame s f) := by
  unfold useFrame
  repeat' first
    | with_reducible assumption
    | with_reducible apply Kept.ite
    | split
    | with_reducible refine Kept.mk_congr ?_ rfl rfl rfl rfl rfl rfl

theorem refreshBacklog_keeps {s : State} (h : Kept s₀ s) : Kept s₀ (refreshBacklog s) := by
  unfold refreshBacklog
  repeat' first
    | with_reducible assumption
    | with_reducible apply Kept.ite
    | with_reducible apply setF_keeps
    | with_reducible apply state_takeFree_keeps

theorem bufferGranule_keeps {s : State} (h : Kept s₀ s) (granule owner : Nat) (durable : Bool) :
    Kept s₀ (bufferGranule s granule owner durable) := by
  unfold bufferGranule
  repeat' first
    | with_reducible assumption
    | with_reducible apply Kept.ite
    | with_reducible apply refreshBacklog_keeps
    | split
    | with_reducible refine Kept.mk_congr ?_ rfl rfl rfl rfl rfl rfl

theorem flashStoreBytes_keeps {s : State} (h : Kept s₀ s) (a : Nat) (bs : List Byte) (owner : Nat)
    (durable : Bool) : Kept s₀ (flashStoreBytes s a bs owner durable) := by
  unfold flashStoreBytes
  repeat' first
    | with_reducible assumption
    | with_reducible apply Kept.ite
    | with_reducible apply bufferGranule_keeps
    | with_reducible refine Kept.foldl (fun _ _ _ => ?_) ?_
    | with_reducible refine Kept.foldl_snd (fun _ _ _ => ?_) ?_
    | with_reducible refine Kept.foldl_snd2 (fun _ _ _ => ?_) ?_
    | with_reducible refine Kept.foldl_fst (fun _ _ _ => ?_) ?_
    | split
    | with_reducible refine Kept.mk_touch ?_ ?_ ?_ ?_ ?_ ?_ ?_ ?_
    | exact id
    | exact memSetBytes_wf _ _

theorem backingPaste_keeps {s : State} (h : Kept s₀ s) (t : Tier) (f : Nat) (owner : Nat) (w : Span) (sl : Mem) (ps : List Nat) :
    Kept s₀ (backingPaste s t f owner w sl ps) := by
  unfold backingPaste
  repeat' first
    | with_reducible assumption
    | with_reducible apply Kept.ite
    | with_reducible apply hbmPoison_keeps
    | with_reducible apply bufferGranule_keeps
    | with_reducible refine Kept.foldl (fun _ _ _ => ?_) ?_
    | with_reducible refine Kept.foldl_snd (fun _ _ _ => ?_) ?_
    | with_reducible refine Kept.foldl_snd2 (fun _ _ _ => ?_) ?_
    | with_reducible refine Kept.foldl_fst (fun _ _ _ => ?_) ?_
    | split
    | with_reducible refine Kept.mk_congr ?_ rfl rfl rfl rfl rfl rfl
    | with_reducible refine Kept.mk_touch ?_ ?_ ?_ ?_ ?_ ?_ ?_ ?_
    | exact id
    | exact memSetBytes_wf _ _
    | exact memZero_wf _ _
    | exact memPaste_wf _ _ _
    | dsimp only

theorem copySpan_keeps {s : State} (h : Kept s₀ s) (t : Tier) (f : Nat) (t' : Tier) (f' : Nat) (owner : Nat) (w : Span) :
    Kept s₀ (copySpan s t f t' f' owner w) := by
  unfold copySpan
  repeat' first
    | with_reducible assumption
    | with_reducible apply Kept.ite
    | with_reducible apply backingPaste_keeps
    | split
    | dsimp only

theorem trimGranule_keeps {s : State} (h : Kept s₀ s) (g : Nat) : Kept s₀ (trimGranule s g) := by
  unfold trimGranule
  repeat' first
    | with_reducible assumption
    | with_reducible apply Kept.ite
    | split
    | with_reducible refine Kept.mk_touch ?_ ?_ ?_ ?_ ?_ ?_ ?_ ?_
    | exact id
    | exact memSetBytes_wf _ _
    | exact memZero_wf _ _

theorem trimUnit_keeps {s : State} (h : Kept s₀ s) (u : Nat) : Kept s₀ (trimUnit s u) := by
  unfold trimUnit
  repeat' first
    | with_reducible assumption
    | with_reducible apply Kept.ite
    | with_reducible apply trimGranule_keeps
    | with_reducible apply refreshBacklog_keeps
    | with_reducible refine Kept.foldl (fun _ _ _ => ?_) ?_
    | with_reducible refine Kept.foldl_snd (fun _ _ _ => ?_) ?_
    | with_reducible refine Kept.foldl_snd2 (fun _ _ _ => ?_) ?_
    | with_reducible refine Kept.foldl_fst (fun _ _ _ => ?_) ?_
    | split
    | with_reducible refine Kept.mk_congr ?_ rfl rfl rfl rfl rfl rfl

theorem releaseBacking_keeps {s : State} (h : Kept s₀ s) (t : Tier) (f : Nat) : Kept s₀ (releaseBacking s t f) := by
  unfold releaseBacking
  repeat' first
    | with_reducible assumption
    | with_reducible apply Kept.ite
    | with_reducible apply trimUnit_keeps
    | split
    | with_reducible refine Kept.mk_congr ?_ rfl rfl rfl rfl rfl rfl

theorem markDirty_keeps {s : State} (h : Kept s₀ s) (k : Nat) (blocks : List Nat) :
    Kept s₀ (markDirty s k blocks) := by
  unfold markDirty
  repeat' first
    | with_reducible assumption
    | with_reducible apply Kept.ite
    | with_reducible refine Kept.foldl (fun _ _ _ => ?_) ?_
    | with_reducible refine Kept.foldl_snd (fun _ _ _ => ?_) ?_
    | with_reducible refine Kept.foldl_snd2 (fun _ _ _ => ?_) ?_
    | with_reducible refine Kept.foldl_fst (fun _ _ _ => ?_) ?_
    | split
    | with_reducible refine Kept.mk_congr ?_ rfl rfl rfl rfl rfl rfl
    | dsimp only

theorem setLeaf_keeps {s : State} (h : Kept s₀ s) (k : Nat) (l : Leaf) : Kept s₀ (setLeaf s k l) := by
  unfold setLeaf
  repeat' first
    | with_reducible assumption
    | with_reducible apply Kept.ite
    | split
    | with_reducible refine Kept.mk_congr ?_ rfl rfl rfl rfl rfl rfl

theorem delLeaf_keeps {s : State} (h : Kept s₀ s) (k : Nat) : Kept s₀ (delLeaf s k) := by
  unfold delLeaf
  repeat' first
    | with_reducible assumption
    | with_reducible apply Kept.ite
    | split
    | with_reducible refine Kept.mk_congr ?_ rfl rfl rfl rfl rfl rfl

theorem cancelMigration_keeps {s : State} (h : Kept s₀ s) (k : Nat) : Kept s₀ (cancelMigration s k) := by
  unfold cancelMigration
  repeat' first
    | with_reducible assumption
    | with_reducible apply Kept.ite
    | with_reducible apply releaseBacking_keeps
    | with_reducible apply setLeaf_keeps
    | split
    | with_reducible refine Kept.mk_congr ?_ rfl rfl rfl rfl rfl rfl

theorem unmapPage_keeps {s : State} (h : Kept s₀ s) (k : Nat) (l : Leaf) : Kept s₀ (unmapPage s k l) := by
  unfold unmapPage
  repeat' first
    | with_reducible assumption
    | with_reducible apply Kept.ite
    | with_reducible apply cancelMigration_keeps
    | with_reducible apply delLeaf_keeps
    | with_reducible apply releaseBacking_keeps

theorem unmapRange_keeps {s : State} (h : Kept s₀ s) (ctx vpn n : Nat) : Kept s₀ (unmapRange s ctx vpn n) := by
  unfold unmapRange
  repeat' first
    | with_reducible assumption
    | with_reducible apply Kept.ite
    | with_reducible apply unmapPage_keeps
    | with_reducible refine Kept.foldl (fun _ _ _ => ?_) ?_

theorem pageLost_keeps {s : State} (h : Kept s₀ s) (k : Nat) (f : Field) : Kept s₀ (pageLost s k f) := by
  unfold pageLost
  repeat' first
    | with_reducible assumption
    | with_reducible apply Kept.ite
    | with_reducible apply setLeaf_keeps
    | with_reducible apply raiseF_keeps
    | with_reducible apply setF_keeps
    | split

theorem useBacking_keeps {s : State} (h : Kept s₀ s) (t : Tier) (f : Nat) : Kept s₀ (useBacking s t f) := by
  unfold useBacking
  repeat' first
    | with_reducible assumption
    | with_reducible apply Kept.ite
    | with_reducible apply useFrame_keeps
    | split
    | with_reducible refine Kept.mk_congr ?_ rfl rfl rfl rfl rfl rfl

theorem askLender_keeps {s : State} (h : Kept s₀ s) (i : Nat) : Kept s₀ (askLender s i) := by
  unfold askLender
  repeat' first
    | with_reducible assumption
    | with_reducible apply Kept.ite
    | with_reducible apply sendMsg_keeps
    | split
    | with_reducible refine Kept.mk_congr ?_ rfl rfl rfl rfl rfl rfl

theorem wantLoan_keeps {s : State} (h : Kept s₀ s) : Kept s₀ (wantLoan s) := by
  unfold wantLoan
  repeat' first
    | with_reducible assumption
    | with_reducible apply Kept.ite
    | with_reducible apply askLender_keeps

theorem setBlock_keeps {s : State} (h : Kept s₀ s) (b : Nat) (v : FlashBlock) : Kept s₀ (setBlock s b v) := by
  unfold setBlock
  repeat' first
    | with_reducible assumption
    | with_reducible apply Kept.ite
    | split
    | with_reducible refine Kept.mk_congr ?_ rfl rfl rfl rfl rfl rfl

theorem flashError_keeps {s : State} (h : Kept s₀ s) (f : Field) (chan : Nat) : Kept s₀ (flashError s f chan) := by
  unfold flashError
  repeat' first
    | with_reducible assumption
    | with_reducible apply Kept.ite
    | with_reducible apply setF_keeps
    | with_reducible apply raiseF_keeps

theorem scheduleReloc_keeps {s : State} (h : Kept s₀ s) (b : Nat) : Kept s₀ (scheduleReloc s b) := by
  unfold scheduleReloc
  repeat' first
    | with_reducible assumption
    | with_reducible apply Kept.ite
    | split
    | with_reducible refine Kept.mk_congr ?_ rfl rfl rfl rfl rfl rfl

theorem setWard_keeps {s : State} (h : Kept s₀ s) (i : Nat) (e : WardEntry) : Kept s₀ (setWard s i e) := by
  unfold setWard
  repeat' first
    | with_reducible assumption
    | with_reducible apply Kept.ite
    | split
    | with_reducible refine Kept.mk_congr ?_ rfl rfl rfl rfl rfl rfl

theorem modWard_keeps {s : State} (h : Kept s₀ s) (i : Nat) (f : WardEntry → WardEntry) :
    Kept s₀ (modWard s i f) := by
  unfold modWard
  repeat' first
    | with_reducible assumption
    | with_reducible apply Kept.ite
    | with_reducible apply setWard_keeps

theorem setInfo_keeps {s : State} (h : Kept s₀ s) (i : Nat) (v : WardInfo) : Kept s₀ (setInfo s i v) := by
  unfold setInfo
  repeat' first
    | with_reducible assumption
    | with_reducible apply Kept.ite
    | split
    | with_reducible refine Kept.mk_congr ?_ rfl rfl rfl rfl rfl rfl

theorem modInfo_keeps {s : State} (h : Kept s₀ s) (i : Nat) (f : WardInfo → WardInfo) : Kept s₀ (modInfo s i f) := by
  unfold modInfo
  repeat' first
    | with_reducible assumption
    | with_reducible apply Kept.ite
    | with_reducible apply setInfo_keeps

theorem allocExtent_keeps {s t : State} {limit n : Nat} (h : Kept s₀ s) (e : allocExtent s limit = some (n, t)) :
    Kept s₀ t := by
  unfold allocExtent at e
  dsimp only at e
  split at e
  · simp at e
  · simp only [Option.some.injEq, Prod.mk.injEq] at e
    rw [← e.2]
    exact Kept.mk_congr h rfl rfl rfl rfl rfl rfl

theorem freeExtent_keeps {s : State} (h : Kept s₀ s) (st : Nat) : Kept s₀ (freeExtent s st) := by
  unfold freeExtent
  repeat' first
    | with_reducible assumption
    | with_reducible apply Kept.ite
    | split
    | with_reducible refine Kept.mk_congr ?_ rfl rfl rfl rfl rfl rfl

theorem transcriptPut_keeps {s : State} (h : Kept s₀ s) (extent p : Nat) (l : List Nat) :
    Kept s₀ (transcriptPut s extent p l) := by
  induction l generalizing s p with
  | nil => exact h
  | cons t ts ih => exact ih (hbmStore_keeps h _ _ _) _

theorem keyringPut_keeps {s : State} (h : Kept s₀ s) (ward : Nat) (e : WardEntry) (token seq logp : Nat)
    (fin rejected trunc err : Bool) : Kept s₀ (keyringPut s ward e token seq logp fin rejected trunc err) := by
  unfold keyringPut
  repeat' first
    | with_reducible assumption
    | with_reducible apply Kept.ite
    | with_reducible apply hbmStore_keeps

theorem setDeliv_keeps {s : State} (h : Kept s₀ s) (i : Nat) (d : Delivery) : Kept s₀ (setDeliv s i d) := by
  unfold setDeliv
  repeat' first
    | with_reducible assumption
    | with_reducible apply Kept.ite
    | split
    | with_reducible refine Kept.mk_congr ?_ rfl rfl rfl rfl rfl rfl

theorem modDeliv_keeps {s : State} (h : Kept s₀ s) (i : Nat) (f : Delivery → Delivery) :
    Kept s₀ (modDeliv s i f) := by
  unfold modDeliv
  repeat' first
    | with_reducible assumption
    | with_reducible apply Kept.ite
    | with_reducible apply setDeliv_keeps

theorem noteWritten_keeps {s : State} (h : Kept s₀ s) (ward : Nat) (q : Nat) :
    Kept s₀ (noteWritten s ward q) := by
  unfold noteWritten
  repeat' first
    | with_reducible assumption
    | with_reducible apply Kept.ite
    | with_reducible apply modDeliv_keeps
    | split
    | with_reducible refine Kept.mk_congr ?_ rfl rfl rfl rfl rfl rfl
    | dsimp only

theorem errorEntry_keeps {s : State} (h : Kept s₀ s) (ward cause : Nat) : Kept s₀ (errorEntry s ward cause) := by
  unfold errorEntry
  repeat' first
    | with_reducible assumption
    | with_reducible apply Kept.ite
    | with_reducible apply modDeliv_keeps
    | with_reducible apply keyringPut_keeps
    | with_reducible apply setWard_keeps

theorem releaseIfDelivered_keeps {s : State} (h : Kept s₀ s) (ward : Nat) : Kept s₀ (releaseIfDelivered s ward) := by
  unfold releaseIfDelivered
  repeat' first
    | with_reducible assumption
    | with_reducible apply Kept.ite
    | with_reducible apply sendPlain_keeps
    | with_reducible apply setDeliv_keeps

theorem setLane_keeps {s : State} (h : Kept s₀ s) (n : Nat) (l : Lane) :
    Kept s₀ (setLane s n l) := by
  unfold setLane
  repeat' first
    | with_reducible assumption
    | with_reducible apply Kept.ite
    | split
    | with_reducible refine Kept.mk_congr ?_ rfl rfl rfl rfl rfl rfl
    | dsimp only

theorem sendFail_keeps {s : State} (h : Kept s₀ s) (ward cause : Nat) : Kept s₀ (sendFail s ward cause) := by
  unfold sendFail
  repeat' first
    | with_reducible assumption
    | with_reducible apply Kept.ite
    | with_reducible apply sendPlain_keeps

theorem deliveryFailure_keeps {s : State} (h : Kept s₀ s) (ward : Nat) : Kept s₀ (deliveryFailure s ward) := by
  unfold deliveryFailure
  repeat' first
    | with_reducible assumption
    | with_reducible apply Kept.ite
    | with_reducible apply raiseF_keeps
    | with_reducible apply setF_keeps
    | with_reducible apply releaseIfDelivered_keeps
    | with_reducible apply sendFail_keeps
    | with_reducible apply modDeliv_keeps

theorem escalate_keeps {s : State} (h : Kept s₀ s) : Kept s₀ (escalate s) := by
  unfold escalate
  repeat' first
    | with_reducible assumption
    | with_reducible apply Kept.ite
    | with_reducible apply raiseF_keeps
    | with_reducible apply platformEvent_keeps
    | with_reducible apply setFaultPhase_keeps
    | with_reducible apply postPF_keeps

theorem beginDump_keeps {s : State} (h : Kept s₀ s) (own : Nat) : Kept s₀ (beginDump s own) := by
  unfold beginDump
  repeat' first
    | with_reducible assumption
    | with_reducible apply Kept.ite
    | with_reducible apply setFaultPhase_keeps
    | with_reducible apply postPF_keeps
    | with_reducible apply escalate_keeps
    | with_reducible apply setF_keeps
    | split
    | with_reducible refine Kept.mk_congr ?_ rfl rfl rfl rfl rfl rfl

theorem dumpSnapshot_keeps {s : State} (h : Kept s₀ s) : Kept s₀ (dumpSnapshot s) := by
  unfold dumpSnapshot
  exact Kept.mk_congr (snapshotCounters_keeps h) rfl rfl rfl rfl rfl rfl

theorem wantDump_keeps {s : State} (h : Kept s₀ s) (own : Nat) : Kept s₀ (wantDump s own) := by
  unfold wantDump
  repeat' first
    | with_reducible assumption
    | with_reducible apply Kept.ite
    | with_reducible apply beginDump_keeps
    | with_reducible apply dumpSnapshot_keeps
    | split
    | with_reducible refine Kept.mk_congr ?_ rfl rfl rfl rfl rfl rfl

theorem enterEpisode_keeps {s : State} (h : Kept s₀ s) (own cause origin : Nat) :
    Kept s₀ (enterEpisode s own cause origin) := by
  unfold enterEpisode
  repeat' first
    | with_reducible assumption
    | with_reducible apply Kept.ite
    | with_reducible apply assertFaultN_keeps
    | with_reducible apply setFaultPhase_keeps
    | with_reducible apply state_emit_keeps
    | with_reducible apply errorEntry_keeps
    | with_reducible apply postFn_keeps
    | with_reducible apply wantDump_keeps
    | with_reducible refine Kept.foldl (fun _ _ _ => ?_) ?_
    | with_reducible refine Kept.foldl_snd (fun _ _ _ => ?_) ?_
    | with_reducible refine Kept.foldl_snd2 (fun _ _ _ => ?_) ?_
    | with_reducible refine Kept.foldl_fst (fun _ _ _ => ?_) ?_
    | split
    | with_reducible refine Kept.mk_congr ?_ rfl rfl rfl rfl rfl rfl

theorem recordFault_keeps {s : State} (h : Kept s₀ s) (cause : Nat) (loc : FaultAt) :
    Kept s₀ (recordFault s cause loc) := by
  unfold recordFault
  repeat' first
    | with_reducible assumption
    | with_reducible apply Kept.ite
    | split
    | with_reducible refine Kept.mk_congr ?_ rfl rfl rfl rfl rfl rfl

theorem latchCause_keeps {s : State} (h : Kept s₀ s) (cause : Nat) (loc : FaultAt) :
    Kept s₀ (latchCause s cause loc) := by
  unfold latchCause
  repeat' first
    | with_reducible assumption
    | with_reducible apply Kept.ite
    | with_reducible apply setReg_keeps

theorem declareFault_keeps {s : State} (h : Kept s₀ s) (cause : Nat) (loc : FaultAt) :
    Kept s₀ (declareFault s cause loc) := by
  unfold declareFault
  repeat' first
    | with_reducible assumption
    | with_reducible apply Kept.ite
    | with_reducible apply recordFault_keeps
    | with_reducible apply wantDump_keeps
    | with_reducible apply setF_keeps
    | with_reducible apply latchCause_keeps
    | with_reducible apply setReg_keeps
    | with_reducible apply sendAll_keeps
    | with_reducible apply enterEpisode_keeps
    | with_reducible apply count_keeps
    | split
    | with_reducible refine Kept.mk_congr ?_ rfl rfl rfl rfl rfl rfl

theorem hbmFault_keeps {s : State} (h : Kept s₀ s) (addr : Nat) : Kept s₀ (hbmFault s addr) := by
  unfold hbmFault
  repeat' first
    | with_reducible assumption
    | with_reducible apply Kept.ite
    | with_reducible apply declareFault_keeps

theorem sramFault_keeps {s : State} (h : Kept s₀ s) (c strand addr : Nat) : Kept s₀ (sramFault s c strand addr) := by
  unfold sramFault
  repeat' first
    | with_reducible assumption
    | with_reducible apply Kept.ite
    | with_reducible apply declareFault_keeps

theorem stageFailed_keeps {s : State} (h : Kept s₀ s) (code : Nat) : Kept s₀ (stageFailed s code) := by
  unfold stageFailed
  repeat' first
    | with_reducible assumption
    | with_reducible apply Kept.ite
    | with_reducible apply setF_keeps
    | with_reducible apply setStage_keeps
    | with_reducible apply declareFault_keeps

theorem setEngine_keeps {s : State} (h : Kept s₀ s) (n : Nat) (e : Engine) : Kept s₀ (setEngine s n e) := by
  unfold setEngine
  repeat' first
    | with_reducible assumption
    | with_reducible apply Kept.ite
    | split
    | with_reducible refine Kept.mk_congr ?_ rfl rfl rfl rfl rfl rfl

theorem modEngine_keeps {s : State} (h : Kept s₀ s) (n : Nat) (f : Engine → Engine) : Kept s₀ (modEngine s n f) := by
  unfold modEngine
  repeat' first
    | with_reducible assumption
    | with_reducible apply Kept.ite
    | with_reducible apply setEngine_keeps

theorem sealShare_keeps {s : State} (h : Kept s₀ s) (eng step layer : Nat) :
    Kept s₀ (sealShare s eng step layer) := by
  unfold sealShare
  repeat' first
    | with_reducible assumption
    | with_reducible apply Kept.ite
    | with_reducible apply sendMsg_keeps
    | with_reducible apply setEngine_keeps
    | with_reducible refine Kept.foldl (fun _ _ _ => ?_) ?_

theorem sealDue_keeps {s : State} (h : Kept s₀ s) (eng : Nat) (keys : List Nat) : Kept s₀ (sealDue s eng keys) := by
  unfold sealDue
  repeat' first
    | with_reducible assumption
    | with_reducible apply Kept.ite
    | with_reducible apply sealShare_keeps
    | with_reducible refine Kept.foldl (fun _ _ _ => ?_) ?_

theorem lowerExpected_keeps {s : State} (h : Kept s₀ s) (c : Nat) (step : Nat) (disp : List (Nat × Nat)) :
    Kept s₀ (lowerExpected s c step disp) := by
  unfold lowerExpected
  repeat' first
    | with_reducible assumption
    | with_reducible apply Kept.ite
    | with_reducible apply modEngine_keeps
    | with_reducible apply sealDue_keeps
    | with_reducible refine Kept.foldl (fun _ _ _ => ?_) ?_
    | with_reducible refine Kept.foldl_snd (fun _ _ _ => ?_) ?_
    | with_reducible refine Kept.foldl_snd2 (fun _ _ _ => ?_) ?_
    | with_reducible refine Kept.foldl_fst (fun _ _ _ => ?_) ?_
    | split
    | with_reducible refine Kept.mk_congr ?_ rfl rfl rfl rfl rfl rfl
    | dsimp only

theorem launchFault_keeps {s : State} (h : Kept s₀ s) (c : Nat) (context : Nat) :
    Kept s₀ (launchFault s c context) := by
  unfold launchFault
  repeat' first
    | with_reducible assumption
    | with_reducible apply Kept.ite
    | with_reducible apply raiseF_keeps
    | with_reducible apply setCore_keeps
    | with_reducible apply sendPlain_keeps
    | with_reducible apply lowerExpected_keeps
    | with_reducible refine Kept.foldl (fun _ _ _ => ?_) ?_
    | with_reducible refine Kept.foldl_snd (fun _ _ _ => ?_) ?_
    | with_reducible refine Kept.foldl_snd2 (fun _ _ _ => ?_) ?_
    | with_reducible refine Kept.foldl_fst (fun _ _ _ => ?_) ?_
    | split
    | with_reducible refine Kept.mk_congr ?_ rfl rfl rfl rfl rfl rfl
    | dsimp only

theorem coreFault_keeps {s : State} (h : Kept s₀ s) (c strand : Nat) (f : CoreFault) :
    Kept s₀ (coreFault s c strand f) := by
  unfold coreFault
  repeat' first
    | with_reducible assumption
    | with_reducible apply Kept.ite
    | with_reducible apply modCore_keeps
    | with_reducible apply setF_keeps
    | with_reducible apply launchFault_keeps
    | with_reducible apply state_emit_keeps

theorem setPort_keeps {s : State} (h : Kept s₀ s) (n : Nat) (p : Port) : Kept s₀ (setPort s n p) := by
  unfold setPort
  repeat' first
    | with_reducible assumption
    | with_reducible apply Kept.ite
    | split
    | with_reducible refine Kept.mk_congr ?_ rfl rfl rfl rfl rfl rfl

theorem modPort_keeps {s : State} (h : Kept s₀ s) (n : Nat) (f : Port → Port) : Kept s₀ (modPort s n f) := by
  unfold modPort
  repeat' first
    | with_reducible assumption
    | with_reducible apply Kept.ite
    | with_reducible apply setPort_keeps

theorem emitFlit_keeps {s : State} (h : Kept s₀ s) (n : Nat) (f : Flit) : Kept s₀ (emitFlit s n f) := by
  unfold emitFlit
  repeat' first
    | with_reducible assumption
    | with_reducible apply Kept.ite
    | with_reducible apply state_emit_keeps
    | with_reducible apply setPort_keeps

theorem leaveSlot_keeps {s : State} (h : Kept s₀ s) (sl : Option (Nat × Nat × Bool)) : Kept s₀ (leaveSlot s sl) := by
  unfold leaveSlot
  repeat' first
    | with_reducible assumption
    | with_reducible apply Kept.ite
    | with_reducible apply modPort_keeps
    | split

theorem sendFlit_keeps {s : State} (h : Kept s₀ s) (n : Nat) (f : Flit) : Kept s₀ (sendFlit s n f) := by
  unfold sendFlit
  repeat' first
    | with_reducible assumption
    | with_reducible apply Kept.ite
    | with_reducible apply setPort_keeps
    | with_reducible apply leaveSlot_keeps
    | with_reducible apply emitFlit_keeps

theorem pumpList_keeps {s : State} (h : Kept s₀ s) (n : Nat) (fs : List Flit) (bl : List Nat) (kept : List Flit) :
    Kept s₀ (pumpList n fs bl kept s) := by
  induction fs generalizing s bl kept with
  | nil => exact modPort_keeps h _ _
  | cons f fs ih =>
    unfold pumpList
    dsimp only
    split
    · exact ih (sendFlit_keeps h _ _) _ _
    · exact ih h _ _

theorem pump_keeps {s : State} (h : Kept s₀ s) (n : Nat) : Kept s₀ (pump s n) := by
  unfold pump
  repeat' first
    | with_reducible assumption
    | with_reducible apply Kept.ite
    | with_reducible apply pumpList_keeps

theorem fabError_keeps {s : State} (h : Kept s₀ s) (f : Field) (dest : Nat) : Kept s₀ (fabError s f dest) := by
  unfold fabError
  repeat' first
    | with_reducible assumption
    | with_reducible apply Kept.ite
    | with_reducible apply setF_keeps
    | with_reducible apply raiseF_keeps

theorem modOp_keeps {s : State} (h : Kept s₀ s) (c id : Nat) (f : OutOp → OutOp) : Kept s₀ (modOp s c id f) := by
  unfold modOp
  repeat' first
    | with_reducible assumption
    | with_reducible apply Kept.ite
    | with_reducible apply modCore_keeps

theorem poisonSink_keeps {s : State} (h : Kept s₀ s) (r : FabReq) :
    Kept s₀ (poisonSink s r) := by
  unfold poisonSink
  repeat' first
    | with_reducible assumption
    | with_reducible apply Kept.ite
    | with_reducible apply state_takeFree_keeps
    | with_reducible apply sramPoisonRange_keeps
    | with_reducible apply hbmPoison_keeps
    | with_reducible apply markDirty_keeps
    | with_reducible apply modOp_keeps
    | (refine Kept.of_pair1 (by assumption) ?_)
    | with_reducible refine Kept.foldl (fun _ _ _ => ?_) ?_
    | with_reducible refine Kept.foldl_snd (fun _ _ _ => ?_) ?_
    | with_reducible refine Kept.foldl_snd2 (fun _ _ _ => ?_) ?_
    | with_reducible refine Kept.foldl_fst (fun _ _ _ => ?_) ?_
    | split
    | with_reducible refine Kept.mk_congr ?_ rfl rfl rfl rfl rfl rfl
    | dsimp only

theorem completeReq_keeps {s : State} (h : Kept s₀ s) (tag status : Nat) : Kept s₀ (completeReq s tag status) := by
  unfold completeReq
  repeat' first
    | with_reducible assumption
    | with_reducible apply Kept.ite
    | with_reducible apply modOp_keeps
    | with_reducible apply fabError_keeps
    | with_reducible apply poisonSink_keeps
    | with_reducible apply declareFault_keeps
    | split
    | with_reducible refine Kept.mk_congr ?_ rfl rfl rfl rfl rfl rfl

theorem noRoute_keeps {s : State} (h : Kept s₀ s) (send : State → Packet → State) (f : Flit)
    (hs : ∀ t p, Kept s₀ t → Kept s₀ (send t p)) : Kept s₀ (noRoute send s f) := by
  unfold noRoute
  dsimp only
  split
  · split
    · exact completeReq_keeps (fabError_keeps (leaveSlot_keeps h _) _ _) _ _
    · exact hs _ _ (fabError_keeps (leaveSlot_keeps h _) _ _)
  · exact count_keeps (leaveSlot_keeps h _) _ _

theorem placeFlit_keeps {s t : State} {f : Flit} (h : Kept s₀ s) (e : placeFlit s f = some t) : Kept s₀ t := by
  unfold placeFlit at e
  rw [Option.map_eq_some_iff] at e
  obtain ⟨n, _, rfl⟩ := e
  exact pump_keeps (modPort_keeps h _ _) _

theorem sendResponse_keeps {s : State} (h : Kept s₀ s) (p : Packet) : Kept s₀ (sendResponse s p) := by
  unfold sendResponse
  repeat' first
    | with_reducible assumption
    | with_reducible apply Kept.ite
    | (refine placeFlit_keeps ?_ (by assumption))
    | with_reducible apply count_keeps
    | split

theorem forwardFlit_keeps {s : State} (h : Kept s₀ s) (f : Flit) : Kept s₀ (forwardFlit s f) := by
  unfold forwardFlit
  split
  · exact placeFlit_keeps h (by assumption)
  · exact noRoute_keeps h _ _ (fun t p ht => sendResponse_keeps ht p)

theorem sendPacket_keeps {s : State} (h : Kept s₀ s) (p : Packet) : Kept s₀ (sendPacket s p) := by
  unfold sendPacket
  repeat' first
    | with_reducible assumption
    | with_reducible apply Kept.ite
    | with_reducible apply forwardFlit_keeps

theorem rerouteWaiting_keeps {s : State} (h : Kept s₀ s) : Kept s₀ (rerouteWaiting s) := by
  unfold rerouteWaiting
  repeat' first
    | with_reducible assumption
    | with_reducible apply Kept.ite
    | with_reducible apply modPort_keeps
    | with_reducible apply forwardFlit_keeps
    | with_reducible apply pump_keeps
    | with_reducible refine Kept.foldl (fun _ _ _ => ?_) ?_

theorem touchPage_keeps {s : State} (h : Kept s₀ s) (ctx : Nat) (need : Need) (p : Nat × Nat × Nat) :
    Kept s₀ (touchPage s ctx need p) := by
  unfold touchPage
  repeat' first
    | with_reducible assumption
    | with_reducible apply Kept.ite
    | with_reducible apply count_keeps
    | with_reducible apply markDirty_keeps
    | with_reducible apply setLeaf_keeps
    | split
    | with_reducible refine Kept.mk_congr ?_ rfl rfl rfl rfl rfl rfl
    | dsimp only

theorem setBucket_keeps {s : State} (h : Kept s₀ s) (n : Nat) (b : Bucket) :
    Kept s₀ (setBucket s n b) := by
  unfold setBucket
  repeat' first
    | with_reducible assumption
    | with_reducible apply Kept.ite
    | split
    | with_reducible refine Kept.mk_congr ?_ rfl rfl rfl rfl rfl rfl
    | dsimp only

theorem spend_keeps {s : State} (h : Kept s₀ s) (x : Charge) :
    Kept s₀ (spend s x) := by
  unfold spend
  repeat' first
    | with_reducible assumption
    | with_reducible apply Kept.ite
    | with_reducible apply count_keeps
    | with_reducible apply setBucket_keeps
    | split
    | with_reducible refine Kept.mk_congr ?_ rfl rfl rfl rfl rfl rfl
    | dsimp only

theorem chargeOwn_keeps {s : State} (h : Kept s₀ s) (agent : Agent) (x : Charge) :
    Kept s₀ (chargeOwn agent s x) := by
  unfold chargeOwn
  repeat' first
    | with_reducible assumption
    | with_reducible apply Kept.ite
    | with_reducible apply setBucket_keeps
    | with_reducible apply spend_keeps
    | split
    | with_reducible refine Kept.mk_congr ?_ rfl rfl rfl rfl rfl rfl
    | dsimp only

theorem spendAll_keeps {s : State} (h : Kept s₀ s) (xs : List Charge) :
    Kept s₀ (spendAll s xs) := by
  unfold spendAll
  repeat' first
    | with_reducible assumption
    | with_reducible apply Kept.ite
    | with_reducible apply spend_keeps
    | with_reducible refine Kept.foldl (fun _ _ _ => ?_) ?_
    | with_reducible refine Kept.foldl_snd (fun _ _ _ => ?_) ?_
    | with_reducible refine Kept.foldl_snd2 (fun _ _ _ => ?_) ?_
    | with_reducible refine Kept.foldl_fst (fun _ _ _ => ?_) ?_
    | split
    | dsimp only

theorem sendRequest_keeps {s : State} (h : Kept s₀ s) (agent : Agent) (ord : Bool) (x : LoanReq) :
    Kept s₀ (sendRequest agent ord s x) := by
  unfold sendRequest
  repeat' first
    | with_reducible assumption
    | with_reducible apply Kept.ite
    | with_reducible apply sendPacket_keeps
    | split
    | with_reducible refine Kept.mk_congr ?_ rfl rfl rfl rfl rfl rfl
    | dsimp only

theorem flow_go_keeps {s : State} (h : Kept s₀ s) (x : Flow) (c : Option Charge) (reqs : List LoanReq) :
    Kept s₀ (Flow.go x s c reqs) := by
  unfold Flow.go
  repeat' first
    | with_reducible assumption
    | with_reducible apply Kept.ite
    | with_reducible apply spend_keeps
    | with_reducible apply sendRequest_keeps
    | with_reducible refine Kept.foldl (fun _ _ _ => ?_) ?_
    | with_reducible refine Kept.foldl_snd (fun _ _ _ => ?_) ?_
    | with_reducible refine Kept.foldl_snd2 (fun _ _ _ => ?_) ?_
    | with_reducible refine Kept.foldl_fst (fun _ _ _ => ?_) ?_
    | split
    | dsimp only

theorem flow_part_keeps {acc : Nat × State} (h : Kept s₀ acc.2) (x : Flow) (p : Nat × Nat × Nat) :
    Kept s₀ (Flow.part x acc p).2 := by
  have ht := touchPage_keeps h x.ctx x.need p
  unfold Flow.part
  generalize touchPage acc.2 x.ctx x.need p = u at ht
  have hg (c : Option Charge) (r : List LoanReq) : Kept s₀ (Flow.go x u c r) := flow_go_keeps ht _ _ _
  dsimp only
  split
  · dsimp only; exact hg _ _
  · split
    · dsimp only; exact hg _ _
    · dsimp only; exact setBucket_keeps ht _ _

theorem flow_run_keeps {s : State} (h : Kept s₀ s) (x : Flow) (n : Nat) :
    Kept s₀ (Flow.run x n s).2 := by
  unfold Flow.run
  repeat' first
    | with_reducible assumption
    | with_reducible apply Kept.ite
    | with_reducible apply flow_part_keeps
    | (refine Kept.of_pair1 (by assumption) ?_)
    | with_reducible refine Kept.foldl (fun _ _ _ => ?_) ?_
    | with_reducible refine Kept.foldl_snd (fun _ _ _ => ?_) ?_
    | with_reducible refine Kept.foldl_snd2 (fun _ _ _ => ?_) ?_
    | with_reducible refine Kept.foldl_fst (fun _ _ _ => ?_) ?_
    | with_reducible apply Kept.ite_snd
    | split
    | dsimp only

theorem releaseHeld_keeps {s : State} (h : Kept s₀ s) (b : Nat) (h : HeldReq) :
    Kept s₀ (releaseHeld s b h) := by
  unfold releaseHeld
  repeat' first
    | with_reducible assumption
    | with_reducible apply Kept.ite
    | with_reducible apply modOp_keeps
    | with_reducible apply spend_keeps
    | with_reducible apply sendRequest_keeps
    | with_reducible refine Kept.foldl (fun _ _ _ => ?_) ?_
    | with_reducible refine Kept.foldl_snd (fun _ _ _ => ?_) ?_
    | with_reducible refine Kept.foldl_snd2 (fun _ _ _ => ?_) ?_
    | with_reducible refine Kept.foldl_fst (fun _ _ _ => ?_) ?_
    | split
    | with_reducible refine Kept.mk_congr ?_ rfl rfl rfl rfl rfl rfl
    | dsimp only

theorem drainBucket_keeps {s : State} (h : Kept s₀ s) (b : Nat) (l : List HeldReq) : Kept s₀ (drainBucket b l s) := by
  induction l generalizing s with
  | nil => exact h
  | cons x t ih =>
    unfold drainBucket
    split
    · exact ih (releaseHeld_keeps h _ _)
    · exact setBucket_keeps h _ _

theorem execBucketRefill_keeps {s : State} (h : Kept s₀ s) (bucket : Fin 640) :
    OutKept s₀ (execBucketRefill bucket s) := OutKept.next (drainBucket_keeps (setBucket_keeps h _ _) _ _)

theorem answer_keeps {s : State} (h : Kept s₀ s) (src tag op status : Nat) (data : List Line) :
    Kept s₀ (answer s src tag op status data) := by
  unfold answer
  repeat' first
    | with_reducible assumption
    | with_reducible apply Kept.ite
    | with_reducible apply completeReq_keeps
    | with_reducible apply sendResponse_keeps

theorem setEgress_keeps {s : State} (h : Kept s₀ s) (l : List EgressBlock) : Kept s₀ (setEgress s l) := by
  unfold setEgress
  repeat' first
    | with_reducible assumption
    | with_reducible apply Kept.ite
    | split
    | with_reducible refine Kept.mk_congr ?_ rfl rfl rfl rfl rfl rfl

theorem failEgress_keeps {s : State} (h : Kept s₀ s) (b : EgressBlock) : Kept s₀ (failEgress s b) := by
  unfold failEgress
  repeat' first
    | with_reducible assumption
    | with_reducible apply Kept.ite
    | with_reducible apply setEgress_keeps
    | with_reducible apply answer_keeps
    | with_reducible refine Kept.foldl (fun _ _ _ => ?_) ?_
    | with_reducible refine Kept.foldl_snd (fun _ _ _ => ?_) ?_
    | with_reducible refine Kept.foldl_snd2 (fun _ _ _ => ?_) ?_
    | with_reducible refine Kept.foldl_fst (fun _ _ _ => ?_) ?_
    | split
    | with_reducible refine Kept.mk_congr ?_ rfl rfl rfl rfl rfl rfl

theorem sendBlock_keeps {s : State} (h : Kept s₀ s) (b : EgressBlock) : Kept s₀ (sendBlock s b) := by
  unfold sendBlock
  repeat' first
    | with_reducible assumption
    | with_reducible apply Kept.ite
    | with_reducible apply setEgress_keeps
    | with_reducible apply failEgress_keeps
    | with_reducible apply rdmaPut_keeps
    | with_reducible apply count_keeps
    | with_reducible refine Kept.foldl (fun _ _ _ => ?_) ?_

theorem makeRoom_keeps {s : State} (h : Kept s₀ s) : Kept s₀ (makeRoom s) := by
  unfold makeRoom
  repeat' first
    | with_reducible assumption
    | with_reducible apply Kept.ite
    | with_reducible apply sendBlock_keeps
    | split
    | dsimp only

theorem gatherWrite_keeps {s : State} (h : Kept s₀ s) (w n src tag : Nat) (bs : List (Nat × Byte)) :
    Kept s₀ (gatherWrite s w n src tag bs) := by
  unfold gatherWrite
  repeat' first
    | with_reducible assumption
    | with_reducible apply Kept.ite
    | with_reducible apply makeRoom_keeps
    | with_reducible apply setEgress_keeps
    | with_reducible apply sendBlock_keeps
    | with_reducible refine Kept.foldl (fun _ _ _ => ?_) ?_
    | with_reducible refine Kept.foldl_snd (fun _ _ _ => ?_) ?_
    | with_reducible refine Kept.foldl_snd2 (fun _ _ _ => ?_) ?_
    | with_reducible refine Kept.foldl_fst (fun _ _ _ => ?_) ?_
    | split
    | with_reducible refine Kept.mk_congr ?_ rfl rfl rfl rfl rfl rfl

theorem fetchRead_keeps {s : State} (h : Kept s₀ s) (w n : Nat) (r : Nat × Nat × Nat × Nat) :
    Kept s₀ (fetchRead s w n r) := by
  unfold fetchRead
  repeat' first
    | with_reducible assumption
    | with_reducible apply Kept.ite
    | with_reducible apply sendBlock_keeps
    | with_reducible apply setEgress_keeps
    | with_reducible apply failEgress_keeps
    | with_reducible apply state_emit_keeps
    | split

end Sys2Proof.Machine
end

