-- ==== Sys2Proof/Laws/KeptBezel.lean ====
section
/-!
SUPPORT. What every operation keeps (see KeptBase), operation by operation: the KV pool, the memory tiers.
-/
namespace Sys2Proof.Machine

open Sys2Proof

set_option maxRecDepth 4000

variable {s₀ : State}

theorem setPage_keeps {s : State} (h : Kept s₀ s) (n : Nat) (r : PageRec) : Kept s₀ (setPage s n r) := by
  unfold setPage
  repeat' first
    | with_reducible assumption
    | with_reducible apply Kept.ite
    | split
    | with_reducible refine Kept.mk_congr ?_ rfl rfl rfl rfl rfl rfl

theorem modPage_keeps {s : State} (h : Kept s₀ s) (n : Nat) (f : PageRec → PageRec) : Kept s₀ (modPage s n f) := by
  unfold modPage
  repeat' first
    | with_reducible assumption
    | with_reducible apply Kept.ite
    | with_reducible apply setPage_keeps

theorem clearScales_keeps {s : State} (h : Kept s₀ s) (page : Nat) : Kept s₀ (clearScales s page) := by
  unfold clearScales
  repeat' first
    | with_reducible assumption
    | with_reducible apply Kept.ite
    | split
    | with_reducible refine Kept.mk_congr ?_ rfl rfl rfl rfl rfl rfl

theorem takePage_keeps {s t : State} {ctx n : Nat} (h : Kept s₀ s) (e : takePage s ctx = some (n, t)) : Kept s₀ t := by
  unfold takePage at e
  split at e
  · simp only [Option.some.injEq, Prod.mk.injEq] at e
    rw [← e.2]
    exact clearScales_keeps (modPage_keeps h _ _) _
  · split at e
    · simp at e
    · simp only [Option.some.injEq, Prod.mk.injEq] at e
      rw [← e.2]
      exact modPage_keeps h _ _

theorem poolPage_keeps {s : State} (h : Kept s₀ s) (n : Nat) : Kept s₀ (poolPage s n) := by
  unfold poolPage
  repeat' first
    | with_reducible assumption
    | with_reducible apply Kept.ite
    | with_reducible apply hbmZero_keeps
    | with_reducible apply clearScales_keeps
    | with_reducible apply count_keeps
    | with_reducible apply modPage_keeps

theorem freePage_keeps {s : State} (h : Kept s₀ s) (n : Nat) : Kept s₀ (freePage s n) := by
  unfold freePage
  repeat' first
    | with_reducible assumption
    | with_reducible apply Kept.ite
    | with_reducible apply setPage_keeps

theorem unrefPage_keeps {s : State} (h : Kept s₀ s) (n : Nat) : Kept s₀ (unrefPage s n) := by
  unfold unrefPage
  repeat' first
    | with_reducible assumption
    | with_reducible apply Kept.ite
    | with_reducible apply modPage_keeps

theorem setList_keeps {s : State} (h : Kept s₀ s) (w : Nat) (l : PageList) : Kept s₀ (setList s w l) := by
  unfold setList
  repeat' first
    | with_reducible assumption
    | with_reducible apply Kept.ite
    | split
    | with_reducible refine Kept.mk_congr ?_ rfl rfl rfl rfl rfl rfl

theorem modList_keeps {s : State} (h : Kept s₀ s) (w : Nat) (f : PageList → PageList) : Kept s₀ (modList s w f) := by
  unfold modList
  repeat' first
    | with_reducible assumption
    | with_reducible apply Kept.ite
    | with_reducible apply setList_keeps

theorem setEnt_keeps {s : State} (h : Kept s₀ s) (w i : Nat) (r : PageRef) : Kept s₀ (setEnt s w i r) := by
  unfold setEnt
  repeat' first
    | with_reducible assumption
    | with_reducible apply Kept.ite
    | with_reducible apply modList_keeps
    | split
    | with_reducible refine Kept.mk_congr ?_ rfl rfl rfl rfl rfl rfl

theorem clearPoison_keeps {s : State} (h : Kept s₀ s) (a : Nat) (n : Nat) :
    Kept s₀ (clearPoison s a n) := by
  unfold clearPoison
  repeat' first
    | with_reducible assumption
    | with_reducible apply Kept.ite
    | with_reducible apply hbmPoison_keeps
    | split
    | with_reducible refine Kept.mk_congr ?_ rfl rfl rfl rfl rfl rfl
    | dsimp only

theorem returnLeaves_keeps {s : State} (h : Kept s₀ s) (w : Nat) : Kept s₀ (returnLeaves s w) := by
  unfold returnLeaves
  extract_lets +onlyGivenNames l dead s1
  have h1 : Kept s₀ s1 := Kept.foldl (fun _ _ h => clearPoison_keeps h _ _) h
  clear_value s1
  exact setList_keeps (Kept.mk_congr h1 rfl rfl rfl rfl rfl rfl) _ _

theorem genMismatch_keeps {s : State} (h : Kept s₀ s) (w : Nat) : Kept s₀ (genMismatch s w) := by
  unfold genMismatch
  repeat' first
    | with_reducible assumption
    | with_reducible apply Kept.ite
    | with_reducible apply setF_keeps
    | with_reducible apply raiseF_keeps
    | with_reducible apply declareFault_keeps

theorem unrefCopy_keeps {s : State} (h : Kept s₀ s) (n : Nat) : Kept s₀ (unrefCopy s n) := by
  unfold unrefCopy
  repeat' first
    | with_reducible assumption
    | split
    | with_reducible refine Kept.mk_congr ?_ rfl rfl rfl rfl rfl rfl

theorem dropEnt_keeps {s : State} (h : Kept s₀ s) (r : PageRef) :
    Kept s₀ (dropEnt s r) := by
  unfold dropEnt
  repeat' first
    | with_reducible assumption
    | with_reducible apply Kept.ite
    | with_reducible apply unrefPage_keeps
    | with_reducible apply unrefCopy_keeps
    | split
    | dsimp only

theorem endMoves_keeps {s : State} (h : Kept s₀ s) (w : Nat) : Kept s₀ (endMoves s w) := by
  unfold endMoves
  extract_lets l s1
  have h1 : Kept s₀ s1 := Kept.foldl (fun _ _ h => by
    split
    · exact Kept.ite (modPage_keeps h _ _) h
    · exact h) h
  exact modList_keeps h1 _ _

theorem releaseList_keeps {s : State} (h : Kept s₀ s) (w : Nat) :
    Kept s₀ (releaseList s w) := by
  unfold releaseList
  repeat' first
    | with_reducible assumption
    | with_reducible apply Kept.ite
    | with_reducible apply modList_keeps
    | with_reducible apply returnLeaves_keeps
    | with_reducible apply dropEnt_keeps
    | with_reducible apply endMoves_keeps
    | with_reducible refine Kept.foldl (fun _ _ _ => ?_) ?_
    | with_reducible refine Kept.foldl_snd (fun _ _ _ => ?_) ?_
    | with_reducible refine Kept.foldl_snd2 (fun _ _ _ => ?_) ?_
    | with_reducible refine Kept.foldl_fst (fun _ _ _ => ?_) ?_
    | split
    | with_reducible refine Kept.mk_congr ?_ rfl rfl rfl rfl rfl rfl
    | dsimp only

theorem noteAbsent_keeps {s : State} (h : Kept s₀ s) (w : Nat) (committed : Nat) :
    Kept s₀ (noteAbsent s w committed) := by
  unfold noteAbsent
  repeat' first
    | with_reducible assumption
    | with_reducible apply Kept.ite
    | with_reducible apply setEnt_keeps
    | with_reducible refine Kept.foldl (fun _ _ _ => ?_) ?_
    | with_reducible refine Kept.foldl_snd (fun _ _ _ => ?_) ?_
    | with_reducible refine Kept.foldl_snd2 (fun _ _ _ => ?_) ?_
    | with_reducible refine Kept.foldl_fst (fun _ _ _ => ?_) ?_
    | split
    | with_reducible refine Kept.mk_congr ?_ rfl rfl rfl rfl rfl rfl
    | dsimp only

theorem releaseAbove_keeps {s : State} (h : Kept s₀ s) (w committed : Nat) :
    Kept s₀ (releaseAbove s w committed) := by
  unfold releaseAbove
  repeat' first
    | with_reducible assumption
    | with_reducible apply Kept.ite
    | with_reducible apply dropEnt_keeps
    | with_reducible apply returnLeaves_keeps
    | with_reducible apply modList_keeps
    | with_reducible refine Kept.foldl (fun _ _ _ => ?_) ?_

theorem hbmCopy_keeps {s : State} (h : Kept s₀ s) (src dst n : Nat) : Kept s₀ (hbmCopy s src dst n) := by
  unfold hbmCopy
  repeat' first
    | with_reducible assumption
    | with_reducible apply Kept.ite
    | with_reducible apply hbmStoreBytes_keeps
    | with_reducible apply hbmPoison_keeps
    | with_reducible refine Kept.foldl (fun _ _ _ => ?_) ?_

theorem bezelRead_keeps {s : State} (h : Kept s₀ s) (a n : Nat) : Kept s₀ (bezelRead s a n) := by
  unfold bezelRead
  repeat' first
    | with_reducible assumption
    | with_reducible apply Kept.ite
    | with_reducible apply hbmFault_keeps

theorem bezelReads_keeps {s : State} (h : Kept s₀ s) (rs : List (Nat × Nat)) :
    Kept s₀ (bezelReads s rs) := by
  unfold bezelReads
  repeat' first
    | with_reducible assumption
    | with_reducible apply Kept.ite
    | with_reducible apply hbmFault_keeps
    | split
    | dsimp only

theorem copyPage_keeps {s : State} (h : Kept s₀ s) (src dst committed b : Nat) :
    Kept s₀ (copyPage s src dst committed b) := by
  unfold copyPage
  extract_lets y n s1 s2 sc s3
  have h1 : Kept s₀ s1 := bezelReads_keeps h _
  have h2 : Kept s₀ s2 := Kept.foldl (fun _ _ h => hbmCopy_keeps (hbmCopy_keeps h _ _ _) _ _ _) h1
  clear_value s2
  exact modPage_keeps (Kept.mk_congr h2 rfl rfl rfl rfl rfl rfl) _ _

theorem bezelCharges_keeps {s : State} (h : Kept s₀ s) (xs : List Charge) :
    Kept s₀ (xs.foldl (chargeOwn .bezel) s) :=
  Kept.foldl (fun _ x h => chargeOwn_keeps h _ x) h

/-- The page taken from a reservation. -/
theorem takeReserved_keeps {s t : State} {w i b n : Nat} (h : Kept s₀ s) (e : takeReserved s w i b = some (n, t)) :
    Kept s₀ t := by
  unfold takeReserved at e
  split at e
  · simp at e
  · rw [Option.map_eq_some_iff] at e
    obtain ⟨⟨m, u⟩, hu, e⟩ := e
    simp only [Prod.mk.injEq] at e
    rw [← e.2]
    exact setEnt_keeps (Kept.mk_congr (takePage_keeps h hu) rfl rfl rfl rfl rfl rfl) _ _ _

/-- The page that a write takes. -/
theorem writablePage_keeps {s : State} (h : Kept s₀ s) (w b g : Nat) : Kept s₀ (writablePage s w b g).2 := by
  unfold writablePage
  extract_lets i s1
  have h1 : Kept s₀ s1 := bezelReads_keeps h _
  clear_value s1
  split
  · split
    · exact h1
    · split
      · exact h1
      · exact takeReserved_keeps h1 (by assumption)
  · split
    · exact h1
    · split
      · exact genMismatch_keeps h1 _
      · split
        · exact h1
        · split
          · exact h1
          · exact unrefPage_keeps (copyPage_keeps
              (bezelCharges_keeps (takeReserved_keeps h1 (by assumption)) _) _ _ _ _) _

theorem fixScales_keeps {s : State} (h : Kept s₀ s) (page l : Nat) (ks : List KvRecord) :
    Kept s₀ (fixScales s page l ks) := by
  unfold fixScales
  repeat' first
    | with_reducible assumption
    | with_reducible apply Kept.ite
    | with_reducible apply modPage_keeps
    | with_reducible refine Kept.foldl (fun _ _ _ => ?_) ?_
    | with_reducible refine Kept.foldl_snd (fun _ _ _ => ?_) ?_
    | with_reducible refine Kept.foldl_snd2 (fun _ _ _ => ?_) ?_
    | with_reducible refine Kept.foldl_fst (fun _ _ _ => ?_) ?_
    | split
    | with_reducible refine Kept.mk_congr ?_ rfl rfl rfl rfl rfl rfl

theorem storeRecord_keeps {s : State} (h : Kept s₀ s) (page : Nat) (k : KvRecord) :
    Kept s₀ (storeRecord s page k) := by
  unfold storeRecord
  extract_lets y l j f elem code events s1 s2 s3
  have h1 : Kept s₀ s1 := bezelCharges_keeps h _
  clear_value s1
  exact Kept.foldl (fun _ _ h => count_keeps h _ _) (hbmStoreBytes_keeps (hbmStoreBytes_keeps h1 _ _) _ _)

theorem applyRecord_keeps {s : State} (h : Kept s₀ s) (oks : List KvRecord) (k : KvRecord) :
    Kept s₀ (applyRecord oks s k) := by
  unfold applyRecord
  have h1 := writablePage_keeps h k.ward (k.pos / 64) (k.layer / (kvLayout s).lpg)
  dsimp only
  split
  · exact Kept.of_pair1 (by assumption) h1
  · have h2 := Kept.of_pair1 (by assumption) h1
    exact storeRecord_keeps (Kept.ite h2 (fixScales_keeps h2 _ _ _)) _ _

theorem refuseRecord_keeps {s : State} (h : Kept s₀ s) (k : KvRecord) (f : RecordFate) :
    Kept s₀ (refuseRecord s k f) := by
  unfold refuseRecord
  repeat' first
    | with_reducible assumption
    | with_reducible apply Kept.ite
    | with_reducible apply setF_keeps
    | with_reducible apply raiseF_keeps
    | split

theorem execKvRecordApply_keeps {s : State} (h : Kept s₀ s) (core : Fin 98304) :
    OutKept s₀ (execKvRecordApply core s) := by
  unfold execKvRecordApply
  try refine OutKept.next ?_
  repeat' first
    | with_reducible assumption
    | with_reducible apply Kept.ite
    | with_reducible apply applyRecord_keeps
    | with_reducible apply refuseRecord_keeps
    | with_reducible apply modCore_keeps
    | with_reducible refine OutKept.next ?_
    | with_reducible refine Kept.foldl (fun _ _ _ => ?_) ?_
    | with_reducible refine Kept.foldl_snd (fun _ _ _ => ?_) ?_
    | with_reducible refine Kept.foldl_snd2 (fun _ _ _ => ?_) ?_
    | with_reducible refine Kept.foldl_fst (fun _ _ _ => ?_) ?_
    | split

theorem execPageFree_keeps {s : State} (h : Kept s₀ s) (page : Fin 4294967296) :
    OutKept s₀ (execPageFree page s) := by
  unfold execPageFree
  try refine OutKept.next ?_
  repeat' first
    | with_reducible assumption
    | with_reducible apply Kept.ite
    | with_reducible apply freePage_keeps

theorem execPageZeroingComplete_keeps {s : State} (h : Kept s₀ s) (page : Fin 4294967296) :
    OutKept s₀ (execPageZeroingComplete page s) := by
  unfold execPageZeroingComplete
  try refine OutKept.next ?_
  repeat' first
    | with_reducible assumption
    | with_reducible apply Kept.ite
    | with_reducible apply poolPage_keeps

theorem takeMatch_keeps {s : State} (h : Kept s₀ s) (w b i : Nat) (e : BitEnt) : Kept s₀ (takeMatch s w b i e) := by
  unfold takeMatch
  repeat' first
    | with_reducible assumption
    | with_reducible apply Kept.ite
    | with_reducible apply setEnt_keeps
    | with_reducible apply modPage_keeps
    | with_reducible apply modList_keeps
    | with_reducible refine Kept.foldl (fun _ _ _ => ?_) ?_
    | with_reducible refine Kept.foldl_snd (fun _ _ _ => ?_) ?_
    | with_reducible refine Kept.foldl_snd2 (fun _ _ _ => ?_) ?_
    | with_reducible refine Kept.foldl_fst (fun _ _ _ => ?_) ?_
    | split
    | with_reducible refine Kept.mk_congr ?_ rfl rfl rfl rfl rfl rfl

theorem bitWalk_keeps {s : State} (h : Kept s₀ s) (w key domain model adapter n b ph : Nat) (par : Option (Nat × Nat)) :
    Kept s₀ (bitWalk w key domain model adapter n b ph par s).2 := by
  induction n generalizing s b ph par with
  | zero => exact h
  | succ n ih =>
    unfold bitWalk
    extract_lets +onlyGivenNames toks k s1
    have h1 : Kept s₀ s1 := bezelReads_keeps h _
    clear_value s1
    split
    · exact h1
    · exact Kept.ite_snd (ih (takeMatch_keeps h1 _ _ _ _) _ _ _) h1

theorem execBittingLookup_keeps {s : State} (h : Kept s₀ s) (lookup : Lookup) :
    OutKept s₀ (execBittingLookup lookup s) := by
  unfold execBittingLookup
  extract_lets +onlyGivenNames ward
  split
  · extract_lets +onlyGivenNames bz s1 s2
    have h1 : Kept s₀ s1 := Kept.mk_congr h rfl rfl rfl rfl rfl rfl
    have h2 : Kept s₀ s2 := modList_keeps h1 _ _
    clear_value s2
    extract_lets +onlyGivenNames e d most
    split
    rename_i n s3 h3
    have h4 : Kept s₀ s3 := by
      refine Kept.of_pair1 h3 ?_
      split
      · exact h2
      · exact bitWalk_keeps h2 _ _ _ _ _ _ _ _ _
    exact OutKept.next (Kept.mk_congr (count_keeps h4 _ _) rfl rfl rfl rfl rfl rfl)
  · exact OutKept.next h

theorem removeBit_keeps {s : State} (h : Kept s₀ s) (i : Nat) : Kept s₀ (removeBit s i) := by
  unfold removeBit
  repeat' first
    | with_reducible assumption
    | with_reducible apply Kept.ite
    | with_reducible apply unrefPage_keeps
    | with_reducible refine Kept.foldl (fun _ _ _ => ?_) ?_
    | with_reducible refine Kept.foldl_snd (fun _ _ _ => ?_) ?_
    | with_reducible refine Kept.foldl_snd2 (fun _ _ _ => ?_) ?_
    | with_reducible refine Kept.foldl_fst (fun _ _ _ => ?_) ?_
    | split
    | with_reducible refine Kept.mk_congr ?_ rfl rfl rfl rfl rfl rfl

theorem fitBudget_keeps {s : State} (h : Kept s₀ s) (set add n : Nat) : Kept s₀ (fitBudget set add n s) := by
  induction n generalizing s with
  | zero => exact h
  | succ n ih =>
    unfold fitBudget
    split
    · exact h
    · split
      · exact h
      · exact ih (count_keeps (removeBit_keeps h _) _ _)

theorem endChain_keeps {s : State} (h : Kept s₀ s) (w : Nat) : Kept s₀ (endChain s w) := by
  unfold endChain
  repeat' first
    | with_reducible assumption
    | with_reducible apply Kept.ite
    | with_reducible apply modList_keeps

theorem linkChain_keeps {s : State} (h : Kept s₀ s) (w : Nat) (b : Nat) (i : Nat) (stamp : Nat) (hash : Nat) :
    Kept s₀ (linkChain s w b i stamp hash) := by
  unfold linkChain
  repeat' first
    | with_reducible assumption
    | with_reducible apply Kept.ite
    | with_reducible apply modList_keeps
    | split
    | with_reducible refine Kept.mk_congr ?_ rfl rfl rfl rfl rfl rfl
    | dsimp only

theorem insertBlock_keeps {s : State} (h : Kept s₀ s) (w : Nat) (b : Nat) (x : BlockId) :
    Kept s₀ (insertBlock s w b x) := by
  unfold insertBlock
  extract_lets +onlyGivenNames refs set
  refine Kept.ite (endChain_keeps h _) ?_
  extract_lets +onlyGivenNames add s1
  have h1 : Kept s₀ s1 := Kept.ite h (fitBudget_keeps h _ _ _)
  clear_value s1
  refine Kept.ite (endChain_keeps h1 _) ?_
  extract_lets +onlyGivenNames way s2
  have h2 : Kept s₀ s2 := Kept.ite (count_keeps (removeBit_keeps h1 _) _ _) h1
  clear_value s2
  extract_lets +onlyGivenNames stamp pubs y bz s3
  have h3 : Kept s₀ s3 := Kept.mk_congr h2 rfl rfl rfl rfl rfl rfl
  clear_value s3
  extract_lets +onlyGivenNames s4 s5
  have h5 : Kept s₀ s5 := Kept.foldl (fun _ _ h => modPage_keeps h _ _) (clearPoison_keeps h3 _ _)
  clear_value s5
  extract_lets +onlyGivenNames s6
  have h6 : Kept s₀ s6 := Kept.foldl (fun _ _ h => by split; exact h; exact setEnt_keeps h _ _ _) h5
  clear_value s6
  exact count_keeps (linkChain_keeps h6 _ _ _ _ _) _ _

/-- An identical entry refreshed. -/
theorem refreshBlock_keeps {s t : State} {w b : Nat} {x : BlockId} (h : Kept s₀ s) (e : refreshBlock s w b x = some t) :
    Kept s₀ t := by
  unfold refreshBlock at e
  rw [Option.map_eq_some_iff] at e
  obtain ⟨⟨i, y⟩, -, e⟩ := e
  rw [← e]
  exact linkChain_keeps (Kept.mk_congr h rfl rfl rfl rfl rfl rfl) _ _ _ _ _

/-- What stands, or what a partial operation made of it. -/
theorem Kept.getD {o : Option State} {s : State} (ho : ∀ t, o = some t → Kept s₀ t) (h : Kept s₀ s) :
    Kept s₀ (o.getD s) := by
  cases o with
  | none => exact h
  | some t => exact ho t rfl

theorem refreshWard_keeps {s : State} (h : Kept s₀ s) (w before after : Nat) :
    Kept s₀ (refreshWard s w before after) := by
  refine Kept.foldl (fun t b h => Kept.ite (Kept.getD (fun u e => ?_) h) h) h
  obtain ⟨x, -, e⟩ := Option.bind_eq_some_iff.mp e
  exact refreshBlock_keeps h e

theorem insertWard_keeps {s : State} (h : Kept s₀ s) (w before after : Nat) :
    Kept s₀ (insertWard s w before after) := by
  refine Kept.foldl (fun t b h => Kept.ite h (Kept.ite (endChain_keeps h _) ?_)) h
  split
  · exact endChain_keeps h _
  · exact Kept.getD (fun u e => refreshBlock_keeps h e) (insertBlock_keeps h _ _ _)

theorem beginPark_keeps {s : State} (h : Kept s₀ s) (w : Nat) :
    Kept s₀ (beginPark s w) := by
  unfold beginPark
  repeat' first
    | with_reducible assumption
    | with_reducible apply Kept.ite
    | with_reducible apply modPage_keeps
    | with_reducible apply modList_keeps
    | with_reducible apply genMismatch_keeps
    | with_reducible refine Kept.foldl (fun _ _ _ => ?_) ?_
    | with_reducible refine Kept.foldl_snd (fun _ _ _ => ?_) ?_
    | with_reducible refine Kept.foldl_snd2 (fun _ _ _ => ?_) ?_
    | with_reducible refine Kept.foldl_fst (fun _ _ _ => ?_) ?_
    | split
    | with_reducible refine Kept.mk_congr ?_ rfl rfl rfl rfl rfl rfl
    | dsimp only

theorem expireOwn_keeps {s : State} (h : Kept s₀ s) (w cause : Nat) : Kept s₀ (expireOwn s w cause) := by
  unfold expireOwn
  repeat' first
    | with_reducible assumption
    | with_reducible apply Kept.ite
    | with_reducible apply releaseList_keeps
    | with_reducible apply sendPlain_keeps
    | split
    | with_reducible refine Kept.mk_congr ?_ rfl rfl rfl rfl rfl rfl

theorem parkPage_keeps {s : State} (h : Kept s₀ s) (w i : Nat) (r : PageRef) (loc : PageWhere) :
    Kept s₀ (parkPage s w i r loc) := by
  unfold parkPage
  extract_lets +onlyGivenNames n s1
  have h1 : Kept s₀ s1 := bezelRead_keeps h _ _
  clear_value s1
  exact setEnt_keeps (unrefPage_keeps (Kept.mk_congr h1 rfl rfl rfl rfl rfl rfl) _) _ _ _

theorem execParkComplete_keeps {s : State} (h : Kept s₀ s) (ward : Fin 65536) :
    OutKept s₀ (execParkComplete ward s) := by
  unfold execParkComplete
  split
  · exact h
  · extract_lets ps e
    split
    · exact genMismatch_keeps h _
    · split
      · exact sendPlain_keeps (endMoves_keeps h _) _ _ _ _
      · split
        · exact expireOwn_keeps h _ _
        · extract_lets +onlyGivenNames cs
          split
          · exact h
          · exact sendPlain_keeps (Kept.foldl (fun _ _ h => parkPage_keeps h _ _ _ _)
              (endMoves_keeps (spendAll_keeps h _) _)) _ _ _ _

theorem cancelPark_keeps {s : State} (h : Kept s₀ s) (w : Nat) : Kept s₀ (cancelPark s w) :=
  Kept.ite (endMoves_keeps h _) h

theorem sendReadyIfWhole_keeps {s : State} (h : Kept s₀ s) (w : Nat) : Kept s₀ (sendReadyIfWhole s w) :=
  Kept.ite (sendPlain_keeps (modList_keeps h _ _) _ _ _ _) h

theorem restorePage_keeps {s : State} (h : Kept s₀ s) (w : Nat) (i : Nat) (n : Nat) (r : PageRef) (c : ParkedCopy) :
    Kept s₀ (restorePage s w i n r c) := by
  unfold restorePage
  repeat' first
    | with_reducible assumption
    | with_reducible apply Kept.ite
    | with_reducible apply hbmZero_keeps
    | with_reducible apply modPage_keeps
    | with_reducible apply setEnt_keeps
    | with_reducible apply unrefCopy_keeps
    | with_reducible refine Kept.foldl (fun _ _ _ => ?_) ?_
    | with_reducible refine Kept.foldl_snd (fun _ _ _ => ?_) ?_
    | with_reducible refine Kept.foldl_snd2 (fun _ _ _ => ?_) ?_
    | with_reducible refine Kept.foldl_fst (fun _ _ _ => ?_) ?_
    | split
    | with_reducible refine Kept.mk_congr ?_ rfl rfl rfl rfl rfl rfl
    | with_reducible refine Kept.mk_touch ?_ ?_ ?_ ?_ ?_ ?_ ?_ ?_
    | exact id
    | exact memSetBytes_wf _ _
    | exact memZero_wf _ _
    | exact memPaste_wf _ _ _
    | dsimp only

theorem execResumePageReturn_keeps {s : State} (h : Kept s₀ s) (ward : Fin 65536) (index : Nat) (flips : List Nat) :
    OutKept s₀ (execResumePageReturn ward index flips s) := by
  unfold execResumePageReturn
  split
  · exact h
  · split
    · exact h
    · split
      · exact h
      · split
        · exact expireOwn_keeps (raiseF_keeps h _) _ _
        · split
          · exact h
          · split
            · exact h
            · extract_lets +onlyGivenNames cs
              split
              · exact h
              · exact sendReadyIfWhole_keeps
                  (restorePage_keeps (spendAll_keeps (takePage_keeps h (by assumption)) _) _ _ _ _ _) _

theorem execGenerationSweep_keeps {s : State} (h : Kept s₀ s) : OutKept s₀ (execGenerationSweep s) := by
  unfold execGenerationSweep
  try refine OutKept.next ?_
  repeat' first
    | with_reducible assumption
    | with_reducible apply Kept.ite
    | with_reducible apply genMismatch_keeps
    | with_reducible apply releaseList_keeps
    | with_reducible apply removeBit_keeps
    | with_reducible apply modPage_keeps
    | with_reducible apply poolPage_keeps
    | with_reducible apply bumpWrapF_keeps
    | with_reducible apply setF_keeps
    | with_reducible refine OutKept.next ?_
    | with_reducible refine Kept.foldl (fun _ _ _ => ?_) ?_
    | with_reducible refine Kept.foldl_snd (fun _ _ _ => ?_) ?_
    | with_reducible refine Kept.foldl_snd2 (fun _ _ _ => ?_) ?_
    | with_reducible refine Kept.foldl_fst (fun _ _ _ => ?_) ?_
    | split
    | with_reducible refine Kept.mk_congr ?_ rfl rfl rfl rfl rfl rfl

theorem mapDone_keeps {s : State} (h : Kept s₀ s) (status pages : Nat) : Kept s₀ (mapDone s status pages) := by
  unfold mapDone
  repeat' first
    | with_reducible assumption
    | with_reducible apply Kept.ite
    | with_reducible apply setF_keeps
    | split
    | with_reducible refine Kept.mk_congr ?_ rfl rfl rfl rfl rfl rfl

theorem placePages_keeps {s t : State} {ctx pclass mask v n : Nat} {write : Bool} (h : Kept s₀ s)
    (e : placePages ctx write pclass mask v n s = .all t) : Kept s₀ t := by
  induction n generalizing s v with
  | zero =>
    simp only [placePages, Placed.all.injEq] at e
    exact e ▸ h
  | succ n ih =>
    unfold placePages at e
    split at e
    · simp at e
    · simp at e
    · exact ih (setLeaf_keeps (useBacking_keeps h _ _) _ _) e

theorem runMap_keeps {s : State} (h : Kept s₀ s) : Kept s₀ (runMap s) := by
  unfold runMap
  dsimp only
  split
  · exact mapDone_keeps h _ _
  · split
    · exact mapDone_keeps h _ _
    · split
      · exact mapDone_keeps (placePages_keeps h (by assumption)) _ _
      · exact mapDone_keeps h _ _
      · exact wantLoan_keeps (setF_keeps (by exact Kept.mk_congr h rfl rfl rfl rfl rfl rfl) _ _)

theorem retryMap_keeps {s : State} (h : Kept s₀ s) : Kept s₀ (retryMap s) := by
  unfold retryMap
  repeat' first
    | with_reducible assumption
    | with_reducible apply Kept.ite
    | with_reducible apply runMap_keeps
    | split

theorem runUnmap_keeps {s : State} (h : Kept s₀ s) : Kept s₀ (runUnmap s) := by
  unfold runUnmap
  repeat' first
    | with_reducible assumption
    | with_reducible apply Kept.ite
    | with_reducible apply mapDone_keeps
    | with_reducible apply unmapRange_keeps

theorem runProtect_keeps {s : State} (h : Kept s₀ s) : Kept s₀ (runProtect s) := by
  unfold runProtect
  repeat' first
    | with_reducible assumption
    | with_reducible apply Kept.ite
    | with_reducible apply mapDone_keeps
    | with_reducible apply setLeaf_keeps
    | with_reducible refine Kept.foldl (fun _ _ _ => ?_) ?_

theorem mapGo_keeps {s : State} (h : Kept s₀ s) (fn : Nat) : Kept s₀ (mapGo s fn) := by
  refine pfWrite_keeps h _ _ _ (fun t h => Kept.ite (raiseF_keeps h _) ?_)
  split
  · split
    · exact mapDone_keeps h _ _
    · exact runMap_keeps (Kept.mk_congr h rfl rfl rfl rfl rfl rfl)
  · split
    · exact mapDone_keeps h _ _
    · exact runUnmap_keeps h
  · split
    · exact mapDone_keeps h _ _
    · exact runProtect_keeps h
  · exact mapDone_keeps h _ _

theorem execMap_keeps {s : State} (h : Kept s₀ s) (fn : Fin 64) : OutKept s₀ (execMap fn s) := by
  unfold execMap
  try refine OutKept.next ?_
  repeat' first
    | with_reducible assumption
    | with_reducible apply Kept.ite
    | with_reducible apply mapGo_keeps

theorem execUnmap_keeps {s : State} (h : Kept s₀ s) (fn : Fin 64) : OutKept s₀ (execUnmap fn s) := by
  unfold execUnmap
  try refine OutKept.next ?_
  repeat' first
    | with_reducible assumption
    | with_reducible apply Kept.ite
    | with_reducible apply mapGo_keeps

theorem execProtect_keeps {s : State} (h : Kept s₀ s) (fn : Fin 64) : OutKept s₀ (execProtect fn s) := by
  unfold execProtect
  try refine OutKept.next ?_
  repeat' first
    | with_reducible assumption
    | with_reducible apply Kept.ite
    | with_reducible apply mapGo_keeps

theorem execMapCommandComplete_keeps {s : State} (h : Kept s₀ s) : OutKept s₀ (execMapCommandComplete s) := by
  unfold execMapCommandComplete
  try refine OutKept.next ?_
  repeat' first
    | with_reducible assumption
    | with_reducible apply Kept.ite
    | with_reducible apply setF_keeps
    | with_reducible refine OutKept.next ?_
    | split
    | with_reducible refine Kept.mk_congr ?_ rfl rfl rfl rfl rfl rfl

theorem execHeatDecay_keeps {s : State} (h : Kept s₀ s) : OutKept s₀ (execHeatDecay s) := by
  unfold execHeatDecay
  try refine OutKept.next ?_
  repeat' first
    | with_reducible assumption
    | with_reducible apply Kept.ite
    | with_reducible refine OutKept.next ?_
    | split
    | with_reducible refine Kept.mk_congr ?_ rfl rfl rfl rfl rfl rfl

theorem startMove_keeps {s : State} (h : Kept s₀ s) (k : Nat) (l : Leaf) (t : Tier) (f : Nat) :
    Kept s₀ (startMove s k l t f) := by
  unfold startMove
  repeat' first
    | with_reducible assumption
    | with_reducible apply Kept.ite
    | with_reducible apply useBacking_keeps
    | with_reducible apply setLeaf_keeps
    | split
    | with_reducible refine Kept.mk_congr ?_ rfl rfl rfl rfl rfl rfl

theorem demoteOne_keeps {s : State} (h : Kept s₀ s) (l : List (Nat × Leaf)) : Kept s₀ (demoteOne l s) := by
  induction l with
  | nil => exact h
  | cons p ps ih =>
    unfold demoteOne
    split
    · exact startMove_keeps (by exact Kept.mk_congr h rfl rfl rfl rfl rfl rfl) _ _ _ _
    · exact wantLoan_keeps h
    · exact ih

theorem forgetDenial_keeps {s : State} (h : Kept s₀ s) :
    Kept s₀ (forgetDenial s) := by
  unfold forgetDenial
  repeat' first
    | with_reducible assumption
    | with_reducible apply Kept.ite
    | split
    | with_reducible refine Kept.mk_congr ?_ rfl rfl rfl rfl rfl rfl
    | dsimp only

theorem execMigrationStart_keeps {s : State} (h : Kept s₀ s) : OutKept s₀ (execMigrationStart s) := by
  unfold execMigrationStart
  extract_lets +onlyGivenNames free on ti s1
  have h1 : Kept s₀ s1 := Kept.mk_congr h rfl rfl rfl rfl rfl rfl
  clear_value s1
  refine OutKept.next (Kept.ite h1 (Kept.ite (forgetDenial_keeps (demoteOne_keeps h1 _)) (Kept.ite ?_ h1)))
  split
  · exact h1
  · split
    · exact startMove_keeps h1 _ _ _ _
    · exact h1

theorem modMig_keeps {s : State} (h : Kept s₀ s) (k : Nat) (f : Migration → Migration) : Kept s₀ (modMig s k f) := by
  unfold modMig
  repeat' first
    | with_reducible assumption
    | with_reducible apply Kept.ite
    | split
    | with_reducible refine Kept.mk_congr ?_ rfl rfl rfl rfl rfl rfl

theorem regionReadLost_keeps {s : State} (h : Kept s₀ s) (granule : Nat) : Kept s₀ (regionReadLost s granule) := by
  unfold regionReadLost
  repeat' first
    | with_reducible assumption
    | with_reducible apply Kept.ite
    | with_reducible apply pageLost_keeps
    | with_reducible apply cancelMigration_keeps
    | split
    | with_reducible refine Kept.mk_congr ?_ rfl rfl rfl rfl rfl rfl

theorem copyBlocks_keeps {s : State} (h : Kept s₀ s) (page : Nat) (l : Leaf) (m : Migration) (blocks : Option (List Nat)) :
    Kept s₀ (copyBlocks s page l m blocks) := by
  unfold copyBlocks
  repeat' first
    | with_reducible assumption
    | with_reducible apply Kept.ite
    | with_reducible apply copySpan_keeps
    | with_reducible refine Kept.foldl (fun _ _ _ => ?_) ?_
    | with_reducible refine Kept.foldl_snd (fun _ _ _ => ?_) ?_
    | with_reducible refine Kept.foldl_snd2 (fun _ _ _ => ?_) ?_
    | with_reducible refine Kept.foldl_fst (fun _ _ _ => ?_) ?_
    | split
    | dsimp only

theorem execMigrationCopyPass_keeps {s : State} (h : Kept s₀ s) (page : Nat) (badGranule : Option (Fin 128)) :
    OutKept s₀ (execMigrationCopyPass page badGranule s) := by
  unfold execMigrationCopyPass
  repeat' first
    | with_reducible assumption
    | with_reducible apply OutKept.next
    | with_reducible apply Kept.ite
    | with_reducible apply flashError_keeps
    | with_reducible apply spendAll_keeps
    | with_reducible apply modMig_keeps
    | with_reducible apply regionReadLost_keeps
    | with_reducible apply copyBlocks_keeps
    | split
    | dsimp only

theorem execMigrationSwitch_keeps {s : State} (h : Kept s₀ s) (page : Nat) :
    OutKept s₀ (execMigrationSwitch page s) := by
  unfold execMigrationSwitch
  repeat' first
    | with_reducible assumption
    | with_reducible apply OutKept.next
    | with_reducible apply Kept.ite
    | with_reducible apply count_keeps
    | with_reducible apply releaseBacking_keeps
    | with_reducible apply setLeaf_keeps
    | with_reducible apply spendAll_keeps
    | with_reducible apply copyBlocks_keeps
    | split
    | with_reducible refine Kept.mk_congr ?_ rfl rfl rfl rfl rfl rfl
    | dsimp only

theorem execFrameZeroingComplete_keeps {s : State} (h : Kept s₀ s) (frame : Fin 1310720) :
    OutKept s₀ (execFrameZeroingComplete frame s) := by
  unfold execFrameZeroingComplete
  try refine OutKept.next ?_
  repeat' first
    | with_reducible assumption
    | with_reducible apply Kept.ite
    | with_reducible apply hbmZero_keeps
    | with_reducible refine OutKept.next ?_
    | split
    | with_reducible refine Kept.mk_touch ?_ ?_ ?_ ?_ ?_ ?_ ?_ ?_
    | exact id
    | exact memSetBytes_wf _ _
    | exact memZero_wf _ _

theorem retireFrame_keeps {s : State} (h : Kept s₀ s) (f cause : Nat) : Kept s₀ (retireFrame s f cause) := by
  unfold retireFrame
  repeat' first
    | with_reducible assumption
    | with_reducible apply Kept.ite
    | with_reducible apply raiseF_keeps
    | with_reducible apply setF_keeps
    | with_reducible apply startMove_keeps
    | with_reducible apply postPF_keeps
    | split
    | with_reducible refine Kept.mk_congr ?_ rfl rfl rfl rfl rfl rfl

theorem hbmUncorrectable_keeps {s : State} (h : Kept s₀ s) (addr : Nat) : Kept s₀ (hbmUncorrectable s addr) := by
  unfold hbmUncorrectable
  repeat' first
    | with_reducible assumption
    | with_reducible apply Kept.ite
    | with_reducible apply retireFrame_keeps
    | with_reducible apply hbmPoison_keeps

theorem hbmCorrectable_keeps {s : State} (h : Kept s₀ s) (addr : Nat) : Kept s₀ (hbmCorrectable s addr) := by
  unfold hbmCorrectable
  repeat' first
    | with_reducible assumption
    | with_reducible apply Kept.ite
    | with_reducible apply retireFrame_keeps
    | split
    | with_reducible refine Kept.mk_congr ?_ rfl rfl rfl rfl rfl rfl

theorem execHbmScrubRead_keeps {s : State} (h : Kept s₀ s) (stack : Fin 24) (error : Fin 3) :
    OutKept s₀ (execHbmScrubRead stack error s) := by
  unfold execHbmScrubRead
  try refine OutKept.next ?_
  repeat' first
    | with_reducible assumption
    | with_reducible apply Kept.ite
    | with_reducible apply setF_keeps
    | with_reducible apply hbmCorrectable_keeps
    | with_reducible apply hbmUncorrectable_keeps
    | with_reducible refine OutKept.next ?_
    | with_reducible refine Kept.foldl (fun _ _ _ => ?_) ?_
    | with_reducible refine Kept.foldl_snd (fun _ _ _ => ?_) ?_
    | with_reducible refine Kept.foldl_snd2 (fun _ _ _ => ?_) ?_
    | with_reducible refine Kept.foldl_fst (fun _ _ _ => ?_) ?_
    | split
    | with_reducible refine Kept.mk_congr ?_ rfl rfl rfl rfl rfl rfl

theorem execLoanReq_keeps {s : State} (h : Kept s₀ s) (borrower : Fin 65536) :
    OutKept s₀ (execLoanReq borrower s) := by
  unfold execLoanReq
  try refine OutKept.next ?_
  repeat' first
    | with_reducible assumption
    | with_reducible apply Kept.ite
    | with_reducible apply sendMsg_keeps
    | with_reducible refine OutKept.next ?_
    | split
    | with_reducible refine Kept.mk_congr ?_ rfl rfl rfl rfl rfl rfl

theorem execLoanGrant_keeps {s : State} (h : Kept s₀ s) (lender : Fin 65536) (base : Fin 4503599627370496) :
    OutKept s₀ (execLoanGrant lender base s) := by
  unfold execLoanGrant
  repeat' first
    | with_reducible assumption
    | with_reducible apply OutKept.next
    | with_reducible apply Kept.ite
    | with_reducible apply count_keeps
    | with_reducible apply retryMap_keeps
    | split
    | with_reducible refine Kept.mk_congr ?_ rfl rfl rfl rfl rfl rfl
    | dsimp only

theorem execLoanDeny_keeps {s : State} (h : Kept s₀ s) (lender : Fin 65536) : OutKept s₀ (execLoanDeny lender s) := by
  unfold execLoanDeny
  try refine OutKept.next ?_
  repeat' first
    | with_reducible assumption
    | with_reducible apply Kept.ite
    | with_reducible apply askLender_keeps
    | with_reducible apply retryMap_keeps
    | with_reducible refine OutKept.next ?_
    | split
    | with_reducible refine Kept.mk_congr ?_ rfl rfl rfl rfl rfl rfl

theorem returnLoan_keeps {s : State} (h : Kept s₀ s) (n : Nat) (l : Loan) : Kept s₀ (returnLoan s n l) := by
  unfold returnLoan
  repeat' first
    | with_reducible assumption
    | with_reducible apply Kept.ite
    | with_reducible apply sendMsg_keeps
    | split
    | with_reducible refine Kept.mk_touch ?_ ?_ ?_ ?_ ?_ ?_ ?_ ?_
    | exact id
    | exact memSetBytes_wf _ _
    | exact memZero_wf _ _

theorem execLoanIdleExpiry_keeps {s : State} (h : Kept s₀ s) (slot : Fin 1024) :
    OutKept s₀ (execLoanIdleExpiry slot s) := by
  unfold execLoanIdleExpiry
  try refine OutKept.next ?_
  repeat' first
    | with_reducible assumption
    | with_reducible apply Kept.ite
    | with_reducible apply returnLoan_keeps
    | with_reducible refine OutKept.next ?_
    | split

theorem execLoanReturn_keeps {s : State} (h : Kept s₀ s) (borrower : Fin 65536) (base : Fin 4503599627370496) :
    OutKept s₀ (execLoanReturn borrower base s) := by
  unfold execLoanReturn
  try refine OutKept.next ?_
  repeat' first
    | with_reducible assumption
    | with_reducible apply Kept.ite
    | with_reducible apply hbmZero_keeps
    | with_reducible refine OutKept.next ?_
    | split
    | with_reducible refine Kept.mk_congr ?_ rfl rfl rfl rfl rfl rfl

theorem evacuatePage_keeps {s : State} (h : Kept s₀ s) (k : Nat) :
    Kept s₀ (evacuatePage s k) := by
  unfold evacuatePage
  repeat' first
    | with_reducible assumption
    | with_reducible apply Kept.ite
    | with_reducible apply copySpan_keeps
    | with_reducible apply setLeaf_keeps
    | with_reducible apply cancelMigration_keeps
    | with_reducible apply pageLost_keeps
    | with_reducible apply useBacking_keeps
    | split
    | with_reducible refine Kept.mk_congr ?_ rfl rfl rfl rfl rfl rfl
    | dsimp only

theorem evacuateLoan_keeps {s : State} (h : Kept s₀ s) (n : Nat) (l : Loan) : Kept s₀ (evacuateLoan s n l) := by
  unfold evacuateLoan
  repeat' first
    | with_reducible assumption
    | with_reducible apply Kept.ite
    | with_reducible apply evacuatePage_keeps
    | with_reducible apply expireOwn_keeps
    | with_reducible apply returnLoan_keeps
    | with_reducible refine Kept.foldl (fun _ _ _ => ?_) ?_
    | with_reducible refine Kept.foldl_snd (fun _ _ _ => ?_) ?_
    | with_reducible refine Kept.foldl_snd2 (fun _ _ _ => ?_) ?_
    | with_reducible refine Kept.foldl_fst (fun _ _ _ => ?_) ?_
    | split
    | with_reducible refine Kept.mk_congr ?_ rfl rfl rfl rfl rfl rfl

theorem execEvacuationComplete_keeps {s : State} (h : Kept s₀ s) (slots : List Nat) :
    OutKept s₀ (execEvacuationComplete slots s) := by
  unfold execEvacuationComplete
  try refine OutKept.next ?_
  repeat' first
    | with_reducible assumption
    | with_reducible apply Kept.ite
    | with_reducible apply evacuateLoan_keeps
    | with_reducible refine OutKept.next ?_
    | with_reducible refine Kept.foldl (fun _ _ _ => ?_) ?_
    | with_reducible refine Kept.foldl_snd (fun _ _ _ => ?_) ?_
    | with_reducible refine Kept.foldl_snd2 (fun _ _ _ => ?_) ?_
    | with_reducible refine Kept.foldl_fst (fun _ _ _ => ?_) ?_
    | split
    | with_reducible refine Kept.mk_congr ?_ rfl rfl rfl rfl rfl rfl

theorem execFlashWrite_keeps {s : State} (h : Kept s₀ s) (granule : Fin 4294967294) (offset : Fin 16384)
    (data : List Byte) (owner : Fin 4097) (durable : Bool) :
    OutKept s₀ (execFlashWrite granule offset data owner durable s) := by
  unfold execFlashWrite
  try refine OutKept.next ?_
  repeat' first
    | with_reducible assumption
    | with_reducible apply Kept.ite
    | with_reducible apply flashStoreBytes_keeps

theorem placeGranule_keeps {s : State} (h : Kept s₀ s) (g b : Nat) : Kept s₀ (placeGranule s g b) := by
  unfold placeGranule
  repeat' first
    | with_reducible assumption
    | with_reducible apply Kept.ite
    | with_reducible apply setBlock_keeps
    | split
    | with_reducible refine Kept.mk_congr ?_ rfl rfl rfl rfl rfl rfl

theorem execFlashProgramComplete_keeps {s : State} (h : Kept s₀ s) (block : Fin 536870912) :
    OutKept s₀ (execFlashProgramComplete block s) := by
  unfold execFlashProgramComplete
  try refine OutKept.next ?_
  repeat' first
    | with_reducible assumption
    | with_reducible apply Kept.ite
    | with_reducible apply placeGranule_keeps
    | with_reducible apply refreshBacklog_keeps
    | with_reducible refine OutKept.next ?_
    | with_reducible refine Kept.foldl (fun _ _ _ => ?_) ?_
    | with_reducible refine Kept.foldl_snd (fun _ _ _ => ?_) ?_
    | with_reducible refine Kept.foldl_snd2 (fun _ _ _ => ?_) ?_
    | with_reducible refine Kept.foldl_fst (fun _ _ _ => ?_) ?_
    | split
    | with_reducible refine Kept.mk_touch ?_ ?_ ?_ ?_ ?_ ?_ ?_ ?_
    | exact id
    | exact memSetBytes_wf _ _
    | exact memZero_wf _ _
    | exact memPaste_wf _ _ _

theorem retireBlock_keeps {s : State} (h : Kept s₀ s) (b : Nat) (f : Field) : Kept s₀ (retireBlock s b f) := by
  unfold retireBlock
  repeat' first
    | with_reducible assumption
    | with_reducible apply Kept.ite
    | with_reducible apply flashError_keeps
    | with_reducible apply setBlock_keeps

theorem execFlashProgramFail_keeps {s : State} (h : Kept s₀ s) (block : Fin 536870912) :
    OutKept s₀ (execFlashProgramFail block s) := by
  unfold execFlashProgramFail
  try refine OutKept.next ?_
  repeat' first
    | with_reducible assumption
    | with_reducible apply Kept.ite
    | with_reducible apply scheduleReloc_keeps
    | with_reducible apply retireBlock_keeps

theorem execFlashEraseFail_keeps {s : State} (h : Kept s₀ s) (block : Fin 536870912) :
    OutKept s₀ (execFlashEraseFail block s) := by
  unfold execFlashEraseFail
  try refine OutKept.next ?_
  repeat' first
    | with_reducible assumption
    | with_reducible apply Kept.ite
    | with_reducible apply retireBlock_keeps

theorem relocate_keeps {s : State} (h : Kept s₀ s) (src : Nat) (dst : Nat) :
    Kept s₀ (relocate s src dst) := by
  unfold relocate
  repeat' first
    | with_reducible assumption
    | with_reducible apply Kept.ite
    | with_reducible apply count_keeps
    | with_reducible apply placeGranule_keeps
    | with_reducible refine Kept.foldl (fun _ _ _ => ?_) ?_
    | with_reducible refine Kept.foldl_snd (fun _ _ _ => ?_) ?_
    | with_reducible refine Kept.foldl_snd2 (fun _ _ _ => ?_) ?_
    | with_reducible refine Kept.foldl_fst (fun _ _ _ => ?_) ?_
    | split
    | dsimp only

theorem eraseBlock_keeps {s : State} (h : Kept s₀ s) (b : Nat) : Kept s₀ (eraseBlock s b) := by
  unfold eraseBlock
  repeat' first
    | with_reducible assumption
    | with_reducible apply Kept.ite
    | with_reducible apply setBlock_keeps
    | split
    | with_reducible refine Kept.mk_congr ?_ rfl rfl rfl rfl rfl rfl

theorem execGarbageCollection_keeps {s : State} (h : Kept s₀ s) (channel : Fin 32) (dst : Fin 536870912) :
    OutKept s₀ (execGarbageCollection channel dst s) := by
  unfold execGarbageCollection
  try refine OutKept.next ?_
  repeat' first
    | with_reducible assumption
    | with_reducible apply Kept.ite
    | with_reducible apply eraseBlock_keeps
    | with_reducible apply relocate_keeps
    | with_reducible refine OutKept.next ?_
    | split

theorem execWearRelocation_keeps {s : State} (h : Kept s₀ s) (dst : Fin 536870912) :
    OutKept s₀ (execWearRelocation dst s) := by
  unfold execWearRelocation
  try refine OutKept.next ?_
  repeat' first
    | with_reducible assumption
    | with_reducible apply Kept.ite
    | with_reducible apply relocate_keeps
    | with_reducible refine OutKept.next ?_
    | split

theorem execReadDisturbRelocation_keeps {s : State} (h : Kept s₀ s) (block dst : Fin 536870912) :
    OutKept s₀ (execReadDisturbRelocation block dst s) := by
  unfold execReadDisturbRelocation
  try refine OutKept.next ?_
  repeat' first
    | with_reducible assumption
    | with_reducible apply Kept.ite
    | with_reducible apply eraseBlock_keeps
    | with_reducible apply relocate_keeps

theorem execRelocationPriorityRaise_keeps {s : State} (h : Kept s₀ s) (block : Fin 536870912) :
    OutKept s₀ (execRelocationPriorityRaise block s) := by
  unfold execRelocationPriorityRaise
  try refine OutKept.next ?_
  repeat' first
    | with_reducible assumption
    | with_reducible apply Kept.ite
    | with_reducible refine OutKept.next ?_
    | split
    | with_reducible refine Kept.mk_congr ?_ rfl rfl rfl rfl rfl rfl

theorem execFtlCheckpoint_keeps {s : State} (h : Kept s₀ s) : OutKept s₀ (execFtlCheckpoint s) := by
  unfold execFtlCheckpoint
  try refine OutKept.next ?_
  repeat' first
    | with_reducible assumption
    | with_reducible apply Kept.ite
    | with_reducible refine OutKept.next ?_
    | split
    | with_reducible refine Kept.mk_congr ?_ rfl rfl rfl rfl rfl rfl

theorem setSlot_keeps {s : State} (h : Kept s₀ s) (n : Nat) (v : AdapterSlot) : Kept s₀ (setSlot s n v) := by
  unfold setSlot
  repeat' first
    | with_reducible assumption
    | with_reducible apply Kept.ite
    | split
    | with_reducible refine Kept.mk_congr ?_ rfl rfl rfl rfl rfl rfl

theorem loadSlot_keeps {s : State} (h : Kept s₀ s) (n id : Nat) : Kept s₀ (loadSlot s n id) := by
  unfold loadSlot
  repeat' first
    | with_reducible assumption
    | with_reducible apply Kept.ite
    | with_reducible apply setSlot_keeps
    | with_reducible apply state_emit_keeps
    | split
    | with_reducible refine Kept.mk_congr ?_ rfl rfl rfl rfl rfl rfl

theorem releasePin_keeps {s : State} (h : Kept s₀ s) (e : WardEntry) : Kept s₀ (releasePin s e) := by
  unfold releasePin
  repeat' first
    | with_reducible assumption
    | with_reducible apply Kept.ite
    | with_reducible apply setSlot_keeps

end Sys2Proof.Machine
end

