-- ==== Sys2Proof/Laws/KeptWard.lean ====
section
/-!
SUPPORT. What every operation keeps (see KeptBase), operation by operation: requests, steps, the weight store and the loader.
-/
namespace Sys2Proof.Machine

open Sys2Proof

set_option maxRecDepth 4000

variable {s₀ : State}

theorem countTenant_keeps {s : State} (h : Kept s₀ s) (ctx k n : Nat) : Kept s₀ (countTenant s ctx k n) := by
  unfold countTenant
  repeat' first
    | with_reducible assumption
    | with_reducible apply Kept.ite
    | with_reducible apply count_keeps

theorem readPrompt_keeps {s : State} (h : Kept s₀ s) (r : PromptRead) :
    Kept s₀ (readPrompt s r) := by
  unfold readPrompt
  repeat' first
    | with_reducible assumption
    | ((fail_if_no_progress first | extract_lets +onlyGivenNames z | fail); refine (have hz : Kept s₀ z := ?_; ?_); rotate_left; clear_value z)
    | (fail_if_no_progress first | extract_lets +onlyGivenNames z | fail)
    | with_reducible apply Kept.ite
    | with_reducible apply state_emit_keeps
    | split

theorem beginRead_keeps {s : State} (h : Kept s₀ s) (r : PromptRead) :
    Kept s₀ (beginRead s r) := by
  unfold beginRead
  repeat' first
    | with_reducible assumption
    | with_reducible apply Kept.ite
    | with_reducible apply readPrompt_keeps
    | split
    | (fail_if_no_progress first | with_reducible refine Kept.mk_congr ?_ rfl rfl rfl rfl rfl rfl | fail)
    | dsimp only

theorem execAdmitDescriptor_keeps {s : State} (h : Kept s₀ s) (origin : Origin) (subseq : Nat) (desc : BitVec 512) :
    OutKept s₀ (execAdmitDescriptor origin subseq desc s) := by
  unfold execAdmitDescriptor
  dsimp only
  split
  · exact h
  · split
    · exact complete_keeps h _ _ _ _ _ _
    · split
      · exact complete_keeps h _ _ _ _ _ _
      · split
        · exact complete_keeps h _ _ _ _ _ _
        · split
          · exact complete_keeps (raiseF_keeps h _) _ _ _ _ _ _
          · exact beginRead_keeps (allocExtent_keeps h (by assumption)) _

theorem sendDescriptor_keeps {s : State} (h : Kept s₀ s) (k : RecKind) (r : PromptRead) (tokens : List Nat) :
    Kept s₀ (sendDescriptor s k r tokens) := by
  unfold sendDescriptor
  repeat' first
    | with_reducible assumption
    | ((fail_if_no_progress first | extract_lets +onlyGivenNames z | fail); refine (have hz : Kept s₀ z := ?_; ?_); rotate_left; clear_value z)
    | (fail_if_no_progress first | extract_lets +onlyGivenNames z | fail)
    | with_reducible apply Kept.ite
    | with_reducible apply sendRecord_keeps
    | split
    | (fail_if_no_progress first | with_reducible refine Kept.mk_congr ?_ rfl rfl rfl rfl rfl rfl | fail)

theorem execPromptReadComplete_keeps {s : State} (h : Kept s₀ s) (origin : Origin) (subseq : Nat) (good : Bool) (tokens : List Nat) :
    OutKept s₀ (execPromptReadComplete origin subseq good tokens s) := by
  unfold execPromptReadComplete
  repeat' first
    | with_reducible assumption
    | ((fail_if_no_progress first | extract_lets +onlyGivenNames z | fail); refine (have hz : Kept s₀ z := ?_; ?_); rotate_left; clear_value z)
    | (fail_if_no_progress first | extract_lets +onlyGivenNames z | fail)
    | with_reducible apply OutKept.next
    | with_reducible apply Kept.ite
    | with_reducible apply complete_keeps
    | with_reducible apply freeExtent_keeps
    | with_reducible apply transcriptPut_keeps
    | with_reducible apply sendDescriptor_keeps
    | split
    | (fail_if_no_progress first | with_reducible refine Kept.mk_congr ?_ rfl rfl rfl rfl rfl rfl | fail)

theorem submitCommand_keeps {s : State} (h : Kept s₀ s) (k : RecKind) (op : Nat) (r : PromptRead) :
    Kept s₀ (submitCommand s k op r) := by
  unfold submitCommand
  repeat' first
    | with_reducible assumption
    | with_reducible apply Kept.ite
    | with_reducible apply complete_keeps
    | with_reducible apply sendDescriptor_keeps
    | split
    | dsimp only

theorem execPause_keeps {s : State} (h : Kept s₀ s) (origin : Origin) (subseq : Nat) (desc : BitVec 512) :
    OutKept s₀ (execPause origin subseq desc s) := by
  unfold execPause
  repeat' first
    | with_reducible assumption
    | with_reducible apply OutKept.next
    | with_reducible apply Kept.ite
    | with_reducible apply submitCommand_keeps
    | split
    | (fail_if_no_progress first | with_reducible refine Kept.mk_congr ?_ rfl rfl rfl rfl rfl rfl | fail)
    | dsimp only

theorem execCancel_keeps {s : State} (h : Kept s₀ s) (origin : Origin) (subseq : Nat) (desc : BitVec 512) :
    OutKept s₀ (execCancel origin subseq desc s) := by
  unfold execCancel
  repeat' first
    | with_reducible assumption
    | with_reducible apply OutKept.next
    | with_reducible apply Kept.ite
    | with_reducible apply submitCommand_keeps
    | split
    | (fail_if_no_progress first | with_reducible refine Kept.mk_congr ?_ rfl rfl rfl rfl rfl rfl | fail)
    | dsimp only

theorem execResume_keeps {s : State} (h : Kept s₀ s) (origin : Origin) (subseq : Nat) (desc : BitVec 512) :
    OutKept s₀ (execResume origin subseq desc s) := by
  unfold execResume
  repeat' first
    | with_reducible assumption
    | ((fail_if_no_progress first | extract_lets +onlyGivenNames z | fail); refine (have hz : Kept s₀ z := ?_; ?_); rotate_left; clear_value z)
    | (fail_if_no_progress first | extract_lets +onlyGivenNames z | fail)
    | with_reducible apply OutKept.next
    | with_reducible apply Kept.ite
    | with_reducible apply complete_keeps
    | with_reducible apply beginRead_keeps
    | with_reducible apply submitCommand_keeps
    | split
    | (fail_if_no_progress first | with_reducible refine Kept.mk_congr ?_ rfl rfl rfl rfl rfl rfl | fail)

theorem execOrderRecordArrival_keeps {s : State} (h : Kept s₀ s) (r : OrderRecord) :
    OutKept s₀ (execOrderRecordArrival r s) := by
  unfold execOrderRecordArrival
  try refine OutKept.next ?_
  repeat' first
    | with_reducible assumption
    | with_reducible apply Kept.ite
    | with_reducible refine OutKept.next ?_
    | split
    | with_reducible refine Kept.mk_congr ?_ rfl rfl rfl rfl rfl rfl

theorem execBatchCut_keeps {s : State} (h : Kept s₀ s) :
    OutKept s₀ (execBatchCut s) := by
  unfold execBatchCut
  repeat' first
    | with_reducible assumption
    | ((fail_if_no_progress first | extract_lets +onlyGivenNames z | fail); refine (have hz : Kept s₀ z := ?_; ?_); rotate_left; clear_value z)
    | (fail_if_no_progress first | extract_lets +onlyGivenNames z | fail)
    | with_reducible apply OutKept.next
    | with_reducible apply Kept.ite
    | with_reducible apply sendAll_keeps
    | split
    | (fail_if_no_progress first | with_reducible refine Kept.mk_congr ?_ rfl rfl rfl rfl rfl rfl | fail)

theorem execBatchArrival_keeps {s : State} (h : Kept s₀ s) (b : Batch) : OutKept s₀ (execBatchArrival b s) := by
  unfold execBatchArrival
  try refine OutKept.next ?_
  repeat' first
    | with_reducible assumption
    | with_reducible apply Kept.ite
    | with_reducible refine OutKept.next ?_
    | split
    | with_reducible refine Kept.mk_congr ?_ rfl rfl rfl rfl rfl rfl

theorem execBatchWaitTimeout_keeps {s : State} (h : Kept s₀ s) : OutKept s₀ (execBatchWaitTimeout s) := by
  unfold execBatchWaitTimeout
  try refine OutKept.next ?_
  repeat' first
    | with_reducible assumption
    | with_reducible apply Kept.ite
    | with_reducible apply declareFault_keeps
    | with_reducible refine OutKept.next ?_
    | split

theorem takeOwed_keeps {s t : State} {o : Origin} {d : Nat} {x : Owed} (h : Kept s₀ s)
    (e : takeOwed s o d = some (x, t)) : Kept s₀ t := by
  unfold takeOwed at e
  split at e
  · simp at e
  · simp only [Option.some.injEq, Prod.mk.injEq] at e
    rw [← e.2]
    exact Kept.mk_congr h rfl rfl rfl rfl rfl rfl

theorem completeRecord_keeps {s : State} (h : Kept s₀ s) (r : OrderRecord) (st ward aseq : Nat) :
    Kept s₀ (completeRecord s r st ward aseq) := by
  unfold completeRecord
  repeat' first
    | with_reducible assumption
    | with_reducible apply Kept.ite
    | (refine takeOwed_keeps ?_ (by assumption))
    | with_reducible apply complete_keeps
    | with_reducible apply deliveryFailure_keeps
    | split

theorem dropHoldings_keeps {s : State} (h : Kept s₀ s) (w : Nat) : Kept s₀ (dropHoldings s w) := by
  unfold dropHoldings
  repeat' first
    | with_reducible assumption
    | with_reducible apply Kept.ite
    | with_reducible apply releasePin_keeps
    | with_reducible apply releaseList_keeps
    | split
    | with_reducible refine Kept.mk_congr ?_ rfl rfl rfl rfl rfl rfl

theorem toFailed_keeps {s : State} (h : Kept s₀ s) (w : Nat) (cause : Nat) :
    Kept s₀ (toFailed s w cause) := by
  unfold toFailed
  repeat' first
    | with_reducible assumption
    | ((fail_if_no_progress first | extract_lets +onlyGivenNames z | fail); refine (have hz : Kept s₀ z := ?_; ?_); rotate_left; clear_value z)
    | (fail_if_no_progress first | extract_lets +onlyGivenNames z | fail)
    | with_reducible apply Kept.ite
    | with_reducible apply modWard_keeps
    | with_reducible apply errorEntry_keeps
    | with_reducible apply releaseIfDelivered_keeps
    | with_reducible apply dropHoldings_keeps
    | split
    | (fail_if_no_progress first | with_reducible refine Kept.mk_congr ?_ rfl rfl rfl rfl rfl rfl | fail)

theorem toDone_keeps {s : State} (h : Kept s₀ s) (w : Nat) : Kept s₀ (toDone s w) := by
  unfold toDone
  repeat' first
    | with_reducible assumption
    | with_reducible apply Kept.ite
    | with_reducible apply dropHoldings_keeps
    | with_reducible apply releaseIfDelivered_keeps
    | with_reducible apply modWard_keeps

theorem rollback_keeps {s : State} (h : Kept s₀ s) (w : Nat) : Kept s₀ (rollback s w) := by
  unfold rollback
  repeat' first
    | with_reducible assumption
    | with_reducible apply Kept.ite
    | with_reducible apply setWard_keeps
    | with_reducible apply releaseAbove_keeps

theorem toPaused_keeps {s : State} (h : Kept s₀ s) (w b : Nat) (ttl : Option Nat) : Kept s₀ (toPaused s w b ttl) := by
  unfold toPaused
  repeat' first
    | with_reducible assumption
    | with_reducible apply Kept.ite
    | with_reducible apply rollback_keeps
    | with_reducible apply releasePin_keeps
    | with_reducible apply modWard_keeps
    | with_reducible apply modInfo_keeps
    | with_reducible apply modList_keeps
    | split
    | with_reducible refine Kept.mk_congr ?_ rfl rfl rfl rfl rfl rfl

theorem reserveReturns_keeps {s : State} (h : Kept s₀ s) (w : Nat) :
    Kept s₀ (reserveReturns s w) := by
  unfold reserveReturns
  repeat' first
    | with_reducible assumption
    | with_reducible apply Kept.ite
    | split
    | (fail_if_no_progress first | with_reducible refine Kept.mk_congr ?_ rfl rfl rfl rfl rfl rfl | fail)
    | dsimp only

theorem beginRestore_keeps {s : State} (h : Kept s₀ s) (w : Nat) :
    Kept s₀ (beginRestore s w) := by
  unfold beginRestore
  repeat' first
    | with_reducible assumption
    | ((fail_if_no_progress first | extract_lets +onlyGivenNames z | fail); refine (have hz : Kept s₀ z := ?_; ?_); rotate_left; clear_value z)
    | (fail_if_no_progress first | extract_lets +onlyGivenNames z | fail)
    | with_reducible apply Kept.ite
    | with_reducible apply setWard_keeps
    | with_reducible apply modInfo_keeps
    | with_reducible apply modList_keeps
    | with_reducible apply cancelPark_keeps
    | with_reducible apply sendReadyIfWhole_keeps
    | with_reducible apply reserveReturns_keeps
    | split
    | (fail_if_no_progress first | with_reducible refine Kept.mk_congr ?_ rfl rfl rfl rfl rfl rfl | fail)

theorem forkPages_keeps {s : State} (h : Kept s₀ s) (src : Nat) (dst : Nat) :
    Kept s₀ (forkPages s src dst) := by
  unfold forkPages
  repeat' first
    | with_reducible assumption
    | with_reducible apply Kept.ite
    | with_reducible apply modPage_keeps
    | with_reducible apply modList_keeps
    | with_reducible apply setEnt_keeps
    | with_reducible refine Kept.foldl (fun _ _ _ => ?_) ?_
    | with_reducible refine Kept.foldl_snd (fun _ _ _ => ?_) ?_
    | with_reducible refine Kept.foldl_snd2 (fun _ _ _ => ?_) ?_
    | with_reducible refine Kept.foldl_fst (fun _ _ _ => ?_) ?_
    | split
    | (fail_if_no_progress first | with_reducible refine Kept.mk_congr ?_ rfl rfl rfl rfl rfl rfl | fail)
    | dsimp only

theorem forkTranscript_keeps {s : State} (h : Kept s₀ s) (src : WardEntry) (extent : Nat) (n : Nat) :
    Kept s₀ (forkTranscript s src extent n) := by
  unfold forkTranscript
  repeat' first
    | with_reducible assumption
    | ((fail_if_no_progress first | extract_lets +onlyGivenNames z | fail); refine (have hz : Kept s₀ z := ?_; ?_); rotate_left; clear_value z)
    | (fail_if_no_progress first | extract_lets +onlyGivenNames z | fail)
    | with_reducible apply Kept.ite
    | with_reducible apply transcriptPut_keeps
    | split

theorem applyAdmit_keeps {s : State} (h : Kept s₀ s) (r : OrderRecord) (aseq : Nat) (b : Nat) :
    Kept s₀ (applyAdmit s r aseq b) := by
  unfold applyAdmit
  repeat' first
    | with_reducible assumption
    | ((fail_if_no_progress first | extract_lets +onlyGivenNames z | fail); refine (have hz : Kept s₀ z := ?_; ?_); rotate_left; clear_value z)
    | (fail_if_no_progress first | extract_lets +onlyGivenNames z | fail)
    | with_reducible apply Kept.ite
    | with_reducible apply setF_keeps
    | with_reducible apply setWard_keeps
    | with_reducible apply setInfo_keeps
    | with_reducible apply freeExtent_keeps
    | with_reducible apply setDeliv_keeps
    | with_reducible apply releaseList_keeps
    | with_reducible apply completeRecord_keeps
    | with_reducible apply reserveReturns_keeps
    | with_reducible apply forkPages_keeps
    | with_reducible apply forkTranscript_keeps
    | split
    | (fail_if_no_progress first | with_reducible refine Kept.mk_congr ?_ rfl rfl rfl rfl rfl rfl | fail)

theorem appendPrompt_keeps {s : State} (h : Kept s₀ s) (r : OrderRecord) (e : WardEntry) :
    Kept s₀ (appendPrompt s r e) := by
  unfold appendPrompt
  repeat' first
    | with_reducible assumption
    | with_reducible apply Kept.ite
    | with_reducible apply transcriptPut_keeps
    | split
    | dsimp only

theorem applyCommand_keeps {s : State} (h : Kept s₀ s) (r : OrderRecord) (b : Nat) :
    Kept s₀ (applyCommand s r b) := by
  unfold applyCommand
  repeat' first
    | with_reducible assumption
    | ((fail_if_no_progress first | extract_lets +onlyGivenNames z | fail); refine (have hz : Kept s₀ z := ?_; ?_); rotate_left; clear_value z)
    | (fail_if_no_progress first | extract_lets +onlyGivenNames z | fail)
    | with_reducible apply Kept.ite
    | with_reducible apply setWard_keeps
    | with_reducible apply completeRecord_keeps
    | with_reducible apply toFailed_keeps
    | with_reducible apply toPaused_keeps
    | with_reducible apply beginRestore_keeps
    | with_reducible apply appendPrompt_keeps
    | split
    | (fail_if_no_progress first | with_reducible refine Kept.mk_congr ?_ rfl rfl rfl rfl rfl rfl | fail)

theorem countRecord_keeps {s : State} (h : Kept s₀ s) (k w pkg : Nat) : Kept s₀ (countRecord s k w pkg).2 := by
  unfold countRecord
  repeat' first
    | with_reducible assumption
    | with_reducible apply Kept.ite
    | with_reducible apply Kept.ite_snd
    | split
    | with_reducible refine Kept.mk_congr ?_ rfl rfl rfl rfl rfl rfl

theorem clearCount_keeps {s : State} (h : Kept s₀ s) (k w : Nat) : Kept s₀ (clearCount s k w) := by
  unfold clearCount
  repeat' first
    | with_reducible assumption
    | with_reducible apply Kept.ite
    | split
    | with_reducible refine Kept.mk_congr ?_ rfl rfl rfl rfl rfl rfl

theorem expireEntry_keeps {s : State} (h : Kept s₀ s) (w cause : Nat) : Kept s₀ (expireEntry s w cause) := by
  unfold expireEntry
  repeat' first
    | with_reducible assumption
    | with_reducible apply Kept.ite
    | with_reducible apply releaseList_keeps
    | with_reducible apply modWard_keeps
    | with_reducible apply postOrigin_keeps
    | split
    | with_reducible refine Kept.mk_congr ?_ rfl rfl rfl rfl rfl rfl

theorem applyExpire_keeps {s : State} (h : Kept s₀ s) (w : Nat) (cause : Nat) :
    Kept s₀ (applyExpire s w cause) := by
  unfold applyExpire
  repeat' first
    | with_reducible assumption
    | ((fail_if_no_progress first | extract_lets +onlyGivenNames z | fail); refine (have hz : Kept s₀ z := ?_; ?_); rotate_left; clear_value z)
    | (fail_if_no_progress first | extract_lets +onlyGivenNames z | fail)
    | with_reducible apply Kept.ite
    | with_reducible apply beginRestore_keeps
    | with_reducible apply expireEntry_keeps
    | split

theorem applyKdrain_keeps {s : State} (h : Kept s₀ s) (list : List (Nat × Nat × Nat)) :
    Kept s₀ (applyKdrain s list) := by
  unfold applyKdrain
  repeat' first
    | with_reducible assumption
    | with_reducible apply Kept.ite
    | with_reducible apply modWard_keeps
    | with_reducible refine Kept.foldl (fun _ _ _ => ?_) ?_

theorem applyAdapterReady_keeps {s : State} (h : Kept s₀ s) (slot : Nat) (id : Nat) (pkg : Nat) :
    Kept s₀ (applyAdapterReady s slot id pkg) := by
  unfold applyAdapterReady
  repeat' first
    | with_reducible assumption
    | ((fail_if_no_progress first | extract_lets +onlyGivenNames z | fail); refine (have hz : Kept s₀ z := ?_; ?_); rotate_left; clear_value z)
    | (fail_if_no_progress first | extract_lets +onlyGivenNames z | fail)
    | with_reducible apply Kept.ite
    | with_reducible apply modWard_keeps
    | with_reducible apply setSlot_keeps
    | with_reducible apply countRecord_keeps
    | with_reducible apply clearCount_keeps
    | (refine Kept.of_pair1 (by assumption) ?_)
    | with_reducible refine Kept.foldl (fun _ _ _ => ?_) ?_
    | with_reducible refine Kept.foldl_snd (fun _ _ _ => ?_) ?_
    | with_reducible refine Kept.foldl_snd2 (fun _ _ _ => ?_) ?_
    | with_reducible refine Kept.foldl_fst (fun _ _ _ => ?_) ?_
    | split
    | (fail_if_no_progress first | with_reducible refine Kept.mk_congr ?_ rfl rfl rfl rfl rfl rfl | fail)

theorem placeStart_keeps {s : State} (h : Kept s₀ s) : Kept s₀ (placeStart s) := by
  unfold placeStart
  repeat' first
    | with_reducible assumption
    | with_reducible apply Kept.ite
    | split
    | with_reducible refine Kept.mk_congr ?_ rfl rfl rfl rfl rfl rfl

theorem applyOrder_keeps {s : State} (h : Kept s₀ s) (r : OrderRecord) (aseq : Nat) (b : Nat) :
    Kept s₀ (applyOrder s r aseq b) := by
  unfold applyOrder
  repeat' first
    | with_reducible assumption
    | ((fail_if_no_progress first | extract_lets +onlyGivenNames z | fail); refine (have hz : Kept s₀ z := ?_; ?_); rotate_left; clear_value z)
    | (fail_if_no_progress first | extract_lets +onlyGivenNames z | fail)
    | with_reducible apply Kept.ite
    | with_reducible apply raiseF_keeps
    | with_reducible apply setWard_keeps
    | with_reducible apply modWard_keeps
    | with_reducible apply freeExtent_keeps
    | with_reducible apply toFailed_keeps
    | with_reducible apply applyAdmit_keeps
    | with_reducible apply applyCommand_keeps
    | with_reducible apply countRecord_keeps
    | with_reducible apply clearCount_keeps
    | with_reducible apply applyExpire_keeps
    | with_reducible apply applyKdrain_keeps
    | with_reducible apply applyAdapterReady_keeps
    | with_reducible apply placeStart_keeps
    | (refine Kept.of_pair1 (by assumption) ?_)
    | split
    | (fail_if_no_progress first | with_reducible refine Kept.mk_congr ?_ rfl rfl rfl rfl rfl rfl | fail)

theorem applyRecs_keeps {s : State} (h : Kept s₀ s) (b : Nat) (rs : List OrderRecord) (aseq : Nat) :
    Kept s₀ (applyRecs b rs aseq s) := by
  induction rs generalizing s aseq with
  | nil => exact h
  | cons r rs ih => exact ih (applyOrder_keeps h _ _ _) _

theorem applyBatch_keeps {s : State} (h : Kept s₀ s) (x : Batch) (b : Nat) : Kept s₀ (applyBatch s x b) := by
  unfold applyBatch
  repeat' first
    | with_reducible assumption
    | with_reducible apply Kept.ite
    | with_reducible apply setF_keeps
    | with_reducible apply applyRecs_keeps
    | split
    | with_reducible refine Kept.mk_congr ?_ rfl rfl rfl rfl rfl rfl

theorem applyDue_keeps {s : State} (h : Kept s₀ s) (b n : Nat) : Kept s₀ (applyDue b n s) := by
  induction n generalizing s with
  | zero => exact h
  | succ n ih =>
    unfold applyDue
    split
    · exact h
    · split
      · exact ih (applyBatch_keeps h _ _)
      · exact h

theorem copyEntry_keeps {s : State} (h : Kept s₀ s) (w : Nat) (e : WardEntry) (d : Delivery) (q : Nat) :
    Kept s₀ (copyEntry s w e d q) := by
  unfold copyEntry
  repeat' first
    | with_reducible assumption
    | ((fail_if_no_progress first | extract_lets +onlyGivenNames z | fail); refine (have hz : Kept s₀ z := ?_; ?_); rotate_left; clear_value z)
    | (fail_if_no_progress first | extract_lets +onlyGivenNames z | fail)
    | with_reducible apply Kept.ite
    | with_reducible apply state_emit_keeps
    | with_reducible apply rdmaPut_keeps
    | with_reducible apply bezelRead_keeps
    | split

theorem execKeyringCopyOut_keeps {s : State} (h : Kept s₀ s) (ward : Fin 65536) :
    OutKept s₀ (execKeyringCopyOut ward s) := by
  unfold execKeyringCopyOut
  repeat' first
    | with_reducible assumption
    | ((fail_if_no_progress first | extract_lets +onlyGivenNames z | fail); refine (have hz : Kept s₀ z := ?_; ?_); rotate_left; clear_value z)
    | (fail_if_no_progress first | extract_lets +onlyGivenNames z | fail)
    | with_reducible apply OutKept.next
    | with_reducible apply Kept.ite
    | with_reducible apply setDeliv_keeps
    | with_reducible apply copyEntry_keeps
    | with_reducible refine Kept.foldl (fun _ _ _ => ?_) ?_
    | with_reducible refine Kept.foldl_snd (fun _ _ _ => ?_) ?_
    | with_reducible refine Kept.foldl_snd2 (fun _ _ _ => ?_) ?_
    | with_reducible refine Kept.foldl_fst (fun _ _ _ => ?_) ?_
    | split
    | (fail_if_no_progress first | with_reducible refine Kept.mk_congr ?_ rfl rfl rfl rfl rfl rfl | fail)

theorem execKeyringWriteComplete_keeps {s : State} (h : Kept s₀ s) (ward : Fin 65536) (seq : Nat) (good : Bool) :
    OutKept s₀ (execKeyringWriteComplete ward seq good s) := by
  unfold execKeyringWriteComplete
  try refine OutKept.next ?_
  repeat' first
    | with_reducible assumption
    | with_reducible apply Kept.ite
    | with_reducible apply deliveryFailure_keeps
    | with_reducible apply setDeliv_keeps
    | with_reducible apply countTenant_keeps
    | with_reducible apply releaseIfDelivered_keeps
    | with_reducible refine OutKept.next ?_
    | split
    | with_reducible refine Kept.mk_congr ?_ rfl rfl rfl rfl rfl rfl
    | dsimp only

theorem execKeyringAck_keeps {s : State} (h : Kept s₀ s) (origin : Origin) (value : Word) :
    OutKept s₀ (execKeyringAck origin value s) := by
  unfold execKeyringAck
  repeat' first
    | with_reducible assumption
    | ((fail_if_no_progress first | extract_lets +onlyGivenNames z | fail); refine (have hz : Kept s₀ z := ?_; ?_); rotate_left; clear_value z)
    | (fail_if_no_progress first | extract_lets +onlyGivenNames z | fail)
    | with_reducible apply OutKept.next
    | with_reducible apply Kept.ite
    | with_reducible apply setF_keeps
    | with_reducible apply raiseF_keeps
    | with_reducible apply setDeliv_keeps
    | with_reducible apply releaseIfDelivered_keeps
    | with_reducible apply countTenant_keeps
    | split
    | (fail_if_no_progress first | with_reducible refine Kept.mk_congr ?_ rfl rfl rfl rfl rfl rfl | fail)

theorem execKdrainSend_keeps {s : State} (h : Kept s₀ s) : OutKept s₀ (execKdrainSend s) := by
  unfold execKdrainSend
  try refine OutKept.next ?_
  repeat' first
    | with_reducible assumption
    | with_reducible apply Kept.ite
    | with_reducible apply sendRecord_keeps
    | with_reducible refine OutKept.next ?_
    | split
    | with_reducible refine Kept.mk_congr ?_ rfl rfl rfl rfl rfl rfl
    | dsimp only

theorem wrdEntSel_keeps {s : State} (h : Kept s₀ s) (ward : Nat) : Kept s₀ (wrdEntSel s ward) := by
  unfold wrdEntSel
  repeat' first
    | with_reducible assumption
    | with_reducible apply Kept.ite
    | with_reducible apply setF_keeps
    | split
    | with_reducible refine Kept.mk_congr ?_ rfl rfl rfl rfl rfl rfl

theorem execWrdEntSelWrite_keeps {s : State} (h : Kept s₀ s) (fn : Fin 64) (ward : Fin 65536) :
    OutKept s₀ (execWrdEntSelWrite fn ward s) := by
  unfold execWrdEntSelWrite
  try refine OutKept.next ?_
  repeat' first
    | with_reducible assumption
    | with_reducible apply Kept.ite
    | with_reducible refine pfWrite_keeps ?_ _ _ _ (fun _ _ => ?_)
    | with_reducible apply wrdEntSel_keeps

theorem copyWardEntry_keeps {s : State} (h : Kept s₀ s) : Kept s₀ (copyWardEntry s) := by
  unfold copyWardEntry
  repeat' first
    | with_reducible assumption
    | with_reducible apply Kept.ite
    | with_reducible apply raiseF_keeps
    | split
    | with_reducible refine Kept.mk_congr ?_ rfl rfl rfl rfl rfl rfl

theorem deliverTokens_keeps {s : State} (h : Kept s₀ s) (w : Nat) (n : Nat) :
    Kept s₀ (deliverTokens s w n) := by
  unfold deliverTokens
  repeat' first
    | with_reducible assumption
    | ((fail_if_no_progress first | extract_lets +onlyGivenNames z | fail); refine (have hz : Kept s₀ z := ?_; ?_); rotate_left; clear_value z)
    | (fail_if_no_progress first | extract_lets +onlyGivenNames z | fail)
    | with_reducible apply Kept.ite
    | with_reducible apply setWard_keeps
    | with_reducible apply modInfo_keeps
    | with_reducible apply transcriptPut_keeps
    | with_reducible apply noteWritten_keeps
    | split
    | (fail_if_no_progress first | with_reducible refine Kept.mk_congr ?_ rfl rfl rfl rfl rfl rfl | fail)

theorem applyResult_keeps {s : State} (h : Kept s₀ s) (d : Decision) (r : StepResult) :
    Kept s₀ (applyResult s d r) := by
  unfold applyResult
  repeat' first
    | with_reducible assumption
    | ((fail_if_no_progress first | extract_lets +onlyGivenNames z | fail); refine (have hz : Kept s₀ z := ?_; ?_); rotate_left; clear_value z)
    | (fail_if_no_progress first | extract_lets +onlyGivenNames z | fail)
    | with_reducible apply Kept.ite
    | with_reducible apply setWard_keeps
    | with_reducible apply releaseAbove_keeps
    | with_reducible apply deliverTokens_keeps
    | split
    | (fail_if_no_progress first | with_reducible refine Kept.mk_congr ?_ rfl rfl rfl rfl rfl rfl | fail)

theorem endResult_keeps {s : State} (h : Kept s₀ s) (b : Nat) (d : Decision) (r : StepResult) :
    Kept s₀ (endResult s b d r) := by
  unfold endResult
  repeat' first
    | with_reducible assumption
    | ((fail_if_no_progress first | extract_lets +onlyGivenNames z | fail); refine (have hz : Kept s₀ z := ?_; ?_); rotate_left; clear_value z)
    | (fail_if_no_progress first | extract_lets +onlyGivenNames z | fail)
    | with_reducible apply Kept.ite
    | with_reducible apply modDeliv_keeps
    | with_reducible apply toDone_keeps
    | with_reducible apply toPaused_keeps
    | split
    | (fail_if_no_progress first | with_reducible refine Kept.mk_congr ?_ rfl rfl rfl rfl rfl rfl | fail)

theorem failResult_keeps {s : State} (h : Kept s₀ s) (d : Decision) (r : StepResult) :
    Kept s₀ (failResult s d r) := by
  unfold failResult
  repeat' first
    | with_reducible assumption
    | ((fail_if_no_progress first | extract_lets +onlyGivenNames z | fail); refine (have hz : Kept s₀ z := ?_; ?_); rotate_left; clear_value z)
    | (fail_if_no_progress first | extract_lets +onlyGivenNames z | fail)
    | with_reducible apply Kept.ite
    | with_reducible apply errorEntry_keeps
    | with_reducible apply releaseIfDelivered_keeps
    | with_reducible apply deliverTokens_keeps
    | split
    | (fail_if_no_progress first | with_reducible refine Kept.mk_congr ?_ rfl rfl rfl rfl rfl rfl | fail)

theorem publishStep_keeps {s : State} (h : Kept s₀ s) (l : Lane) :
    Kept s₀ (publishStep s l) := by
  unfold publishStep
  repeat' first
    | with_reducible assumption
    | ((fail_if_no_progress first | extract_lets +onlyGivenNames z | fail); refine (have hz : Kept s₀ z := ?_; ?_); rotate_left; clear_value z)
    | (fail_if_no_progress first | extract_lets +onlyGivenNames z | fail)
    | with_reducible apply Kept.ite
    | with_reducible apply refreshWard_keeps
    | with_reducible apply insertWard_keeps
    | with_reducible refine Kept.foldl (fun _ _ _ => ?_) ?_
    | with_reducible refine Kept.foldl_snd (fun _ _ _ => ?_) ?_
    | with_reducible refine Kept.foldl_snd2 (fun _ _ _ => ?_) ?_
    | with_reducible refine Kept.foldl_fst (fun _ _ _ => ?_) ?_
    | split
    | (fail_if_no_progress first | with_reducible refine Kept.mk_congr ?_ rfl rfl rfl rfl rfl rfl | fail)

theorem applyMatch_keeps {s : State} (h : Kept s₀ s) (x : Nat × Nat × Nat) :
    Kept s₀ (applyMatch s x) := by
  unfold applyMatch
  repeat' first
    | with_reducible assumption
    | ((fail_if_no_progress first | extract_lets +onlyGivenNames z | fail); refine (have hz : Kept s₀ z := ?_; ?_); rotate_left; clear_value z)
    | (fail_if_no_progress first | extract_lets +onlyGivenNames z | fail)
    | with_reducible apply Kept.ite
    | with_reducible apply modWard_keeps
    | with_reducible apply modInfo_keeps
    | with_reducible apply noteAbsent_keeps
    | split
    | (fail_if_no_progress first | with_reducible refine Kept.mk_congr ?_ rfl rfl rfl rfl rfl rfl | fail)

theorem phaseResults_keeps {s : State} (h : Kept s₀ s) (lane : Nat) (b : Nat) : Kept s₀ (phaseResults s lane b) := by
  unfold phaseResults
  extract_lets +onlyGivenNames l s1
  have h1 : Kept s₀ s1 := Kept.foldl (fun t d h => by
    split
    · exact applyResult_keeps h _ _
    · exact Kept.ite (applyResult_keeps h _ _) h) h
  clear_value s1
  extract_lets +onlyGivenNames s2 s3 s4 s5 s6
  have h2 : Kept s₀ s2 := Kept.foldl (fun t d h => noteAbsent_keeps h _ _) h1
  have h4 : Kept s₀ s4 := Kept.foldl (fun t d h => failResult_keeps h _ _) (publishStep_keeps h2 _)
  clear_value s4
  have h5 : Kept s₀ s5 := Kept.foldl (fun t d h => by
    cases l.resultOf d with
    | none => exact h
    | some r => exact endResult_keeps h _ _ _) h4
  have h6 : Kept s₀ s6 := Kept.foldl (fun t d h => applyMatch_keeps h _) h5
  clear_value s6
  exact setLane_keeps (Kept.mk_congr h6 rfl rfl rfl rfl rfl rfl) _ _

theorem digestCheck_keeps {s : State} (h : Kept s₀ s) (lane : Nat) : Kept s₀ (digestCheck s lane) := by
  unfold digestCheck
  repeat' first
    | with_reducible assumption
    | with_reducible apply Kept.ite
    | with_reducible apply setF_keeps
    | with_reducible apply raiseF_keeps
    | with_reducible apply postPF_keeps
    | with_reducible apply declareFault_keeps
    | split
    | dsimp only

theorem admittedStep_keeps {s : State} (h : Kept s₀ s) (w : Nat) :
    Kept s₀ (admittedStep s w) := by
  unfold admittedStep
  repeat' first
    | with_reducible assumption
    | ((fail_if_no_progress first | extract_lets +onlyGivenNames z | fail); refine (have hz : Kept s₀ z := ?_; ?_); rotate_left; clear_value z)
    | (fail_if_no_progress first | extract_lets +onlyGivenNames z | fail)
    | with_reducible apply Kept.ite
    | with_reducible apply setWard_keeps
    | with_reducible apply modInfo_keeps
    | with_reducible apply sendFail_keeps
    | with_reducible apply loadSlot_keeps
    | split
    | (fail_if_no_progress first | with_reducible refine Kept.mk_congr ?_ rfl rfl rfl rfl rfl rfl | fail)

theorem heldReturn_keeps {s : State} (h : Kept s₀ s) : Kept s₀ (heldReturn s) := by
  unfold heldReturn
  repeat' first
    | with_reducible assumption
    | with_reducible apply Kept.ite
    | with_reducible apply modWard_keeps
    | with_reducible refine Kept.foldl (fun _ _ _ => ?_) ?_

theorem elapsedExpiry_keeps {s : State} (h : Kept s₀ s) (b : Nat) : Kept s₀ (elapsedExpiry s b).2 := by
  unfold elapsedExpiry
  repeat' first
    | with_reducible assumption
    | with_reducible apply Kept.ite
    | with_reducible apply expireEntry_keeps
    | with_reducible apply Kept.ite_snd
    | with_reducible refine Kept.foldl (fun _ _ _ => ?_) ?_
    | with_reducible refine Kept.foldl_snd (fun _ _ _ => ?_) ?_

theorem reservePages_keeps {s : State} (h : Kept s₀ s) (step : Nat) (w : Nat) (pages : Nat) :
    Kept s₀ (reservePages s step w pages) := by
  unfold reservePages
  repeat' first
    | with_reducible assumption
    | with_reducible apply Kept.ite
    | split
    | (fail_if_no_progress first | with_reducible refine Kept.mk_congr ?_ rfl rfl rfl rfl rfl rfl | fail)
    | dsimp only

theorem spilledResume_keeps {s : State} (h : Kept s₀ s) (step : Nat) : Kept s₀ (spilledResume s step).2 := by
  unfold spilledResume
  dsimp only
  generalize sortBy _ _ = l
  cases l with
  | nil => exact h
  | cons p l =>
    dsimp only
    refine Kept.ite_snd h ?_
    exact beginRestore_keeps (setWard_keeps (reservePages_keeps h _ _ _) _ _) _

theorem requestEvent_keeps {s : State} (h : Kept s₀ s) (w code cause : Nat) :
    Kept s₀ (requestEvent s w code cause) := by
  unfold requestEvent
  repeat' first
    | with_reducible assumption
    | with_reducible apply Kept.ite
    | with_reducible apply postOrigin_keeps

theorem deadlineTests_keeps {s : State} (h : Kept s₀ s) (b : Nat) (proposed : List (Nat × Nat)) :
    Kept s₀ (deadlineTests s b proposed) := by
  unfold deadlineTests
  repeat' first
    | with_reducible assumption
    | ((fail_if_no_progress first | extract_lets +onlyGivenNames z | fail); refine (have hz : Kept s₀ z := ?_; ?_); rotate_left; clear_value z)
    | (fail_if_no_progress first | extract_lets +onlyGivenNames z | fail)
    | with_reducible apply Kept.ite
    | with_reducible apply modWard_keeps
    | with_reducible apply countTenant_keeps
    | with_reducible apply requestEvent_keeps
    | with_reducible refine Kept.foldl (fun _ _ _ => ?_) ?_
    | with_reducible refine Kept.foldl_snd (fun _ _ _ => ?_) ?_
    | with_reducible refine Kept.foldl_snd2 (fun _ _ _ => ?_) ?_
    | with_reducible refine Kept.foldl_fst (fun _ _ _ => ?_) ?_
    | split
    | (fail_if_no_progress first | with_reducible refine Kept.mk_congr ?_ rfl rfl rfl rfl rfl rfl | fail)

theorem tryTake_keeps {a : Forming × State} (h : Kept s₀ a.2) (step : Nat) (p1 : Bool) (c : Cand) :
    Kept s₀ (tryTake step p1 a c).2 := by
  unfold tryTake
  repeat' first
    | with_reducible assumption
    | ((fail_if_no_progress first | extract_lets +onlyGivenNames z | fail); refine (have hz : Kept s₀ z := ?_; ?_); rotate_left; clear_value z)
    | (fail_if_no_progress first | extract_lets +onlyGivenNames z | fail)
    | with_reducible apply Kept.ite
    | with_reducible apply setWard_keeps
    | with_reducible apply modInfo_keeps
    | with_reducible apply flow_part_keeps
    | with_reducible apply clearCount_keeps
    | with_reducible apply reservePages_keeps
    | (refine Kept.of_pair1 (by assumption) ?_)
    | with_reducible apply Kept.ite_snd
    | split
    | (fail_if_no_progress first | with_reducible refine Kept.mk_congr ?_ rfl rfl rfl rfl rfl rfl | fail)

theorem threePasses_keeps {s : State} (h : Kept s₀ s) (lane : Nat) (step : Nat) (b : Nat) (cs : List Cand) :
    Kept s₀ (threePasses s lane step b cs).2 := by
  unfold threePasses
  repeat' first
    | with_reducible assumption
    | ((fail_if_no_progress first | extract_lets +onlyGivenNames z | fail); refine (have hz : Kept s₀ z := ?_; ?_); rotate_left; clear_value z)
    | (fail_if_no_progress first | extract_lets +onlyGivenNames z | fail)
    | with_reducible apply Kept.ite
    | with_reducible apply modInfo_keeps
    | with_reducible apply tryTake_keeps
    | (refine Kept.of_pair1 (by assumption) ?_)
    | with_reducible refine Kept.foldl (fun _ _ _ => ?_) ?_
    | with_reducible refine Kept.foldl_snd (fun _ _ _ => ?_) ?_
    | with_reducible refine Kept.foldl_snd2 (fun _ _ _ => ?_) ?_
    | with_reducible refine Kept.foldl_fst (fun _ _ _ => ?_) ?_
    | with_reducible apply Kept.ite_snd
    | split
    | (fail_if_no_progress first | with_reducible refine Kept.mk_congr ?_ rfl rfl rfl rfl rfl rfl | fail)

theorem listCands_keeps {s : State} (h : Kept s₀ s) (lane : Nat) (proposed : List (Nat × Nat)) :
    Kept s₀ (listCands s lane proposed).2 := by
  unfold listCands
  repeat' first
    | with_reducible assumption
    | ((fail_if_no_progress first | extract_lets +onlyGivenNames z | fail); refine (have hz : Kept s₀ z := ?_; ?_); rotate_left; clear_value z)
    | (fail_if_no_progress first | extract_lets +onlyGivenNames z | fail)
    | with_reducible apply Kept.ite
    | with_reducible apply setWard_keeps
    | with_reducible apply modInfo_keeps
    | with_reducible refine Kept.foldl (fun _ _ _ => ?_) ?_
    | with_reducible refine Kept.foldl_snd (fun _ _ _ => ?_) ?_
    | with_reducible refine Kept.foldl_snd2 (fun _ _ _ => ?_) ?_
    | with_reducible refine Kept.foldl_fst (fun _ _ _ => ?_) ?_
    | with_reducible apply Kept.ite_snd
    | split
    | (fail_if_no_progress first | with_reducible refine Kept.mk_congr ?_ rfl rfl rfl rfl rfl rfl | fail)

theorem spill_keeps {s : State} (h : Kept s₀ s) (w : Nat) (e : WardEntry) (pkg : Nat) :
    Kept s₀ (spill s w e pkg) := by
  unfold spill
  repeat' first
    | with_reducible assumption
    | ((fail_if_no_progress first | extract_lets +onlyGivenNames z | fail); refine (have hz : Kept s₀ z := ?_; ?_); rotate_left; clear_value z)
    | (fail_if_no_progress first | extract_lets +onlyGivenNames z | fail)
    | with_reducible apply Kept.ite
    | with_reducible apply raiseF_keeps
    | with_reducible apply postOrigin_keeps
    | with_reducible apply modWard_keeps
    | with_reducible apply modInfo_keeps
    | with_reducible apply beginPark_keeps
    | with_reducible apply toPaused_keeps
    | split
    | (fail_if_no_progress first | with_reducible refine Kept.mk_congr ?_ rfl rfl rfl rfl rfl rfl | fail)

theorem pagePressure_keeps {s : State} (h : Kept s₀ s) (f : Forming) : Kept s₀ (pagePressure s f).2 := by
  unfold pagePressure
  refine Kept.ite_snd h ?_
  extract_lets ps ps' go lowest
  refine Kept.ite_snd ?_ ?_
  · exact Kept.foldl (fun t p ht => beginPark_keeps (modInfo_keeps ht _ _) _) h
  · split
    · exact h
    · exact spill_keeps h _ _ _

theorem formStep_keeps {s : State} (h : Kept s₀ s) (lane : Nat) (b : Nat) (pre : List Decision) (proposed : List (Nat × Nat)) (disp : List (Nat × Nat × Nat)) :
    Kept s₀ (formStep s lane b pre proposed disp) := by
  unfold formStep
  repeat' first
    | with_reducible assumption
    | ((fail_if_no_progress first | extract_lets +onlyGivenNames z | fail); refine (have hz : Kept s₀ z := ?_; ?_); rotate_left; clear_value z)
    | (fail_if_no_progress first | extract_lets +onlyGivenNames z | fail)
    | with_reducible apply Kept.ite
    | with_reducible apply setReg_keeps
    | with_reducible apply modInfo_keeps
    | with_reducible apply setLane_keeps
    | with_reducible apply modEngine_keeps
    | with_reducible apply sealDue_keeps
    | with_reducible apply admittedStep_keeps
    | with_reducible apply heldReturn_keeps
    | with_reducible apply elapsedExpiry_keeps
    | with_reducible apply spilledResume_keeps
    | with_reducible apply deadlineTests_keeps
    | with_reducible apply threePasses_keeps
    | with_reducible apply listCands_keeps
    | with_reducible apply pagePressure_keeps
    | (refine Kept.of_pair1 (by assumption) ?_)
    | with_reducible refine Kept.foldl (fun _ _ _ => ?_) ?_
    | with_reducible refine Kept.foldl_snd (fun _ _ _ => ?_) ?_
    | with_reducible refine Kept.foldl_snd2 (fun _ _ _ => ?_) ?_
    | with_reducible refine Kept.foldl_fst (fun _ _ _ => ?_) ?_
    | split
    | (fail_if_no_progress first | with_reducible refine Kept.mk_congr ?_ rfl rfl rfl rfl rfl rfl | fail)

theorem refreshStage_keeps {s : State} (h : Kept s₀ s) : Kept s₀ (refreshStage s) := by
  unfold refreshStage
  repeat' first
    | with_reducible assumption
    | with_reducible apply Kept.ite
    | with_reducible apply setF_keeps
    | split

theorem offers_keeps {s : State} (h : Kept s₀ s) (src e : Nat) : Kept s₀ (offers s src e).2 := by
  unfold offers
  repeat' first
    | with_reducible assumption
    | with_reducible apply Kept.ite
    | with_reducible apply state_takeFree_keeps
    | (refine Kept.of_pair1 (by assumption) ?_)
    | with_reducible apply Kept.ite_snd

theorem pickSource_keeps {s : State} (h : Kept s₀ s) (e : Nat) (tried order : List Nat) :
    Kept s₀ (pickSource e tried order s).2 := by
  induction order generalizing s with
  | nil => exact h
  | cons src rest ih =>
    unfold pickSource
    split
    · exact ih h
    · dsimp only
      split
      · exact offers_keeps h _ _
      · exact ih (offers_keeps h _ _)

theorem sendHost_keeps {s : State} (h : Kept s₀ s) (f : Fetch) : Kept s₀ (sendHost s f).2 := by
  unfold sendHost
  repeat' first
    | with_reducible assumption
    | with_reducible apply Kept.ite
    | with_reducible apply state_takeFree_keeps
    | (refine Kept.of_pair1 (by assumption) ?_)
    | with_reducible apply state_emit_keeps
    | with_reducible apply msixRequest_keeps
    | with_reducible apply Kept.ite_snd
    | split
    | with_reducible refine Kept.mk_congr ?_ rfl rfl rfl rfl rfl rfl

theorem issueFetch_keeps {s : State} (h : Kept s₀ s) (f : Fetch) (first : Bool) : Kept s₀ (issueFetch s f first) := by
  unfold issueFetch
  repeat' first
    | with_reducible assumption
    | with_reducible apply Kept.ite
    | with_reducible apply sendHost_keeps
    | (refine Kept.of_pair1 (by assumption) ?_)
    | with_reducible apply state_takeFree_keeps
    | with_reducible apply state_emit_keeps
    | split
    | with_reducible refine Kept.mk_congr ?_ rfl rfl rfl rfl rfl rfl

theorem issueAll_keeps {s : State} (h : Kept s₀ s) (fs : List Fetch) (first : Bool) : Kept s₀ (issueAll fs first s) := by
  induction fs generalizing s first with
  | nil => exact h
  | cons f fs ih => exact ih (issueFetch_keeps h _ _) _

theorem refetchEvent_keeps {s : State} (h : Kept s₀ s) (index cause : Nat) :
    Kept s₀ (refetchEvent s index cause) := by
  unfold refetchEvent
  repeat' first
    | with_reducible assumption
    | with_reducible apply Kept.ite
    | with_reducible apply count_keeps
    | with_reducible apply setF_keeps
    | with_reducible apply raiseF_keeps
    | with_reducible apply postPF_keeps

theorem dropDest_keeps {s : State} (h : Kept s₀ s) (dest : Nat) : Kept s₀ (dropDest s dest) := by
  unfold dropDest
  repeat' first
    | with_reducible assumption
    | with_reducible apply Kept.ite
    | split
    | with_reducible refine Kept.mk_congr ?_ rfl rfl rfl rfl rfl rfl

theorem hingeAbort_keeps {s : State} (h : Kept s₀ s) (cause : Nat) : Kept s₀ (hingeAbort s cause) := by
  unfold hingeAbort
  repeat' first
    | with_reducible assumption
    | with_reducible apply Kept.ite
    | with_reducible apply setF_keeps
    | with_reducible apply raiseF_keeps
    | with_reducible apply postPF_keeps
    | with_reducible apply dropDest_keeps

theorem adapterRefused_keeps {s : State} (h : Kept s₀ s) (n : Nat) : Kept s₀ (adapterRefused s n) := by
  unfold adapterRefused
  repeat' first
    | with_reducible assumption
    | with_reducible apply Kept.ite
    | with_reducible apply raiseF_keeps
    | with_reducible apply sendFail_keeps
    | with_reducible apply dropDest_keeps
    | with_reducible apply setSlot_keeps
    | with_reducible refine Kept.foldl (fun _ _ _ => ?_) ?_
    | with_reducible refine Kept.foldl_snd (fun _ _ _ => ?_) ?_
    | with_reducible refine Kept.foldl_snd2 (fun _ _ _ => ?_) ?_
    | with_reducible refine Kept.foldl_fst (fun _ _ _ => ?_) ?_
    | split
    | with_reducible refine Kept.mk_congr ?_ rfl rfl rfl rfl rfl rfl

theorem shardLost_keeps {s : State} (h : Kept s₀ s) (dest index : Nat) : Kept s₀ (shardLost s dest index) := by
  unfold shardLost
  repeat' first
    | with_reducible assumption
    | with_reducible apply Kept.ite
    | with_reducible apply declareFault_keeps
    | with_reducible apply stageFailed_keeps
    | with_reducible apply raiseF_keeps
    | with_reducible apply hingeAbort_keeps
    | with_reducible apply adapterRefused_keeps

theorem refetch_keeps {s : State} (h : Kept s₀ s) (dest index : Nat) (tried : List Nat) :
    Kept s₀ (refetch s dest index tried) := by
  unfold refetch
  repeat' first
    | with_reducible assumption
    | with_reducible apply Kept.ite
    | with_reducible apply pickSource_keeps
    | (refine Kept.of_pair1 (by assumption) ?_)
    | with_reducible apply issueFetch_keeps
    | with_reducible apply shardLost_keeps
    | split

theorem shardFailed_keeps {s : State} (h : Kept s₀ s) (f : Fetch) (cause : Nat) :
    Kept s₀ (shardFailed s f cause) := by
  unfold shardFailed
  repeat' first
    | with_reducible assumption
    | with_reducible apply Kept.ite
    | with_reducible apply refetch_keeps
    | with_reducible apply refetchEvent_keeps
    | split
    | with_reducible refine Kept.mk_congr ?_ rfl rfl rfl rfl rfl rfl

theorem reissue_keeps {s : State} (h : Kept s₀ s) (f : Fetch) : Kept s₀ (reissue s f) := by
  unfold reissue
  repeat' first
    | with_reducible assumption
    | with_reducible apply Kept.ite
    | with_reducible apply issueAll_keeps
    | split
    | with_reducible refine Kept.mk_congr ?_ rfl rfl rfl rfl rfl rfl

theorem planFetches_keeps {s : State} (h : Kept s₀ s) (m dest : Nat) (order todo : List Nat) :
    Kept s₀ (planFetches m dest order todo s).2.2 := by
  induction todo generalizing s with
  | nil => exact h
  | cons i is ih =>
    unfold planFetches
    dsimp only
    split
    · exact ih (pickSource_keeps h _ _ _)
    · exact ih (pickSource_keeps h _ _ _)

theorem beginLoad_keeps {s : State} (h : Kept s₀ s) (dest : Nat) (order : List Nat) :
    Kept s₀ (beginLoad s dest order) := by
  unfold beginLoad
  repeat' first
    | with_reducible assumption
    | with_reducible apply Kept.ite
    | with_reducible apply planFetches_keeps
    | (refine Kept.of_pair2 (by assumption) ?_)
    | with_reducible apply issueAll_keeps
    | with_reducible apply shardLost_keeps
    | with_reducible refine Kept.foldl (fun _ _ _ => ?_) ?_
    | with_reducible refine Kept.foldl_snd (fun _ _ _ => ?_) ?_
    | with_reducible refine Kept.foldl_snd2 (fun _ _ _ => ?_) ?_
    | with_reducible refine Kept.foldl_fst (fun _ _ _ => ?_) ?_
    | split
    | dsimp only

theorem sendWaiting_keeps {s : State} (h : Kept s₀ s) (fs : List Fetch) : Kept s₀ (sendWaiting fs s).2 := by
  induction fs generalizing s with
  | nil => exact h
  | cons f fs ih =>
    unfold sendWaiting
    dsimp only
    split
    · exact ih (sendHost_keeps h _)
    · exact ih h

theorem hostDoorbell_keeps {s : State} (h : Kept s₀ s) (index alive : Nat) :
    Kept s₀ (hostDoorbell s index alive) := by
  unfold hostDoorbell
  repeat' first
    | with_reducible assumption
    | with_reducible apply Kept.ite
    | with_reducible apply raiseF_keeps
    | with_reducible apply sendWaiting_keeps
    | (refine Kept.of_pair1 (by assumption) ?_)
    | split
    | with_reducible refine Kept.mk_congr ?_ rfl rfl rfl rfl rfl rfl

theorem execHingeHostDoorbell_keeps {s : State} (h : Kept s₀ s) (fn : Fin 64) (index : Fin 4294967296)
    (alive : Fin 65536) : OutKept s₀ (execHingeHostDoorbell fn index alive s) := by
  unfold execHingeHostDoorbell
  try refine OutKept.next ?_
  repeat' first
    | with_reducible assumption
    | with_reducible apply Kept.ite
    | with_reducible apply hostDoorbell_keeps

theorem shardVerified_keeps {s : State} (h : Kept s₀ s) (f : Fetch) (e : Nat) (payload : List Byte) :
    Kept s₀ (shardVerified s f e payload) := by
  unfold shardVerified
  repeat' first
    | with_reducible assumption
    | with_reducible apply Kept.ite
    | with_reducible apply count_keeps
    | with_reducible apply hbmStoreBytes_keeps
    | with_reducible apply refreshStage_keeps
    | split
    | with_reducible refine Kept.mk_congr ?_ rfl rfl rfl rfl rfl rfl

theorem execShardDelivery_keeps {s : State} (h : Kept s₀ s) (dest : Fin 8194) (source : Fin 3)
    (index : Fin 4294967296) (alive : Fin 65536) (crc : Word) (payload : List Byte) :
    OutKept s₀ (execShardDelivery dest source index alive crc payload s) := by
  unfold execShardDelivery
  try refine OutKept.next ?_
  repeat' first
    | with_reducible assumption
    | with_reducible apply Kept.ite
    | with_reducible apply shardFailed_keeps
    | with_reducible apply reissue_keeps
    | with_reducible apply shardVerified_keeps
    | with_reducible refine OutKept.next ?_
    | split
    | with_reducible refine Kept.mk_congr ?_ rfl rfl rfl rfl rfl rfl

theorem execShardTimeout_keeps {s : State} (h : Kept s₀ s) (dest : Fin 8194) (source : Fin 3) :
    OutKept s₀ (execShardTimeout dest source s) := by
  unfold execShardTimeout
  try refine OutKept.next ?_
  repeat' first
    | with_reducible assumption
    | with_reducible apply Kept.ite
    | with_reducible apply shardFailed_keeps
    | with_reducible refine OutKept.next ?_
    | split

theorem execFlashReadComplete_keeps {s : State} (h : Kept s₀ s) (granule : Fin 4294967294) (level : Fin 9) (good : Bool) (use : FlashUse) :
    OutKept s₀ (execFlashReadComplete granule level good use s) := by
  unfold execFlashReadComplete
  repeat' first
    | with_reducible assumption
    | with_reducible apply OutKept.next
    | with_reducible apply Kept.ite
    | with_reducible apply raiseF_keeps
    | with_reducible apply count_keeps
    | with_reducible apply setBlock_keeps
    | with_reducible apply flashError_keeps
    | with_reducible apply scheduleReloc_keeps
    | with_reducible apply expireOwn_keeps
    | with_reducible apply regionReadLost_keeps
    | with_reducible apply shardFailed_keeps
    | split
    | (fail_if_no_progress first | with_reducible refine Kept.mk_congr ?_ rfl rfl rfl rfl rfl rfl | fail)
    | dsimp only

theorem beginStaging_keeps {s : State} (h : Kept s₀ s) (m : Nat) : Kept s₀ (beginStaging s m) := by
  unfold beginStaging
  repeat' first
    | with_reducible assumption
    | with_reducible apply Kept.ite
    | with_reducible apply dropDest_keeps
    | with_reducible apply setF_keeps
    | with_reducible apply refreshStage_keeps
    | with_reducible apply beginLoad_keeps

theorem sendPassed_keeps {s : State} (h : Kept s₀ s) : Kept s₀ (sendPassed s) := by
  unfold sendPassed
  repeat' first
    | with_reducible assumption
    | with_reducible apply Kept.ite
    | with_reducible apply sendAll_keeps
    | with_reducible refine Kept.foldl (fun _ _ _ => ?_) ?_
    | with_reducible refine Kept.foldl_snd (fun _ _ _ => ?_) ?_
    | with_reducible refine Kept.foldl_snd2 (fun _ _ _ => ?_) ?_
    | with_reducible refine Kept.foldl_fst (fun _ _ _ => ?_) ?_
    | split
    | with_reducible refine Kept.mk_congr ?_ rfl rfl rfl rfl rfl rfl

theorem refreshWave_keeps {s : State} (h : Kept s₀ s) : Kept s₀ (refreshWave s) := by
  unfold refreshWave
  repeat' first
    | with_reducible assumption
    | with_reducible apply Kept.ite
    | with_reducible apply setF_keeps

theorem execHingePassed_keeps {s : State} (h : Kept s₀ s) (pkg : Fin 65536) (layer : Fin 256) :
    OutKept s₀ (execHingePassed pkg layer s) := by
  unfold execHingePassed
  try refine OutKept.next ?_
  repeat' first
    | with_reducible assumption
    | with_reducible apply Kept.ite
    | with_reducible apply sendPassed_keeps
    | with_reducible apply refreshWave_keeps
    | with_reducible refine OutKept.next ?_
    | split
    | with_reducible refine Kept.mk_congr ?_ rfl rfl rfl rfl rfl rfl

theorem execHingeCommitted_keeps {s : State} (h : Kept s₀ s) (pkg : Fin 65536) (layer : Fin 256) :
    OutKept s₀ (execHingeCommitted pkg layer s) := by
  unfold execHingeCommitted
  try refine OutKept.next ?_
  repeat' first
    | with_reducible assumption
    | with_reducible apply Kept.ite
    | with_reducible apply refreshWave_keeps
    | with_reducible apply sendPassed_keeps
    | with_reducible refine OutKept.next ?_
    | split
    | with_reducible refine Kept.mk_congr ?_ rfl rfl rfl rfl rfl rfl

theorem copyLayer_keeps {s : State} (h : Kept s₀ s) (m k : Nat) : Kept s₀ (copyLayer s m k) := by
  unfold copyLayer
  repeat' first
    | with_reducible assumption
    | with_reducible apply Kept.ite
    | with_reducible apply hbmCopy_keeps
    | with_reducible refine Kept.foldl (fun _ _ _ => ?_) ?_
    | with_reducible refine Kept.foldl_snd (fun _ _ _ => ?_) ?_
    | with_reducible refine Kept.foldl_snd2 (fun _ _ _ => ?_) ?_
    | with_reducible refine Kept.foldl_fst (fun _ _ _ => ?_) ?_
    | split

theorem swapComplete_keeps {s : State} (h : Kept s₀ s) (m : Nat) : Kept s₀ (swapComplete s m) := by
  unfold swapComplete
  repeat' first
    | with_reducible assumption
    | with_reducible apply Kept.ite
    | with_reducible apply dropDest_keeps
    | with_reducible apply setF_keeps
    | with_reducible refine Kept.foldl (fun _ _ _ => ?_) ?_
    | with_reducible refine Kept.foldl_snd (fun _ _ _ => ?_) ?_
    | with_reducible refine Kept.foldl_snd2 (fun _ _ _ => ?_) ?_
    | with_reducible refine Kept.foldl_fst (fun _ _ _ => ?_) ?_
    | split
    | with_reducible refine Kept.mk_congr ?_ rfl rfl rfl rfl rfl rfl

theorem commitOne_keeps {s : State} (h : Kept s₀ s) (m k : Nat) : Kept s₀ (commitOne s m k) := by
  unfold commitOne
  repeat' first
    | with_reducible assumption
    | with_reducible apply Kept.ite
    | with_reducible apply count_keeps
    | with_reducible apply copyLayer_keeps
    | with_reducible apply setF_keeps
    | with_reducible apply sendAll_keeps
    | with_reducible apply swapComplete_keeps

theorem execLayerCommitComplete_keeps {s : State} (h : Kept s₀ s) (layer : Fin 256) :
    OutKept s₀ (execLayerCommitComplete layer s) := by
  unfold execLayerCommitComplete
  try refine OutKept.next ?_
  repeat' first
    | with_reducible assumption
    | with_reducible apply Kept.ite
    | with_reducible apply sendPassed_keeps
    | with_reducible apply commitOne_keeps
    | with_reducible refine OutKept.next ?_
    | split

theorem finishWave_keeps {s : State} (h : Kept s₀ s) : Kept s₀ (finishWave s) := by
  unfold finishWave
  repeat' first
    | with_reducible assumption
    | with_reducible apply Kept.ite
    | with_reducible apply commitOne_keeps
    | with_reducible refine Kept.foldl (fun _ _ _ => ?_) ?_
    | with_reducible refine Kept.foldl_snd (fun _ _ _ => ?_) ?_
    | with_reducible refine Kept.foldl_snd2 (fun _ _ _ => ?_) ?_
    | with_reducible refine Kept.foldl_fst (fun _ _ _ => ?_) ?_
    | split

theorem execAdapterLoadComplete_keeps {s : State} (h : Kept s₀ s) (slot : Fin 8192) (manifest : Option Nat) :
    OutKept s₀ (execAdapterLoadComplete slot manifest s) := by
  unfold execAdapterLoadComplete
  try refine OutKept.next ?_
  repeat' first
    | with_reducible assumption
    | with_reducible apply Kept.ite
    | with_reducible apply count_keeps
    | with_reducible apply adapterRefused_keeps
    | with_reducible apply setSlot_keeps
    | with_reducible apply beginLoad_keeps
    | with_reducible apply sendRecord_keeps
    | with_reducible refine OutKept.next ?_
    | split
    | with_reducible refine Kept.mk_congr ?_ rfl rfl rfl rfl rfl rfl

theorem setScan_keeps {s : State} (h : Kept s₀ s) (n : Nat) (x : Scan) : Kept s₀ (setScan s n x) := by
  unfold setScan
  repeat' first
    | with_reducible assumption
    | with_reducible apply Kept.ite
    | split
    | with_reducible refine Kept.mk_congr ?_ rfl rfl rfl rfl rfl rfl

theorem endScan_keeps {s : State} (h : Kept s₀ s) (n status progress result : Nat) (isMatch : Bool) :
    Kept s₀ (endScan s n status progress result isMatch) := by
  unfold endScan
  repeat' first
    | with_reducible assumption
    | with_reducible apply Kept.ite
    | with_reducible apply setF_keeps
    | split
    | with_reducible refine Kept.mk_congr ?_ rfl rfl rfl rfl rfl rfl

theorem startScan_keeps {s : State} (h : Kept s₀ s) (n : Nat) (x : Scan) : Kept s₀ (startScan s n x) := by
  unfold startScan
  repeat' first
    | with_reducible assumption
    | with_reducible apply Kept.ite
    | with_reducible apply setF_keeps
    | with_reducible apply resetReg_keeps
    | with_reducible apply endScan_keeps
    | with_reducible apply setScan_keeps

theorem aliveCheck_keeps {s : State} (h : Kept s₀ s) (n : Nat) (x : Scan) (bs : List Byte) :
    Kept s₀ (aliveCheck s n x bs) := by
  unfold aliveCheck
  repeat' first
    | with_reducible assumption
    | with_reducible apply Kept.ite
    | with_reducible apply setReg_keeps
    | with_reducible apply setF_keeps
    | with_reducible apply raiseF_keeps
    | split
    | dsimp only

theorem advanceScan_keeps {s : State} (h : Kept s₀ s) (n : Nat) (x : Scan) : Kept s₀ (advanceScan s n x) := by
  unfold advanceScan
  exact setF_keeps (state_takeFree_keeps h) _ _

theorem lookScan_keeps {s : State} (h : Kept s₀ s) (n : Nat) : Kept s₀ (lookScan s n) := by
  unfold lookScan
  split
  · exact Kept.ite (advanceScan_keeps h _ _) h
  · exact h

theorem cutScan_keeps {s : State} (h : Kept s₀ s) (n status : Nat) (x : Scan) : Kept s₀ (cutScan s n status x) := by
  unfold cutScan
  exact endScan_keeps (aliveCheck_keeps (advanceScan_keeps h _ _) _ _ _) _ _ _ _ _

theorem asyCtlWrite_keeps {s : State} (h : Kept s₀ s) (fn n : Nat) (v : Word) : Kept s₀ (asyCtlWrite s fn n v) := by
  unfold asyCtlWrite
  repeat' first
    | with_reducible assumption
    | with_reducible apply Kept.ite
    | with_reducible refine pfWrite_keeps ?_ _ _ _ (fun _ _ => ?_)
    | with_reducible apply raiseF_keeps
    | with_reducible apply cutScan_keeps
    | with_reducible apply setReg_keeps
    | with_reducible apply startScan_keeps
    | split

theorem execAssayGo_keeps {s : State} (h : Kept s₀ s) (fn : Fin 64) (engine : Fin 32) (ctl : Word) :
    OutKept s₀ (execAssayGo fn engine ctl s) := by
  unfold execAssayGo
  try refine OutKept.next ?_
  repeat' first
    | with_reducible assumption
    | with_reducible apply Kept.ite
    | with_reducible apply asyCtlWrite_keeps

theorem execAssayAbort_keeps {s : State} (h : Kept s₀ s) (fn : Fin 64) (engine : Fin 32) (ctl : Word) :
    OutKept s₀ (execAssayAbort fn engine ctl s) := by
  unfold execAssayAbort
  try refine OutKept.next ?_
  repeat' first
    | with_reducible assumption
    | with_reducible apply Kept.ite
    | with_reducible apply asyCtlWrite_keeps

theorem loaderGive_keeps {s : State} (h : Kept s₀ s) (ns : List Nat) : Kept s₀ (loaderGive ns s) := by
  induction ns generalizing s with
  | nil => exact h
  | cons n ns ih =>
    unfold loaderGive
    split
    · exact ih h
    · split
      · exact h
      · dsimp only
        split
        · exact ih (by exact Kept.mk_congr h rfl rfl rfl rfl rfl rfl)
        · split
          · exact ih (by exact Kept.mk_congr h rfl rfl rfl rfl rfl rfl)
          · exact ih (setScan_keeps (by exact Kept.mk_congr h rfl rfl rfl rfl rfl rfl) _ _)

theorem loaderReturn_keeps {s : State} (h : Kept s₀ s) : Kept s₀ (loaderReturn s) := by
  unfold loaderReturn
  repeat' first
    | with_reducible assumption
    | with_reducible apply Kept.ite
    | with_reducible apply setF_keeps
    | with_reducible refine Kept.foldl (fun _ _ _ => ?_) ?_
    | with_reducible refine Kept.foldl_snd (fun _ _ _ => ?_) ?_
    | with_reducible refine Kept.foldl_snd2 (fun _ _ _ => ?_) ?_
    | with_reducible refine Kept.foldl_fst (fun _ _ _ => ?_) ?_
    | split
    | with_reducible refine Kept.mk_congr ?_ rfl rfl rfl rfl rfl rfl

theorem loaderTake_keeps {s : State} (h : Kept s₀ s) : Kept s₀ (loaderTake s) := by
  unfold loaderTake
  refine loaderReturn_keeps (loaderGive_keeps ?_ _)
  refine Kept.mk_congr (dropDest_keeps (setF_keeps (Kept.foldl (fun s n h => setF_keeps ?_ _ _) h) _ _) _)
    rfl rfl rfl rfl rfl rfl
  split
  · exact cutScan_keeps h _ _ _
  · exact h

theorem reportRead_keeps {s : State} (h : Kept s₀ s) (read : ScanRead) : Kept s₀ (reportRead s read) := by
  cases read
  · exact h
  · exact hbmUncorrectable_keeps h _

theorem judgeShard_keeps {s : State} (h : Kept s₀ s) (i : Nat) (x : Scan) (read : ScanRead) :
    Kept s₀ (judgeShard s i x read) := by
  unfold judgeShard
  repeat' first
    | with_reducible assumption
    | with_reducible apply Kept.ite
    | with_reducible apply refetch_keeps
    | with_reducible apply refetchEvent_keeps
    | with_reducible refine Kept.mk_congr ?_ rfl rfl rfl rfl rfl rfl

theorem loaderScanEnd_keeps {s : State} (h : Kept s₀ s) (n i : Nat) (x : Scan) : Kept s₀ (loaderScanEnd s n i x) := by
  unfold loaderScanEnd
  refine loaderReturn_keeps (loaderGive_keeps (judgeShard_keeps (reportRead_keeps ?_ _) _ _ _) _)
  exact Kept.mk_congr h rfl rfl rfl rfl rfl rfl

theorem softScanEnd_keeps {s : State} (h : Kept s₀ s) (n : Nat) (x : Scan) : Kept s₀ (softScanEnd s n x) := by
  unfold softScanEnd
  repeat' first
    | with_reducible assumption
    | with_reducible apply Kept.ite
    | with_reducible apply endScan_keeps
    | with_reducible apply setReg_keeps
    | with_reducible apply hbmUncorrectable_keeps
    | with_reducible apply aliveCheck_keeps
    | split
    | with_reducible refine Kept.mk_congr ?_ rfl rfl rfl rfl rfl rfl

theorem execScanComplete_keeps {s : State} (h : Kept s₀ s) (engine : Fin 32) :
    OutKept s₀ (execScanComplete engine s) := by
  unfold execScanComplete
  repeat' first
    | with_reducible assumption
    | ((fail_if_no_progress first | extract_lets +onlyGivenNames z | fail); refine (have hz : Kept s₀ z := ?_; ?_); rotate_left; clear_value z)
    | (fail_if_no_progress first | extract_lets +onlyGivenNames z | fail)
    | with_reducible apply OutKept.next
    | with_reducible apply Kept.ite
    | with_reducible apply touchPage_keeps
    | with_reducible apply spendAll_keeps
    | with_reducible apply loaderScanEnd_keeps
    | with_reducible apply softScanEnd_keeps
    | with_reducible refine Kept.foldl (fun _ _ _ => ?_) ?_
    | with_reducible refine Kept.foldl_snd (fun _ _ _ => ?_) ?_
    | with_reducible refine Kept.foldl_snd2 (fun _ _ _ => ?_) ?_
    | with_reducible refine Kept.foldl_fst (fun _ _ _ => ?_) ?_
    | split

end Sys2Proof.Machine
end

