-- ==== Sys2Proof/Laws/KeptPower.lean ====
section
/-!
SUPPORT. What every operation keeps (see KeptBase), operation by operation: power, configuration, resets and faults.
-/
namespace Sys2Proof.Machine

open Sys2Proof

set_option maxRecDepth 4000

variable {s₀ : State}

theorem setTel_keeps {s : State} (h : Kept s₀ s) (t : Tel) : Kept s₀ (setTel s t) := by
  unfold setTel
  repeat' first
    | with_reducible assumption
    | with_reducible apply Kept.ite
    | split
    | with_reducible refine Kept.mk_congr ?_ rfl rfl rfl rfl rfl rfl

theorem traceLost_keeps {s : State} (h : Kept s₀ s) : Kept s₀ (traceLost s) := by
  unfold traceLost
  repeat' first
    | with_reducible assumption
    | with_reducible apply Kept.ite
    | with_reducible apply count_keeps

theorem traceAppend_keeps {s : State} (h : Kept s₀ s) (w : Nat) : Kept s₀ (traceAppend s w).2 := by
  unfold traceAppend
  repeat' first
    | with_reducible assumption
    | with_reducible apply Kept.ite
    | with_reducible apply traceLost_keeps
    | with_reducible apply raiseF_keeps
    | with_reducible apply count_keeps
    | with_reducible apply setTel_keeps
    | with_reducible apply Kept.ite_snd

theorem traceSync_keeps {s : State} (h : Kept s₀ s) (t : Nat) : Kept s₀ (traceSync s t) := by
  unfold traceSync
  repeat' first
    | with_reducible assumption
    | with_reducible apply Kept.ite
    | with_reducible apply traceAppend_keeps
    | (refine Kept.of_pair1 (by assumption) ?_)
    | with_reducible apply setTel_keeps

theorem tracePut_keeps {s : State} (h : Kept s₀ s) (type source arg data t : Nat) :
    Kept s₀ (tracePut s type source arg data t) := by
  unfold tracePut
  repeat' first
    | with_reducible assumption
    | with_reducible apply Kept.ite
    | with_reducible apply traceLost_keeps
    | with_reducible apply traceSync_keeps
    | with_reducible apply traceAppend_keeps

theorem traceRecord_keeps {s : State} (h : Kept s₀ s) (type source arg data t : Nat) (fifoFull : Bool) :
    Kept s₀ (traceRecord s type source arg data t fifoFull) :=
  Kept.ite h (Kept.ite (traceLost_keeps (setTel_keeps h _)) (Kept.ite (tracePut_keeps (setTel_keeps h _) _ _ _ _ _)
    (tracePut_keeps h _ _ _ _ _)))

theorem tracePower_keeps {s : State} (h : Kept s₀ s) (k type arg : Nat) : Kept s₀ (tracePower s k type arg) :=
  traceRecord_keeps h _ _ _ _ _ _

theorem setCP_keeps {s : State} (h : Kept s₀ s) (k : Nat) (c : ClusterPower) : Kept s₀ (setCP s k c) := by
  unfold setCP
  repeat' first
    | with_reducible assumption
    | with_reducible apply Kept.ite
    | split
    | with_reducible refine Kept.mk_congr ?_ rfl rfl rfl rfl rfl rfl

theorem operate_keeps {s : State} (h : Kept s₀ s) (k : Nat) :
    Kept s₀ (operate s k) := by
  unfold operate
  repeat' first
    | with_reducible assumption
    | ((fail_if_no_progress first | extract_lets +onlyGivenNames z | fail); refine (have hz : Kept s₀ z := ?_; ?_); rotate_left; clear_value z)
    | (fail_if_no_progress first | extract_lets +onlyGivenNames z | fail)
    | with_reducible apply Kept.ite
    | with_reducible apply setCP_keeps
    | split
    | (fail_if_no_progress first | with_reducible refine Kept.mk_congr ?_ rfl rfl rfl rfl rfl rfl | fail)

theorem setBroken_keeps {s : State} (h : Kept s₀ s) (b : Bool) : Kept s₀ (setBroken s b) :=
  Kept.mk_congr h rfl rfl rfl rfl rfl rfl

theorem fixedCheck_keeps {s : State} (h : Kept s₀ s) : Kept s₀ (fixedCheck s) := by
  unfold fixedCheck
  repeat' first
    | with_reducible assumption
    | with_reducible apply Kept.ite
    | with_reducible apply setBroken_keeps
    | with_reducible apply setF_keeps
    | with_reducible apply raiseF_keeps
    | with_reducible apply postPF_keeps
    | split
    | dsimp only

theorem operateAll_keeps {s : State} (h : Kept s₀ s) : Kept s₀ (operateAll s) := by
  unfold operateAll
  repeat' first
    | with_reducible assumption
    | with_reducible apply Kept.ite
    | with_reducible apply fixedCheck_keeps
    | with_reducible apply operate_keeps
    | with_reducible refine Kept.foldl (fun _ _ _ => ?_) ?_

theorem execVoltageTargetReached_keeps {s : State} (h : Kept s₀ s) (cluster : Fin 512) :
    OutKept s₀ (execVoltageTargetReached cluster s) := by
  unfold execVoltageTargetReached
  try refine OutKept.next ?_
  repeat' first
    | with_reducible assumption
    | with_reducible apply Kept.ite
    | with_reducible apply setCP_keeps

theorem stepDown_keeps {s t : State} {code : Nat} (h : Kept s₀ s) (e : stepDown s code = some t) : Kept s₀ t := by
  unfold stepDown at e
  try dsimp only at e
  split at e <;> split at e <;> simp only [Option.some.injEq, reduceCtorEq] at e <;> rw [← e] <;> exact setF_keeps h _ _

theorem stepUp_keeps {s t : State} {code : Nat} (h : Kept s₀ s) (e : stepUp s code = some t) : Kept s₀ t := by
  unfold stepUp at e
  try dsimp only at e
  split at e <;> split at e <;> simp only [Option.some.injEq, reduceCtorEq] at e <;> rw [← e] <;> exact setF_keeps h _ _

theorem capReset_keeps {s : State} (h : Kept s₀ s) : Kept s₀ (capReset s) := by
  unfold capReset
  repeat' first
    | with_reducible assumption
    | with_reducible apply Kept.ite
    | with_reducible apply setF_keeps

theorem capStep_keeps {s : State} (h : Kept s₀ s) (code : Nat) :
    Kept s₀ (capStep s code) := by
  unfold capStep
  repeat' first
    | with_reducible assumption
    | with_reducible apply Kept.ite
    | with_reducible apply setF_keeps
    | with_reducible apply count_keeps
    | with_reducible apply operateAll_keeps
    | split
    | dsimp only

theorem firstStep_keeps {s t : State} {f : Nat → Option State} {g : Nat → Nat} {l : List Nat} {code : Nat}
    (h : Kept s₀ s) (hf : ∀ i u, f i = some u → Kept s₀ u)
    (e : l.findSome? (fun i => (f i).map (fun t => (g i, t))) = some (code, t)) : Kept s₀ t := by
  obtain ⟨i, _, hi⟩ := List.exists_of_findSome?_eq_some e
  rw [Option.map_eq_some_iff] at hi
  obtain ⟨u, hu, hp⟩ := hi
  rw [Prod.mk.injEq] at hp
  rw [← hp.2]
  exact hf i u hu

theorem execCapControl_keeps {s : State} (h : Kept s₀ s) : OutKept s₀ (execCapControl s) := by
  unfold execCapControl
  dsimp only
  refine OutKept.next (Kept.ite ?_ (Kept.ite (Kept.ite ?_ ?_) ?_))
  · have h1 : Kept s₀ { s with power := { s.power with under := 0 } } :=
      Kept.mk_congr h rfl rfl rfl rfl rfl rfl
    split
    · rename_i code t e
      refine capStep_keeps ?_ _
      have ht : Kept s₀ t := firstStep_keeps h1 (fun i v hv => stepDown_keeps h1 hv) e
      exact Kept.mk_congr ht rfl rfl rfl rfl rfl rfl
    · have h2 : ∀ n, Kept s₀ { s with power := { s.power with under := 0, above := n } } := fun n =>
        Kept.mk_congr h rfl rfl rfl rfl rfl rfl
      exact Kept.ite (platformEvent_keeps (postPF_keeps (raiseF_keeps (raiseF_keeps (h2 _) _) _) _ _ _ _ _) _)
        (h2 _)
  all_goals
    have h1 : ∀ n : Nat, Kept s₀ { s with power := { s.power with above := n } } :=
      fun n => Kept.mk_congr h rfl rfl rfl rfl rfl rfl
    have h2 := setF_keeps (h1 0) fPTC_STAT_CAP_UNMET 0
    generalize setF { s with power := { s.power with above := 0 } } fPTC_STAT_CAP_UNMET 0 = u at h2 ⊢
    have h3 : ∀ n, Kept s₀ { u with power := { u.power with under := n } } := fun n =>
      Kept.mk_congr h2 rfl rfl rfl rfl rfl rfl
  · specialize h3 0
    split
    · rename_i code t e
      exact capStep_keeps (firstStep_keeps h3 (fun i w hw => stepUp_keeps h3 hw) e) _
    · exact h3
  · exact h3 _
  · exact h3 _

theorem reportCap_keeps {s : State} (h : Kept s₀ s) : Kept s₀ (reportCap s) := by
  unfold reportCap
  repeat' first
    | with_reducible assumption
    | with_reducible apply Kept.ite
    | with_reducible apply setF_keeps

theorem setCap_keeps {s : State} (h : Kept s₀ s) (w : Nat) : Kept s₀ (setCap s w) := by
  unfold setCap
  repeat' first
    | with_reducible assumption
    | with_reducible apply Kept.ite
    | with_reducible apply reportCap_keeps
    | with_reducible apply setF_keeps
    | with_reducible apply raiseF_keeps

theorem execCapWrite_keeps {s : State} (h : Kept s₀ s) (fn : Fin 64) (value : Word) :
    OutKept s₀ (execCapWrite fn value s) := by
  unfold execCapWrite
  try refine OutKept.next ?_
  repeat' first
    | with_reducible assumption
    | with_reducible apply Kept.ite
    | with_reducible apply setCap_keeps
    | with_reducible apply errVfAccess_keeps

theorem execInputSample_keeps {s : State} (h : Kept s₀ s) (vin iin : Fin 65536) :
    OutKept s₀ (execInputSample vin iin s) := by
  unfold execInputSample
  try refine OutKept.next ?_
  repeat' first
    | with_reducible assumption
    | with_reducible apply Kept.ite
    | with_reducible apply setF_keeps
    | with_reducible refine OutKept.next ?_
    | split
    | with_reducible refine Kept.mk_congr ?_ rfl rfl rfl rfl rfl rfl

theorem execInputUndervolt_keeps {s : State} (h : Kept s₀ s) : OutKept s₀ (execInputUndervolt s) := by
  unfold execInputUndervolt
  try refine OutKept.next ?_
  repeat' first
    | with_reducible assumption
    | with_reducible apply Kept.ite
    | with_reducible apply raiseF_keeps
    | with_reducible apply reportCap_keeps
    | with_reducible apply postPF_keeps
    | with_reducible refine OutKept.next ?_
    | split
    | with_reducible refine Kept.mk_congr ?_ rfl rfl rfl rfl rfl rfl

theorem execUndervoltRecovery_keeps {s : State} (h : Kept s₀ s) : OutKept s₀ (execUndervoltRecovery s) := by
  unfold execUndervoltRecovery
  try refine OutKept.next ?_
  repeat' first
    | with_reducible assumption
    | with_reducible apply Kept.ite
    | with_reducible apply reportCap_keeps
    | with_reducible refine OutKept.next ?_
    | split
    | with_reducible refine Kept.mk_congr ?_ rfl rfl rfl rfl rfl rfl

theorem execConverterFailure_keeps {s : State} (h : Kept s₀ s) : OutKept s₀ (execConverterFailure s) := by
  unfold execConverterFailure
  try refine OutKept.next ?_
  repeat' first
    | with_reducible assumption
    | with_reducible apply Kept.ite
    | with_reducible apply raiseF_keeps
    | with_reducible apply setF_keeps
    | with_reducible apply reportCap_keeps
    | with_reducible apply postPF_keeps
    | with_reducible apply declareFault_keeps

theorem execFastLimitEntry_keeps {s : State} (h : Kept s₀ s) :
    OutKept s₀ (execFastLimitEntry s) := by
  unfold execFastLimitEntry
  repeat' first
    | with_reducible assumption
    | with_reducible apply OutKept.next
    | with_reducible apply Kept.ite
    | with_reducible apply raiseF_keeps
    | with_reducible apply count_keeps
    | with_reducible apply operateAll_keeps
    | split
    | dsimp only

theorem execFastLimitExit_keeps {s : State} (h : Kept s₀ s) : OutKept s₀ (execFastLimitExit s) := by
  unfold execFastLimitExit
  try refine OutKept.next ?_
  repeat' first
    | with_reducible assumption
    | with_reducible apply Kept.ite
    | with_reducible apply operateAll_keeps
    | with_reducible apply setF_keeps

theorem countCluster_keeps {s : State} (h : Kept s₀ s) (k i n : Nat) : Kept s₀ (countCluster s k i n) := by
  unfold countCluster
  repeat' first
    | with_reducible assumption
    | with_reducible apply Kept.ite
    | with_reducible apply count_keeps

theorem execDroopDetect_keeps {s : State} (h : Kept s₀ s) (cluster : Fin 512) :
    OutKept s₀ (execDroopDetect cluster s) := by
  unfold execDroopDetect
  try refine OutKept.next ?_
  repeat' first
    | with_reducible assumption
    | with_reducible apply Kept.ite
    | with_reducible apply countCluster_keeps
    | with_reducible apply setCP_keeps

theorem execDroopRecovery_keeps {s : State} (h : Kept s₀ s) (cluster : Fin 512) :
    OutKept s₀ (execDroopRecovery cluster s) := by
  unfold execDroopRecovery
  try refine OutKept.next ?_
  repeat' first
    | with_reducible assumption
    | with_reducible apply Kept.ite
    | with_reducible apply setCP_keeps

theorem reportTemps_keeps {s : State} (h : Kept s₀ s) : Kept s₀ (reportTemps s) := by
  unfold reportTemps
  repeat' first
    | with_reducible assumption
    | with_reducible apply Kept.ite
    | with_reducible apply setF_keeps
    | split
    | dsimp only

theorem readSensor_keeps {s : State} (h : Kept s₀ s) (n : Nat) (t : Int) : Kept s₀ (readSensor s n t) := by
  unfold readSensor
  repeat' first
    | with_reducible assumption
    | with_reducible apply Kept.ite
    | with_reducible apply reportTemps_keeps
    | split
    | with_reducible refine Kept.mk_congr ?_ rfl rfl rfl rfl rfl rfl

theorem reportLimits_keeps {s : State} (h : Kept s₀ s) : Kept s₀ (reportLimits s) := by
  unfold reportLimits
  repeat' first
    | with_reducible assumption
    | with_reducible apply Kept.ite
    | with_reducible apply setF_keeps

theorem throttleEvent_keeps {s : State} (h : Kept s₀ s) (cause die : Nat) : Kept s₀ (throttleEvent s cause die) := by
  unfold throttleEvent
  repeat' first
    | with_reducible assumption
    | with_reducible apply Kept.ite
    | with_reducible apply platformEvent_keeps
    | with_reducible apply postPF_keeps

theorem execThermalLimitStep_keeps {s : State} (h : Kept s₀ s) (cluster : Fin 512) (reading : Int) :
    OutKept s₀ (execThermalLimitStep cluster reading s) := by
  unfold execThermalLimitStep
  try refine OutKept.next ?_
  repeat' first
    | with_reducible assumption
    | with_reducible apply Kept.ite
    | with_reducible apply readSensor_keeps
    | with_reducible apply reportLimits_keeps
    | with_reducible apply throttleEvent_keeps
    | with_reducible apply raiseF_keeps
    | with_reducible apply operateAll_keeps
    | with_reducible refine OutKept.next ?_
    | split
    | with_reducible refine Kept.mk_congr ?_ rfl rfl rfl rfl rfl rfl

theorem execOvertempEntry_keeps {s : State} (h : Kept s₀ s) (cluster : Fin 512) (reading : Int) :
    OutKept s₀ (execOvertempEntry cluster reading s) := by
  unfold execOvertempEntry
  try refine OutKept.next ?_
  repeat' first
    | with_reducible assumption
    | with_reducible apply Kept.ite
    | with_reducible apply readSensor_keeps
    | with_reducible apply operateAll_keeps
    | with_reducible apply reportLimits_keeps
    | with_reducible apply throttleEvent_keeps
    | with_reducible apply raiseF_keeps
    | with_reducible refine OutKept.next ?_
    | split
    | with_reducible refine Kept.mk_congr ?_ rfl rfl rfl rfl rfl rfl

theorem holdSensor_keeps {s : State} (h : Kept s₀ s) (n : Nat) (on off : Bool) : Kept s₀ (holdSensor s n on off) := by
  unfold holdSensor
  repeat' first
    | with_reducible assumption
    | with_reducible apply Kept.ite
    | split
    | with_reducible refine Kept.mk_congr ?_ rfl rfl rfl rfl rfl rfl

theorem execSensorThresholdCrossing_keeps {s : State} (h : Kept s₀ s) (unit : SensorUnit) (reading : Int) :
    OutKept s₀ (execSensorThresholdCrossing unit reading s) := by
  unfold execSensorThresholdCrossing
  try refine OutKept.next ?_
  repeat' first
    | with_reducible assumption
    | with_reducible apply Kept.ite
    | with_reducible apply readSensor_keeps
    | with_reducible apply holdSensor_keeps
    | with_reducible apply throttleEvent_keeps
    | with_reducible apply raiseF_keeps
    | with_reducible apply reportLimits_keeps
    | with_reducible refine OutKept.next ?_
    | split
    | with_reducible refine Kept.mk_congr ?_ rfl rfl rfl rfl rfl rfl

theorem execSensorCalibration_keeps {s : State} (h : Kept s₀ s) (die : Fin 16) (reference : Int)
    (readings : List (Fin 32 × Int)) : OutKept s₀ (execSensorCalibration die reference readings s) := by
  unfold execSensorCalibration
  try refine OutKept.next ?_
  repeat' first
    | with_reducible assumption
    | with_reducible apply Kept.ite
    | with_reducible apply raiseF_keeps
    | with_reducible apply reportTemps_keeps
    | with_reducible refine OutKept.next ?_
    | with_reducible refine Kept.foldl (fun _ _ _ => ?_) ?_
    | with_reducible refine Kept.foldl_snd (fun _ _ _ => ?_) ?_
    | with_reducible refine Kept.foldl_snd2 (fun _ _ _ => ?_) ?_
    | with_reducible refine Kept.foldl_fst (fun _ _ _ => ?_) ?_
    | split
    | with_reducible refine Kept.mk_congr ?_ rfl rfl rfl rfl rfl rfl

theorem execAgeingRecalibration_keeps {s : State} (h : Kept s₀ s) (cluster : Fin 512) (site : Fin 200) (lo : Fin 1024) (mid : Fin 1024) (hi : Fin 1024) :
    OutKept s₀ (execAgeingRecalibration cluster site lo mid hi s) := by
  unfold execAgeingRecalibration
  repeat' first
    | with_reducible assumption
    | ((fail_if_no_progress first | extract_lets +onlyGivenNames z | fail); refine (have hz : Kept s₀ z := ?_; ?_); rotate_left; clear_value z)
    | (fail_if_no_progress first | extract_lets +onlyGivenNames z | fail)
    | with_reducible apply OutKept.next
    | with_reducible apply Kept.ite
    | with_reducible apply modCluster_keeps
    | with_reducible apply count_keeps
    | with_reducible apply operateAll_keeps
    | split
    | (fail_if_no_progress first | with_reducible refine Kept.mk_congr ?_ rfl rfl rfl rfl rfl rfl | fail)

theorem countSleep_keeps {s : State} (h : Kept s₀ s) (k : Nat) : Kept s₀ (countSleep s k) := by
  unfold countSleep
  repeat' first
    | with_reducible assumption
    | with_reducible apply Kept.ite
    | with_reducible apply countCluster_keeps

theorem leaveFor_keeps {s : State} (h : Kept s₀ s) (k : Nat) (p : Nat) :
    Kept s₀ (leaveFor s k p) := by
  unfold leaveFor
  repeat' first
    | with_reducible assumption
    | ((fail_if_no_progress first | extract_lets +onlyGivenNames z | fail); refine (have hz : Kept s₀ z := ?_; ?_); rotate_left; clear_value z)
    | (fail_if_no_progress first | extract_lets +onlyGivenNames z | fail)
    | with_reducible apply Kept.ite
    | with_reducible apply advanceCycles_keeps
    | with_reducible apply tracePower_keeps
    | with_reducible apply countSleep_keeps
    | split

theorem enterSleep_keeps {s : State} (h : Kept s₀ s) (k : Nat) (p : Nat) :
    Kept s₀ (enterSleep s k p) := by
  unfold enterSleep
  repeat' first
    | with_reducible assumption
    | ((fail_if_no_progress first | extract_lets +onlyGivenNames z | fail); refine (have hz : Kept s₀ z := ?_; ?_); rotate_left; clear_value z)
    | (fail_if_no_progress first | extract_lets +onlyGivenNames z | fail)
    | with_reducible apply Kept.ite
    | with_reducible apply setF_keeps
    | with_reducible apply setCP_keeps
    | with_reducible apply leaveFor_keeps
    | split
    | (fail_if_no_progress first | with_reducible refine Kept.mk_congr ?_ rfl rfl rfl rfl rfl rfl | fail)

theorem execClusterDoze_keeps {s : State} (h : Kept s₀ s) (cluster : Fin 512) :
    OutKept s₀ (execClusterDoze cluster s) := by
  unfold execClusterDoze
  try refine OutKept.next ?_
  repeat' first
    | with_reducible assumption
    | with_reducible apply Kept.ite
    | with_reducible apply enterSleep_keeps

theorem dropTiles_keeps {s : State} (h : Kept s₀ s) (k : Nat) : Kept s₀ (dropTiles s k) := by
  unfold dropTiles
  repeat' first
    | with_reducible assumption
    | with_reducible apply Kept.ite
    | split
    | with_reducible refine Kept.mk_congr ?_ rfl rfl rfl rfl rfl rfl

theorem execClusterDeep_keeps {s : State} (h : Kept s₀ s) (cluster : Fin 512) :
    OutKept s₀ (execClusterDeep cluster s) := by
  unfold execClusterDeep
  repeat' first
    | with_reducible assumption
    | with_reducible apply OutKept.next
    | with_reducible apply Kept.ite
    | with_reducible apply enterSleep_keeps
    | with_reducible apply dropTiles_keeps
    | split
    | dsimp only

theorem wakeCluster_keeps {s : State} (h : Kept s₀ s) (k : Nat) :
    Kept s₀ (wakeCluster s k) := by
  unfold wakeCluster
  repeat' first
    | with_reducible assumption
    | ((fail_if_no_progress first | extract_lets +onlyGivenNames z | fail); refine (have hz : Kept s₀ z := ?_; ?_); rotate_left; clear_value z)
    | (fail_if_no_progress first | extract_lets +onlyGivenNames z | fail)
    | with_reducible apply Kept.ite
    | with_reducible apply setF_keeps
    | with_reducible apply tracePower_keeps
    | with_reducible apply countCluster_keeps
    | with_reducible apply countSleep_keeps
    | split

theorem execClusterWake_keeps {s : State} (h : Kept s₀ s) (cluster : Fin 512) :
    OutKept s₀ (execClusterWake cluster s) := by
  unfold execClusterWake
  try refine OutKept.next ?_
  repeat' first
    | with_reducible assumption
    | with_reducible apply Kept.ite
    | with_reducible apply wakeCluster_keeps

theorem setPad_keeps {s : State} (h : Kept s₀ s) {p : Padlock} (hp : p.Voted) : Kept s₀ (setPad s p) :=
  ⟨h.regs, h.sram, h.hbm, h.loan, h.flash, h.media, h.time, hp, h.queue, h.fresh, h.out⟩

theorem setPad_keep {s : State} (h : Kept s₀ s) {p : Padlock} (e : (p.life, p.svn, p.fused, p.debug)
      = (s.padlock.life, s.padlock.svn, s.padlock.fused, s.padlock.debug)) : Kept s₀ (setPad s p) :=
  Kept.mk_congr h rfl rfl rfl rfl rfl e

theorem setDebug_keeps {s : State} (h : Kept s₀ s) (c : Nat) : Kept s₀ (setDebug s c) :=
  setPad_keeps h ⟨h.voted.1, h.voted.2.1, h.voted.2.2.1, rfl⟩

theorem setLife_keeps {s : State} (h : Kept s₀ s) (c : Nat) : Kept s₀ (setLife s c) :=
  setPad_keeps h ⟨rfl, h.voted.2.1, h.voted.2.2.1, h.voted.2.2.2⟩

theorem useSlot_keeps {s : State} (h : Kept s₀ s) (n : Nat) : Kept s₀ (useSlot s n).2 := by
  unfold useSlot
  repeat' first
    | with_reducible assumption
    | with_reducible apply Kept.ite
    | with_reducible apply raiseF_keeps

theorem drawRandom_keeps {s : State} (h : Kept s₀ s) : Kept s₀ (drawRandom s).2 := by
  unfold drawRandom
  repeat' first
    | with_reducible assumption
    | with_reducible apply Kept.ite
    | with_reducible refine setPad_keep ?_ rfl

theorem createFlashKey_keeps {s : State} (h : Kept s₀ s) (ctx : Nat) : Kept s₀ (createFlashKey s ctx) := by
  unfold createFlashKey
  repeat' first
    | with_reducible assumption
    | with_reducible apply Kept.ite
    | with_reducible apply drawRandom_keeps
    | (refine Kept.of_pair1 (by assumption) ?_)
    | with_reducible refine setPad_keep ?_ rfl

theorem createDomainKey_keeps {s : State} (h : Kept s₀ s) (d : Nat) : Kept s₀ (createDomainKey s d) := by
  unfold createDomainKey
  repeat' first
    | with_reducible assumption
    | with_reducible apply Kept.ite
    | with_reducible apply drawRandom_keeps
    | (refine Kept.of_pair1 (by assumption) ?_)
    | split
    | with_reducible refine Kept.mk_congr ?_ rfl rfl rfl rfl rfl rfl

theorem destroyKeys_keeps {s : State} (h : Kept s₀ s) : Kept s₀ (destroyKeys s) := by
  unfold destroyKeys
  repeat' first
    | with_reducible assumption
    | with_reducible apply Kept.ite
    | with_reducible refine setPad_keep ?_ rfl
    | split
    | with_reducible refine Kept.mk_congr ?_ rfl rfl rfl rfl rfl rfl

theorem deriveKeys_keeps {s : State} (h : Kept s₀ s) : Kept s₀ (deriveKeys s) := by
  unfold deriveKeys
  repeat' first
    | with_reducible assumption
    | with_reducible apply Kept.ite
    | with_reducible refine setPad_keep ?_ rfl

theorem deriveSysKey_keeps {s : State} (h : Kept s₀ s) : Kept s₀ (deriveSysKey s) := by
  unfold deriveSysKey
  repeat' first
    | with_reducible assumption
    | with_reducible apply Kept.ite
    | with_reducible refine setPad_keep ?_ rfl

theorem noteTriple_keeps {s : State} (h : Kept s₀ s) : Kept s₀ (noteTriple s) := by
  unfold noteTriple
  repeat' first
    | with_reducible assumption
    | with_reducible apply Kept.ite
    | with_reducible apply raiseF_keeps

theorem cfgDiscard_keeps {s : State} (h : Kept s₀ s) : Kept s₀ (cfgDiscard s) := by
  unfold cfgDiscard
  repeat' first
    | with_reducible assumption
    | with_reducible apply Kept.ite
    | with_reducible apply raiseF_keeps

theorem emptyShadow_keeps {s : State} (h : Kept s₀ s) : Kept s₀ (emptyShadow s) := by
  unfold emptyShadow
  repeat' first
    | with_reducible assumption
    | with_reducible apply Kept.ite
    | with_reducible apply setF_keeps
    | split
    | with_reducible refine Kept.mk_congr ?_ rfl rfl rfl rfl rfl rfl

theorem withdrawShadow_keeps {s : State} (h : Kept s₀ s) : Kept s₀ (withdrawShadow s) := by
  unfold withdrawShadow
  repeat' first
    | with_reducible assumption
    | with_reducible apply Kept.ite
    | with_reducible apply raiseF_keeps
    | with_reducible apply sendPlain_keeps
    | with_reducible apply hingeAbort_keeps
    | with_reducible apply emptyShadow_keeps

theorem rejectImage_keeps {s : State} (h : Kept s₀ s) (cause sec : Nat) : Kept s₀ (rejectImage s cause sec) := by
  unfold rejectImage
  repeat' first
    | with_reducible assumption
    | with_reducible apply Kept.ite
    | with_reducible apply emptyShadow_keeps
    | with_reducible apply raiseF_keeps
    | with_reducible apply setF_keeps
    | with_reducible apply setStage_keeps

theorem cfgLoad_keeps {s : State} (h : Kept s₀ s) (fn : Nat) : Kept s₀ (cfgLoad s fn) := by
  unfold cfgLoad
  repeat' first
    | with_reducible assumption
    | with_reducible apply Kept.ite
    | with_reducible apply errVfAccess_keeps
    | with_reducible apply cfgDiscard_keeps
    | with_reducible apply withdrawShadow_keeps
    | with_reducible apply setF_keeps
    | with_reducible apply setStage_keeps
    | with_reducible apply state_emit_keeps
    | split
    | with_reducible refine Kept.mk_congr ?_ rfl rfl rfl rfl rfl rfl

theorem execLoad_keeps {s : State} (h : Kept s₀ s) (fn : Fin 64) : OutKept s₀ (execLoad fn s) := by
  unfold execLoad
  try refine OutKept.next ?_
  repeat' first
    | with_reducible assumption
    | with_reducible apply Kept.ite
    | with_reducible apply cfgLoad_keeps

theorem cfgDrop_keeps {s : State} (h : Kept s₀ s) (fn : Nat) : Kept s₀ (cfgDrop s fn) := by
  unfold cfgDrop
  repeat' first
    | with_reducible assumption
    | with_reducible apply Kept.ite
    | with_reducible apply errVfAccess_keeps
    | with_reducible apply withdrawShadow_keeps
    | with_reducible apply setStage_keeps

theorem execDiscard_keeps {s : State} (h : Kept s₀ s) (fn : Fin 64) : OutKept s₀ (execDiscard fn s) := by
  unfold execDiscard
  try refine OutKept.next ?_
  repeat' first
    | with_reducible assumption
    | with_reducible apply Kept.ite
    | with_reducible apply cfgDrop_keeps

theorem beginPass2_keeps {s : State} (h : Kept s₀ s) : Kept s₀ (beginPass2 s) := by
  unfold beginPass2
  repeat' first
    | with_reducible assumption
    | with_reducible apply Kept.ite
    | with_reducible apply setF_keeps
    | with_reducible apply setStage_keeps
    | with_reducible apply state_emit_keeps
    | split

theorem pass1Cause_keeps {s : State} (h : Kept s₀ s) (l : Loading) (bs : List Byte) :
    Kept s₀ (pass1Cause s l bs).2 := by
  unfold pass1Cause
  repeat' first
    | with_reducible assumption
    | with_reducible apply Kept.ite
    | with_reducible apply useSlot_keeps
    | (refine Kept.of_pair1 (by assumption) ?_)
    | with_reducible apply Kept.ite_snd

theorem rehashActive_keeps {s : State} (h : Kept s₀ s) : Kept s₀ (rehashActive s) := by
  unfold rehashActive
  repeat' first
    | with_reducible assumption
    | with_reducible apply Kept.ite
    | with_reducible apply setStage_keeps
    | with_reducible apply rejectImage_keeps
    | split
    | with_reducible refine Kept.mk_congr ?_ rfl rfl rfl rfl rfl rfl

theorem execImagePass1Complete_keeps {s : State} (h : Kept s₀ s) (bytes : Option (List Byte)) :
    OutKept s₀ (execImagePass1Complete bytes s) := by
  unfold execImagePass1Complete
  try refine OutKept.next ?_
  repeat' first
    | with_reducible assumption
    | with_reducible apply Kept.ite
    | with_reducible apply rehashActive_keeps
    | with_reducible apply rejectImage_keeps
    | with_reducible apply pass1Cause_keeps
    | (refine Kept.of_pair1 (by assumption) ?_)
    | with_reducible apply beginPass2_keeps
    | with_reducible apply setF_keeps
    | with_reducible apply setStage_keeps
    | with_reducible refine OutKept.next ?_
    | split
    | with_reducible refine Kept.mk_congr ?_ rfl rfl rfl rfl rfl rfl

theorem shadowReady_keeps {s : State} (h : Kept s₀ s) (i : CfgImage) : Kept s₀ (shadowReady s i) := by
  unfold shadowReady
  repeat' first
    | with_reducible assumption
    | with_reducible apply Kept.ite
    | with_reducible apply setF_keeps
    | with_reducible apply beginStaging_keeps
    | split
    | with_reducible refine Kept.mk_congr ?_ rfl rfl rfl rfl rfl rfl

theorem execImagePass2Complete_keeps {s : State} (h : Kept s₀ s) (bytes : Option (List Byte)) :
    OutKept s₀ (execImagePass2Complete bytes s) := by
  unfold execImagePass2Complete
  try refine OutKept.next ?_
  repeat' first
    | with_reducible assumption
    | with_reducible apply Kept.ite
    | with_reducible apply rejectImage_keeps
    | with_reducible apply hbmStoreBytes_keeps
    | with_reducible apply hingeAbort_keeps
    | with_reducible apply shadowReady_keeps
    | with_reducible refine OutKept.next ?_
    | split
    | with_reducible refine Kept.mk_congr ?_ rfl rfl rfl rfl rfl rfl

theorem installSection_keeps {s : State} (h : Kept s₀ s) (i : CfgImage) (type : Nat) :
    Kept s₀ (installSection i s type) := by
  unfold installSection
  repeat' first
    | with_reducible assumption
    | with_reducible apply Kept.ite
    | with_reducible apply setReg_keeps
    | with_reducible refine Kept.foldl (fun _ _ _ => ?_) ?_

theorem installLayout_keeps {s : State} (h : Kept s₀ s) (m : Nat) : Kept s₀ (installLayout s m) := by
  unfold installLayout
  repeat' first
    | with_reducible assumption
    | with_reducible apply Kept.ite
    | with_reducible apply setReg_keeps
    | with_reducible apply setF_keeps

theorem installFlash_keeps {s : State} (h : Kept s₀ s) (i : CfgImage) : Kept s₀ (installFlash s i) := by
  unfold installFlash
  repeat' first
    | with_reducible assumption
    | with_reducible apply Kept.ite
    | with_reducible apply setF_keeps
    | with_reducible apply raiseF_keeps

theorem installDerived_keeps {s : State} (h : Kept s₀ s) (i : CfgImage) : Kept s₀ (installDerived s i) := by
  unfold installDerived
  repeat' first
    | with_reducible assumption
    | with_reducible apply Kept.ite
    | with_reducible apply setF_keeps
    | with_reducible apply setReg_keeps
    | with_reducible refine Kept.foldl (fun _ _ _ => ?_) ?_
    | with_reducible refine Kept.foldl_snd (fun _ _ _ => ?_) ?_
    | with_reducible refine Kept.foldl_snd2 (fun _ _ _ => ?_) ?_
    | with_reducible refine Kept.foldl_fst (fun _ _ _ => ?_) ?_
    | split

theorem installTables_keeps {s : State} (h : Kept s₀ s) (i : CfgImage) : Kept s₀ (installTables s i) := by
  unfold installTables
  repeat' first
    | with_reducible assumption
    | with_reducible apply Kept.ite
    | split
    | with_reducible refine Kept.mk_congr ?_ rfl rfl rfl rfl rfl rfl

theorem portDark_keeps {s : State} (h : Kept s₀ s) (n : Nat) (ph : PortPhase) : Kept s₀ (portDark s n ph) := by
  unfold portDark
  repeat' first
    | with_reducible assumption
    | with_reducible apply Kept.ite
    | split
    | with_reducible refine Kept.mk_congr ?_ rfl rfl rfl rfl rfl rfl

theorem installPorts_keeps {s : State} (h : Kept s₀ s) (old : Option CfgImage) (i : CfgImage) :
    Kept s₀ (installPorts s old i) := by
  unfold installPorts
  repeat' first
    | with_reducible assumption
    | with_reducible apply Kept.ite
    | with_reducible apply portDark_keeps
    | with_reducible refine Kept.foldl (fun _ _ _ => ?_) ?_

theorem trimFreeList_keeps {s : State} (h : Kept s₀ s) (ctx : Nat) : Kept s₀ (trimFreeList s ctx) := by
  unfold trimFreeList
  repeat' first
    | with_reducible assumption
    | with_reducible apply Kept.ite
    | with_reducible apply modPage_keeps
    | with_reducible refine Kept.foldl (fun _ _ _ => ?_) ?_

theorem mapRegion_keeps {s : State} (h : Kept s₀ s) (r : Nat) : Kept s₀ (mapRegion s r) := by
  unfold mapRegion
  repeat' first
    | with_reducible assumption
    | with_reducible apply Kept.ite
    | with_reducible apply wantLoan_keeps
    | (refine placePages_keeps ?_ (by assumption))
    | split
    | dsimp only

theorem buildTenants_keeps {s : State} (h : Kept s₀ s) (old : Option CfgImage) (i : CfgImage) :
    Kept s₀ (buildTenants s old i) := by
  unfold buildTenants
  repeat' first
    | with_reducible assumption
    | with_reducible apply Kept.ite
    | with_reducible apply createFlashKey_keeps
    | with_reducible apply createDomainKey_keeps
    | with_reducible apply mapRegion_keeps
    | with_reducible refine Kept.foldl (fun _ _ _ => ?_) ?_
    | with_reducible refine Kept.foldl_snd (fun _ _ _ => ?_) ?_
    | with_reducible refine Kept.foldl_snd2 (fun _ _ _ => ?_) ?_
    | with_reducible refine Kept.foldl_fst (fun _ _ _ => ?_) ?_
    | split
    | with_reducible refine Kept.mk_congr ?_ rfl rfl rfl rfl rfl rfl

theorem removeTenant_keeps {s : State} (h : Kept s₀ s) (ctx : Nat) : Kept s₀ (removeTenant s ctx) := by
  unfold removeTenant
  repeat' first
    | with_reducible assumption
    | with_reducible apply Kept.ite
    | with_reducible apply unmapRange_keeps
    | with_reducible apply modPage_keeps
    | with_reducible refine setPad_keep ?_ rfl
    | with_reducible refine Kept.foldl (fun _ _ _ => ?_) ?_

theorem dropDomains_keeps {s : State} (h : Kept s₀ s) : Kept s₀ (dropDomains s) := by
  unfold dropDomains
  repeat' first
    | with_reducible assumption
    | with_reducible apply Kept.ite
    | split
    | with_reducible refine Kept.mk_congr ?_ rfl rfl rfl rfl rfl rfl

theorem followStash_keeps {s : State} (h : Kept s₀ s) : Kept s₀ (followStash s) := by
  unfold followStash
  repeat' first
    | with_reducible assumption
    | with_reducible apply Kept.ite
    | with_reducible apply deriveSysKey_keeps

theorem clusterOff_keeps {s : State} (h : Kept s₀ s) (k : Nat) : Kept s₀ (clusterOff s k) := by
  unfold clusterOff
  extract_lets +onlyGivenNames mine s1 s2 s3 c c4 s4
  have h1 : Kept s₀ s1 := Kept.ite h (leaveFor_keeps h _ _)
  have h4 : Kept s₀ s4 := setCluster_keeps (setF_keeps (setF_keeps (setF_keeps h1 _ _) _ _) _ _) _ _
  clear_value s4
  extract_lets +onlyGivenNames c5 s5
  have h5 : Kept s₀ s5 := Kept.mk_touch h4 (fun h => memory_wf_filter _ h) id id id id id id
  clear_value s5
  exact Kept.mk_congr (setCP_keeps h5 _ _) rfl rfl rfl rfl rfl rfl

theorem loadStores_keeps {s : State} (h : Kept s₀ s) (i : CfgImage) (k : Nat) :
    Kept s₀ (loadStores s i k) := by
  unfold loadStores
  repeat' first
    | with_reducible assumption
    | ((fail_if_no_progress first | extract_lets +onlyGivenNames z | fail); refine (have hz : Kept s₀ z := ?_; ?_); rotate_left; clear_value z)
    | (fail_if_no_progress first | extract_lets +onlyGivenNames z | fail)
    | with_reducible apply Kept.ite
    | with_reducible apply setF_keeps
    | with_reducible apply modCluster_keeps
    | with_reducible refine Kept.foldl (fun _ _ _ => ?_) ?_
    | with_reducible refine Kept.foldl_snd (fun _ _ _ => ?_) ?_
    | with_reducible refine Kept.foldl_snd2 (fun _ _ _ => ?_) ?_
    | with_reducible refine Kept.foldl_fst (fun _ _ _ => ?_) ?_
    | split
    | (fail_if_no_progress first | with_reducible refine Kept.mk_congr ?_ rfl rfl rfl rfl rfl rfl | fail)

theorem trainPorts_keeps {s : State} (h : Kept s₀ s) (i : CfgImage) : Kept s₀ (trainPorts s i) := by
  unfold trainPorts
  repeat' first
    | with_reducible assumption
    | with_reducible apply Kept.ite
    | with_reducible apply portDark_keeps
    | with_reducible refine Kept.foldl (fun _ _ _ => ?_) ?_

theorem sendJobReady_keeps {s : State} (h : Kept s₀ s) : Kept s₀ (sendJobReady s) := by
  unfold sendJobReady
  repeat' first
    | with_reducible assumption
    | with_reducible apply Kept.ite
    | with_reducible apply sendPlain_keeps

theorem reloadsDone_keeps {s : State} (h : Kept s₀ s) : Kept s₀ (reloadsDone s) := by
  unfold reloadsDone
  repeat' first
    | with_reducible assumption
    | with_reducible apply Kept.ite
    | with_reducible apply trainPorts_keeps
    | with_reducible apply setStage_keeps
    | with_reducible apply sendJobReady_keeps
    | split

theorem execClusterReloadComplete_keeps {s : State} (h : Kept s₀ s) (cluster : Fin 512) :
    OutKept s₀ (execClusterReloadComplete cluster s) := by
  unfold execClusterReloadComplete
  repeat' first
    | with_reducible assumption
    | ((fail_if_no_progress first | extract_lets +onlyGivenNames z | fail); refine (have hz : Kept s₀ z := ?_; ?_); rotate_left; clear_value z)
    | (fail_if_no_progress first | extract_lets +onlyGivenNames z | fail)
    | with_reducible apply OutKept.next
    | with_reducible apply Kept.ite
    | with_reducible apply setF_keeps
    | with_reducible apply tracePower_keeps
    | with_reducible apply operate_keeps
    | with_reducible apply fixedCheck_keeps
    | with_reducible apply loadStores_keeps
    | with_reducible apply reloadsDone_keeps
    | split
    | (fail_if_no_progress first | with_reducible refine Kept.mk_congr ?_ rfl rfl rfl rfl rfl rfl | fail)

theorem swapSets_keeps {s : State} (h : Kept s₀ s) : Kept s₀ (swapSets s) := by
  unfold swapSets
  split
  · exact h
  · rename_i i _
    extract_lets old upper gone s1 c2 s2 s3 s4 s5 s6 s7 s8 s9 s10 s11 s12 s13
    have h1 : Kept s₀ s1 := Kept.foldl (fun t x ht => removeTenant_keeps ht _) h
    have h2 : Kept s₀ s2 := Kept.mk_congr h1 rfl rfl rfl rfl rfl rfl
    have h3 : Kept s₀ s3 := setF_keeps (setF_keeps (setF_keeps h2 _ _) _ _) _ _
    clear_value s3
    have h4 : Kept s₀ s4 := Kept.foldl (fun t x ht => installSection_keeps ht _ _) h3
    clear_value s4
    have h5 : Kept s₀ s5 := installFlash_keeps (installTables_keeps (installDerived_keeps h4 _) _) _
    clear_value s5
    have h6 : Kept s₀ s6 := by
      unfold s6
      split
      · exact installLayout_keeps (setF_keeps h5 _ _) _
      · exact h5
    clear_value s6
    have h8 : Kept s₀ s8 := by
      unfold s8
      clear_value old
      cases old
      · exact reportCap_keeps (setF_keeps h6 _ _)
      · exact installPorts_keeps (followStash_keeps (dropDomains_keeps (buildTenants_keeps h6 _ _))) _ _
    clear_value s8
    have h9 : Kept s₀ s9 := Kept.foldl (fun t x ht => trimFreeList_keeps ht _) h8
    have h10 : Kept s₀ s10 := capReset_keeps h9
    clear_value s10
    have h11 : Kept s₀ s11 := Kept.foldl (fun t x ht => clusterOff_keeps ht _) h10
    have h12 : Kept s₀ s12 := operateAll_keeps h11
    clear_value s12
    have h13 : Kept s₀ s13 := by
      unfold s13
      split
      · exact Kept.ite (setF_keeps h12 _ _) h12
      · exact h12
    exact Kept.ite (setStage_keeps h13 _) (reloadsDone_keeps h13)

theorem localCommit_keeps {s : State} (h : Kept s₀ s) : Kept s₀ (localCommit s) := by
  unfold localCommit
  repeat' first
    | with_reducible assumption
    | with_reducible apply Kept.ite
    | with_reducible apply swapSets_keeps

theorem cfgCommit_keeps {s : State} (h : Kept s₀ s) (fn : Nat) : Kept s₀ (cfgCommit s fn) := by
  unfold cfgCommit
  repeat' first
    | with_reducible assumption
    | with_reducible apply Kept.ite
    | with_reducible apply errVfAccess_keeps
    | with_reducible apply cfgDiscard_keeps
    | with_reducible apply localCommit_keeps
    | split
    | with_reducible refine Kept.mk_congr ?_ rfl rfl rfl rfl rfl rfl

theorem execCommit_keeps {s : State} (h : Kept s₀ s) (fn : Fin 64) : OutKept s₀ (execCommit fn s) := by
  unfold execCommit
  try refine OutKept.next ?_
  repeat' first
    | with_reducible assumption
    | with_reducible apply Kept.ite
    | with_reducible apply cfgCommit_keeps

theorem execCommitReadySend_keeps {s : State} (h : Kept s₀ s) : OutKept s₀ (execCommitReadySend s) := by
  unfold execCommitReadySend
  try refine OutKept.next ?_
  repeat' first
    | with_reducible assumption
    | with_reducible apply Kept.ite
    | with_reducible apply localCommit_keeps
    | with_reducible apply setF_keeps
    | with_reducible apply sendPlain_keeps

theorem cfgStop_keeps {s : State} (h : Kept s₀ s) (fn : Nat) : Kept s₀ (cfgStop s fn) := by
  unfold cfgStop
  repeat' first
    | with_reducible assumption
    | with_reducible apply Kept.ite
    | with_reducible apply errVfAccess_keeps
    | with_reducible apply sendPlain_keeps
    | with_reducible apply cfgDiscard_keeps

theorem execStop_keeps {s : State} (h : Kept s₀ s) (fn : Fin 64) : OutKept s₀ (execStop fn s) := by
  unfold execStop
  try refine OutKept.next ?_
  repeat' first
    | with_reducible assumption
    | with_reducible apply Kept.ite
    | with_reducible apply cfgStop_keeps

theorem keepRegs_keeps {s : State} (h : Kept s₀ s) (keep : List (Nat × Nat)) : Kept s₀ (keepRegs s keep) := by
  unfold keepRegs
  refine Kept.foldl (fun t x ht => setReg_keeps ht _ _) ?_
  exact ⟨rfl, h.sram, h.hbm, h.loan, h.flash, h.media, h.time, h.voted, h.queue, h.fresh, h.out⟩

theorem flashBufferLost_keeps {s : State} (h : Kept s₀ s) : Kept s₀ (flashBufferLost s) :=
  ⟨h.regs, h.sram, h.hbm, h.loan, h.media, h.media, h.time, h.voted, h.queue, h.fresh, h.out⟩

theorem ftlRebuild_keeps {s : State} (h : Kept s₀ s) (badHeader : Bool) : Kept s₀ (ftlRebuild s badHeader) := by
  unfold ftlRebuild
  repeat' first
    | with_reducible assumption
    | with_reducible apply Kept.ite
    | with_reducible apply trimGranule_keeps
    | with_reducible apply raiseF_keeps
    | with_reducible refine Kept.foldl (fun _ _ _ => ?_) ?_
    | with_reducible refine Kept.foldl_snd (fun _ _ _ => ?_) ?_
    | with_reducible refine Kept.foldl_snd2 (fun _ _ _ => ?_) ?_
    | with_reducible refine Kept.foldl_fst (fun _ _ _ => ?_) ?_
    | split
    | with_reducible refine Kept.mk_congr ?_ rfl rfl rfl rfl rfl rfl

theorem loseAll_keeps {s : State} (h : Kept s₀ s) : Kept s₀ (loseAll s) :=
  have hf := flashBufferLost_keeps h
  ⟨hf.regs, rfl, rfl, rfl, hf.flash, hf.media, hf.time, hf.voted, hf.queue, hf.fresh, hf.out⟩

theorem coldReset_keeps {s : State} (h : Kept s₀ s) (badHeader : Bool) : Kept s₀ (coldReset s badHeader) := by
  unfold coldReset
  extract_lets s0 s1 p s2 s3 s4
  have h0 : Kept s₀ s0 := Kept.ite (sendPlain_keeps h _ _ _ _) h
  clear_value s0
  have h1 : Kept s₀ s1 := destroyKeys_keeps (loseAll_keeps (Kept.mk_congr h0 rfl rfl rfl rfl rfl rfl))
  clear_value s1
  have h2 : Kept s₀ s2 := setPad_keep h1 rfl
  clear_value s2
  exact ftlRebuild_keeps (state_emit_keeps (setF_keeps (setStage_keeps (keepRegs_keeps h2 _) _) _ _) _ _) _

theorem execColdReset_keeps {s : State} (h : Kept s₀ s) (badHeader : Bool) :
    OutKept s₀ (execColdReset badHeader s) := by
  unfold execColdReset
  try refine OutKept.next ?_
  repeat' first
    | with_reducible assumption
    | with_reducible apply Kept.ite
    | with_reducible apply coldReset_keeps

theorem execPowerOnReset_keeps {s : State} (h : Kept s₀ s) (badHeader : Bool) :
    OutKept s₀ (execPowerOnReset badHeader s) := by
  unfold execPowerOnReset
  dsimp only
  refine OutKept.next (ftlRebuild_keeps ?_ _)
  have hf := flashBufferLost_keeps h
  have ht : ∀ p : Padlock, p.Voted → Kept s₀ { State.reset with
      pending := s.pending
      fresh := s.fresh
      out := s.out
      flash := (flashBufferLost s).flash
      time := { TimeBase.reset with refclk := s.time.refclk }
      hinge := { State.reset.hinge with stash := s.hinge.stash }
      padlock := p } := fun p hp =>
    ⟨rfl, rfl, rfl, rfl, hf.flash, hf.media, TimeBase.reset_legal, hp, h.queue, h.fresh, h.out⟩
  have hd : (if (lifeCode s == 0x6996) = true then s.padlock.debug else Padlock.empty.debug).length = 3 := by
    split
    · exact h.voted.2.2.2
    · rfl
  refine Kept.ite (ht _ ?_) (raiseF_keeps (ht _ ?_) _) <;>
    exact ⟨h.voted.1, h.voted.2.1, h.voted.2.2.1, hd⟩

theorem dropMigrations_keeps {s : State} (h : Kept s₀ s) : Kept s₀ (dropMigrations s) := by
  unfold dropMigrations
  repeat' first
    | with_reducible assumption
    | with_reducible apply Kept.ite
    | with_reducible apply cancelMigration_keeps
    | with_reducible refine Kept.foldl (fun _ _ _ => ?_) ?_

theorem dropDumps_keeps {s : State} (h : Kept s₀ s) : Kept s₀ (dropDumps s) := by
  unfold dropDumps
  repeat' first
    | with_reducible assumption
    | with_reducible apply Kept.ite
    | with_reducible apply setF_keeps
    | with_reducible refine Kept.foldl (fun _ _ _ => ?_) ?_
    | with_reducible refine Kept.foldl_snd (fun _ _ _ => ?_) ?_
    | with_reducible refine Kept.foldl_snd2 (fun _ _ _ => ?_) ?_
    | with_reducible refine Kept.foldl_fst (fun _ _ _ => ?_) ?_
    | split
    | with_reducible refine Kept.mk_congr ?_ rfl rfl rfl rfl rfl rfl

theorem dropPool_keeps {s : State} (h : Kept s₀ s) : Kept s₀ (dropPool s) := by
  unfold dropPool
  repeat' first
    | with_reducible assumption
    | with_reducible apply Kept.ite
    | with_reducible apply hbmZero_keeps
    | split
    | with_reducible refine Kept.mk_congr ?_ rfl rfl rfl rfl rfl rfl

theorem dropStaging_keeps {s : State} (h : Kept s₀ s) : Kept s₀ (dropStaging s) := by
  unfold dropStaging
  repeat' first
    | with_reducible assumption
    | with_reducible apply Kept.ite
    | with_reducible apply dropDest_keeps
    | with_reducible apply setReg_keeps
    | with_reducible apply setF_keeps

theorem regFile_wf_foldl {r l : List (Nat × Word)} (h : RegFile.wf r = true) :
    RegFile.wf (l.foldl (fun r (p : Nat × Word) => tabSet r p.1 p.2) r) = true := by
  induction l generalizing r with
  | nil => exact h
  | cons p l ih => exact ih (regFile_wf_tabSet _ _ h)

theorem state_regs_keeps {s : State} (h : Kept s₀ s) {r : List (Nat × Word)} (hr : RegFile.wf r = true) :
    Kept s₀ { s with regs := r } :=
  ⟨hr, h.sram, h.hbm, h.loan, h.flash, h.media, h.time, h.voted, h.queue, h.fresh, h.out⟩

theorem warmReset_keeps {s : State} (h : Kept s₀ s) : Kept s₀ (warmReset s) := by
  unfold warmReset
  extract_lets sent s1 s2 s3 r layout c1 c2 c3 c4 c5 s4 stage s5 s6 c6 s7 s8 s9
  have h2 : Kept s₀ s2 := dropStaging_keeps (dropPool_keeps (dropMigrations_keeps (withdrawShadow_keeps h)))
  have h3 : Kept s₀ s3 := by
    unfold s3
    with_reducible refine Kept.foldl (fun t x ht => ?_) h2
    exact clusterOff_keeps ht _
  clear_value s3
  have h4 : Kept s₀ s4 :=
    ⟨h3.regs, h3.sram, h3.hbm, h3.loan, h3.flash, h3.media, h3.time, h3.voted, h3.queue, h3.fresh, h3.out⟩
  have h5 : Kept s₀ s5 := keepRegs_keeps h4 _
  clear_value s5
  have h6 : Kept s₀ s6 := by
    unfold s6
    split
    · exact h5
    · rename_i i _
      exact capReset_keeps (reportCap_keeps (setF_keeps (setReg_keeps (installTables_keeps (installDerived_keeps
        (Kept.foldl (fun t x ht => installSection_keeps ht _ _) h5) _) _) _ _) _ _))
  clear_value s6
  have h8 : Kept s₀ s8 := by
    refine setF_keeps (setStage_keeps (deriveKeys_keeps ?_) _) _ _
    exact setPad_keep h6 rfl
  have h9 : Kept s₀ s9 := Kept.ite (raiseF_keeps h8 _) h8
  exact Kept.ite h9 (setFaultPhase_keeps h9 _)

theorem startWarmReset_keeps {s : State} (h : Kept s₀ s) : Kept s₀ (startWarmReset s) := by
  unfold startWarmReset
  repeat' first
    | with_reducible assumption
    | with_reducible apply Kept.ite
    | with_reducible apply declareFault_keeps
    | with_reducible apply warmReset_keeps
    | with_reducible apply dropDumps_keeps

theorem execWarmReset_keeps {s : State} (h : Kept s₀ s) : OutKept s₀ (execWarmReset s) := by
  unfold execWarmReset
  try refine OutKept.next ?_
  repeat' first
    | with_reducible assumption
    | with_reducible apply Kept.ite
    | with_reducible apply startWarmReset_keeps

theorem acceptCopy_keeps {s : State} (h : Kept s₀ s) (n : Nat) : Kept s₀ (acceptCopy s n) := by
  unfold acceptCopy
  repeat' first
    | with_reducible assumption
    | with_reducible apply Kept.ite
    | with_reducible refine setPad_keep ?_ rfl
    | with_reducible apply setF_keeps
    | with_reducible apply setStage_keeps
    | with_reducible apply deriveKeys_keeps

theorem execFirmwareAccepted_keeps {s : State} (h : Kept s₀ s) : OutKept s₀ (execFirmwareAccepted s) := by
  unfold execFirmwareAccepted
  try refine OutKept.next ?_
  repeat' first
    | with_reducible assumption
    | with_reducible apply Kept.ite
    | with_reducible apply acceptCopy_keeps
    | with_reducible apply stageFailed_keeps

theorem execRailsComplete_keeps {s : State} (h : Kept s₀ s) (good : Bool) :
    OutKept s₀ (execRailsComplete good s) := by
  unfold execRailsComplete
  try refine OutKept.next ?_
  repeat' first
    | with_reducible assumption
    | with_reducible apply Kept.ite
    | with_reducible apply stageFailed_keeps
    | with_reducible apply setStage_keeps
    | with_reducible refine OutKept.next ?_
    | split
    | with_reducible refine Kept.mk_congr ?_ rfl rfl rfl rfl rfl rfl

theorem execHbmTrainingComplete_keeps {s : State} (h : Kept s₀ s) (good : Bool) :
    OutKept s₀ (execHbmTrainingComplete good s) := by
  unfold execHbmTrainingComplete
  try refine OutKept.next ?_
  repeat' first
    | with_reducible assumption
    | with_reducible apply Kept.ite
    | with_reducible apply stageFailed_keeps
    | with_reducible apply beginPass2_keeps
    | with_reducible refine OutKept.next ?_
    | split
    | with_reducible refine Kept.mk_congr ?_ rfl rfl rfl rfl rfl rfl

theorem execOpticsStageComplete_keeps {s : State} (h : Kept s₀ s) : OutKept s₀ (execOpticsStageComplete s) := by
  unfold execOpticsStageComplete
  try refine OutKept.next ?_
  repeat' first
    | with_reducible assumption
    | with_reducible apply Kept.ite
    | with_reducible apply setStage_keeps

theorem execFabricStageComplete_keeps {s : State} (h : Kept s₀ s) : OutKept s₀ (execFabricStageComplete s) := by
  unfold execFabricStageComplete
  try refine OutKept.next ?_
  repeat' first
    | with_reducible assumption
    | with_reducible apply Kept.ite
    | with_reducible apply setStage_keeps

theorem execTenantsStageComplete_keeps {s : State} (h : Kept s₀ s) : OutKept s₀ (execTenantsStageComplete s) := by
  unfold execTenantsStageComplete
  try refine OutKept.next ?_
  repeat' first
    | with_reducible assumption
    | with_reducible apply Kept.ite
    | with_reducible apply setStage_keeps
    | with_reducible apply loaderTake_keeps
    | with_reducible apply beginLoad_keeps
    | with_reducible apply followStash_keeps
    | with_reducible apply buildTenants_keeps
    | with_reducible refine OutKept.next ?_
    | split

theorem becomeReady_keeps {s : State} (h : Kept s₀ s) : Kept s₀ (becomeReady s) := by
  unfold becomeReady
  repeat' first
    | with_reducible assumption
    | with_reducible apply Kept.ite
    | with_reducible apply setStage_keeps
    | with_reducible apply setFaultPhase_keeps
    | with_reducible apply sendJobReady_keeps
    | split
    | with_reducible refine Kept.mk_congr ?_ rfl rfl rfl rfl rfl rfl

theorem execWeightsStageComplete_keeps {s : State} (h : Kept s₀ s) : OutKept s₀ (execWeightsStageComplete s) := by
  unfold execWeightsStageComplete
  try refine OutKept.next ?_
  repeat' first
    | with_reducible assumption
    | with_reducible apply Kept.ite
    | with_reducible apply becomeReady_keeps
    | with_reducible apply finishWave_keeps

theorem railsDown_keeps {s : State} (h : Kept s₀ s) :
    Kept s₀ (railsDown s) := by
  unfold railsDown
  repeat' first
    | with_reducible assumption
    | ((fail_if_no_progress first | extract_lets +onlyGivenNames z | fail); refine (have hz : Kept s₀ z := ?_; ?_); rotate_left; clear_value z)
    | (fail_if_no_progress first | extract_lets +onlyGivenNames z | fail)
    | with_reducible apply Kept.ite
    | with_reducible apply state_emit_keeps
    | with_reducible apply setStage_keeps
    | with_reducible apply assertFaultN_keeps
    | with_reducible apply destroyKeys_keeps
    | with_reducible apply keepRegs_keeps
    | with_reducible apply loseAll_keeps
    | split
    | (fail_if_no_progress first | with_reducible refine Kept.mk_congr ?_ rfl rfl rfl rfl rfl rfl | fail)

theorem execInputPowerLoss_keeps {s : State} (h : Kept s₀ s) : OutKept s₀ (execInputPowerLoss s) := by
  unfold execInputPowerLoss
  try refine OutKept.next ?_
  repeat' first
    | with_reducible assumption
    | with_reducible apply Kept.ite
    | with_reducible apply state_emit_keeps
    | with_reducible apply railsDown_keeps
    | with_reducible refine OutKept.next ?_
    | split
    | with_reducible refine Kept.mk_congr ?_ rfl rfl rfl rfl rfl rfl

theorem execInputOvervolt_keeps {s : State} (h : Kept s₀ s) : OutKept s₀ (execInputOvervolt s) := by
  unfold execInputOvervolt
  try refine OutKept.next ?_
  repeat' first
    | with_reducible assumption
    | with_reducible apply Kept.ite
    | with_reducible apply state_emit_keeps
    | with_reducible apply railsDown_keeps

theorem execVin48Restored_keeps {s : State} (h : Kept s₀ s) : OutKept s₀ (execVin48Restored s) := by
  unfold execVin48Restored
  try refine OutKept.next ?_
  repeat' first
    | with_reducible assumption
    | with_reducible apply Kept.ite
    | with_reducible apply coldReset_keeps
    | with_reducible refine OutKept.next ?_
    | split
    | with_reducible refine Kept.mk_congr ?_ rfl rfl rfl rfl rfl rfl

theorem execDeadboltTrip_keeps {s : State} (h : Kept s₀ s) (die : Fin 20) (sensor : Fin 2) :
    OutKept s₀ (execDeadboltTrip die sensor s) := by
  unfold execDeadboltTrip
  try refine OutKept.next ?_
  repeat' first
    | with_reducible assumption
    | with_reducible apply Kept.ite
    | with_reducible apply state_emit_keeps
    | with_reducible apply setF_keeps
    | with_reducible apply platformEvent_keeps
    | with_reducible apply raiseF_keeps
    | with_reducible apply railsDown_keeps
    | with_reducible refine OutKept.next ?_
    | split
    | with_reducible refine Kept.mk_congr ?_ rfl rfl rfl rfl rfl rfl

theorem dropGateway_keeps {s : State} (h : Kept s₀ s) (d : Nat) : Kept s₀ (dropGateway s d) := by
  unfold dropGateway
  repeat' first
    | with_reducible assumption
    | with_reducible apply Kept.ite
    | with_reducible apply portDark_keeps
    | with_reducible apply endScan_keeps
    | with_reducible refine Kept.foldl (fun _ _ _ => ?_) ?_
    | with_reducible refine Kept.foldl_snd (fun _ _ _ => ?_) ?_
    | with_reducible refine Kept.foldl_snd2 (fun _ _ _ => ?_) ?_
    | with_reducible refine Kept.foldl_fst (fun _ _ _ => ?_) ?_
    | split
    | with_reducible refine Kept.mk_congr ?_ rfl rfl rfl rfl rfl rfl

theorem execGatewayLoss_keeps {s : State} (h : Kept s₀ s) (die : Fin 3) :
    OutKept s₀ (execGatewayLoss die s) := by
  unfold execGatewayLoss
  repeat' first
    | with_reducible assumption
    | with_reducible apply OutKept.next
    | with_reducible apply Kept.ite
    | with_reducible apply declareFault_keeps
    | with_reducible apply dropGateway_keeps
    | split
    | dsimp only

theorem execG0Loss_keeps {s : State} (h : Kept s₀ s) : OutKept s₀ (execG0Loss s) := by
  unfold execG0Loss
  try refine OutKept.next ?_
  repeat' first
    | with_reducible assumption
    | with_reducible apply Kept.ite
    | with_reducible apply dropGateway_keeps
    | with_reducible apply portDark_keeps
    | with_reducible apply setFaultPhase_keeps
    | with_reducible apply setF_keeps
    | with_reducible refine OutKept.next ?_
    | with_reducible refine Kept.foldl (fun _ _ _ => ?_) ?_
    | with_reducible refine Kept.foldl_snd (fun _ _ _ => ?_) ?_
    | with_reducible refine Kept.foldl_snd2 (fun _ _ _ => ?_) ?_
    | with_reducible refine Kept.foldl_fst (fun _ _ _ => ?_) ?_
    | split
    | with_reducible refine Kept.mk_congr ?_ rfl rfl rfl rfl rfl rfl

theorem raiseExpander_keeps {s : State} (h : Kept s₀ s) (x : Nat) (f : FlagSet) :
    Kept s₀ (raiseExpander s x f) := by
  unfold raiseExpander
  repeat' first
    | with_reducible assumption
    | with_reducible apply Kept.ite
    | split
    | (fail_if_no_progress first | with_reducible refine Kept.mk_congr ?_ rfl rfl rfl rfl rfl rfl | fail)
    | dsimp only

theorem nextLine_keeps {s : State} (h : Kept s₀ s) (expander : Nat) (t : StreamSpec) (n : Nat) :
    Kept s₀ (nextLine s expander t n).2 := by
  unfold nextLine
  repeat' first
    | with_reducible assumption
    | ((fail_if_no_progress first | extract_lets +onlyGivenNames z | fail); refine (have hz : Kept s₀ z := ?_; ?_); rotate_left; clear_value z)
    | (fail_if_no_progress first | extract_lets +onlyGivenNames z | fail)
    | with_reducible apply Kept.ite
    | with_reducible apply bezelReads_keeps
    | with_reducible apply raiseExpander_keeps
    | with_reducible apply Kept.ite_snd
    | split

theorem deliverToken_keeps {s : State} (h : Kept s₀ s) (w : Nat) (e : WardEntry) (i : Nat) (token : Nat) (logp : Nat) (fin : Bool) (rej : Bool) (trunc : Bool) :
    Kept s₀ (deliverToken s w e i token logp fin rej trunc) := by
  unfold deliverToken
  repeat' first
    | with_reducible assumption
    | ((fail_if_no_progress first | extract_lets +onlyGivenNames z | fail); refine (have hz : Kept s₀ z := ?_; ?_); rotate_left; clear_value z)
    | (fail_if_no_progress first | extract_lets +onlyGivenNames z | fail)
    | with_reducible apply Kept.ite
    | with_reducible apply state_emit_keeps
    | with_reducible apply keyringPut_keeps
    | with_reducible apply noteWritten_keeps
    | split

theorem deliverSampled_keeps {s : State} (h : Kept s₀ s) (l : Lane) (x : Sampled) :
    Kept s₀ (deliverSampled s l x) := by
  unfold deliverSampled
  repeat' first
    | with_reducible assumption
    | with_reducible apply Kept.ite
    | with_reducible apply deliverToken_keeps
    | with_reducible refine Kept.foldl (fun _ _ _ => ?_) ?_
    | with_reducible refine Kept.foldl_snd (fun _ _ _ => ?_) ?_
    | with_reducible refine Kept.foldl_snd2 (fun _ _ _ => ?_) ?_
    | with_reducible refine Kept.foldl_fst (fun _ _ _ => ?_) ?_
    | split

theorem recordExchange_keeps {s : State} (h : Kept s₀ s) (x : StepExchange) : Kept s₀ (recordExchange s x) := by
  unfold recordExchange
  repeat' first
    | with_reducible assumption
    | with_reducible apply Kept.ite
    | with_reducible apply setLane_keeps

theorem execStepShareComplete_keeps {s : State} (h : Kept s₀ s) (lane : Fin 3) (sampled : List Sampled) :
    OutKept s₀ (execStepShareComplete lane sampled s) := by
  unfold execStepShareComplete
  repeat' first
    | with_reducible assumption
    | ((fail_if_no_progress first | extract_lets +onlyGivenNames z | fail); refine (have hz : Kept s₀ z := ?_; ?_); rotate_left; clear_value z)
    | (fail_if_no_progress first | extract_lets +onlyGivenNames z | fail)
    | with_reducible apply OutKept.next
    | with_reducible apply Kept.ite
    | with_reducible apply sendAll_keeps
    | with_reducible apply setLane_keeps
    | with_reducible apply sendPassed_keeps
    | with_reducible apply deliverSampled_keeps
    | with_reducible apply recordExchange_keeps
    | with_reducible refine Kept.foldl (fun _ _ _ => ?_) ?_
    | with_reducible refine Kept.foldl_snd (fun _ _ _ => ?_) ?_
    | with_reducible refine Kept.foldl_snd2 (fun _ _ _ => ?_) ?_
    | with_reducible refine Kept.foldl_fst (fun _ _ _ => ?_) ?_
    | split
    | (fail_if_no_progress first | with_reducible refine Kept.mk_congr ?_ rfl rfl rfl rfl rfl rfl | fail)

theorem execStepExchange_keeps {s : State} (h : Kept s₀ s) (x : StepExchange) :
    OutKept s₀ (execStepExchange x s) := by
  unfold execStepExchange
  try refine OutKept.next ?_
  repeat' first
    | with_reducible assumption
    | with_reducible apply Kept.ite
    | with_reducible apply recordExchange_keeps

theorem execExchangeWaitTimeout_keeps {s : State} (h : Kept s₀ s) (lane : Fin 3) :
    OutKept s₀ (execExchangeWaitTimeout lane s) := by
  unfold execExchangeWaitTimeout
  try refine OutKept.next ?_
  repeat' first
    | with_reducible assumption
    | with_reducible apply Kept.ite
    | with_reducible apply declareFault_keeps

theorem swapPoint_keeps {s : State} (h : Kept s₀ s) : Kept s₀ (swapPoint s).2 := by
  unfold swapPoint
  repeat' first
    | with_reducible assumption
    | with_reducible apply Kept.ite
    | with_reducible apply setF_keeps
    | with_reducible apply modWard_keeps
    | with_reducible apply expireEntry_keeps
    | with_reducible apply removeBit_keeps
    | with_reducible apply installLayout_keeps
    | with_reducible apply setReg_keeps
    | with_reducible apply Kept.ite_snd
    | with_reducible refine Kept.foldl (fun _ _ _ => ?_) ?_
    | with_reducible refine Kept.foldl_snd (fun _ _ _ => ?_) ?_
    | with_reducible refine Kept.foldl_snd2 (fun _ _ _ => ?_) ?_
    | with_reducible refine Kept.foldl_fst (fun _ _ _ => ?_) ?_
    | split
    | with_reducible refine Kept.mk_congr ?_ rfl rfl rfl rfl rfl rfl

theorem phaseForm_keeps {s : State} (h : Kept s₀ s) (lane b ended : Nat) (proposed : List (Nat × Nat))
    (disp : List (Nat × Nat × Nat)) : Kept s₀ (phaseForm s lane b ended proposed disp) := by
  unfold phaseForm
  repeat' first
    | with_reducible assumption
    | with_reducible apply Kept.ite
    | with_reducible apply swapPoint_keeps
    | (refine Kept.of_pair1 (by assumption) ?_)
    | with_reducible apply formStep_keeps
    | with_reducible apply sendPassed_keeps
    | split
    | with_reducible refine Kept.mk_congr ?_ rfl rfl rfl rfl rfl rfl

theorem jobStop_keeps {s : State} (h : Kept s₀ s) : Kept s₀ (jobStop s) := by
  unfold jobStop
  repeat' first
    | with_reducible assumption
    | with_reducible apply Kept.ite
    | with_reducible apply setF_keeps
    | with_reducible apply sendJobReady_keeps
    | with_reducible apply setStage_keeps
    | split
    | with_reducible refine Kept.mk_congr ?_ rfl rfl rfl rfl rfl rfl

theorem boundaryEnd_keeps {s : State} (h : Kept s₀ s) (lane b ended : Nat) (proposed : List (Nat × Nat))
    (disp : List (Nat × Nat × Nat)) : Kept s₀ (boundaryEnd s lane b ended proposed disp) := by
  unfold boundaryEnd
  repeat' first
    | with_reducible assumption
    | with_reducible apply Kept.ite
    | with_reducible apply jobStop_keeps
    | with_reducible apply swapSets_keeps
    | with_reducible apply phaseForm_keeps
    | split
    | with_reducible refine Kept.mk_congr ?_ rfl rfl rfl rfl rfl rfl

theorem execStepBoundary_keeps {s : State} (h : Kept s₀ s) (lane : Fin 3) (proposed : List (Nat × Nat)) (disp : List (Nat × Nat × Nat)) :
    OutKept s₀ (execStepBoundary lane proposed disp s) := by
  unfold execStepBoundary
  repeat' first
    | with_reducible assumption
    | ((fail_if_no_progress first | extract_lets +onlyGivenNames z | fail); refine (have hz : Kept s₀ z := ?_; ?_); rotate_left; clear_value z)
    | (fail_if_no_progress first | extract_lets +onlyGivenNames z | fail)
    | with_reducible apply OutKept.next
    | with_reducible apply Kept.ite
    | with_reducible apply setReg_keeps
    | with_reducible apply setF_keeps
    | with_reducible apply raiseF_keeps
    | with_reducible apply setLane_keeps
    | with_reducible apply applyDue_keeps
    | with_reducible apply copyWardEntry_keeps
    | with_reducible apply phaseResults_keeps
    | with_reducible apply digestCheck_keeps
    | with_reducible apply boundaryEnd_keeps
    | split
    | (fail_if_no_progress first | with_reducible refine Kept.mk_congr ?_ rfl rfl rfl rfl rfl rfl | fail)

theorem threeBoundaries_keeps {s : State} (h : Kept s₀ s) (b : Nat) (proposed : List (Nat × Nat))
    (disp : List (List (Nat × Nat × Nat))) : Kept s₀ (threeBoundaries s b proposed disp) := by
  unfold threeBoundaries
  repeat' first
    | with_reducible assumption
    | with_reducible apply Kept.ite
    | with_reducible apply phaseForm_keeps
    | with_reducible refine Kept.foldl (fun _ _ _ => ?_) ?_

theorem execCommitResumeBoundary_keeps {s : State} (h : Kept s₀ s) (proposed : List (Nat × Nat))
    (disp : List (List (Nat × Nat × Nat))) : OutKept s₀ (execCommitResumeBoundary proposed disp s) := by
  unfold execCommitResumeBoundary
  try refine OutKept.next ?_
  repeat' first
    | with_reducible assumption
    | with_reducible apply Kept.ite
    | with_reducible apply raiseF_keeps
    | with_reducible apply copyWardEntry_keeps
    | with_reducible apply applyDue_keeps
    | with_reducible apply threeBoundaries_keeps
    | with_reducible refine OutKept.next ?_
    | split
    | with_reducible refine Kept.mk_congr ?_ rfl rfl rfl rfl rfl rfl

theorem endEpisode_keeps {s : State} (h : Kept s₀ s) : Kept s₀ (endEpisode s) := by
  unfold endEpisode
  repeat' first
    | with_reducible assumption
    | with_reducible apply Kept.ite
    | with_reducible apply setF_keeps
    | with_reducible apply setFaultPhase_keeps
    | with_reducible apply postPF_keeps
    | with_reducible apply state_emit_keeps
    | with_reducible refine Kept.foldl (fun _ _ _ => ?_) ?_

theorem startJob_keeps {s : State} (h : Kept s₀ s) (t : Nat) (proposed : List (Nat × Nat)) (disp : List (List (Nat × Nat × Nat))) :
    Kept s₀ (startJob s t proposed disp) := by
  unfold startJob
  repeat' first
    | with_reducible assumption
    | ((fail_if_no_progress first | extract_lets +onlyGivenNames z | fail); refine (have hz : Kept s₀ z := ?_; ?_); rotate_left; clear_value z)
    | (fail_if_no_progress first | extract_lets +onlyGivenNames z | fail)
    | with_reducible apply Kept.ite
    | with_reducible apply setReg_keeps
    | with_reducible apply setF_keeps
    | with_reducible apply setStage_keeps
    | with_reducible apply copyWardEntry_keeps
    | with_reducible apply threeBoundaries_keeps
    | with_reducible apply endEpisode_keeps
    | split
    | (fail_if_no_progress first | with_reducible refine Kept.mk_congr ?_ rfl rfl rfl rfl rfl rfl | fail)

theorem execBatchApplyIdle_keeps {s : State} (h : Kept s₀ s) (proposed : List (Nat × Nat))
    (disp : List (List (Nat × Nat × Nat))) : OutKept s₀ (execBatchApplyIdle proposed disp s) := by
  unfold execBatchApplyIdle
  try refine OutKept.next ?_
  repeat' first
    | with_reducible assumption
    | with_reducible apply Kept.ite
    | with_reducible apply applyBatch_keeps
    | with_reducible apply startJob_keeps
    | with_reducible refine OutKept.next ?_
    | split

theorem applyPresets_keeps {s : State} (h : Kept s₀ s) (k r : Nat) : Kept s₀ (applyPresets s k r) := by
  unfold applyPresets
  repeat' first
    | with_reducible assumption
    | with_reducible apply Kept.ite
    | with_reducible apply modCluster_keeps
    | with_reducible refine Kept.foldl (fun _ _ _ => ?_) ?_

theorem forgetClusterLatches_keeps {s : State} (h : Kept s₀ s) (k : Nat) :
    Kept s₀ (forgetClusterLatches s k) := by
  unfold forgetClusterLatches
  repeat' first
    | with_reducible assumption
    | with_reducible apply Kept.ite
    | split
    | (fail_if_no_progress first | with_reducible refine Kept.mk_congr ?_ rfl rfl rfl rfl rfl rfl | fail)
    | dsimp only

theorem launchOn_keeps {s : State} (h : Kept s₀ s) (c : Nat) (r : Nat) (sp : LaunchSpec) :
    Kept s₀ (launchOn s c r sp) := by
  unfold launchOn
  repeat' first
    | with_reducible assumption
    | ((fail_if_no_progress first | extract_lets +onlyGivenNames z | fail); refine (have hz : Kept s₀ z := ?_; ?_); rotate_left; clear_value z)
    | (fail_if_no_progress first | extract_lets +onlyGivenNames z | fail)
    | with_reducible apply Kept.ite
    | with_reducible apply setF_keeps
    | with_reducible apply setCore_keeps
    | with_reducible apply modCluster_keeps
    | with_reducible apply modList_keeps
    | with_reducible apply wakeCluster_keeps
    | with_reducible apply applyPresets_keeps
    | with_reducible apply forgetClusterLatches_keeps
    | with_reducible refine Kept.foldl (fun _ _ _ => ?_) ?_
    | with_reducible refine Kept.foldl_snd (fun _ _ _ => ?_) ?_
    | with_reducible refine Kept.foldl_snd2 (fun _ _ _ => ?_) ?_
    | with_reducible refine Kept.foldl_fst (fun _ _ _ => ?_) ?_
    | split
    | (fail_if_no_progress first | with_reducible refine Kept.mk_congr ?_ rfl rfl rfl rfl rfl rfl | fail)

theorem execCoreLaunch_keeps {s : State} (h : Kept s₀ s) (core : Fin 98304) (spec : LaunchSpec) :
    OutKept s₀ (execCoreLaunch core spec s) := by
  unfold execCoreLaunch
  repeat' first
    | with_reducible assumption
    | with_reducible apply OutKept.next
    | with_reducible apply Kept.ite
    | with_reducible apply launchOn_keeps
    | split
    | dsimp only

theorem execJobFault_keeps {s : State} (h : Kept s₀ s) (episode : Fin 4294967296) (pkg : Fin 65536) :
    OutKept s₀ (execJobFault episode pkg s) := by
  unfold execJobFault
  try refine OutKept.next ?_
  repeat' first
    | with_reducible assumption
    | with_reducible apply Kept.ite
    | with_reducible apply setF_keeps
    | with_reducible apply sendAll_keeps
    | with_reducible apply latchCause_keeps
    | with_reducible apply setReg_keeps
    | with_reducible apply enterEpisode_keeps
    | with_reducible apply count_keeps
    | with_reducible refine OutKept.next ?_
    | split
    | with_reducible refine Kept.mk_congr ?_ rfl rfl rfl rfl rfl rfl

theorem abandonOps_keeps {s : State} (h : Kept s₀ s) :
    Kept s₀ (abandonOps s) := by
  unfold abandonOps
  repeat' first
    | with_reducible assumption
    | with_reducible apply Kept.ite
    | split
    | (fail_if_no_progress first | with_reducible refine Kept.mk_congr ?_ rfl rfl rfl rfl rfl rfl | fail)
    | dsimp only

theorem execCoreStopGraceExpiry_keeps {s : State} (h : Kept s₀ s) : OutKept s₀ (execCoreStopGraceExpiry s) := by
  unfold execCoreStopGraceExpiry
  try refine OutKept.next ?_
  repeat' first
    | with_reducible assumption
    | with_reducible apply Kept.ite
    | with_reducible apply abandonOps_keeps
    | with_reducible apply beginDump_keeps
    | with_reducible refine OutKept.next ?_
    | split
    | with_reducible refine Kept.mk_congr ?_ rfl rfl rfl rfl rfl rfl

theorem execDeliveryWindowExpiry_keeps {s : State} (h : Kept s₀ s) : OutKept s₀ (execDeliveryWindowExpiry s) := by
  unfold execDeliveryWindowExpiry
  try refine OutKept.next ?_
  repeat' first
    | with_reducible assumption
    | with_reducible apply Kept.ite
    | with_reducible refine OutKept.next ?_
    | split
    | with_reducible refine Kept.mk_congr ?_ rfl rfl rfl rfl rfl rfl

theorem writeDump_keeps {s : State} (h : Kept s₀ s) (n : Nat) (x : DumpSlot) (bad : BitVec 16) :
    Kept s₀ (writeDump s n x bad).1 := by
  unfold writeDump
  repeat' first
    | with_reducible assumption
    | with_reducible apply Kept.ite
    | with_reducible apply hbmStoreBytes_keeps
    | with_reducible refine Kept.foldl (fun _ _ _ => ?_) ?_
    | with_reducible refine Kept.foldl_snd (fun _ _ _ => ?_) ?_
    | with_reducible refine Kept.foldl_snd2 (fun _ _ _ => ?_) ?_
    | with_reducible refine Kept.foldl_fst (fun _ _ _ => ?_) ?_
    | split
    | with_reducible refine Kept.mk_congr ?_ rfl rfl rfl rfl rfl rfl

theorem execDumpComplete_keeps {s : State} (h : Kept s₀ s) (slot : Fin 2) (bad : BitVec 16) :
    OutKept s₀ (execDumpComplete slot bad s) := by
  unfold execDumpComplete
  try refine OutKept.next ?_
  repeat' first
    | with_reducible assumption
    | with_reducible apply Kept.ite
    | with_reducible apply writeDump_keeps
    | (refine Kept.of_fst (by assumption) ?_)
    | with_reducible apply setF_keeps
    | with_reducible apply postPF_keeps
    | with_reducible apply escalate_keeps
    | with_reducible refine OutKept.next ?_
    | split
    | with_reducible refine Kept.mk_congr ?_ rfl rfl rfl rfl rfl rfl

theorem execRecoveryWarmReset_keeps {s : State} (h : Kept s₀ s) : OutKept s₀ (execRecoveryWarmReset s) := by
  unfold execRecoveryWarmReset
  try refine OutKept.next ?_
  repeat' first
    | with_reducible assumption
    | with_reducible apply Kept.ite
    | with_reducible apply warmReset_keeps

theorem releaseSlot_keeps {s : State} (h : Kept s₀ s) (n : Nat) : Kept s₀ (releaseSlot s n) := by
  unfold releaseSlot
  repeat' first
    | with_reducible assumption
    | with_reducible apply Kept.ite
    | with_reducible apply setF_keeps
    | split
    | with_reducible refine Kept.mk_congr ?_ rfl rfl rfl rfl rfl rfl

theorem dumpCtl_keeps {s : State} (h : Kept s₀ s) (v : Word) : Kept s₀ (dumpCtl s v) := by
  unfold dumpCtl
  repeat' first
    | with_reducible assumption
    | with_reducible apply Kept.ite
    | with_reducible apply setF_keeps
    | with_reducible apply releaseSlot_keeps

theorem execDumpRelease_keeps {s : State} (h : Kept s₀ s) (fn : Fin 64) (value : Word) :
    OutKept s₀ (execDumpRelease fn value s) := by
  unfold execDumpRelease
  try refine OutKept.next ?_
  repeat' first
    | with_reducible assumption
    | with_reducible apply Kept.ite
    | with_reducible apply errVfAccess_keeps
    | with_reducible apply dumpCtl_keeps

end Sys2Proof.Machine
end

