-- ==== Sys2Proof/Laws/KeptHost.lean ====
section
/-!
SUPPORT. What every operation keeps (see KeptBase), operation by operation: the host interface, Ethernet, the time base and the Padlock island.
-/
namespace Sys2Proof.Machine

open Sys2Proof

set_option maxRecDepth 4000

variable {s₀ : State}

theorem queueCfg_keeps {s : State} (h : Kept s₀ s) (fn q v : Nat) : Kept s₀ (queueCfg s fn q v) := by
  unfold queueCfg
  repeat' first
    | with_reducible assumption
    | with_reducible apply Kept.ite
    | with_reducible apply raiseF_keeps
    | with_reducible apply setF_keeps
    | with_reducible apply setHQ_keeps

theorem execQueueCfgWrite_keeps {s : State} (h : Kept s₀ s) (fn q : Fin 64) (value : Word) :
    OutKept s₀ (execQueueCfgWrite fn q value s) := by
  unfold execQueueCfgWrite
  try refine OutKept.next ?_
  repeat' first
    | with_reducible assumption
    | with_reducible apply Kept.ite
    | with_reducible apply queueCfg_keeps

theorem execQueueDeferredReset_keeps {s : State} (h : Kept s₀ s) (fn q : Fin 64) :
    OutKept s₀ (execQueueDeferredReset fn q s) := by
  unfold execQueueDeferredReset
  try refine OutKept.next ?_
  repeat' first
    | with_reducible assumption
    | with_reducible apply Kept.ite
    | with_reducible apply setHQ_keeps

theorem queueBase_keeps {s : State} (h : Kept s₀ s) (fn q : Nat) (f : Field) (v : Nat) :
    Kept s₀ (queueBase s fn q f v) := by
  unfold queueBase
  repeat' first
    | with_reducible assumption
    | with_reducible apply Kept.ite
    | with_reducible apply raiseF_keeps
    | with_reducible apply setF_keeps

theorem eqCfg_keeps {s : State} (h : Kept s₀ s) (fn v : Nat) : Kept s₀ (eqCfg s fn v) := by
  unfold eqCfg
  repeat' first
    | with_reducible assumption
    | with_reducible apply Kept.ite
    | with_reducible apply setF_keeps
    | with_reducible apply setRing_keeps

theorem execEqCfgWrite_keeps {s : State} (h : Kept s₀ s) (fn : Fin 64) (value : Word) :
    OutKept s₀ (execEqCfgWrite fn value s) := by
  unfold execEqCfgWrite
  try refine OutKept.next ?_
  repeat' first
    | with_reducible assumption
    | with_reducible apply Kept.ite
    | with_reducible apply eqCfg_keeps

theorem hreqCfg_keeps {s : State} (h : Kept s₀ s) (v : Nat) : Kept s₀ (hreqCfg s v) := by
  unfold hreqCfg
  repeat' first
    | with_reducible assumption
    | with_reducible apply Kept.ite
    | with_reducible apply setF_keeps
    | split
    | with_reducible refine Kept.mk_congr ?_ rfl rfl rfl rfl rfl rfl

theorem execHreqCfgWrite_keeps {s : State} (h : Kept s₀ s) (fn : Fin 64) (value : Word) :
    OutKept s₀ (execHreqCfgWrite fn value s) := by
  unfold execHreqCfgWrite
  try refine OutKept.next ?_
  repeat' first
    | with_reducible assumption
    | with_reducible apply Kept.ite
    | with_reducible apply errVfAccess_keeps
    | with_reducible apply hreqCfg_keeps

theorem dbDisabled_keeps {s : State} (h : Kept s₀ s) (fn q : Nat) : Kept s₀ (dbDisabled s fn q) := by
  unfold dbDisabled
  repeat' first
    | with_reducible assumption
    | with_reducible apply Kept.ite
    | with_reducible apply setF_keeps
    | with_reducible apply raiseF_keeps

theorem dbRange_keeps {s : State} (h : Kept s₀ s) (fn q : Nat) : Kept s₀ (dbRange s fn q) := by
  unfold dbRange
  repeat' first
    | with_reducible assumption
    | with_reducible apply Kept.ite
    | with_reducible apply setF_keeps
    | with_reducible apply raiseF_keeps
    | with_reducible apply setHQ_keeps

theorem execSqTailDoorbell_keeps {s : State} (h : Kept s₀ s) (fn q : Fin 64) (value : Word) (whole : Bool) :
    OutKept s₀ (execSqTailDoorbell fn q value whole s) := by
  unfold execSqTailDoorbell
  try refine OutKept.next ?_
  repeat' first
    | with_reducible assumption
    | with_reducible apply Kept.ite
    | with_reducible apply raiseF_keeps
    | with_reducible apply dbDisabled_keeps
    | with_reducible apply dbRange_keeps
    | with_reducible apply setHQ_keeps

theorem execCqHeadDoorbell_keeps {s : State} (h : Kept s₀ s) (fn q : Fin 64) (value : Word) (whole : Bool) :
    OutKept s₀ (execCqHeadDoorbell fn q value whole s) := by
  unfold execCqHeadDoorbell
  try refine OutKept.next ?_
  repeat' first
    | with_reducible assumption
    | with_reducible apply Kept.ite
    | with_reducible apply raiseF_keeps
    | with_reducible apply dbDisabled_keeps
    | with_reducible apply dbRange_keeps
    | with_reducible apply setHQ_keeps

theorem execEqHeadDoorbell_keeps {s : State} (h : Kept s₀ s) (fn : Fin 64) (value : Word) (whole : Bool) :
    OutKept s₀ (execEqHeadDoorbell fn value whole s) := by
  unfold execEqHeadDoorbell
  try refine OutKept.next ?_
  repeat' first
    | with_reducible assumption
    | with_reducible apply Kept.ite
    | with_reducible apply raiseF_keeps
    | with_reducible apply setRing_keeps

theorem fetchFail_keeps {s : State} (h : Kept s₀ s) (fn q : Nat) : Kept s₀ (fetchFail s fn q) := by
  unfold fetchFail
  repeat' first
    | with_reducible assumption
    | with_reducible apply Kept.ite
    | with_reducible apply setF_keeps
    | with_reducible apply raiseF_keeps
    | with_reducible apply setHQ_keeps

theorem execDescriptorFetch_keeps {s : State} (h : Kept s₀ s) (fn q : Fin 64) (data : Option (BitVec 512)) :
    OutKept s₀ (execDescriptorFetch fn q data s) := by
  unfold execDescriptorFetch
  try refine OutKept.next ?_
  repeat' first
    | with_reducible assumption
    | with_reducible apply Kept.ite
    | with_reducible apply state_emit_keeps
    | with_reducible apply fetchFail_keeps
    | with_reducible apply setHQ_keeps
    | with_reducible apply count_keeps
    | with_reducible apply complete_keeps
    | with_reducible refine OutKept.next ?_
    | split

theorem execMsixMessage_keeps {s : State} (h : Kept s₀ s) (fn : Fin 64) (vector : Fin 66) :
    OutKept s₀ (execMsixMessage fn vector s) := by
  unfold execMsixMessage
  try refine OutKept.next ?_
  repeat' first
    | with_reducible assumption
    | with_reducible apply Kept.ite
    | with_reducible apply state_emit_keeps
    | with_reducible refine OutKept.next ?_
    | split
    | with_reducible refine Kept.mk_congr ?_ rfl rfl rfl rfl rfl rfl

theorem dropUnsent_keeps {s : State} (h : Kept s₀ s) (fn : Nat) :
    Kept s₀ (dropUnsent s fn) := by
  unfold dropUnsent
  repeat' first
    | with_reducible assumption
    | ((fail_if_no_progress first | extract_lets +onlyGivenNames z | fail); refine (have hz : Kept s₀ z := ?_; ?_); rotate_left; clear_value z)
    | (fail_if_no_progress first | extract_lets +onlyGivenNames z | fail)
    | with_reducible apply Kept.ite
    | with_reducible apply setHQ_keeps
    | with_reducible apply freeExtent_keeps
    | with_reducible refine Kept.foldl (fun _ _ _ => ?_) ?_
    | with_reducible refine Kept.foldl_snd (fun _ _ _ => ?_) ?_
    | with_reducible refine Kept.foldl_snd2 (fun _ _ _ => ?_) ?_
    | with_reducible refine Kept.foldl_fst (fun _ _ _ => ?_) ?_
    | split
    | (fail_if_no_progress first | with_reducible refine Kept.mk_congr ?_ rfl rfl rfl rfl rfl rfl | fail)

theorem recountOwed_keeps {s : State} (h : Kept s₀ s) (fn : Nat) : Kept s₀ (recountOwed s fn) := by
  unfold recountOwed
  repeat' first
    | with_reducible assumption
    | with_reducible apply Kept.ite
    | with_reducible apply setHQ_keeps
    | with_reducible refine Kept.foldl (fun _ _ _ => ?_) ?_
    | dsimp only

theorem resetFn_keeps {s : State} (h : Kept s₀ s) (fn : Nat) : Kept s₀ (resetFn s fn) := by
  unfold resetFn
  repeat' first
    | with_reducible assumption
    | with_reducible apply Kept.ite
    | with_reducible apply setHQ_keeps
    | with_reducible apply setF_keeps
    | with_reducible apply recountOwed_keeps
    | with_reducible apply dropUnsent_keeps
    | with_reducible apply deliveryFailure_keeps
    | with_reducible refine Kept.foldl (fun _ _ _ => ?_) ?_
    | with_reducible refine Kept.foldl_snd (fun _ _ _ => ?_) ?_
    | with_reducible refine Kept.foldl_snd2 (fun _ _ _ => ?_) ?_
    | with_reducible refine Kept.foldl_fst (fun _ _ _ => ?_) ?_
    | split
    | with_reducible refine Kept.mk_congr ?_ rfl rfl rfl rfl rfl rfl

theorem functionReset_keeps {s : State} (h : Kept s₀ s) (fn : Nat) : Kept s₀ (functionReset s fn) := by
  unfold functionReset
  repeat' first
    | with_reducible assumption
    | with_reducible apply Kept.ite
    | with_reducible apply resetFn_keeps
    | with_reducible refine Kept.foldl (fun _ _ _ => ?_) ?_

theorem execFunctionLevelReset_keeps {s : State} (h : Kept s₀ s) (fn : Fin 64) :
    OutKept s₀ (execFunctionLevelReset fn s) := by
  unfold execFunctionLevelReset
  try refine OutKept.next ?_
  repeat' first
    | with_reducible assumption
    | with_reducible apply Kept.ite
    | with_reducible apply functionReset_keeps

theorem execPerst_keeps {s : State} (h : Kept s₀ s) : OutKept s₀ (execPerst s) := by
  unfold execPerst
  try refine OutKept.next ?_
  repeat' first
    | with_reducible assumption
    | with_reducible apply Kept.ite
    | with_reducible apply functionReset_keeps
    | with_reducible apply setF_keeps
    | with_reducible refine OutKept.next ?_
    | split
    | with_reducible refine Kept.mk_congr ?_ rfl rfl rfl rfl rfl rfl

theorem execPerstDeassertion_keeps {s : State} (h : Kept s₀ s) : OutKept s₀ (execPerstDeassertion s) := by
  unfold execPerstDeassertion
  try refine OutKept.next ?_
  repeat' first
    | with_reducible assumption
    | with_reducible apply Kept.ite
    | with_reducible refine OutKept.next ?_
    | split
    | with_reducible refine Kept.mk_congr ?_ rfl rfl rfl rfl rfl rfl

theorem execConfigurationRequest_keeps {s : State} (h : Kept s₀ s) (fn : Fin 64) :
    OutKept s₀ (execConfigurationRequest fn s) := by
  unfold execConfigurationRequest
  try refine OutKept.next ?_
  repeat' first
    | with_reducible assumption
    | with_reducible apply Kept.ite
    | with_reducible apply state_emit_keeps

theorem execBar2Access_keeps {s : State} (h : Kept s₀ s) (offset : Fin 68719476736) (len : Nat)
    (data : Option (List Byte)) : OutKept s₀ (execBar2Access offset len data s) := by
  unfold execBar2Access
  try refine OutKept.next ?_
  repeat' first
    | with_reducible assumption
    | with_reducible apply Kept.ite
    | with_reducible apply state_emit_keeps
    | with_reducible apply raiseF_keeps
    | with_reducible apply hbmStoreBytes_keeps
    | with_reducible refine OutKept.next ?_
    | split

theorem ethError_keeps {s : State} (h : Kept s₀ s) (f : Field) (i : Nat) : Kept s₀ (ethError s f i) := by
  unfold ethError
  repeat' first
    | with_reducible assumption
    | with_reducible apply Kept.ite
    | with_reducible apply setF_keeps
    | with_reducible apply raiseF_keeps

theorem roceSend_keeps {s : State} (h : Kept s₀ s) (i kind psn : Nat) : Kept s₀ (roceSend s i kind psn) := by
  unfold roceSend
  repeat' first
    | with_reducible assumption
    | with_reducible apply Kept.ite
    | with_reducible apply state_emit_keeps

theorem takeSlot_keeps {s : State} (h : Kept s₀ s) (i : Nat) (d : Nat) :
    Kept s₀ (takeSlot s i d) := by
  unfold takeSlot
  repeat' first
    | with_reducible assumption
    | ((fail_if_no_progress first | extract_lets +onlyGivenNames z | fail); refine (have hz : Kept s₀ z := ?_; ?_); rotate_left; clear_value z)
    | (fail_if_no_progress first | extract_lets +onlyGivenNames z | fail)
    | with_reducible apply Kept.ite
    | with_reducible apply count_keeps
    | with_reducible apply setQP_keeps
    | with_reducible apply complete_keeps
    | with_reducible apply ethError_keeps
    | split
    | (fail_if_no_progress first | with_reducible refine Kept.mk_congr ?_ rfl rfl rfl rfl rfl rfl | fail)

theorem keyringAck_keeps {s : State} (h : Kept s₀ s) (origin : Origin) (value : Word) :
    Kept s₀ (keyringAck s origin value) := by
  unfold keyringAck
  repeat' first
    | with_reducible assumption
    | with_reducible apply Kept.ite
    | with_reducible apply execKeyringAck_keeps
    | (refine OutKept.to ?_ (by assumption))
    | split

theorem ingressSlots_keeps {s : State} (h : Kept s₀ s) (i a : Nat) (bs : List Byte) :
    Kept s₀ (ingressSlots s i a bs) := by
  unfold ingressSlots
  repeat' first
    | with_reducible assumption
    | with_reducible apply Kept.ite
    | with_reducible apply takeSlot_keeps
    | with_reducible apply ethError_keeps
    | with_reducible refine Kept.foldl (fun _ _ _ => ?_) ?_

theorem ingressWords_keeps {s : State} (h : Kept s₀ s) (i : Nat) (a : Nat) (bs : List Byte) :
    Kept s₀ (ingressWords s i a bs) := by
  unfold ingressWords
  repeat' first
    | with_reducible assumption
    | with_reducible apply Kept.ite
    | with_reducible apply setQP_keeps
    | with_reducible apply keyringAck_keeps
    | split
    | (fail_if_no_progress first | with_reducible refine Kept.mk_congr ?_ rfl rfl rfl rfl rfl rfl | fail)
    | dsimp only

theorem congestionNotice_keeps {s : State} (h : Kept s₀ s) (i : Nat) : Kept s₀ (congestionNotice s i) := by
  unfold congestionNotice
  repeat' first
    | with_reducible assumption
    | with_reducible apply Kept.ite
    | with_reducible apply setQP_keeps
    | with_reducible apply roceSend_keeps
    | split
    | with_reducible refine Kept.mk_congr ?_ rfl rfl rfl rfl rfl rfl

theorem execIngressWrite_keeps {s : State} (h : Kept s₀ s) (qp : Fin 16384) (key : Fin 4294967296)
    (addr : Fin 18446744073709551616) (data : List Byte) (marked : Bool) :
    OutKept s₀ (execIngressWrite qp key addr data marked s) := by
  unfold execIngressWrite
  try refine OutKept.next ?_
  repeat' first
    | with_reducible assumption
    | with_reducible apply Kept.ite
    | with_reducible apply congestionNotice_keeps
    | with_reducible apply roceSend_keeps
    | with_reducible apply setQP_keeps
    | with_reducible apply ingressWords_keeps
    | with_reducible apply ingressSlots_keeps

theorem execRoceOtherOpcode_keeps {s : State} (h : Kept s₀ s) (qp : Fin 16384) (access : Bool) :
    OutKept s₀ (execRoceOtherOpcode qp access s) := by
  unfold execRoceOtherOpcode
  try refine OutKept.next ?_
  repeat' first
    | with_reducible assumption
    | with_reducible apply Kept.ite
    | with_reducible apply roceSend_keeps

theorem execEthernetFrameDrop_keeps {s : State} (h : Kept s₀ s) (port : Fin 4) :
    OutKept s₀ (execEthernetFrameDrop port s) := by
  unfold execEthernetFrameDrop
  repeat' first
    | with_reducible assumption
    | with_reducible apply OutKept.next
    | with_reducible apply Kept.ite
    | with_reducible apply count_keeps
    | split
    | dsimp only

theorem qpFail_keeps {s : State} (h : Kept s₀ s) (i : Nat) :
    Kept s₀ (qpFail s i) := by
  unfold qpFail
  repeat' first
    | with_reducible assumption
    | ((fail_if_no_progress first | extract_lets +onlyGivenNames z | fail); refine (have hz : Kept s₀ z := ?_; ?_); rotate_left; clear_value z)
    | (fail_if_no_progress first | extract_lets +onlyGivenNames z | fail)
    | with_reducible apply Kept.ite
    | with_reducible apply setQP_keeps
    | with_reducible apply complete_keeps
    | with_reducible apply freeExtent_keeps
    | with_reducible apply deliveryFailure_keeps
    | with_reducible apply failEgress_keeps
    | with_reducible apply ethError_keeps
    | with_reducible refine Kept.foldl (fun _ _ _ => ?_) ?_
    | with_reducible refine Kept.foldl_snd (fun _ _ _ => ?_) ?_
    | with_reducible refine Kept.foldl_snd2 (fun _ _ _ => ?_) ?_
    | with_reducible refine Kept.foldl_fst (fun _ _ _ => ?_) ?_
    | split
    | (fail_if_no_progress first | with_reducible refine Kept.mk_congr ?_ rfl rfl rfl rfl rfl rfl | fail)

theorem goBack_keeps {s : State} (h : Kept s₀ s) (i psn : Nat) : Kept s₀ (goBack s i psn) := by
  unfold goBack
  repeat' first
    | with_reducible assumption
    | with_reducible apply Kept.ite
    | with_reducible apply qpFail_keeps
    | with_reducible apply count_keeps
    | with_reducible apply roceSend_keeps
    | with_reducible apply setQP_keeps

theorem execRoceAckTimeout_keeps {s : State} (h : Kept s₀ s) (qp : Fin 16384) (psn : Fin 16777216) :
    OutKept s₀ (execRoceAckTimeout qp psn s) := by
  unfold execRoceAckTimeout
  try refine OutKept.next ?_
  repeat' first
    | with_reducible assumption
    | with_reducible apply Kept.ite
    | with_reducible apply goBack_keeps

theorem execRoceNak_keeps {s : State} (h : Kept s₀ s) (qp : Fin 16384) (kind : Fin 3) (psn : Fin 16777216) :
    OutKept s₀ (execRoceNak qp kind psn s) := by
  unfold execRoceNak
  try refine OutKept.next ?_
  repeat' first
    | with_reducible assumption
    | with_reducible apply Kept.ite
    | with_reducible apply goBack_keeps
    | with_reducible apply qpFail_keeps

theorem qpCtl_keeps {s : State} (h : Kept s₀ s) (v : Nat) : Kept s₀ (qpCtl s v) := by
  unfold qpCtl
  repeat' first
    | with_reducible assumption
    | with_reducible apply Kept.ite
    | with_reducible apply setQP_keeps

theorem execQpReset_keeps {s : State} (h : Kept s₀ s) (fn : Fin 64) (value : Word) :
    OutKept s₀ (execQpReset fn value s) := by
  unfold execQpReset
  try refine OutKept.next ?_
  repeat' first
    | with_reducible assumption
    | with_reducible apply Kept.ite
    | with_reducible refine pfWrite_keeps ?_ _ _ _ (fun _ _ => ?_)
    | with_reducible apply qpCtl_keeps

theorem execCnpReceive_keeps {s : State} (h : Kept s₀ s) (qp : Fin 16384) : OutKept s₀ (execCnpReceive qp s) := by
  unfold execCnpReceive
  try refine OutKept.next ?_
  repeat' first
    | with_reducible assumption
    | with_reducible apply Kept.ite
    | with_reducible apply count_keeps
    | with_reducible apply setQP_keeps

theorem execRoceRateIncrease_keeps {s : State} (h : Kept s₀ s) (qp : Fin 16384) :
    OutKept s₀ (execRoceRateIncrease qp s) := by
  unfold execRoceRateIncrease
  try refine OutKept.next ?_
  repeat' first
    | with_reducible assumption
    | with_reducible apply Kept.ite
    | with_reducible apply setQP_keeps

theorem ptpTxCtl_keeps {s : State} (h : Kept s₀ s) (n : Nat) (v : Nat) :
    Kept s₀ (ptpTxCtl s n v) := by
  unfold ptpTxCtl
  repeat' first
    | with_reducible assumption
    | ((fail_if_no_progress first | extract_lets +onlyGivenNames z | fail); refine (have hz : Kept s₀ z := ?_; ?_); rotate_left; clear_value z)
    | (fail_if_no_progress first | extract_lets +onlyGivenNames z | fail)
    | with_reducible apply Kept.ite
    | with_reducible apply setF_keeps
    | with_reducible apply raiseF_keeps
    | split
    | (fail_if_no_progress first | with_reducible refine Kept.mk_congr ?_ rfl rfl rfl rfl rfl rfl | fail)

theorem execPtpTxGo_keeps {s : State} (h : Kept s₀ s) (fn : Fin 64) (port : Fin 4) (value : Word) :
    OutKept s₀ (execPtpTxGo fn port value s) := by
  unfold execPtpTxGo
  try refine OutKept.next ?_
  repeat' first
    | with_reducible assumption
    | with_reducible apply Kept.ite
    | with_reducible refine pfWrite_keeps ?_ _ _ _ (fun _ _ => ?_)
    | with_reducible apply ptpTxCtl_keeps

theorem execPtpTxDone_keeps {s : State} (h : Kept s₀ s) (port : Fin 4) :
    OutKept s₀ (execPtpTxDone port s) := by
  unfold execPtpTxDone
  repeat' first
    | with_reducible assumption
    | ((fail_if_no_progress first | extract_lets +onlyGivenNames z | fail); refine (have hz : Kept s₀ z := ?_; ?_); rotate_left; clear_value z)
    | (fail_if_no_progress first | extract_lets +onlyGivenNames z | fail)
    | with_reducible apply OutKept.next
    | with_reducible apply Kept.ite
    | with_reducible apply state_emit_keeps
    | with_reducible apply setReg_keeps
    | with_reducible apply setF_keeps
    | with_reducible apply raiseF_keeps
    | with_reducible apply count_keeps
    | split
    | (fail_if_no_progress first | with_reducible refine Kept.mk_congr ?_ rfl rfl rfl rfl rfl rfl | fail)

theorem execPtpFrameReceive_keeps {s : State} (h : Kept s₀ s) (port : Fin 4) (sub : Bool) (bytes : List Byte) :
    OutKept s₀ (execPtpFrameReceive port sub bytes s) := by
  unfold execPtpFrameReceive
  repeat' first
    | with_reducible assumption
    | ((fail_if_no_progress first | extract_lets +onlyGivenNames z | fail); refine (have hz : Kept s₀ z := ?_; ?_); rotate_left; clear_value z)
    | (fail_if_no_progress first | extract_lets +onlyGivenNames z | fail)
    | with_reducible apply OutKept.next
    | with_reducible apply Kept.ite
    | with_reducible apply raiseF_keeps
    | with_reducible apply count_keeps
    | split
    | (fail_if_no_progress first | with_reducible refine Kept.mk_congr ?_ rfl rfl rfl rfl rfl rfl | fail)

theorem ptpRxStat_keeps {s : State} (h : Kept s₀ s) (n v : Nat) : Kept s₀ (ptpRxStat s n v) := by
  unfold ptpRxStat
  repeat' first
    | with_reducible assumption
    | with_reducible apply Kept.ite
    | with_reducible apply setF_keeps
    | split
    | with_reducible refine Kept.mk_congr ?_ rfl rfl rfl rfl rfl rfl

theorem execPtpRxPop_keeps {s : State} (h : Kept s₀ s) (fn : Fin 64) (port : Fin 4) (value : Word) :
    OutKept s₀ (execPtpRxPop fn port value s) := by
  unfold execPtpRxPop
  try refine OutKept.next ?_
  repeat' first
    | with_reducible assumption
    | with_reducible apply Kept.ite
    | with_reducible refine pfWrite_keeps ?_ _ _ _ (fun _ _ => ?_)
    | with_reducible apply ptpRxStat_keeps

theorem state_time_keeps {s : State} (h : Kept s₀ s) {t : TimeBase} (ht : t.Legal) : Kept s₀ { s with time := t } :=
  ⟨h.regs, h.sram, h.hbm, h.loan, h.flash, h.media, ht, h.voted, h.queue, h.fresh, h.out⟩

theorem idleTick_keeps {s : State} (h : Kept s₀ s) : Kept s₀ (idleTick s) := by
  refine state_time_keeps h ?_
  obtain ⟨h1, h2, h3, h4⟩ := h.time
  refine ⟨?_, ?_, ?_, ?_⟩ <;> dsimp only
  · split <;> omega
  · split <;> omega
  · split
    · omega
    · rename_i hn
      simp only [decide_eq_true_eq, not_or] at hn
      omega
  · intro h0
    split
    · rfl
    · rename_i hn
      simp only [decide_eq_true_eq, not_or] at hn
      split at h0
      · rename_i he
        simp only [decide_eq_true_eq] at he
        omega
      · exact absurd h0 hn.1

theorem loadTime_keeps {s : State} (h : Kept s₀ s) : Kept s₀ (loadTime s) :=
  state_time_keeps (setF_keeps h _ _) ⟨by simp, by simp, by simp, fun _ => rfl⟩

theorem correctTime_keeps {s : State} (h : Kept s₀ s) : Kept s₀ (correctTime s) := by
  unfold correctTime
  dsimp only
  split
  · rename_i he
    exact state_time_keeps (raiseF_keeps (setF_keeps h _ _) _) ⟨he.1, he.2, by simp, fun _ => rfl⟩
  · exact raiseF_keeps (setF_keeps (setF_keeps h _ _) _ _) _

theorem execSyncInEdge_keeps {s : State} (h : Kept s₀ s) : OutKept s₀ (execSyncInEdge s) := by
  unfold execSyncInEdge
  try refine OutKept.next ?_
  repeat' first
    | with_reducible assumption
    | with_reducible apply Kept.ite
    | with_reducible apply loadTime_keeps
    | with_reducible apply correctTime_keeps
    | with_reducible refine OutKept.next ?_
    | split
    | with_reducible refine Kept.mk_congr ?_ rfl rfl rfl rfl rfl rfl

theorem execSyncMissed_keeps {s : State} (h : Kept s₀ s) : OutKept s₀ (execSyncMissed s) := by
  unfold execSyncMissed
  try refine OutKept.next ?_
  repeat' first
    | with_reducible assumption
    | with_reducible apply Kept.ite
    | with_reducible apply bumpF_keeps
    | with_reducible refine OutKept.next ?_
    | split
    | with_reducible refine Kept.mk_congr ?_ rfl rfl rfl rfl rfl rfl

theorem timeNext_keeps {s : State} (h : Kept s₀ s) (v : Nat) : Kept s₀ (timeNext s v) := by
  unfold timeNext
  repeat' first
    | with_reducible assumption
    | with_reducible apply Kept.ite
    | with_reducible apply setF_keeps
    | with_reducible apply raiseF_keeps
    | split
    | with_reducible refine Kept.mk_congr ?_ rfl rfl rfl rfl rfl rfl

theorem execTimeArm_keeps {s : State} (h : Kept s₀ s) (fn : Fin 64) (value : Word) :
    OutKept s₀ (execTimeArm fn value s) := by
  unfold execTimeArm
  try refine OutKept.next ?_
  repeat' first
    | with_reducible assumption
    | with_reducible apply Kept.ite
    | with_reducible apply errVfAccess_keeps
    | with_reducible apply timeNext_keeps

theorem execRefclkLoss_keeps {s : State} (h : Kept s₀ s) : OutKept s₀ (execRefclkLoss s) := by
  unfold execRefclkLoss
  try refine OutKept.next ?_
  repeat' first
    | with_reducible assumption
    | with_reducible apply Kept.ite
    | with_reducible apply declareFault_keeps
    | with_reducible apply raiseF_keeps
    | with_reducible refine OutKept.next ?_
    | split
    | with_reducible refine Kept.mk_congr ?_ rfl rfl rfl rfl rfl rfl

theorem execRefclkRestored_keeps {s : State} (h : Kept s₀ s) : OutKept s₀ (execRefclkRestored s) := by
  unfold execRefclkRestored
  try refine OutKept.next ?_
  repeat' first
    | with_reducible assumption
    | with_reducible apply Kept.ite
    | with_reducible refine OutKept.next ?_
    | split
    | with_reducible refine Kept.mk_congr ?_ rfl rfl rfl rfl rfl rfl

theorem execMirrorRefresh_keeps {s : State} (h : Kept s₀ s) : OutKept s₀ (execMirrorRefresh s) := by
  unfold execMirrorRefresh
  try refine OutKept.next ?_
  repeat' first
    | with_reducible assumption
    | with_reducible apply Kept.ite
    | with_reducible refine OutKept.next ?_
    | split
    | with_reducible refine Kept.mk_congr ?_ rfl rfl rfl rfl rfl rfl

theorem padlockFetch_keeps {s : State} (h : Kept s₀ s) (op : Nat) : Kept s₀ (padlockFetch s op) := by
  unfold padlockFetch
  repeat' first
    | with_reducible assumption
    | with_reducible apply Kept.ite
    | with_reducible apply state_emit_keeps

theorem padlockTake_keeps {s : State} (h : Kept s₀ s) (x : PdlOp) : Kept s₀ (padlockTake s x) := by
  unfold padlockTake
  repeat' first
    | with_reducible assumption
    | with_reducible apply Kept.ite
    | with_reducible refine setPad_keep ?_ rfl
    | with_reducible apply padlockFetch_keeps
    | with_reducible apply raiseF_keeps

theorem padlockCmd_keeps {s : State} (h : Kept s₀ s) (fn op slot key : Nat) :
    Kept s₀ (padlockCmd s fn op slot key) := by
  unfold padlockCmd
  repeat' first
    | with_reducible assumption
    | with_reducible apply Kept.ite
    | with_reducible apply raiseF_keeps
    | with_reducible apply errVfAccess_keeps
    | with_reducible apply padlockTake_keeps

theorem execProgram_keeps {s : State} (h : Kept s₀ s) (fn : Fin 64) (slot : Fin 4) :
    OutKept s₀ (execProgram fn slot s) := by
  unfold execProgram
  try refine OutKept.next ?_
  repeat' first
    | with_reducible assumption
    | with_reducible apply Kept.ite
    | with_reducible apply padlockCmd_keeps

theorem execRevoke_keeps {s : State} (h : Kept s₀ s) (fn : Fin 64) (slot : Fin 4) :
    OutKept s₀ (execRevoke fn slot s) := by
  unfold execRevoke
  try refine OutKept.next ?_
  repeat' first
    | with_reducible assumption
    | with_reducible apply Kept.ite
    | with_reducible apply padlockCmd_keeps

theorem execLock_keeps {s : State} (h : Kept s₀ s) (fn : Fin 64) : OutKept s₀ (execLock fn s) := by
  unfold execLock
  try refine OutKept.next ?_
  repeat' first
    | with_reducible assumption
    | with_reducible apply Kept.ite
    | with_reducible apply padlockCmd_keeps

theorem execAdvanceSvn_keeps {s : State} (h : Kept s₀ s) (fn : Fin 64) : OutKept s₀ (execAdvanceSvn fn s) := by
  unfold execAdvanceSvn
  try refine OutKept.next ?_
  repeat' first
    | with_reducible assumption
    | with_reducible apply Kept.ite
    | with_reducible apply padlockCmd_keeps

theorem execRetire_keeps {s : State} (h : Kept s₀ s) (fn : Fin 64) (key : Fin 65536) :
    OutKept s₀ (execRetire fn key s) := by
  unfold execRetire
  try refine OutKept.next ?_
  repeat' first
    | with_reducible assumption
    | with_reducible apply Kept.ite
    | with_reducible apply padlockCmd_keeps

theorem execNonce_keeps {s : State} (h : Kept s₀ s) (fn : Fin 64) : OutKept s₀ (execNonce fn s) := by
  unfold execNonce
  try refine OutKept.next ?_
  repeat' first
    | with_reducible assumption
    | with_reducible apply Kept.ite
    | with_reducible apply padlockCmd_keeps

theorem execOpenDebug_keeps {s : State} (h : Kept s₀ s) (fn : Fin 64) : OutKept s₀ (execOpenDebug fn s) := by
  unfold execOpenDebug
  try refine OutKept.next ?_
  repeat' first
    | with_reducible assumption
    | with_reducible apply Kept.ite
    | with_reducible apply padlockCmd_keeps

theorem execCloseDebug_keeps {s : State} (h : Kept s₀ s) (fn : Fin 64) : OutKept s₀ (execCloseDebug fn s) := by
  unfold execCloseDebug
  try refine OutKept.next ?_
  repeat' first
    | with_reducible assumption
    | with_reducible apply Kept.ite
    | with_reducible apply padlockCmd_keeps

theorem blowSlot_keeps {s : State} (h : Kept s₀ s) (b : Nat) : Kept s₀ (blowSlot s b) :=
  setPad_keeps h ⟨h.voted.1, h.voted.2.1, rfl, h.voted.2.2.2⟩

theorem usableSlots_keeps {s : State} (h : Kept s₀ s) : Kept s₀ (usableSlots s).2 := by
  unfold usableSlots
  repeat' first
    | with_reducible assumption
    | with_reducible apply Kept.ite
    | with_reducible apply useSlot_keeps
    | (refine Kept.of_pair1 (by assumption) ?_)
    | with_reducible apply Kept.ite_snd
    | with_reducible refine Kept.foldl (fun _ _ _ => ?_) ?_

theorem runProgram_keeps {s : State} (h : Kept s₀ s) (n : Nat) (data : Option (List Byte)) :
    Kept s₀ (runProgram s n data).2 := by
  unfold runProgram
  repeat' first
    | with_reducible assumption
    | with_reducible apply Kept.ite
    | with_reducible refine setPad_keep ?_ rfl
    | with_reducible apply blowSlot_keeps
    | with_reducible apply Kept.ite_snd
    | split

theorem runRevoke_keeps {s : State} (h : Kept s₀ s) (n : Nat) : Kept s₀ (runRevoke s n).2 := by
  unfold runRevoke
  repeat' first
    | with_reducible assumption
    | with_reducible apply Kept.ite
    | with_reducible apply usableSlots_keeps
    | (refine Kept.of_pair1 (by assumption) ?_)
    | with_reducible apply blowSlot_keeps
    | with_reducible apply Kept.ite_snd

theorem runLock_keeps {s : State} (h : Kept s₀ s) : Kept s₀ (runLock s).2 := by
  unfold runLock
  repeat' first
    | with_reducible assumption
    | with_reducible apply Kept.ite
    | with_reducible apply usableSlots_keeps
    | (refine Kept.of_pair1 (by assumption) ?_)
    | with_reducible apply setLife_keeps
    | with_reducible apply Kept.ite_snd

theorem runAdvanceSvn_keeps {s : State} (h : Kept s₀ s) : Kept s₀ (runAdvanceSvn s).2 := by
  unfold runAdvanceSvn
  dsimp only
  exact Kept.ite_snd h (setPad_keeps h ⟨h.voted.1, rfl, h.voted.2.2.1, h.voted.2.2.2⟩)

theorem beginTransition_keeps {s : State} (h : Kept s₀ s) (c : Nat) : Kept s₀ (beginTransition s c) := by
  unfold beginTransition
  repeat' first
    | with_reducible assumption
    | with_reducible apply Kept.ite
    | with_reducible apply coldReset_keeps
    | with_reducible apply destroyKeys_keeps
    | with_reducible apply setDebug_keeps

theorem runRetire_keeps {s : State} (h : Kept s₀ s) (key : Nat) : Kept s₀ (runRetire s key).2 := by
  unfold runRetire
  repeat' first
    | with_reducible assumption
    | with_reducible apply Kept.ite
    | with_reducible apply beginTransition_keeps
    | with_reducible apply setLife_keeps
    | with_reducible apply Kept.ite_snd

theorem runNonce_keeps {s : State} (h : Kept s₀ s) : Kept s₀ (runNonce s) := by
  unfold runNonce
  repeat' first
    | with_reducible assumption
    | with_reducible apply Kept.ite
    | with_reducible apply drawRandom_keeps
    | (refine Kept.of_pair1 (by assumption) ?_)
    | with_reducible refine setPad_keep ?_ rfl

theorem runOpenDebug_keeps {s : State} (h : Kept s₀ s) (data : Option (List Byte)) :
    Kept s₀ (runOpenDebug s data).2 := by
  unfold runOpenDebug
  repeat' first
    | with_reducible assumption
    | with_reducible apply Kept.ite
    | with_reducible refine setPad_keep ?_ rfl
    | with_reducible apply useSlot_keeps
    | (refine Kept.of_pair1 (by assumption) ?_)
    | with_reducible apply beginTransition_keeps
    | with_reducible apply Kept.ite_snd
    | split

theorem runCloseDebug_keeps {s : State} (h : Kept s₀ s) : Kept s₀ (runCloseDebug s).2 := by
  unfold runCloseDebug
  repeat' first
    | with_reducible assumption
    | with_reducible apply Kept.ite
    | with_reducible apply beginTransition_keeps
    | with_reducible apply Kept.ite_snd

theorem runPdl_keeps {s : State} (h : Kept s₀ s) (x : PdlOp) (data : Option (List Byte)) :
    Kept s₀ (runPdl s x data).2 := by
  unfold runPdl
  repeat' first
    | with_reducible assumption
    | with_reducible apply Kept.ite
    | with_reducible apply runProgram_keeps
    | (refine Kept.of_pair1 (by assumption) ?_)
    | with_reducible apply runRevoke_keeps
    | with_reducible apply runLock_keeps
    | with_reducible apply runAdvanceSvn_keeps
    | with_reducible apply runRetire_keeps
    | with_reducible apply runNonce_keeps
    | with_reducible apply runOpenDebug_keeps
    | with_reducible apply runCloseDebug_keeps
    | with_reducible apply Kept.ite_snd
    | split

theorem padlockRun_keeps {s : State} (h : Kept s₀ s) (data : Option (List Byte)) : Kept s₀ (padlockRun s data) := by
  unfold padlockRun
  repeat' first
    | with_reducible assumption
    | with_reducible apply Kept.ite
    | with_reducible apply runPdl_keeps
    | (refine Kept.of_pair1 (by assumption) ?_)
    | with_reducible apply noteTriple_keeps
    | with_reducible refine setPad_keep ?_ rfl
    | with_reducible apply raiseF_keeps
    | with_reducible apply setF_keeps
    | split

theorem execPadlockCommandComplete_keeps {s : State} (h : Kept s₀ s) (data : Option (List Byte)) :
    OutKept s₀ (execPadlockCommandComplete data s) := by
  unfold execPadlockCommandComplete
  try refine OutKept.next ?_
  repeat' first
    | with_reducible assumption
    | with_reducible apply Kept.ite
    | with_reducible apply padlockRun_keeps

theorem execNonceExpiry_keeps {s : State} (h : Kept s₀ s) : OutKept s₀ (execNonceExpiry s) := by
  unfold execNonceExpiry
  try refine OutKept.next ?_
  repeat' first
    | with_reducible assumption
    | with_reducible apply Kept.ite
    | with_reducible refine setPad_keep ?_ rfl

theorem execDebugTransitionComplete_keeps {s : State} (h : Kept s₀ s) :
    OutKept s₀ (execDebugTransitionComplete s) := by
  unfold execDebugTransitionComplete
  try refine OutKept.next ?_
  repeat' first
    | with_reducible assumption
    | with_reducible apply Kept.ite
    | with_reducible apply trimGranule_keeps
    | with_reducible apply setStage_keeps
    | with_reducible apply setDebug_keeps
    | with_reducible refine OutKept.next ?_
    | with_reducible refine Kept.foldl (fun _ _ _ => ?_) ?_
    | with_reducible refine Kept.foldl_snd (fun _ _ _ => ?_) ?_
    | with_reducible refine Kept.foldl_snd2 (fun _ _ _ => ?_) ?_
    | with_reducible refine Kept.foldl_fst (fun _ _ _ => ?_) ?_
    | split
    | with_reducible refine Kept.mk_touch ?_ ?_ ?_ ?_ ?_ ?_ ?_ ?_
    | exact id
    | exact memSetBytes_wf _ _
    | exact memZero_wf _ _
    | exact memPaste_wf _ _ _
    | exact memSet_wf _ _
    | exact memStore_wf _ _ _
    | exact memory_wf_filter _
    | exact fun _ => rfl

theorem jtagOut_keeps {s : State} (h : Kept s₀ s) (code v : Nat) : Kept s₀ (jtagOut s code v) := by
  unfold jtagOut
  repeat' first
    | with_reducible assumption
    | with_reducible apply Kept.ite
    | with_reducible apply state_emit_keeps
    | split
    | with_reducible refine Kept.mk_congr ?_ rfl rfl rfl rfl rfl rfl

theorem jtagBypass_keeps {s : State} (h : Kept s₀ s) (code : Nat) : Kept s₀ (jtagBypass s code) := by
  unfold jtagBypass
  repeat' first
    | with_reducible assumption
    | with_reducible apply Kept.ite
    | with_reducible apply jtagOut_keeps

theorem execExtest_keeps {s : State} (h : Kept s₀ s) (drive : Nat) : OutKept s₀ (execExtest drive s) := by
  unfold execExtest
  try refine OutKept.next ?_
  repeat' first
    | with_reducible assumption
    | with_reducible apply Kept.ite
    | with_reducible apply state_takeFree_keeps
    | (refine Kept.of_pair1 (by assumption) ?_)
    | with_reducible apply jtagOut_keeps
    | with_reducible refine setPad_keep ?_ rfl
    | with_reducible apply jtagBypass_keeps

theorem execIdcode_keeps {s : State} (h : Kept s₀ s) : OutKept s₀ (execIdcode s) := by
  unfold execIdcode
  try refine OutKept.next ?_
  repeat' first
    | with_reducible assumption
    | with_reducible apply Kept.ite
    | with_reducible apply jtagOut_keeps

theorem execSamplePreload_keeps {s : State} (h : Kept s₀ s) (load : Nat) : OutKept s₀ (execSamplePreload load s) := by
  unfold execSamplePreload
  try refine OutKept.next ?_
  repeat' first
    | with_reducible assumption
    | with_reducible apply Kept.ite
    | with_reducible apply state_takeFree_keeps
    | (refine Kept.of_pair1 (by assumption) ?_)
    | with_reducible apply jtagOut_keeps
    | with_reducible refine setPad_keep ?_ rfl

theorem execDbgStat_keeps {s : State} (h : Kept s₀ s) : OutKept s₀ (execDbgStat s) := by
  unfold execDbgStat
  try refine OutKept.next ?_
  repeat' first
    | with_reducible assumption
    | with_reducible apply Kept.ite
    | with_reducible apply noteTriple_keeps
    | with_reducible apply jtagOut_keeps

theorem execDbgNonce_keeps {s : State} (h : Kept s₀ s) : OutKept s₀ (execDbgNonce s) := by
  unfold execDbgNonce
  try refine OutKept.next ?_
  repeat' first
    | with_reducible assumption
    | with_reducible apply Kept.ite
    | with_reducible apply padlockTake_keeps
    | with_reducible apply padlockRun_keeps
    | with_reducible apply jtagOut_keeps

theorem execDbgToken_keeps {s : State} (h : Kept s₀ s) (token : BitVec 38400) :
    OutKept s₀ (execDbgToken token s) := by
  unfold execDbgToken
  try refine OutKept.next ?_
  repeat' first
    | with_reducible assumption
    | with_reducible apply Kept.ite
    | with_reducible apply padlockTake_keeps
    | with_reducible apply jtagOut_keeps

theorem execDbgClose_keeps {s : State} (h : Kept s₀ s) : OutKept s₀ (execDbgClose s) := by
  unfold execDbgClose
  try refine OutKept.next ?_
  repeat' first
    | with_reducible assumption
    | with_reducible apply Kept.ite
    | with_reducible apply padlockTake_keeps
    | with_reducible apply jtagOut_keeps

theorem execIntscan_keeps {s : State} (h : Kept s₀ s) : OutKept s₀ (execIntscan s) := by
  unfold execIntscan
  try refine OutKept.next ?_
  repeat' first
    | with_reducible assumption
    | with_reducible apply Kept.ite
    | with_reducible apply state_takeFree_keeps
    | (refine Kept.of_pair1 (by assumption) ?_)
    | with_reducible apply jtagOut_keeps
    | with_reducible apply jtagBypass_keeps

theorem execIntest_keeps {s : State} (h : Kept s₀ s) : OutKept s₀ (execIntest s) := by
  unfold execIntest
  try refine OutKept.next ?_
  repeat' first
    | with_reducible assumption
    | with_reducible apply Kept.ite
    | with_reducible apply state_takeFree_keeps
    | (refine Kept.of_pair1 (by assumption) ?_)
    | with_reducible apply jtagOut_keeps
    | with_reducible apply jtagBypass_keeps

theorem execBypass_keeps {s : State} (h : Kept s₀ s) : OutKept s₀ (execBypass s) := by
  unfold execBypass
  try refine OutKept.next ?_
  repeat' first
    | with_reducible assumption
    | with_reducible apply Kept.ite
    | with_reducible apply jtagBypass_keeps

theorem spdmAnswer_keeps {s : State} (h : Kept s₀ s) (args : List Nat) : Kept s₀ (spdmAnswer s args) := by
  unfold spdmAnswer
  repeat' first
    | with_reducible assumption
    | with_reducible apply Kept.ite
    | with_reducible apply count_keeps
    | with_reducible apply state_emit_keeps

theorem spdmError_keeps {s : State} (h : Kept s₀ s) (code : Nat) : Kept s₀ (spdmError s code) := by
  unfold spdmError
  repeat' first
    | with_reducible assumption
    | with_reducible apply Kept.ite
    | with_reducible apply spdmAnswer_keeps

theorem execGetVersion_keeps {s : State} (h : Kept s₀ s) : OutKept s₀ (execGetVersion s) := by
  unfold execGetVersion
  try refine OutKept.next ?_
  repeat' first
    | with_reducible assumption
    | with_reducible apply Kept.ite
    | with_reducible apply spdmAnswer_keeps

theorem execGetCapabilities_keeps {s : State} (h : Kept s₀ s) : OutKept s₀ (execGetCapabilities s) := by
  unfold execGetCapabilities
  try refine OutKept.next ?_
  repeat' first
    | with_reducible assumption
    | with_reducible apply Kept.ite
    | with_reducible apply spdmAnswer_keeps

theorem execNegotiateAlgorithms_keeps {s : State} (h : Kept s₀ s) (p384 sha384 : Bool) :
    OutKept s₀ (execNegotiateAlgorithms p384 sha384 s) := by
  unfold execNegotiateAlgorithms
  try refine OutKept.next ?_
  repeat' first
    | with_reducible assumption
    | with_reducible apply Kept.ite
    | with_reducible apply spdmAnswer_keeps

theorem execGetDigests_keeps {s : State} (h : Kept s₀ s) : OutKept s₀ (execGetDigests s) := by
  unfold execGetDigests
  try refine OutKept.next ?_
  repeat' first
    | with_reducible assumption
    | with_reducible apply Kept.ite
    | with_reducible apply spdmAnswer_keeps

theorem execGetCertificate_keeps {s : State} (h : Kept s₀ s) (slot : Fin 16) (offset len : Fin 65536) :
    OutKept s₀ (execGetCertificate slot offset len s) := by
  unfold execGetCertificate
  try refine OutKept.next ?_
  repeat' first
    | with_reducible assumption
    | with_reducible apply Kept.ite
    | with_reducible apply spdmError_keeps
    | with_reducible apply spdmAnswer_keeps

theorem execChallenge_keeps {s : State} (h : Kept s₀ s) (slot : Fin 16) (nonce : BitVec 256) :
    OutKept s₀ (execChallenge slot nonce s) := by
  unfold execChallenge
  try refine OutKept.next ?_
  repeat' first
    | with_reducible assumption
    | with_reducible apply Kept.ite
    | with_reducible apply spdmError_keeps
    | with_reducible apply drawRandom_keeps
    | (refine Kept.of_pair1 (by assumption) ?_)
    | with_reducible apply spdmAnswer_keeps

theorem execGetMeasurements_keeps {s : State} (h : Kept s₀ s) (index : Fin 256) (signed : Bool)
    (nonce : BitVec 256) : OutKept s₀ (execGetMeasurements index signed nonce s) := by
  unfold execGetMeasurements
  try refine OutKept.next ?_
  repeat' first
    | with_reducible assumption
    | with_reducible apply Kept.ite
    | with_reducible apply spdmError_keeps
    | with_reducible apply drawRandom_keeps
    | (refine Kept.of_pair1 (by assumption) ?_)
    | with_reducible apply spdmAnswer_keeps

theorem execSpdmUnsupported_keeps {s : State} (h : Kept s₀ s) (code : Fin 256) :
    OutKept s₀ (execSpdmUnsupported code s) := by
  unfold execSpdmUnsupported
  try refine OutKept.next ?_
  repeat' first
    | with_reducible assumption
    | with_reducible apply Kept.ite
    | with_reducible apply spdmAnswer_keeps

end Sys2Proof.Machine
end

