-- ==== Sys2Proof/Laws/KeptCore.lean ====
section
/-!
SUPPORT. What every operation keeps (see KeptBase), operation by operation: the strands of the cores.
-/
namespace Sys2Proof.Machine

open Sys2Proof

set_option maxRecDepth 4000

variable {s₀ : State}

theorem noteRefusal_keeps {s : State} (h : Kept s₀ s) (x : Xlat) : Kept s₀ (noteRefusal s x) := by
  unfold noteRefusal
  repeat' first
    | with_reducible assumption
    | with_reducible apply Kept.ite
    | with_reducible apply fabError_keeps
    | split

theorem pagePut_keeps {s : State} (h : Kept s₀ s) (ctx va : Nat) (bs : List Byte) :
    Kept s₀ (pagePut s ctx va bs) := by
  unfold pagePut
  repeat' first
    | with_reducible assumption
    | with_reducible apply Kept.ite
    | with_reducible apply hbmStoreBytes_keeps
    | with_reducible apply flashStoreBytes_keeps
    | split
    | with_reducible refine Kept.mk_touch ?_ ?_ ?_ ?_ ?_ ?_ ?_ ?_
    | exact id
    | exact memSetBytes_wf _ _

theorem virtPut_keeps {s : State} (h : Kept s₀ s) (ctx va : Nat) (bs : List Byte) :
    Kept s₀ (virtPut s ctx va bs) := by
  unfold virtPut
  repeat' first
    | with_reducible assumption
    | with_reducible apply Kept.ite
    | with_reducible apply pagePut_keeps
    | with_reducible refine Kept.foldl (fun _ _ _ => ?_) ?_

theorem virtMark_keeps {s : State} (h : Kept s₀ s) (ctx va : Nat) : Kept s₀ (virtMark s ctx va) := by
  unfold virtMark
  repeat' first
    | with_reducible assumption
    | with_reducible apply Kept.ite
    | with_reducible apply poisonSink_keeps

theorem aperturePut_keeps {s : State} (h : Kept s₀ s) (c a : Nat) (bs : List Byte) :
    Kept s₀ (aperturePut s c a bs) := by
  unfold aperturePut
  repeat' first
    | with_reducible assumption
    | with_reducible apply Kept.ite
    | with_reducible apply modCore_keeps

theorem strandPut_keeps {s : State} (h : Kept s₀ s) (c strand ctx va : Nat) (bs : List Byte) :
    Kept s₀ (strandPut s c strand ctx va bs) := by
  unfold strandPut
  repeat' first
    | with_reducible assumption
    | with_reducible apply Kept.ite
    | with_reducible apply aperturePut_keeps
    | with_reducible apply virtPut_keeps
    | split

theorem dvAccess_dispatch_keeps {s : State} (h : Kept s₀ s) (x : DvAccess) : Kept s₀ (DvAccess.dispatch x s).2 :=
  Kept.ite_snd h (flow_run_keeps h _ _)

theorem engineWrite_keeps {s : State} (h : Kept s₀ s) (agent : Agent) (ctx va : Nat) (bs : List Byte) :
    Kept s₀ (engineWrite s agent ctx va bs) :=
  Kept.ite (virtPut_keeps (flow_run_keeps h _ _) _ _ _) (noteRefusal_keeps h _)

theorem putLine_keeps {s : State} (h : Kept s₀ s) (c : Nat) (b : Nat) (t : StreamSpec) (line : Line) :
    Kept s₀ (putLine s c b t line) := by
  unfold putLine
  repeat' first
    | with_reducible assumption
    | ((fail_if_no_progress first | extract_lets +onlyGivenNames z | fail); refine (have hz : Kept s₀ z := ?_; ?_); rotate_left; clear_value z)
    | (fail_if_no_progress first | extract_lets +onlyGivenNames z | fail)
    | with_reducible apply Kept.ite
    | with_reducible apply modCore_keeps
    | with_reducible apply engineWrite_keeps
    | split
    | (fail_if_no_progress first | with_reducible refine Kept.mk_congr ?_ rfl rfl rfl rfl rfl rfl | fail)

theorem execStreamLineWrite_keeps {s : State} (h : Kept s₀ s) (core : Fin 98304) (buffer : Fin 4) (expander : Fin 32) :
    OutKept s₀ (execStreamLineWrite core buffer expander s) := by
  unfold execStreamLineWrite
  repeat' first
    | with_reducible assumption
    | ((fail_if_no_progress first | extract_lets +onlyGivenNames z | fail); refine (have hz : Kept s₀ z := ?_; ?_); rotate_left; clear_value z)
    | (fail_if_no_progress first | extract_lets +onlyGivenNames z | fail)
    | with_reducible apply OutKept.next
    | with_reducible apply Kept.ite
    | with_reducible apply spendAll_keeps
    | with_reducible apply genMismatch_keeps
    | with_reducible apply nextLine_keeps
    | with_reducible apply putLine_keeps
    | (refine Kept.of_pair1 (by assumption) ?_)
    | split

theorem setS_keeps {s : State} (h : Kept s₀ s) (c i r : Nat) (v : Word) : Kept s₀ (setS s c i r v) := by
  unfold setS
  repeat' first
    | with_reducible assumption
    | with_reducible apply Kept.ite
    | with_reducible apply modStrand_keeps

theorem setA_keeps {s : State} (h : Kept s₀ s) (c i r : Nat) (v : Word) : Kept s₀ (setA s c i r v) := by
  unfold setA
  repeat' first
    | with_reducible assumption
    | with_reducible apply Kept.ite
    | with_reducible apply modStrand_keeps

theorem setPc_keeps {s : State} (h : Kept s₀ s) (c i : Nat) (p : Option Nat) : Kept s₀ (setPc s c i p) := by
  unfold setPc
  repeat' first
    | with_reducible assumption
    | with_reducible apply Kept.ite
    | with_reducible apply modStrand_keeps

theorem setPhase_keeps {s : State} (h : Kept s₀ s) (c i : Nat) (ph : StrandPhase) : Kept s₀ (setPhase s c i ph) := by
  unfold setPhase
  repeat' first
    | with_reducible assumption
    | with_reducible apply Kept.ite
    | with_reducible apply modStrand_keeps

theorem poisonedRead_keeps {s : State} (h : Kept s₀ s) (c i tc ta : Nat) : Kept s₀ (poisonedRead s c i tc ta) := by
  unfold poisonedRead
  repeat' first
    | with_reducible assumption
    | with_reducible apply Kept.ite
    | with_reducible apply sramFault_keeps
    | with_reducible apply coreFault_keeps

theorem advance_keeps {s : State} (h : Kept s₀ s) (c : Nat) (i : Nat) :
    Kept s₀ (advance s c i) := by
  unfold advance
  repeat' first
    | with_reducible assumption
    | with_reducible apply Kept.ite
    | with_reducible apply modCore_keeps
    | with_reducible apply modStrand_keeps
    | split
    | (fail_if_no_progress first | with_reducible refine Kept.mk_congr ?_ rfl rfl rfl rfl rfl rfl | fail)
    | dsimp only

theorem runEntry_keeps {s : State} (h : Kept s₀ s) (op : Nat) (chk : State → Entry → List CoreFault)
    (short busy : State → Entry → Bool) (body : Entry → State → State) (c i : Nat)
    (hb : ∀ e t, Kept s₀ t → Kept s₀ (body e t)) : Kept s₀ (runEntry op chk short busy body c i s) := by
  unfold runEntry
  split
  · exact h
  · exact setPhase_keeps h _ _ _
  · split
    · exact poisonedRead_keeps h _ _ _ _
    · exact coreFault_keeps h _ _ _
  · exact declareFault_keeps h _ _
  · exact hb _ _ (advance_keeps h _ _)

theorem issueOp_keeps {s : State} (h : Kept s₀ s) (c : Nat) (i : Nat) (e : Entry) (dest : Option Nat) (value : Word) (remote : Bool) (ph : OpPhase) :
    Kept s₀ (issueOp s c i e dest value remote ph) := by
  unfold issueOp
  repeat' first
    | with_reducible assumption
    | with_reducible apply Kept.ite
    | with_reducible apply modCore_keeps
    | with_reducible apply latchRaise_keeps
    | split
    | (fail_if_no_progress first | with_reducible refine Kept.mk_congr ?_ rfl rfl rfl rfl rfl rfl | fail)
    | dsimp only

theorem readsFrom_keeps {s : State} (h : Kept s₀ s) (c : Nat) (t : Nat) :
    Kept s₀ (readsFrom s c t) := by
  unfold readsFrom
  repeat' first
    | with_reducible assumption
    | with_reducible apply Kept.ite
    | with_reducible apply modCore_keeps
    | split
    | (fail_if_no_progress first | with_reducible refine Kept.mk_congr ?_ rfl rfl rfl rfl rfl rfl | fail)
    | dsimp only

theorem issueDone_keeps {s : State} (h : Kept s₀ s) (c i : Nat) (e : Entry) : Kept s₀ (issueDone s c i e) := by
  unfold issueDone
  repeat' first
    | with_reducible assumption
    | with_reducible apply Kept.ite
    | with_reducible apply issueOp_keeps

theorem endOp_keeps {s : State} (h : Kept s₀ s) (c : Nat) (o : OutOp) : Kept s₀ (endOp s c o) := by
  unfold endOp
  repeat' first
    | with_reducible assumption
    | with_reducible apply Kept.ite
    | with_reducible apply modCore_keeps
    | with_reducible apply latchLower_keeps
    | split

theorem countCorrected_keeps {s : State} (h : Kept s₀ s) (o : OutOp) :
    Kept s₀ (countCorrected s o) := by
  unfold countCorrected
  repeat' first
    | with_reducible assumption
    | ((fail_if_no_progress first | extract_lets +onlyGivenNames z | fail); refine (have hz : Kept s₀ z := ?_; ?_); rotate_left; clear_value z)
    | (fail_if_no_progress first | extract_lets +onlyGivenNames z | fail)
    | with_reducible apply Kept.ite
    | with_reducible apply state_takeFree_keeps
    | with_reducible apply bumpF_keeps
    | with_reducible apply count_keeps
    | (refine Kept.of_pair1 (by assumption) ?_)
    | split

theorem completeOp_keeps {s : State} (h : Kept s₀ s) (c : Nat) (o : OutOp) :
    Kept s₀ (completeOp s c o) := by
  unfold completeOp
  repeat' first
    | with_reducible assumption
    | with_reducible apply Kept.ite
    | with_reducible apply setS_keeps
    | with_reducible apply setPhase_keeps
    | with_reducible apply endOp_keeps
    | with_reducible apply countCorrected_keeps
    | split
    | dsimp only

theorem raiseAccess_keeps {s : State} (h : Kept s₀ s) (c i : Nat) (f : CoreFault) (a : Word) :
    Kept s₀ (raiseAccess s c i f a) := by
  unfold raiseAccess
  repeat' first
    | with_reducible assumption
    | with_reducible apply Kept.ite
    | with_reducible apply poisonedRead_keeps
    | with_reducible apply coreFault_keeps

theorem runPlain_keeps {s : State} (h : Kept s₀ s) (op : Nat) (body : Entry → State → State) (core : Fin 98304)
    (strand : Fin 4) (hb : ∀ e t, Kept s₀ t → Kept s₀ (body e t)) : OutKept s₀ (runPlain op body core strand s) :=
  runEntry_keeps h _ _ _ _ _ _ _ hb

theorem execEmpty_keeps {s : State} (h : Kept s₀ s) (core : Fin 98304) (strand : Fin 4) :
    OutKept s₀ (execEmpty core strand s) := by
  unfold execEmpty
  repeat' first
    | with_reducible assumption
    | with_reducible apply Kept.ite
    | with_reducible refine runPlain_keeps ?_ _ _ _ _ (fun _ _ _ => ?_)

theorem execNop_keeps {s : State} (h : Kept s₀ s) (core : Fin 98304) (strand : Fin 4) :
    OutKept s₀ (execNop core strand s) := by
  unfold execNop
  repeat' first
    | with_reducible assumption
    | with_reducible apply Kept.ite
    | with_reducible refine runPlain_keeps ?_ _ _ _ _ (fun _ _ _ => ?_)

theorem execJump_keeps {s : State} (h : Kept s₀ s) (core : Fin 98304) (strand : Fin 4) :
    OutKept s₀ (execJump core strand s) := by
  unfold execJump
  repeat' first
    | with_reducible assumption
    | with_reducible apply Kept.ite
    | with_reducible refine runPlain_keeps ?_ _ _ _ _ (fun _ _ _ => ?_)
    | with_reducible apply setPc_keeps

theorem execBranch_keeps {s : State} (h : Kept s₀ s) (core : Fin 98304) (strand : Fin 4) :
    OutKept s₀ (execBranch core strand s) := by
  unfold execBranch
  repeat' first
    | with_reducible assumption
    | with_reducible apply Kept.ite
    | with_reducible refine runPlain_keeps ?_ _ _ _ _ (fun _ _ _ => ?_)
    | with_reducible apply setPc_keeps

theorem setL_keeps {s : State} (h : Kept s₀ s) (c i r v : Nat) : Kept s₀ (setL s c i r v) := by
  unfold setL
  repeat' first
    | with_reducible assumption
    | with_reducible apply Kept.ite
    | with_reducible apply modStrand_keeps

theorem execLoop_keeps {s : State} (h : Kept s₀ s) (core : Fin 98304) (strand : Fin 4) :
    OutKept s₀ (execLoop core strand s) := by
  unfold execLoop
  repeat' first
    | with_reducible assumption
    | with_reducible apply Kept.ite
    | with_reducible refine runPlain_keeps ?_ _ _ _ _ (fun _ _ _ => ?_)
    | with_reducible apply raiseCoreFlags_keeps
    | with_reducible apply setL_keeps
    | with_reducible apply setPc_keeps

theorem execEndloop_keeps {s : State} (h : Kept s₀ s) (core : Fin 98304) (strand : Fin 4) :
    OutKept s₀ (execEndloop core strand s) := by
  unfold execEndloop
  repeat' first
    | with_reducible assumption
    | with_reducible apply Kept.ite
    | with_reducible refine runPlain_keeps ?_ _ _ _ _ (fun _ _ _ => ?_)
    | with_reducible apply setL_keeps
    | with_reducible apply setPc_keeps

theorem execCall_keeps {s : State} (h : Kept s₀ s) (core : Fin 98304) (strand : Fin 4) :
    OutKept s₀ (execCall core strand s) := by
  unfold execCall
  try refine OutKept.next ?_
  repeat' first
    | with_reducible assumption
    | with_reducible apply Kept.ite
    | with_reducible refine runEntry_keeps ?_ _ _ _ _ _ _ _ (fun _ _ _ => ?_)
    | with_reducible apply modStrand_keeps

theorem execReturn_keeps {s : State} (h : Kept s₀ s) (core : Fin 98304) (strand : Fin 4) :
    OutKept s₀ (execReturn core strand s) := by
  unfold execReturn
  try refine OutKept.next ?_
  repeat' first
    | with_reducible assumption
    | with_reducible apply Kept.ite
    | with_reducible refine runEntry_keeps ?_ _ _ _ _ _ _ _ (fun _ _ _ => ?_)
    | with_reducible apply modStrand_keeps

theorem execWait_keeps {s : State} (h : Kept s₀ s) (core : Fin 98304) (strand : Fin 4) :
    OutKept s₀ (execWait core strand s) := by
  unfold execWait
  repeat' first
    | with_reducible assumption
    | with_reducible apply Kept.ite
    | with_reducible refine runPlain_keeps ?_ _ _ _ _ (fun _ _ _ => ?_)

theorem execEnd_keeps {s : State} (h : Kept s₀ s) (core : Fin 98304) (strand : Fin 4) :
    OutKept s₀ (execEnd core strand s) := by
  unfold execEnd
  repeat' first
    | with_reducible assumption
    | with_reducible apply Kept.ite
    | with_reducible refine runPlain_keeps ?_ _ _ _ _ (fun _ _ _ => ?_)
    | with_reducible apply setPhase_keeps

theorem execNotify_keeps {s : State} (h : Kept s₀ s) (core : Fin 98304) (strand : Fin 4) :
    OutKept s₀ (execNotify core strand s) := by
  unfold execNotify
  repeat' first
    | with_reducible assumption
    | with_reducible apply Kept.ite
    | with_reducible refine runPlain_keeps ?_ _ _ _ _ (fun _ _ _ => ?_)
    | with_reducible apply latchLower_keeps

theorem execSimm_keeps {s : State} (h : Kept s₀ s) (core : Fin 98304) (strand : Fin 4) :
    OutKept s₀ (execSimm core strand s) := by
  unfold execSimm
  repeat' first
    | with_reducible assumption
    | with_reducible apply Kept.ite
    | with_reducible refine runPlain_keeps ?_ _ _ _ _ (fun _ _ _ => ?_)
    | with_reducible apply setS_keeps

theorem execSalu_keeps {s : State} (h : Kept s₀ s) (core : Fin 98304) (strand : Fin 4) :
    OutKept s₀ (execSalu core strand s) := by
  unfold execSalu
  repeat' first
    | with_reducible assumption
    | with_reducible apply Kept.ite
    | with_reducible refine runPlain_keeps ?_ _ _ _ _ (fun _ _ _ => ?_)
    | with_reducible apply setS_keeps

theorem execAmov_keeps {s : State} (h : Kept s₀ s) (core : Fin 98304) (strand : Fin 4) :
    OutKept s₀ (execAmov core strand s) := by
  unfold execAmov
  repeat' first
    | with_reducible assumption
    | with_reducible apply Kept.ite
    | with_reducible refine runPlain_keeps ?_ _ _ _ _ (fun _ _ _ => ?_)
    | with_reducible apply setA_keeps

theorem execAadd_keeps {s : State} (h : Kept s₀ s) (core : Fin 98304) (strand : Fin 4) :
    OutKept s₀ (execAadd core strand s) := by
  unfold execAadd
  repeat' first
    | with_reducible assumption
    | with_reducible apply Kept.ite
    | with_reducible refine runPlain_keeps ?_ _ _ _ _ (fun _ _ _ => ?_)
    | with_reducible apply setA_keeps

theorem clearCoreFlags_keeps {s : State} (h : Kept s₀ s) (c mask : Nat) : Kept s₀ (clearCoreFlags s c mask) := by
  unfold clearCoreFlags
  repeat' first
    | with_reducible assumption
    | with_reducible apply Kept.ite
    | with_reducible apply setReg_keeps

theorem execFlags_keeps {s : State} (h : Kept s₀ s) (core : Fin 98304) (strand : Fin 4) :
    OutKept s₀ (execFlags core strand s) := by
  unfold execFlags
  repeat' first
    | with_reducible assumption
    | with_reducible apply Kept.ite
    | with_reducible refine runPlain_keeps ?_ _ _ _ _ (fun _ _ _ => ?_)
    | with_reducible apply clearCoreFlags_keeps
    | with_reducible apply setS_keeps

theorem dvIssue_keeps {s : State} (h : Kept s₀ s) (x : DvAccess) (e : Entry) (dest : Option Nat) (value : Word)
    (remote : Bool) (put : State → State) (hp : ∀ t, Kept s₀ t → Kept s₀ (put t)) :
    Kept s₀ (dvIssue x e dest value remote put s) := by
  unfold dvIssue
  split
  · exact issueOp_keeps (hp _ (dvAccess_dispatch_keeps h _)) _ _ _ _ _ _ _
  · exact issueOp_keeps (noteRefusal_keeps h _) _ _ _ _ _ _ _

theorem readValue_keeps {s : State} (h : Kept s₀ s) (c i ctx va n : Nat) : Kept s₀ (readValue s c i ctx va n).2 := by
  unfold readValue
  repeat' first
    | with_reducible assumption
    | with_reducible apply Kept.ite
    | with_reducible apply state_takeFree_keeps
    | (refine Kept.of_pair1 (by assumption) ?_)
    | with_reducible apply hbmFault_keeps
    | with_reducible apply Kept.ite_snd
    | split

theorem sloadBody_keeps {s : State} (h : Kept s₀ s) (c : Nat) (i : Nat) (e : Entry) :
    Kept s₀ (sloadBody c i e s) := by
  unfold sloadBody
  repeat' first
    | with_reducible assumption
    | ((fail_if_no_progress first | extract_lets +onlyGivenNames z | fail); refine (have hz : Kept s₀ z := ?_; ?_); rotate_left; clear_value z)
    | (fail_if_no_progress first | extract_lets +onlyGivenNames z | fail)
    | with_reducible apply Kept.ite
    | with_reducible apply poisonedRead_keeps
    | with_reducible apply issueOp_keeps
    | with_reducible apply readsFrom_keeps
    | with_reducible refine dvIssue_keeps ?_ _ _ _ _ _ _ (fun _ _ => ?_)
    | with_reducible apply readValue_keeps
    | (refine Kept.of_pair1 (by assumption) ?_)
    | split
    | (fail_if_no_progress first | with_reducible refine Kept.mk_congr ?_ rfl rfl rfl rfl rfl rfl | fail)
    | dsimp only [id]

theorem execSload_keeps {s : State} (h : Kept s₀ s) (core : Fin 98304) (strand : Fin 4) :
    OutKept s₀ (execSload core strand s) := by
  unfold execSload
  repeat' first
    | with_reducible assumption
    | with_reducible apply OutKept.next
    | with_reducible apply Kept.ite
    | with_reducible refine runEntry_keeps ?_ _ _ _ _ _ _ _ (fun _ _ _ => ?_)
    | with_reducible apply sloadBody_keeps
    | split
    | dsimp only

theorem sstoreBody_keeps {s : State} (h : Kept s₀ s) (c : Nat) (i : Nat) (e : Entry) :
    Kept s₀ (sstoreBody c i e s) := by
  unfold sstoreBody
  repeat' first
    | with_reducible assumption
    | with_reducible apply Kept.ite
    | with_reducible apply sramStoreBytes_keeps
    | with_reducible apply strandPut_keeps
    | with_reducible apply issueDone_keeps
    | with_reducible refine dvIssue_keeps ?_ _ _ _ _ _ _ (fun _ _ => ?_)
    | split
    | (fail_if_no_progress first | with_reducible refine Kept.mk_congr ?_ rfl rfl rfl rfl rfl rfl | fail)
    | dsimp only

theorem execSstore_keeps {s : State} (h : Kept s₀ s) (core : Fin 98304) (strand : Fin 4) :
    OutKept s₀ (execSstore core strand s) := by
  unfold execSstore
  repeat' first
    | with_reducible assumption
    | with_reducible apply OutKept.next
    | with_reducible apply Kept.ite
    | with_reducible refine runEntry_keeps ?_ _ _ _ _ _ _ _ (fun _ _ _ => ?_)
    | with_reducible apply sstoreBody_keeps
    | split
    | dsimp only

theorem atomicBody_keeps {s : State} (h : Kept s₀ s) (c : Nat) (i : Nat) (e : Entry) :
    Kept s₀ (atomicBody c i e s) := by
  unfold atomicBody
  repeat' first
    | with_reducible assumption
    | ((fail_if_no_progress first | extract_lets +onlyGivenNames z | fail); refine (have hz : Kept s₀ z := ?_; ?_); rotate_left; clear_value z)
    | (fail_if_no_progress first | extract_lets +onlyGivenNames z | fail)
    | with_reducible apply Kept.ite
    | with_reducible apply strandPut_keeps
    | with_reducible refine dvIssue_keeps ?_ _ _ _ _ _ _ (fun _ _ => ?_)
    | with_reducible apply readValue_keeps
    | (refine Kept.of_pair1 (by assumption) ?_)
    | split
    | (fail_if_no_progress first | with_reducible refine Kept.mk_congr ?_ rfl rfl rfl rfl rfl rfl | fail)
    | dsimp only [id]

theorem execAtomic_keeps {s : State} (h : Kept s₀ s) (core : Fin 98304) (strand : Fin 4) :
    OutKept s₀ (execAtomic core strand s) := by
  unfold execAtomic
  repeat' first
    | with_reducible assumption
    | with_reducible apply OutKept.next
    | with_reducible apply Kept.ite
    | with_reducible refine runEntry_keeps ?_ _ _ _ _ _ _ _ (fun _ _ _ => ?_)
    | with_reducible apply atomicBody_keeps
    | split
    | dsimp only

theorem dmaPut_keeps {s : State} (h : Kept s₀ s) (c i ctx : Nat) (dst : Word) (bs : List Byte)
    (bad : List (Nat × Nat)) : Kept s₀ (dmaPut c i ctx dst bs bad s) := by
  unfold dmaPut
  repeat' first
    | with_reducible assumption
    | with_reducible apply Kept.ite
    | with_reducible apply strandPut_keeps
    | with_reducible apply virtMark_keeps
    | with_reducible apply sramStoreBytes_keeps
    | with_reducible apply sramPoisonRange_keeps
    | with_reducible refine Kept.foldl (fun _ _ _ => ?_) ?_

theorem dmaPoisonFault_keeps {s : State} (h : Kept s₀ s) (c i ctx : Nat) (src : Word) (n : Nat)
    (bad : List (Nat × Nat)) : Kept s₀ (dmaPoisonFault s c i ctx src n bad) := by
  unfold dmaPoisonFault
  repeat' first
    | with_reducible assumption
    | with_reducible apply Kept.ite
    | with_reducible apply hbmFault_keeps
    | with_reducible apply poisonedRead_keeps
    | split

theorem dmaBody_keeps {s : State} (h : Kept s₀ s) (c : Nat) (i : Nat) (e : Entry) :
    Kept s₀ (dmaBody c i e s) := by
  unfold dmaBody
  repeat' first
    | with_reducible assumption
    | with_reducible apply Kept.ite
    | with_reducible apply noteRefusal_keeps
    | with_reducible apply dvAccess_dispatch_keeps
    | with_reducible apply issueOp_keeps
    | with_reducible apply readsFrom_keeps
    | with_reducible apply dmaPut_keeps
    | with_reducible apply dmaPoisonFault_keeps
    | (refine Kept.of_pair1 (by assumption) ?_)
    | split
    | dsimp only

theorem execDma_keeps {s : State} (h : Kept s₀ s) (core : Fin 98304) (strand : Fin 4) :
    OutKept s₀ (execDma core strand s) := by
  unfold execDma
  repeat' first
    | with_reducible assumption
    | with_reducible apply OutKept.next
    | with_reducible apply Kept.ite
    | with_reducible refine runEntry_keeps ?_ _ _ _ _ _ _ _ (fun _ _ _ => ?_)
    | with_reducible apply dmaBody_keeps
    | split
    | dsimp only

theorem popLines_keeps {s : State} (h : Kept s₀ s) (c : Nat) (b : Nat) (n : Nat) :
    Kept s₀ (popLines s c b n) := by
  unfold popLines
  repeat' first
    | with_reducible assumption
    | with_reducible apply Kept.ite
    | with_reducible apply modCore_keeps
    | split
    | (fail_if_no_progress first | with_reducible refine Kept.mk_congr ?_ rfl rfl rfl rfl rfl rfl | fail)
    | dsimp only

theorem takeUp_keeps {s : State} (h : Kept s₀ s) (c : Nat) (b : Nat) (need : Nat) :
    Kept s₀ (takeUp s c b need) := by
  unfold takeUp
  repeat' first
    | with_reducible assumption
    | ((fail_if_no_progress first | extract_lets +onlyGivenNames z | fail); refine (have hz : Kept s₀ z := ?_; ?_); rotate_left; clear_value z)
    | (fail_if_no_progress first | extract_lets +onlyGivenNames z | fail)
    | with_reducible apply Kept.ite
    | with_reducible apply modCore_keeps
    | split
    | (fail_if_no_progress first | with_reducible refine Kept.mk_congr ?_ rfl rfl rfl rfl rfl rfl | fail)

theorem moveBody_keeps {s : State} (h : Kept s₀ s) (c i : Nat) (e : Entry) : Kept s₀ (moveBody c i e s) := by
  unfold moveBody
  repeat' first
    | with_reducible assumption
    | with_reducible apply Kept.ite
    | with_reducible apply issueDone_keeps
    | with_reducible apply popLines_keeps
    | with_reducible apply sramStoreBytes_keeps

theorem execMove_keeps {s : State} (h : Kept s₀ s) (core : Fin 98304) (strand : Fin 4) :
    OutKept s₀ (execMove core strand s) := by
  unfold execMove
  try refine OutKept.next ?_
  repeat' first
    | with_reducible assumption
    | with_reducible apply Kept.ite
    | with_reducible refine runEntry_keeps ?_ _ _ _ _ _ _ _ (fun _ _ _ => ?_)
    | with_reducible apply moveBody_keeps

theorem matmulTakeUp_keeps {s : State} (h : Kept s₀ s) (c : Nat) (i : Nat) :
    Kept s₀ (matmulTakeUp c i s) := by
  unfold matmulTakeUp
  repeat' first
    | with_reducible assumption
    | ((fail_if_no_progress first | extract_lets +onlyGivenNames z | fail); refine (have hz : Kept s₀ z := ?_; ?_); rotate_left; clear_value z)
    | (fail_if_no_progress first | extract_lets +onlyGivenNames z | fail)
    | with_reducible apply Kept.ite
    | with_reducible apply takeUp_keeps
    | with_reducible refine Kept.foldl (fun _ _ _ => ?_) ?_
    | with_reducible refine Kept.foldl_snd (fun _ _ _ => ?_) ?_
    | with_reducible refine Kept.foldl_snd2 (fun _ _ _ => ?_) ?_
    | with_reducible refine Kept.foldl_fst (fun _ _ _ => ?_) ?_
    | split

theorem postInc_keeps {s : State} (h : Kept s₀ s) (c i : Nat) (e : Entry) : Kept s₀ (postInc c i e s) := by
  unfold postInc
  repeat' first
    | with_reducible assumption
    | with_reducible apply Kept.ite
    | with_reducible apply setA_keeps

theorem matmulBody_keeps {s : State} (h : Kept s₀ s) (c i : Nat) (e : Entry) : Kept s₀ (matmulBody c i e s) := by
  unfold matmulBody
  repeat' first
    | with_reducible assumption
    | with_reducible apply Kept.ite
    | with_reducible apply modCore_keeps
    | with_reducible apply popLines_keeps
    | with_reducible apply raiseCoreFlags_keeps
    | with_reducible apply postInc_keeps
    | with_reducible apply issueDone_keeps
    | with_reducible apply poisonedRead_keeps
    | split
    | with_reducible refine Kept.mk_congr ?_ rfl rfl rfl rfl rfl rfl

theorem execMatmul_keeps {s : State} (h : Kept s₀ s) (core : Fin 98304) (strand : Fin 4) :
    OutKept s₀ (execMatmul core strand s) := by
  unfold execMatmul
  repeat' first
    | with_reducible assumption
    | with_reducible apply OutKept.next
    | with_reducible apply Kept.ite
    | with_reducible refine runEntry_keeps ?_ _ _ _ _ _ _ _ (fun _ _ _ => ?_)
    | with_reducible apply matmulTakeUp_keeps
    | with_reducible apply matmulBody_keeps
    | split
    | dsimp only

/-- A result that is no error is a legal state. -/
def ExKept (s₀ : State) : Except LocalError State → Prop
  | .ok t => Kept s₀ t
  | .error _ => True

theorem ExKept.ok {t : State} (h : Kept s₀ t) : ExKept s₀ (.ok t) := h

theorem ExKept.pure {t : State} (h : Kept s₀ t) : ExKept s₀ (pure t) := h

theorem ExKept.error (e : LocalError) : ExKept s₀ (.error e) := trivial

theorem ExKept.of_eq {x : Except LocalError State} {t : State} (h : ExKept s₀ x) (e : x = .ok t) : Kept s₀ t := by
  rw [e] at h; exact h

theorem ExKept.bind {α : Type} {x : Except LocalError α} {f : α → Except LocalError State}
    (h : ∀ a, x = .ok a → ExKept s₀ (f a)) : ExKept s₀ (x >>= f) := by
  cases x with
  | error e => exact trivial
  | ok a => exact h a rfl

theorem ExKept.ite {c : Prop} [Decidable c] {x y : Except LocalError State} (hx : ExKept s₀ x) (hy : ExKept s₀ y) :
    ExKept s₀ (if c then x else y) := by
  split <;> assumption

theorem writeLocal_keeps {s : State} (h : Kept s₀ s) (c : Nat) (a : Word) (al : Nat) (bs : List Byte) :
    ExKept s₀ (writeLocal s c a al bs) := by
  unfold writeLocal
  split
  · exact ExKept.error _
  · exact sramStoreBytes_keeps h _ _ _

theorem inOrder_keeps {α : Type} {s : State} (h : Kept s₀ s) (f : α → State → Except LocalError State) (xs : List α)
    (hf : ∀ x t, Kept s₀ t → ExKept s₀ (f x t)) : Kept s₀ (inOrder f xs s).2 := by
  induction xs generalizing s with
  | nil => exact h
  | cons x xs ih =>
    unfold inOrder
    split
    · exact ih ((hf x s h).of_eq (by assumption))
    · exact h

theorem runItems_keeps {α : Type} {s : State} (h : Kept s₀ s) (c i : Nat) (e : Entry)
    (f : α → State → Except LocalError State) (xs : List α) (hf : ∀ x t, Kept s₀ t → ExKept s₀ (f x t)) :
    Kept s₀ (runItems c i e f xs s) := by
  unfold runItems
  dsimp only
  split
  · exact issueDone_keeps (inOrder_keeps h f xs hf) _ _ _
  · exact raiseAccess_keeps (issueDone_keeps (inOrder_keeps h f xs hf) _ _ _) _ _ _ _

theorem fnFetch_keeps {s : State} (h : Kept s₀ s) (c i fn : Nat) : Kept s₀ (fnFetch c i fn s) := by
  unfold fnFetch
  repeat' first
    | with_reducible assumption
    | with_reducible apply Kept.ite
    | with_reducible apply declareFault_keeps

theorem lustreElem_keeps {s : State} (h : Kept s₀ s) (c i : Nat) (e : Entry) (a b n : Nat) :
    ExKept s₀ (lustreElem c i e a b n s) := by
  unfold lustreElem
  repeat' first
    | with_reducible assumption
    | with_reducible exact ExKept.error _
    | with_reducible refine ExKept.bind (fun _ _ => ?_)
    | with_reducible refine ExKept.ok ?_
    | with_reducible refine ExKept.pure ?_
    | with_reducible apply ExKept.ite
    | with_reducible apply raiseCoreFlags_keeps
    | with_reducible apply writeLocal_keeps
    | with_reducible apply sramStore_keeps
    | (refine (writeLocal_keeps ?_ _ _ _ _).of_eq (by assumption))

theorem lustreOverlap_keeps {s : State} (h : Kept s₀ s) (c i : Nat) (e : Entry) : Kept s₀ (lustreOverlap c i e s) := by
  unfold lustreOverlap
  extract_lets n inw outw src dst lo hi k
  exact Kept.ite h (Kept.ite h ((sramStoreBytes_keeps h c lo _).take k))

theorem lustreBody_keeps {s : State} (h : Kept s₀ s) (c i : Nat) (e : Entry) : Kept s₀ (lustreBody c i e s) := by
  unfold lustreBody
  repeat' first
    | with_reducible assumption
    | with_reducible apply Kept.ite
    | with_reducible apply fnFetch_keeps
    | with_reducible refine inOrder_keeps ?_ _ _ (fun _ _ _ => ?_)
    | (refine Kept.of_pair1 (by assumption) ?_)
    | with_reducible apply lustreElem_keeps
    | with_reducible apply issueDone_keeps
    | with_reducible apply lustreOverlap_keeps
    | with_reducible apply raiseAccess_keeps
    | split
    | dsimp only

theorem execLustre_keeps {s : State} (h : Kept s₀ s) (core : Fin 98304) (strand : Fin 4) :
    OutKept s₀ (execLustre core strand s) := by
  unfold execLustre
  repeat' first
    | with_reducible assumption
    | with_reducible apply OutKept.next
    | with_reducible apply Kept.ite
    | with_reducible refine runEntry_keeps ?_ _ _ _ _ _ _ _ (fun _ _ _ => ?_)
    | with_reducible apply lustreBody_keeps
    | split
    | dsimp only

theorem putBits_keeps {s : State} (h : Kept s₀ s) (c : Nat) (row : Word) (al lo w v : Nat) :
    ExKept s₀ (putBits s c row al lo w v) := by
  unfold putBits
  repeat' first
    | with_reducible assumption
    | with_reducible exact ExKept.error _
    | with_reducible refine ExKept.bind (fun _ _ => ?_)
    | with_reducible refine ExKept.ok ?_
    | with_reducible refine ExKept.pure ?_
    | with_reducible apply ExKept.ite
    | with_reducible apply raiseCoreFlags_keeps
    | with_reducible apply writeLocal_keeps
    | with_reducible apply sramStore_keeps
    | (refine (writeLocal_keeps ?_ _ _ _ _).of_eq (by assumption))
    | split

theorem epiCell_keeps {s : State} (h : Kept s₀ s) (c i : Nat) (e : Entry) (t : Tile) (j : Nat) :
    ExKept s₀ (epiCell c i e t j s) := by
  unfold epiCell
  generalize shapeOf _ = sh
  obtain ⟨m, n⟩ := sh
  dsimp -zeta only
  extract_lets r col x breg sreg w row jp
  have hjp : ∀ q, ExKept s₀ (jp q) := by
    intro q
    unfold jp
    extract_lets jp2
    have hjp2 : ∀ bias, ExKept s₀ (jp2 bias) := by
      intro bias
      unfold jp2
      extract_lets jp3
      have hjp3 : ∀ sc, ExKept s₀ (jp3 sc) := fun sc =>
        ExKept.bind fun s' hs => ExKept.pure (raiseCoreFlags_keeps ((putBits_keeps h _ _ _ _ _ _).of_eq hs) _ _)
      clear_value jp3
      split <;> exact ExKept.bind fun sc _ => hjp3 sc
    clear_value jp2
    split <;> exact ExKept.bind fun b _ => hjp2 b
  clear_value jp
  split <;> exact ExKept.bind fun q _ => hjp q

theorem epilogueBody_keeps {s : State} (h : Kept s₀ s) (c i : Nat) (e : Entry) : Kept s₀ (epilogueBody c i e s) := by
  unfold epilogueBody
  repeat' first
    | with_reducible assumption
    | with_reducible apply Kept.ite
    | with_reducible refine runItems_keeps ?_ _ _ _ _ _ (fun _ _ _ => ?_)
    | with_reducible apply epiCell_keeps
    | with_reducible apply fnFetch_keeps

theorem execEpilogue_keeps {s : State} (h : Kept s₀ s) (core : Fin 98304) (strand : Fin 4) :
    OutKept s₀ (execEpilogue core strand s) := by
  unfold execEpilogue
  repeat' first
    | with_reducible assumption
    | with_reducible apply OutKept.next
    | with_reducible apply Kept.ite
    | with_reducible refine runEntry_keeps ?_ _ _ _ _ _ _ _ (fun _ _ _ => ?_)
    | with_reducible apply epilogueBody_keeps
    | split
    | dsimp only

theorem widePoison_raise_keeps {s : State} (h : Kept s₀ s) (p : WidePoison) (c i : Nat) :
    Kept s₀ (WidePoison.raise p c i s) := by
  unfold WidePoison.raise
  repeat' first
    | with_reducible assumption
    | with_reducible apply Kept.ite
    | with_reducible apply hbmFault_keeps
    | with_reducible apply poisonedRead_keeps
    | split

theorem wideRun_keeps {s : State} (h : Kept s₀ s) (need : Need) (c i : Nat) (e : Entry) (new : Option (List Nat))
    (srcBytes : Nat) (reads : Bool) (put : State → State) (hp : ∀ t, Kept s₀ t → Kept s₀ (put t)) :
    Kept s₀ (wideRun need c i e new srcBytes reads put s) := by
  unfold wideRun
  extract_lets a n bad ctx bs ok s1 s2
  split
  · have h1 : Kept s₀ s1 := dvIssue_keeps h _ _ _ _ _ _
      (fun t ht => hp _ (Kept.ite (strandPut_keeps ht _ _ _ _ _) ht))
    exact Kept.ite (widePoison_raise_keeps h1 _ _ _) h1
  · have h1 : Kept s₀ s2 := by
      unfold s2
      split
      · exact sramStoreBytes_keeps h _ _ _
      · exact h
    exact widePoison_raise_keeps (issueDone_keeps (hp _ h1) _ _ _) _ _ _

theorem waddBody_keeps {s : State} (h : Kept s₀ s) (c : Nat) (i : Nat) (e : Entry) :
    Kept s₀ (waddBody c i e s) := by
  unfold waddBody
  repeat' first
    | with_reducible assumption
    | ((fail_if_no_progress first | extract_lets +onlyGivenNames z | fail); refine (have hz : Kept s₀ z := ?_; ?_); rotate_left; clear_value z)
    | (fail_if_no_progress first | extract_lets +onlyGivenNames z | fail)
    | with_reducible apply Kept.ite
    | with_reducible refine wideRun_keeps ?_ _ _ _ _ _ _ _ _ (fun _ _ => ?_)
    | split
    | dsimp only [id]

theorem execWadd_keeps {s : State} (h : Kept s₀ s) (core : Fin 98304) (strand : Fin 4) :
    OutKept s₀ (execWadd core strand s) := by
  unfold execWadd
  repeat' first
    | with_reducible assumption
    | with_reducible apply OutKept.next
    | with_reducible apply Kept.ite
    | with_reducible refine runEntry_keeps ?_ _ _ _ _ _ _ _ (fun _ _ _ => ?_)
    | with_reducible apply waddBody_keeps
    | split
    | dsimp only

theorem wmergeBody_keeps {s : State} (h : Kept s₀ s) (c : Nat) (i : Nat) (e : Entry) :
    Kept s₀ (wmergeBody c i e s) := by
  unfold wmergeBody
  repeat' first
    | with_reducible assumption
    | ((fail_if_no_progress first | extract_lets +onlyGivenNames z | fail); refine (have hz : Kept s₀ z := ?_; ?_); rotate_left; clear_value z)
    | (fail_if_no_progress first | extract_lets +onlyGivenNames z | fail)
    | with_reducible apply Kept.ite
    | with_reducible refine wideRun_keeps ?_ _ _ _ _ _ _ _ _ (fun _ _ => ?_)
    | split
    | dsimp only [id]

theorem execWmerge_keeps {s : State} (h : Kept s₀ s) (core : Fin 98304) (strand : Fin 4) :
    OutKept s₀ (execWmerge core strand s) := by
  unfold execWmerge
  repeat' first
    | with_reducible assumption
    | with_reducible apply OutKept.next
    | with_reducible apply Kept.ite
    | with_reducible refine runEntry_keeps ?_ _ _ _ _ _ _ _ (fun _ _ _ => ?_)
    | with_reducible apply wmergeBody_keeps
    | split
    | dsimp only

theorem wreadBody_keeps {s : State} (h : Kept s₀ s) (c : Nat) (i : Nat) (e : Entry) :
    Kept s₀ (wreadBody c i e s) := by
  unfold wreadBody
  repeat' first
    | with_reducible assumption
    | with_reducible apply Kept.ite
    | with_reducible apply raiseCoreFlags_keeps
    | with_reducible apply sramStoreBytes_keeps
    | with_reducible refine wideRun_keeps ?_ _ _ _ _ _ _ _ _ (fun _ _ => ?_)
    | with_reducible refine Kept.foldl (fun _ _ _ => ?_) ?_
    | with_reducible refine Kept.foldl_snd (fun _ _ _ => ?_) ?_
    | with_reducible refine Kept.foldl_snd2 (fun _ _ _ => ?_) ?_
    | with_reducible refine Kept.foldl_fst (fun _ _ _ => ?_) ?_
    | split
    | dsimp only

theorem execWread_keeps {s : State} (h : Kept s₀ s) (core : Fin 98304) (strand : Fin 4) :
    OutKept s₀ (execWread core strand s) := by
  unfold execWread
  repeat' first
    | with_reducible assumption
    | with_reducible apply OutKept.next
    | with_reducible apply Kept.ite
    | with_reducible refine runEntry_keeps ?_ _ _ _ _ _ _ _ (fun _ _ _ => ?_)
    | with_reducible apply wreadBody_keeps
    | split
    | dsimp only

theorem wclearBody_keeps {s : State} (h : Kept s₀ s) (c : Nat) (i : Nat) (e : Entry) :
    Kept s₀ (wclearBody c i e s) := by
  unfold wclearBody
  repeat' first
    | with_reducible assumption
    | ((fail_if_no_progress first | extract_lets +onlyGivenNames z | fail); refine (have hz : Kept s₀ z := ?_; ?_); rotate_left; clear_value z)
    | (fail_if_no_progress first | extract_lets +onlyGivenNames z | fail)
    | with_reducible apply Kept.ite
    | with_reducible refine wideRun_keeps ?_ _ _ _ _ _ _ _ _ (fun _ _ => ?_)
    | split
    | dsimp only [id]

theorem execWclear_keeps {s : State} (h : Kept s₀ s) (core : Fin 98304) (strand : Fin 4) :
    OutKept s₀ (execWclear core strand s) := by
  unfold execWclear
  repeat' first
    | with_reducible assumption
    | with_reducible apply OutKept.next
    | with_reducible apply Kept.ite
    | with_reducible refine runEntry_keeps ?_ _ _ _ _ _ _ _ (fun _ _ _ => ?_)
    | with_reducible apply wclearBody_keeps
    | split
    | dsimp only

theorem writeRec_keeps {s : State} (h : Kept s₀ s) (c i reg r : Nat) (v : Option Nat) :
    ExKept s₀ (writeRec s c i reg r v) := by
  unfold writeRec
  repeat' first
    | with_reducible assumption
    | with_reducible exact ExKept.error _
    | with_reducible refine ExKept.bind (fun _ _ => ?_)
    | with_reducible refine ExKept.ok ?_
    | with_reducible refine ExKept.pure ?_
    | with_reducible apply ExKept.ite
    | with_reducible apply raiseCoreFlags_keeps
    | with_reducible apply writeLocal_keeps
    | with_reducible apply sramStore_keeps
    | (refine (writeLocal_keeps ?_ _ _ _ _).of_eq (by assumption))
    | split

theorem writeRow_keeps {s : State} (h : Kept s₀ s) (c : Nat) (a : Word) (code : Nat) (es : List Nat) :
    ExKept s₀ (writeRow s c a code es) := by
  unfold writeRow
  repeat' first
    | with_reducible assumption
    | with_reducible exact ExKept.error _
    | with_reducible refine ExKept.bind (fun _ _ => ?_)
    | with_reducible refine ExKept.ok ?_
    | with_reducible refine ExKept.pure ?_
    | with_reducible apply ExKept.ite
    | with_reducible apply raiseCoreFlags_keeps
    | with_reducible apply writeLocal_keeps

theorem astepItem_keeps {s : State} (h : Kept s₀ s) (c i : Nat) (e : Entry) (r : Nat) :
    ExKept s₀ (astepItem c i e r s) := by
  unfold astepItem
  repeat' first
    | with_reducible assumption
    | with_reducible exact ExKept.error _
    | with_reducible refine ExKept.bind (fun _ _ => ?_)
    | with_reducible refine ExKept.ok ?_
    | with_reducible refine ExKept.pure ?_
    | with_reducible apply ExKept.ite
    | with_reducible apply raiseCoreFlags_keeps
    | with_reducible apply writeLocal_keeps
    | with_reducible apply sramStore_keeps
    | (refine (writeLocal_keeps ?_ _ _ _ _).of_eq (by assumption))
    | (refine (writeRec_keeps ?_ _ _ _ _ _).of_eq (by assumption))

theorem execAstep_keeps {s : State} (h : Kept s₀ s) (core : Fin 98304) (strand : Fin 4) :
    OutKept s₀ (execAstep core strand s) := by
  unfold execAstep
  try refine OutKept.next ?_
  repeat' first
    | with_reducible assumption
    | with_reducible apply Kept.ite
    | with_reducible refine runEntry_keeps ?_ _ _ _ _ _ _ _ (fun _ _ _ => ?_)
    | with_reducible refine runItems_keeps ?_ _ _ _ _ _ (fun _ _ _ => ?_)
    | with_reducible apply astepItem_keeps

theorem almaxItem_keeps {s : State} (h : Kept s₀ s) (c i : Nat) (e : Entry) (r : Nat) :
    ExKept s₀ (almaxItem c i e r s) := by
  unfold almaxItem
  repeat' first
    | with_reducible assumption
    | with_reducible exact ExKept.error _
    | with_reducible refine ExKept.bind (fun _ _ => ?_)
    | with_reducible refine ExKept.ok ?_
    | with_reducible refine ExKept.pure ?_
    | with_reducible apply ExKept.ite
    | with_reducible apply raiseCoreFlags_keeps
    | with_reducible apply writeLocal_keeps
    | with_reducible apply sramStore_keeps
    | (refine (writeLocal_keeps ?_ _ _ _ _).of_eq (by assumption))
    | (refine (writeRec_keeps ?_ _ _ _ _ _).of_eq (by assumption))

theorem execAlmax_keeps {s : State} (h : Kept s₀ s) (core : Fin 98304) (strand : Fin 4) :
    OutKept s₀ (execAlmax core strand s) := by
  unfold execAlmax
  try refine OutKept.next ?_
  repeat' first
    | with_reducible assumption
    | with_reducible apply Kept.ite
    | with_reducible refine runEntry_keeps ?_ _ _ _ _ _ _ _ (fun _ _ _ => ?_)
    | with_reducible refine runItems_keeps ?_ _ _ _ _ _ (fun _ _ _ => ?_)
    | with_reducible apply almaxItem_keeps

theorem alsumItem_keeps {s : State} (h : Kept s₀ s) (c i : Nat) (e : Entry) (r : Nat) :
    ExKept s₀ (alsumItem c i e r s) := by
  unfold alsumItem
  repeat' first
    | with_reducible assumption
    | with_reducible exact ExKept.error _
    | with_reducible refine ExKept.bind (fun _ _ => ?_)
    | with_reducible refine ExKept.ok ?_
    | with_reducible refine ExKept.pure ?_
    | with_reducible apply ExKept.ite
    | with_reducible apply raiseCoreFlags_keeps
    | with_reducible apply writeLocal_keeps
    | with_reducible apply sramStore_keeps
    | (refine (writeLocal_keeps ?_ _ _ _ _).of_eq (by assumption))

theorem execAlsum_keeps {s : State} (h : Kept s₀ s) (core : Fin 98304) (strand : Fin 4) :
    OutKept s₀ (execAlsum core strand s) := by
  unfold execAlsum
  try refine OutKept.next ?_
  repeat' first
    | with_reducible assumption
    | with_reducible apply Kept.ite
    | with_reducible refine runEntry_keeps ?_ _ _ _ _ _ _ _ (fun _ _ _ => ?_)
    | with_reducible refine runItems_keeps ?_ _ _ _ _ _ (fun _ _ _ => ?_)
    | with_reducible apply alsumItem_keeps

theorem alprobItem_keeps {s : State} (h : Kept s₀ s) (c i : Nat) (e : Entry) (r : Nat) :
    ExKept s₀ (alprobItem c i e r s) := by
  unfold alprobItem
  repeat' first
    | with_reducible assumption
    | with_reducible exact ExKept.error _
    | with_reducible refine ExKept.bind (fun _ _ => ?_)
    | with_reducible refine ExKept.ok ?_
    | with_reducible refine ExKept.pure ?_
    | with_reducible apply ExKept.ite
    | with_reducible apply raiseCoreFlags_keeps
    | with_reducible apply writeLocal_keeps
    | with_reducible apply sramStore_keeps
    | (refine (writeLocal_keeps ?_ _ _ _ _).of_eq (by assumption))
    | (refine (writeRec_keeps ?_ _ _ _ _ _).of_eq (by assumption))

theorem execAlprob_keeps {s : State} (h : Kept s₀ s) (core : Fin 98304) (strand : Fin 4) :
    OutKept s₀ (execAlprob core strand s) := by
  unfold execAlprob
  try refine OutKept.next ?_
  repeat' first
    | with_reducible assumption
    | with_reducible apply Kept.ite
    | with_reducible refine runEntry_keeps ?_ _ _ _ _ _ _ _ (fun _ _ _ => ?_)
    | with_reducible refine runItems_keeps ?_ _ _ _ _ _ (fun _ _ _ => ?_)
    | with_reducible apply alprobItem_keeps

theorem afoldElemAt_keeps {s : State} (h : Kept s₀ s) (c i : Nat) (e : Entry) (r alpha q : Nat) :
    ExKept s₀ (afoldElemAt c i e r alpha q s) := by
  unfold afoldElemAt
  repeat' first
    | with_reducible assumption
    | with_reducible exact ExKept.error _
    | with_reducible refine ExKept.bind (fun _ _ => ?_)
    | with_reducible refine ExKept.ok ?_
    | with_reducible refine ExKept.pure ?_
    | with_reducible apply ExKept.ite
    | with_reducible apply raiseCoreFlags_keeps
    | with_reducible apply writeLocal_keeps
    | with_reducible apply sramStore_keeps
    | (refine (writeLocal_keeps ?_ _ _ _ _).of_eq (by assumption))

theorem exFold_keeps {α : Type} {s : State} (h : Kept s₀ s) (f : State → α → Except LocalError State) (xs : List α)
    (hf : ∀ t x, Kept s₀ t → ExKept s₀ (f t x)) : ExKept s₀ (xs.foldlM f s) := by
  induction xs generalizing s with
  | nil => exact h
  | cons x xs ih =>
    rw [List.foldlM_cons]
    exact ExKept.bind (fun a ha => ih ((hf s x h).of_eq ha))

theorem afoldItem_keeps {s : State} (h : Kept s₀ s) (c i : Nat) (e : Entry) (x : Nat × Except LocalError Nat) :
    ExKept s₀ (afoldItem c i e x s) := by
  unfold afoldItem
  split
  · exact ExKept.error _
  · exact exFold_keeps h _ _ (fun t x ht => afoldElemAt_keeps ht _ _ _ _ _ _)

theorem afoldBody_keeps {s : State} (h : Kept s₀ s) (c i : Nat) (e : Entry) : Kept s₀ (afoldBody c i e s) := by
  unfold afoldBody
  repeat' first
    | with_reducible assumption
    | with_reducible apply Kept.ite
    | with_reducible refine runItems_keeps ?_ _ _ _ _ _ (fun _ _ _ => ?_)
    | with_reducible apply afoldItem_keeps

theorem execAfold_keeps {s : State} (h : Kept s₀ s) (core : Fin 98304) (strand : Fin 4) :
    OutKept s₀ (execAfold core strand s) := by
  unfold execAfold
  try refine OutKept.next ?_
  repeat' first
    | with_reducible assumption
    | with_reducible apply Kept.ite
    | with_reducible refine runEntry_keeps ?_ _ _ _ _ _ _ _ (fun _ _ _ => ?_)
    | with_reducible apply afoldBody_keeps

theorem anormItem_keeps {s : State} (h : Kept s₀ s) (c i : Nat) (e : Entry) (r : Nat) :
    ExKept s₀ (anormItem c i e r s) := by
  unfold anormItem
  repeat' first
    | with_reducible assumption
    | with_reducible exact ExKept.error _
    | with_reducible refine ExKept.bind (fun _ _ => ?_)
    | with_reducible refine ExKept.ok ?_
    | with_reducible refine ExKept.pure ?_
    | with_reducible apply ExKept.ite
    | with_reducible apply raiseCoreFlags_keeps
    | with_reducible apply writeLocal_keeps
    | with_reducible apply sramStore_keeps
    | (refine (writeLocal_keeps ?_ _ _ _ _).of_eq (by assumption))
    | (refine (writeRec_keeps ?_ _ _ _ _ _).of_eq (by assumption))

theorem execAnorm_keeps {s : State} (h : Kept s₀ s) (core : Fin 98304) (strand : Fin 4) :
    OutKept s₀ (execAnorm core strand s) := by
  unfold execAnorm
  try refine OutKept.next ?_
  repeat' first
    | with_reducible assumption
    | with_reducible apply Kept.ite
    | with_reducible refine runEntry_keeps ?_ _ _ _ _ _ _ _ (fun _ _ _ => ?_)
    | with_reducible refine runItems_keeps ?_ _ _ _ _ _ (fun _ _ _ => ?_)
    | with_reducible apply anormItem_keeps

theorem amergeItem_keeps {s : State} (h : Kept s₀ s) (c i : Nat) (e : Entry) (r : Nat) :
    ExKept s₀ (amergeItem c i e r s) := by
  unfold amergeItem
  repeat' first
    | with_reducible assumption
    | with_reducible exact ExKept.error _
    | with_reducible refine ExKept.bind (fun _ _ => ?_)
    | with_reducible refine ExKept.ok ?_
    | with_reducible refine ExKept.pure ?_
    | with_reducible apply ExKept.ite
    | with_reducible apply raiseCoreFlags_keeps
    | with_reducible apply writeLocal_keeps
    | with_reducible apply sramStore_keeps
    | (refine (writeLocal_keeps ?_ _ _ _ _).of_eq (by assumption))

theorem execAmerge_keeps {s : State} (h : Kept s₀ s) (core : Fin 98304) (strand : Fin 4) :
    OutKept s₀ (execAmerge core strand s) := by
  unfold execAmerge
  try refine OutKept.next ?_
  repeat' first
    | with_reducible assumption
    | with_reducible apply Kept.ite
    | with_reducible refine runEntry_keeps ?_ _ _ _ _ _ _ _ (fun _ _ _ => ?_)
    | with_reducible refine runItems_keeps ?_ _ _ _ _ _ (fun _ _ _ => ?_)
    | with_reducible apply amergeItem_keeps

theorem execOperationComplete_keeps {s : State} (h : Kept s₀ s) (core : Fin 98304) (op : Nat) :
    OutKept s₀ (execOperationComplete core op s) := by
  unfold execOperationComplete
  repeat' first
    | with_reducible assumption
    | with_reducible apply OutKept.next
    | with_reducible apply Kept.ite
    | with_reducible apply completeOp_keeps
    | split
    | dsimp only

theorem execRemoteDataReturn_keeps {s : State} (h : Kept s₀ s) (core : Fin 98304) (op : Nat) :
    OutKept s₀ (execRemoteDataReturn core op s) := by
  unfold execRemoteDataReturn
  try refine OutKept.next ?_
  repeat' first
    | with_reducible assumption
    | with_reducible apply Kept.ite
    | with_reducible apply completeOp_keeps
    | with_reducible refine OutKept.next ?_
    | split

theorem execTranslationRefusalReturn_keeps {s : State} (h : Kept s₀ s) (core : Fin 98304) (op : Nat) :
    OutKept s₀ (execTranslationRefusalReturn core op s) := by
  unfold execTranslationRefusalReturn
  try refine OutKept.next ?_
  repeat' first
    | with_reducible assumption
    | with_reducible apply Kept.ite
    | with_reducible apply coreFault_keeps
    | with_reducible apply endOp_keeps
    | with_reducible refine OutKept.next ?_
    | split

theorem execLaunchComplete_keeps {s : State} (h : Kept s₀ s) (core : Fin 98304) :
    OutKept s₀ (execLaunchComplete core s) := by
  unfold execLaunchComplete
  try refine OutKept.next ?_
  repeat' first
    | with_reducible assumption
    | with_reducible apply Kept.ite
    | with_reducible apply setCore_keeps
    | with_reducible apply sendPassed_keeps
    | with_reducible apply state_emit_keeps
    | with_reducible refine OutKept.next ?_
    | split
    | with_reducible refine Kept.mk_congr ?_ rfl rfl rfl rfl rfl rfl

theorem execClusterStoreLineArrival_keeps {s : State} (h : Kept s₀ s) (core : Fin 98304) (strand : Fin 4) :
    OutKept s₀ (execClusterStoreLineArrival core strand s) := by
  unfold execClusterStoreLineArrival
  try refine OutKept.next ?_
  repeat' first
    | with_reducible assumption
    | with_reducible apply Kept.ite
    | with_reducible apply modStrand_keeps
    | with_reducible refine OutKept.next ?_
    | split
    | with_reducible refine Kept.mk_congr ?_ rfl rfl rfl rfl rfl rfl

theorem execWaitTimeout_keeps {s : State} (h : Kept s₀ s) (core : Fin 98304) (strand : Fin 4) :
    OutKept s₀ (execWaitTimeout core strand s) := by
  unfold execWaitTimeout
  try refine OutKept.next ?_
  repeat' first
    | with_reducible assumption
    | with_reducible apply Kept.ite
    | with_reducible apply declareFault_keeps

theorem setOverdue_keeps {s : State} (h : Kept s₀ s) (k : Nat) (l : List (Nat × Nat)) :
    Kept s₀ (setOverdue s k l) := by
  unfold setOverdue
  repeat' first
    | with_reducible assumption
    | with_reducible apply Kept.ite
    | with_reducible apply setF_keeps
    | with_reducible apply modCluster_keeps

theorem execSramScrubRead_keeps {s : State} (h : Kept s₀ s) (core : Fin 98304) (store : Bool) (index : Nat)
    (error : Fin 3) : OutKept s₀ (execSramScrubRead core store index error s) := by
  unfold execSramScrubRead
  try refine OutKept.next ?_
  repeat' first
    | with_reducible assumption
    | with_reducible apply Kept.ite
    | with_reducible apply modCluster_keeps
    | with_reducible apply setOverdue_keeps
    | with_reducible apply count_keeps
    | with_reducible apply bumpF_keeps
    | with_reducible refine OutKept.next ?_
    | split
    | with_reducible refine Kept.mk_congr ?_ rfl rfl rfl rfl rfl rfl

theorem execSramScrubOverdue_keeps {s : State} (h : Kept s₀ s) (core : Fin 98304) (bank : Fin 16) :
    OutKept s₀ (execSramScrubOverdue core bank s) := by
  unfold execSramScrubOverdue
  try refine OutKept.next ?_
  repeat' first
    | with_reducible assumption
    | with_reducible apply Kept.ite
    | with_reducible apply setOverdue_keeps

theorem setGirdle_keeps {s : State} (h : Kept s₀ s) (n : Nat) (g : Girdle) : Kept s₀ (setGirdle s n g) := by
  unfold setGirdle
  repeat' first
    | with_reducible assumption
    | with_reducible apply Kept.ite
    | split
    | with_reducible refine Kept.mk_congr ?_ rfl rfl rfl rfl rfl rfl

theorem girdleDown_keeps {s : State} (h : Kept s₀ s) (link : Nat) (back : Bool) :
    Kept s₀ (girdleDown s link back) := by
  unfold girdleDown
  repeat' first
    | with_reducible assumption
    | ((fail_if_no_progress first | extract_lets +onlyGivenNames z | fail); refine (have hz : Kept s₀ z := ?_; ?_); rotate_left; clear_value z)
    | (fail_if_no_progress first | extract_lets +onlyGivenNames z | fail)
    | with_reducible apply Kept.ite
    | with_reducible apply declareFault_keeps
    | with_reducible apply setGirdle_keeps
    | split
    | (fail_if_no_progress first | with_reducible refine Kept.mk_congr ?_ rfl rfl rfl rfl rfl rfl | fail)

theorem execGirdleFlitReceive_keeps {s : State} (h : Kept s₀ s) (link : Fin 24) (back : Bool) (good : Bool) :
    OutKept s₀ (execGirdleFlitReceive link back good s) := by
  unfold execGirdleFlitReceive
  repeat' first
    | with_reducible assumption
    | ((fail_if_no_progress first | extract_lets +onlyGivenNames z | fail); refine (have hz : Kept s₀ z := ?_; ?_); rotate_left; clear_value z)
    | (fail_if_no_progress first | extract_lets +onlyGivenNames z | fail)
    | with_reducible apply OutKept.next
    | with_reducible apply Kept.ite
    | with_reducible apply setGirdle_keeps
    | with_reducible apply girdleDown_keeps
    | split
    | (fail_if_no_progress first | with_reducible refine Kept.mk_congr ?_ rfl rfl rfl rfl rfl rfl | fail)

theorem execGirdleLaneRepair_keeps {s : State} (h : Kept s₀ s) (link : Fin 24) (back : Bool) (lanes : Fin 16) :
    OutKept s₀ (execGirdleLaneRepair link back lanes s) := by
  unfold execGirdleLaneRepair
  repeat' first
    | with_reducible assumption
    | ((fail_if_no_progress first | extract_lets +onlyGivenNames z | fail); refine (have hz : Kept s₀ z := ?_; ?_); rotate_left; clear_value z)
    | (fail_if_no_progress first | extract_lets +onlyGivenNames z | fail)
    | with_reducible apply OutKept.next
    | with_reducible apply Kept.ite
    | with_reducible apply setGirdle_keeps
    | with_reducible apply girdleDown_keeps
    | split
    | (fail_if_no_progress first | with_reducible refine Kept.mk_congr ?_ rfl rfl rfl rfl rfl rfl | fail)

theorem execGirdleLinkDown_keeps {s : State} (h : Kept s₀ s) (link : Fin 24) (back : Bool) :
    OutKept s₀ (execGirdleLinkDown link back s) := by
  unfold execGirdleLinkDown
  repeat' first
    | with_reducible assumption
    | with_reducible apply OutKept.next
    | with_reducible apply Kept.ite
    | with_reducible apply girdleDown_keeps
    | split
    | dsimp only

theorem pfOnly_keeps {s : State} (h : Kept s₀ s) (fn : Fin 64) (off : Nat) (f : State → State)
    (hf : ∀ t, Kept s₀ t → Kept s₀ (f t)) : OutKept s₀ (pfOnly fn off s f) := pfWrite_keeps h _ _ _ hf

theorem tblSel_keeps {s : State} (h : Kept s₀ s) (k v : Nat) : Kept s₀ (tblSel s k v) := by
  unfold tblSel
  repeat' first
    | with_reducible assumption
    | with_reducible apply Kept.ite
    | with_reducible apply setF_keeps
    | with_reducible apply modCluster_keeps

theorem execCluTblSelWrite_keeps {s : State} (h : Kept s₀ s) (fn : Fin 64) (cluster : Fin 512) (value : Word) :
    OutKept s₀ (execCluTblSelWrite fn cluster value s) := by
  unfold execCluTblSelWrite
  repeat' first
    | with_reducible assumption
    | with_reducible apply Kept.ite
    | with_reducible refine pfOnly_keeps ?_ _ _ _ (fun _ _ => ?_)
    | with_reducible apply tblSel_keeps

theorem storeDiscard_keeps {s : State} (h : Kept s₀ s) (k off : Nat) : Kept s₀ (storeDiscard s k off) := by
  unfold storeDiscard
  repeat' first
    | with_reducible assumption
    | with_reducible apply Kept.ite
    | with_reducible apply errWindowClosed_keeps
    | with_reducible apply raiseF_keeps

theorem entryLow_keeps {s : State} (h : Kept s₀ s) (k : Nat) (clus : Bool) (i : Nat) (v : Word) :
    Kept s₀ (entryLow s k clus i v) := by
  unfold entryLow
  repeat' first
    | with_reducible assumption
    | with_reducible apply Kept.ite
    | with_reducible apply storeDiscard_keeps
    | with_reducible apply modCluster_keeps

theorem putEntry_keeps {s : State} (h : Kept s₀ s) (k : Nat) (clus : Bool) (i : Nat) (e : Entry) :
    Kept s₀ (putEntry s k clus i e) := by
  unfold putEntry
  repeat' first
    | with_reducible assumption
    | with_reducible apply Kept.ite
    | with_reducible apply modCluster_keeps
    | with_reducible refine Kept.foldl (fun _ _ _ => ?_) ?_
    | with_reducible refine Kept.foldl_snd (fun _ _ _ => ?_) ?_
    | with_reducible refine Kept.foldl_snd2 (fun _ _ _ => ?_) ?_
    | with_reducible refine Kept.foldl_fst (fun _ _ _ => ?_) ?_
    | split
    | with_reducible refine Kept.mk_congr ?_ rfl rfl rfl rfl rfl rfl

theorem entryHigh_keeps {s : State} (h : Kept s₀ s) (k : Nat) (clus : Bool) (i : Nat) (v : Word) :
    Kept s₀ (entryHigh s k clus i v) := by
  unfold entryHigh
  repeat' first
    | with_reducible assumption
    | with_reducible apply Kept.ite
    | with_reducible apply storeDiscard_keeps
    | with_reducible apply raiseF_keeps
    | with_reducible apply modCluster_keeps
    | with_reducible apply putEntry_keeps
    | with_reducible apply setF_keeps
    | split

theorem execStoreEntryLowWrite_keeps {s : State} (h : Kept s₀ s) (fn : Fin 64) (cluster : Fin 512) (clus : Bool)
    (index : Fin 1024) (value : Word) : OutKept s₀ (execStoreEntryLowWrite fn cluster clus index value s) := by
  unfold execStoreEntryLowWrite
  repeat' first
    | with_reducible assumption
    | with_reducible apply Kept.ite
    | with_reducible refine pfOnly_keeps ?_ _ _ _ (fun _ _ => ?_)
    | with_reducible apply entryLow_keeps

theorem execStoreEntryHighWrite_keeps {s : State} (h : Kept s₀ s) (fn : Fin 64) (cluster : Fin 512) (clus : Bool)
    (index : Fin 1024) (value : Word) : OutKept s₀ (execStoreEntryHighWrite fn cluster clus index value s) := by
  unfold execStoreEntryHighWrite
  repeat' first
    | with_reducible assumption
    | with_reducible apply Kept.ite
    | with_reducible refine pfOnly_keeps ?_ _ _ _ (fun _ _ => ?_)
    | with_reducible apply entryHigh_keeps

theorem lusDiscard_keeps {s : State} (h : Kept s₀ s) (k off : Nat) : Kept s₀ (lusDiscard s k off) := by
  unfold lusDiscard
  repeat' first
    | with_reducible assumption
    | with_reducible apply Kept.ite
    | with_reducible apply errWindowClosed_keeps
    | with_reducible apply raiseF_keeps

theorem setSlotValid_keeps {s : State} (h : Kept s₀ s) (k slot : Nat) (b : Bool) :
    Kept s₀ (setSlotValid s k slot b) := by
  unfold setSlotValid
  repeat' first
    | with_reducible assumption
    | with_reducible apply Kept.ite
    | with_reducible apply setF_keeps

theorem lusProg_keeps {s : State} (h : Kept s₀ s) (k i : Nat) (v : Word) : Kept s₀ (lusProg s k i v) := by
  unfold lusProg
  repeat' first
    | with_reducible assumption
    | with_reducible apply Kept.ite
    | with_reducible apply lusDiscard_keeps
    | with_reducible apply modCluster_keeps
    | with_reducible apply setSlotValid_keeps

theorem execCluLusProgWrite_keeps {s : State} (h : Kept s₀ s) (fn : Fin 64) (cluster : Fin 512) (index : Fin 64)
    (value : Word) : OutKept s₀ (execCluLusProgWrite fn cluster index value s) := by
  unfold execCluLusProgWrite
  repeat' first
    | with_reducible assumption
    | with_reducible apply Kept.ite
    | with_reducible refine pfOnly_keeps ?_ _ _ _ (fun _ _ => ?_)
    | with_reducible apply lusProg_keeps

theorem lusCommit_keeps {s : State} (h : Kept s₀ s) (k : Nat) : Kept s₀ (lusCommit s k) := by
  unfold lusCommit
  repeat' first
    | with_reducible assumption
    | with_reducible apply Kept.ite
    | with_reducible apply setSlotValid_keeps
    | with_reducible apply raiseF_keeps
    | with_reducible apply setF_keeps
    | split
    | dsimp only

theorem lusCmd_keeps {s : State} (h : Kept s₀ s) (k v : Nat) : Kept s₀ (lusCmd s k v) := by
  unfold lusCmd
  repeat' first
    | with_reducible assumption
    | with_reducible apply Kept.ite
    | with_reducible apply lusDiscard_keeps
    | with_reducible apply lusCommit_keeps
    | with_reducible apply setSlotValid_keeps

theorem execLustreSlotCommit_keeps {s : State} (h : Kept s₀ s) (fn : Fin 64) (cluster : Fin 512) :
    OutKept s₀ (execLustreSlotCommit fn cluster s) := by
  unfold execLustreSlotCommit
  repeat' first
    | with_reducible assumption
    | with_reducible apply Kept.ite
    | with_reducible refine pfOnly_keeps ?_ _ _ _ (fun _ _ => ?_)
    | with_reducible apply lusCmd_keeps

theorem execLustreSlotInvalidate_keeps {s : State} (h : Kept s₀ s) (fn : Fin 64) (cluster : Fin 512) :
    OutKept s₀ (execLustreSlotInvalidate fn cluster s) := by
  unfold execLustreSlotInvalidate
  repeat' first
    | with_reducible assumption
    | with_reducible apply Kept.ite
    | with_reducible refine pfOnly_keeps ?_ _ _ _ (fun _ _ => ?_)
    | with_reducible apply lusCmd_keeps

end Sys2Proof.Machine
end

