-- ==== Sys2Proof/Laws/KeptFabric.lean ====
section
/-!
SUPPORT. What every operation keeps (see KeptBase), operation by operation: the router, the fabric, registers and management.
-/
namespace Sys2Proof.Machine

open Sys2Proof

set_option maxRecDepth 4000

variable {s₀ : State}

theorem raiseEngineFlags_keeps {s : State} (h : Kept s₀ s) (eng : Nat) (f : FlagSet) :
    Kept s₀ (raiseEngineFlags s eng f) := by
  unfold raiseEngineFlags
  repeat' first
    | with_reducible assumption
    | with_reducible apply Kept.ite
    | with_reducible apply setReg_keeps

theorem countEngine_keeps {s : State} (h : Kept s₀ s) (eng k : Nat) : Kept s₀ (countEngine s eng k) := by
  unfold countEngine
  repeat' first
    | with_reducible assumption
    | with_reducible apply Kept.ite
    | with_reducible apply count_keeps

theorem behalf_put_keeps {s : State} (h : Kept s₀ s) (b : Behalf) (a : Word) (bs : List Byte) :
    Kept s₀ (Behalf.put b s a bs) := by
  unfold Behalf.put
  repeat' first
    | with_reducible assumption
    | with_reducible apply Kept.ite
    | with_reducible apply sramStoreBytes_keeps
    | with_reducible apply strandPut_keeps
    | split
    | dsimp only

theorem behalf_traffic_keeps {acc : Nat × State} (h : Kept s₀ acc.2) (b : Behalf) (op : Nat) (need : Need) (x : Word × List Byte × Nat) :
    Kept s₀ (Behalf.traffic b op need acc x).2 := by
  unfold Behalf.traffic
  repeat' first
    | with_reducible assumption
    | ((fail_if_no_progress first | extract_lets +onlyGivenNames z | fail); refine (have hz : Kept s₀ z := ?_; ?_); rotate_left; clear_value z)
    | (fail_if_no_progress first | extract_lets +onlyGivenNames z | fail)
    | with_reducible apply Kept.ite
    | with_reducible apply dvAccess_dispatch_keeps
    | (refine Kept.of_pair1 (by assumption) ?_)
    | with_reducible apply Kept.ite_snd
    | split

theorem putAt_keeps {s : State} (h : Kept s₀ s) (c : Nat) (i : Nat) (a : Word) (bs : List Byte) :
    Kept s₀ (putAt s c i a bs) := by
  unfold putAt
  repeat' first
    | with_reducible assumption
    | with_reducible apply Kept.ite
    | with_reducible apply behalf_put_keeps
    | split
    | dsimp only

theorem trafficAt_keeps {acc : Nat × State} (h : Kept s₀ acc.2) (c : Nat) (i : Nat) (op : Nat) (need : Need) (x : Word × List Byte × Nat) :
    Kept s₀ (trafficAt c i op need acc x).2 := by
  unfold trafficAt
  repeat' first
    | with_reducible assumption
    | with_reducible apply Kept.ite
    | with_reducible apply behalf_traffic_keeps
    | (refine Kept.of_pair1 (by assumption) ?_)
    | with_reducible apply Kept.ite_snd
    | split
    | dsimp only

theorem behalf_consume_keeps {s : State} (h : Kept s₀ s) (b : Behalf) (a : Word) (n : Nat) :
    Kept s₀ (Behalf.consume b s a n) := by
  unfold Behalf.consume
  repeat' first
    | with_reducible assumption
    | with_reducible apply Kept.ite
    | with_reducible apply hbmFault_keeps
    | with_reducible apply sramFault_keeps
    | split
    | dsimp only

theorem consumeAt_keeps {s : State} (h : Kept s₀ s) (c : Nat) (i : Nat) (a : Word) (n : Nat) :
    Kept s₀ (consumeAt s c i a n) := by
  unfold consumeAt
  repeat' first
    | with_reducible assumption
    | with_reducible apply Kept.ite
    | with_reducible apply behalf_consume_keeps
    | split
    | dsimp only

theorem behalf_write_keeps {s : State} (h : Kept s₀ s) (b : Behalf) (a : Word) (bs : List Byte) :
    Kept s₀ (Behalf.write b s a bs) := by
  unfold Behalf.write
  repeat' first
    | with_reducible assumption
    | with_reducible apply Kept.ite
    | with_reducible apply noteRefusal_keeps
    | with_reducible apply behalf_put_keeps
    | split
    | dsimp only

theorem behalf_store_keeps {s : State} (h : Kept s₀ s) (b : Behalf) (op : Nat) (a : Word) (bs : List Byte) :
    Kept s₀ (Behalf.store b op s a bs) :=
  behalf_traffic_keeps (acc := (0, b.write s a bs)) (behalf_write_keeps h _ _ _) _ _ _ _

theorem raisePoison_keeps {s : State} (h : Kept s₀ s) (c i : Nat) (p : Option Nat) :
    Kept s₀ (raisePoison s c i p) := by
  unfold raisePoison
  repeat' first
    | with_reducible assumption
    | with_reducible apply Kept.ite
    | with_reducible apply poisonedRead_keeps
    | split

theorem selectionSlots_keeps {s : State} (h : Kept s₀ s) (k : Nat) (sel : Option (List (Nat × Nat))) :
    Kept s₀ (selectionSlots s k sel).2 := by
  unfold selectionSlots
  repeat' first
    | with_reducible assumption
    | with_reducible apply Kept.ite
    | with_reducible apply Kept.ite_snd
    | with_reducible apply Kept.take
    | split

theorem xselectToken_keeps {s : State} (h : Kept s₀ s) (c i : Nat) (e : Entry) (bias : Option (List Nat))
    (t : Nat) : Kept s₀ (xselectToken c i e bias s t) := by
  unfold xselectToken
  repeat' first
    | with_reducible assumption
    | with_reducible apply Kept.ite
    | with_reducible apply selectionSlots_keeps
    | (refine Kept.of_pair1 (by assumption) ?_)
    | with_reducible apply raiseCoreFlags_keeps
    | with_reducible apply sramStoreBytes_keeps

theorem xselectBody_keeps {s : State} (h : Kept s₀ s) (c i : Nat) (e : Entry) : Kept s₀ (xselectBody c i e s) := by
  unfold xselectBody
  repeat' first
    | with_reducible assumption
    | with_reducible apply Kept.ite
    | with_reducible apply raisePoison_keeps
    | with_reducible apply issueDone_keeps
    | with_reducible apply xselectToken_keeps
    | with_reducible refine Kept.foldl (fun _ _ _ => ?_) ?_

theorem execXselect_keeps {s : State} (h : Kept s₀ s) (core : Fin 98304) (strand : Fin 4) :
    OutKept s₀ (execXselect core strand s) := by
  unfold execXselect
  try refine OutKept.next ?_
  repeat' first
    | with_reducible assumption
    | with_reducible apply Kept.ite
    | with_reducible refine runEntry_keeps ?_ _ _ _ _ _ _ _ (fun _ _ _ => ?_)
    | with_reducible apply xselectBody_keeps

theorem addCells_keeps {s : State} (h : Kept s₀ s) (d : Dispatch) (t : Nat) (xs : List FVal) :
    Kept s₀ (addCells s d t xs) :=
  behalf_store_keeps (behalf_consume_keeps h _ _ _) _ _ _ _

theorem putMask_keeps {s : State} (h : Kept s₀ s) (d : Dispatch) (t : Nat) : Kept s₀ (putMask s d t) :=
  behalf_store_keeps h _ _ _ _

theorem sendClaim_keeps {s : State} (h : Kept s₀ s) (eng step layer : Nat) (x : SlotState) :
    Kept s₀ (sendClaim s eng step layer x) := by
  unfold sendClaim
  repeat' first
    | with_reducible assumption
    | with_reducible apply Kept.ite
    | with_reducible apply sendMsg_keeps
    | with_reducible apply countEngine_keeps

theorem xdispatchBody_keeps {s : State} (h : Kept s₀ s) (c : Nat) (i : Nat) (e : Entry) :
    Kept s₀ (xdispatchBody c i e s) := by
  unfold xdispatchBody
  repeat' first
    | with_reducible assumption
    | ((fail_if_no_progress first | extract_lets +onlyGivenNames z | fail); refine (have hz : Kept s₀ z := ?_; ?_); rotate_left; clear_value z)
    | (fail_if_no_progress first | extract_lets +onlyGivenNames z | fail)
    | with_reducible apply Kept.ite
    | with_reducible apply modCore_keeps
    | with_reducible apply modEngine_keeps
    | with_reducible apply sealDue_keeps
    | with_reducible apply noteRefusal_keeps
    | with_reducible apply issueOp_keeps
    | with_reducible apply raisePoison_keeps
    | with_reducible apply addCells_keeps
    | with_reducible apply putMask_keeps
    | with_reducible apply sendClaim_keeps
    | with_reducible refine Kept.foldl (fun _ _ _ => ?_) ?_
    | with_reducible refine Kept.foldl_snd (fun _ _ _ => ?_) ?_
    | with_reducible refine Kept.foldl_snd2 (fun _ _ _ => ?_) ?_
    | with_reducible refine Kept.foldl_fst (fun _ _ _ => ?_) ?_
    | split
    | (fail_if_no_progress first | with_reducible refine Kept.mk_congr ?_ rfl rfl rfl rfl rfl rfl | fail)

theorem execXdispatch_keeps {s : State} (h : Kept s₀ s) (core : Fin 98304) (strand : Fin 4) :
    OutKept s₀ (execXdispatch core strand s) := by
  unfold execXdispatch
  repeat' first
    | with_reducible assumption
    | with_reducible apply OutKept.next
    | with_reducible apply Kept.ite
    | with_reducible refine runEntry_keeps ?_ _ _ _ _ _ _ _ (fun _ _ _ => ?_)
    | with_reducible apply xdispatchBody_keeps
    | split
    | dsimp only

theorem protoFault_keeps {s : State} (h : Kept s₀ s) (eng pkg : Nat) : Kept s₀ (protoFault s eng pkg) := by
  unfold protoFault
  repeat' first
    | with_reducible assumption
    | with_reducible apply Kept.ite
    | with_reducible apply setF_keeps
    | with_reducible apply raiseF_keeps
    | with_reducible apply declareFault_keeps

theorem execClaim_keeps {s : State} (h : Kept s₀ s) (engine : Fin 4) (step : Nat) (layer : Fin 256) (claim : Claim) :
    OutKept s₀ (execClaim engine step layer claim s) := by
  unfold execClaim
  repeat' first
    | with_reducible assumption
    | ((fail_if_no_progress first | extract_lets +onlyGivenNames z | fail); refine (have hz : Kept s₀ z := ?_; ?_); rotate_left; clear_value z)
    | (fail_if_no_progress first | extract_lets +onlyGivenNames z | fail)
    | with_reducible apply OutKept.next
    | with_reducible apply Kept.ite
    | with_reducible apply modEngine_keeps
    | with_reducible apply protoFault_keeps
    | split
    | (fail_if_no_progress first | with_reducible refine Kept.mk_congr ?_ rfl rfl rfl rfl rfl rfl | fail)

theorem execSeal_keeps {s : State} (h : Kept s₀ s) (engine : Fin 4) (step : Nat) (layer : Fin 256) (share : Seal) :
    OutKept s₀ (execSeal engine step layer share s) := by
  unfold execSeal
  repeat' first
    | with_reducible assumption
    | ((fail_if_no_progress first | extract_lets +onlyGivenNames z | fail); refine (have hz : Kept s₀ z := ?_; ?_); rotate_left; clear_value z)
    | (fail_if_no_progress first | extract_lets +onlyGivenNames z | fail)
    | with_reducible apply OutKept.next
    | with_reducible apply Kept.ite
    | with_reducible apply modEngine_keeps
    | with_reducible apply protoFault_keeps
    | split
    | (fail_if_no_progress first | with_reducible refine Kept.mk_congr ?_ rfl rfl rfl rfl rfl rfl | fail)

theorem lowerExpert_keeps {s : State} (h : Kept s₀ s) (m : Nat) : Kept s₀ (lowerExpert s m) := by
  unfold lowerExpert
  repeat' first
    | with_reducible assumption
    | with_reducible apply Kept.ite
    | with_reducible apply latchUnderflow_keeps
    | with_reducible apply modCluster_keeps
    | with_reducible refine Kept.foldl (fun _ _ _ => ?_) ?_

theorem writeHeader_keeps {s : State} (h : Kept s₀ s) (m : Nat) (r : Nat) (step : Nat) (layer : Nat) (t : Nat) (cap : Nat) (rows : Nat) :
    Kept s₀ (writeHeader s m r step layer t cap rows) := by
  unfold writeHeader
  repeat' first
    | with_reducible assumption
    | ((fail_if_no_progress first | extract_lets +onlyGivenNames z | fail); refine (have hz : Kept s₀ z := ?_; ?_); rotate_left; clear_value z)
    | (fail_if_no_progress first | extract_lets +onlyGivenNames z | fail)
    | with_reducible apply Kept.ite
    | with_reducible apply engineWrite_keeps
    | split

theorem decideExpert_keeps {acc : List Granted × State} (h : Kept s₀ acc.2) (eng step layer r t : Nat)
    (claims : List Claim) (x : Nat) : Kept s₀ (decideExpert eng step layer r t claims acc x).2 := by
  obtain ⟨gs, s⟩ := acc
  unfold decideExpert
  dsimp only at h ⊢
  refine Kept.ite_snd h ?_
  dsimp only
  refine Kept.ite (lowerExpert_keeps (writeHeader_keeps ?_ _ _ _ _ _ _ _) _)
    (writeHeader_keeps ?_ _ _ _ _ _ _ _) <;>
    exact Kept.foldl (fun t x ht => sendMsg_keeps (countEngine_keeps ht _ _) _ _ _) h

theorem execGroupDecide_keeps {s : State} (h : Kept s₀ s) (engine : Fin 4) (step : Nat) (layer : Fin 256) :
    OutKept s₀ (execGroupDecide engine step layer s) := by
  unfold execGroupDecide
  repeat' first
    | with_reducible assumption
    | ((fail_if_no_progress first | extract_lets +onlyGivenNames z | fail); refine (have hz : Kept s₀ z := ?_; ?_); rotate_left; clear_value z)
    | (fail_if_no_progress first | extract_lets +onlyGivenNames z | fail)
    | with_reducible apply OutKept.next
    | with_reducible apply Kept.ite
    | with_reducible apply setF_keeps
    | with_reducible apply modEngine_keeps
    | with_reducible apply decideExpert_keeps
    | (refine Kept.of_pair1 (by assumption) ?_)
    | with_reducible refine Kept.foldl (fun _ _ _ => ?_) ?_
    | with_reducible refine Kept.foldl_snd (fun _ _ _ => ?_) ?_
    | with_reducible refine Kept.foldl_snd2 (fun _ _ _ => ?_) ?_
    | with_reducible refine Kept.foldl_fst (fun _ _ _ => ?_) ?_
    | split
    | (fail_if_no_progress first | with_reducible refine Kept.mk_congr ?_ rfl rfl rfl rfl rfl rfl | fail)

theorem settle_keeps {s : State} (h : Kept s₀ s) (eng : Nat) (order : Nat) (f : SlotState → SlotState) :
    Kept s₀ (settle s eng order f) := by
  unfold settle
  repeat' first
    | with_reducible assumption
    | ((fail_if_no_progress first | extract_lets +onlyGivenNames z | fail); refine (have hz : Kept s₀ z := ?_; ?_); rotate_left; clear_value z)
    | (fail_if_no_progress first | extract_lets +onlyGivenNames z | fail)
    | with_reducible apply Kept.ite
    | with_reducible apply modEngine_keeps
    | with_reducible apply modOp_keeps
    | split
    | (fail_if_no_progress first | with_reducible refine Kept.mk_congr ?_ rfl rfl rfl rfl rfl rfl | fail)

theorem sendRow_keeps {s : State} (h : Kept s₀ s) (eng : Nat) (g : SrcGroup) (d : Dispatch) (x : SlotState) :
    Kept s₀ (sendRow s eng g d x) := by
  unfold sendRow
  repeat' first
    | with_reducible assumption
    | with_reducible apply Kept.ite
    | with_reducible apply sendMsg_keeps
    | with_reducible apply noteRefusal_keeps
    | with_reducible apply behalf_traffic_keeps
    | with_reducible apply behalf_consume_keeps
    | (refine Kept.of_pair1 (by assumption) ?_)
    | split
    | dsimp only

theorem dropSlot_keeps {s : State} (h : Kept s₀ s) (d : Dispatch) (x : SlotState) : Kept s₀ (dropSlot s d x) := by
  unfold dropSlot
  repeat' first
    | with_reducible assumption
    | with_reducible apply Kept.ite
    | with_reducible apply sramStore_keeps
    | split
    | with_reducible refine Kept.mk_congr ?_ rfl rfl rfl rfl rfl rfl

theorem execClaimOutcome_keeps {s : State} (h : Kept s₀ s) (engine : Fin 4) (order : Nat) (granted : Bool) :
    OutKept s₀ (execClaimOutcome engine order granted s) := by
  unfold execClaimOutcome
  repeat' first
    | with_reducible assumption
    | ((fail_if_no_progress first | extract_lets +onlyGivenNames z | fail); refine (have hz : Kept s₀ z := ?_; ?_); rotate_left; clear_value z)
    | (fail_if_no_progress first | extract_lets +onlyGivenNames z | fail)
    | with_reducible apply OutKept.next
    | with_reducible apply Kept.ite
    | with_reducible apply putMask_keeps
    | with_reducible apply settle_keeps
    | with_reducible apply sendRow_keeps
    | with_reducible apply dropSlot_keeps
    | split
    | (fail_if_no_progress first | with_reducible refine Kept.mk_congr ?_ rfl rfl rfl rfl rfl rfl | fail)

theorem execDispatchedRow_keeps {s : State} (h : Kept s₀ s) (engine : Fin 4) (step : Nat) (layer : Fin 256) (pkg : Fin 65536) (src : Fin 4) (order : Nat) (data : List Byte) :
    OutKept s₀ (execDispatchedRow engine step layer pkg src order data s) := by
  unfold execDispatchedRow
  repeat' first
    | with_reducible assumption
    | ((fail_if_no_progress first | extract_lets +onlyGivenNames z | fail); refine (have hz : Kept s₀ z := ?_; ?_); rotate_left; clear_value z)
    | (fail_if_no_progress first | extract_lets +onlyGivenNames z | fail)
    | with_reducible apply OutKept.next
    | with_reducible apply Kept.ite
    | with_reducible apply modEngine_keeps
    | with_reducible apply engineWrite_keeps
    | with_reducible apply lowerExpert_keeps
    | split
    | (fail_if_no_progress first | with_reducible refine Kept.mk_congr ?_ rfl rfl rfl rfl rfl rfl | fail)

theorem sendReturn_keeps {acc : Nat × State} (h : Kept s₀ acc.2) (c : Nat) (i : Nat) (e : Entry) (x : Claim × Nat) :
    Kept s₀ (sendReturn c i e acc x).2 := by
  unfold sendReturn
  repeat' first
    | with_reducible assumption
    | ((fail_if_no_progress first | extract_lets +onlyGivenNames z | fail); refine (have hz : Kept s₀ z := ?_; ?_); rotate_left; clear_value z)
    | (fail_if_no_progress first | extract_lets +onlyGivenNames z | fail)
    | with_reducible apply Kept.ite
    | with_reducible apply sendMsg_keeps
    | with_reducible apply trafficAt_keeps
    | with_reducible apply consumeAt_keeps
    | (refine Kept.of_pair1 (by assumption) ?_)
    | with_reducible apply Kept.ite_snd
    | split

theorem xreturnBody_keeps {s : State} (h : Kept s₀ s) (c i : Nat) (e : Entry) : Kept s₀ (xreturnBody c i e s) := by
  unfold xreturnBody
  extract_lets first n eng
  split
  · exact issueDone_keeps (raiseF_keeps h _) _ _ _
  · refine Kept.ite (issueDone_keeps (raiseF_keeps h _) _ _ _) ?_
    extract_lets +onlyGivenNames rows x
    clear_value x
    split
    · extract_lets +onlyGivenNames s1
      have h1 : Kept s₀ s1 := Kept.foldl_snd (fun b p hb => sendReturn_keeps hb _ _ _ _) h
      clear_value s1
      exact issueOp_keeps h1 _ _ _ _ _ _ _
    · exact issueOp_keeps (noteRefusal_keeps h _) _ _ _ _ _ _ _

theorem execXreturn_keeps {s : State} (h : Kept s₀ s) (core : Fin 98304) (strand : Fin 4) :
    OutKept s₀ (execXreturn core strand s) := by
  unfold execXreturn
  repeat' first
    | with_reducible assumption
    | with_reducible apply OutKept.next
    | with_reducible apply Kept.ite
    | with_reducible refine runEntry_keeps ?_ _ _ _ _ _ _ _ (fun _ _ _ => ?_)
    | with_reducible apply xreturnBody_keeps
    | split
    | dsimp only

theorem execReturnedRow_keeps {s : State} (h : Kept s₀ s) (engine : Fin 4) (order : Nat) (data : List Byte) :
    OutKept s₀ (execReturnedRow engine order data s) := by
  unfold execReturnedRow
  repeat' first
    | with_reducible assumption
    | with_reducible apply OutKept.next
    | with_reducible apply Kept.ite
    | with_reducible apply raiseEngineFlags_keeps
    | with_reducible apply behalf_consume_keeps
    | with_reducible apply behalf_write_keeps
    | with_reducible apply behalf_store_keeps
    | with_reducible apply settle_keeps
    | with_reducible refine Kept.foldl (fun _ _ _ => ?_) ?_
    | with_reducible refine Kept.foldl_snd (fun _ _ _ => ?_) ?_
    | with_reducible refine Kept.foldl_snd2 (fun _ _ _ => ?_) ?_
    | with_reducible refine Kept.foldl_fst (fun _ _ _ => ?_) ?_
    | split
    | (fail_if_no_progress first | with_reducible refine Kept.mk_congr ?_ rfl rfl rfl rfl rfl rfl | fail)
    | dsimp only

theorem entryTraffic_keeps {s : State} (h : Kept s₀ s) (c : Nat) (i : Nat) (tab : Word) (stride : Nat) (bytes : Nat) (rows : List (Option Nat)) (writes : List (Word × List Byte)) :
    Kept s₀ (entryTraffic c i tab stride bytes rows writes s).2 := by
  unfold entryTraffic
  repeat' first
    | with_reducible assumption
    | with_reducible apply Kept.ite
    | with_reducible apply trafficAt_keeps
    | with_reducible apply behalf_write_keeps
    | (refine Kept.of_pair1 (by assumption) ?_)
    | with_reducible refine Kept.foldl (fun _ _ _ => ?_) ?_
    | with_reducible refine Kept.foldl_snd (fun _ _ _ => ?_) ?_
    | with_reducible refine Kept.foldl_snd2 (fun _ _ _ => ?_) ?_
    | with_reducible refine Kept.foldl_fst (fun _ _ _ => ?_) ?_
    | with_reducible apply Kept.ite_snd
    | split
    | dsimp only

theorem gatherRow_keeps {s : State} (h : Kept s₀ s) (c i : Nat) (e : Entry) (p : Option Nat × Nat) :
    Kept s₀ (gatherRow c i e s p) := by
  unfold gatherRow
  repeat' first
    | with_reducible assumption
    | with_reducible apply Kept.ite
    | with_reducible apply putAt_keeps
    | with_reducible apply dmaPut_keeps
    | with_reducible apply consumeAt_keeps
    | split

theorem xgatherBody_keeps {s : State} (h : Kept s₀ s) (c i : Nat) (e : Entry) : Kept s₀ (xgatherBody c i e s) := by
  unfold xgatherBody
  extract_lets +onlyGivenNames n rl idx tab dst stat size rows bad
  split
  · extract_lets +onlyGivenNames s1
    have h1 : Kept s₀ s1 := Kept.foldl (fun b p hb => gatherRow_keeps hb _ _ _ _) h
    clear_value s1
    extract_lets +onlyGivenNames sb s2
    have h2 : Kept s₀ s2 := putAt_keeps (Kept.take h1 n) _ _ _ _
    clear_value s2
    exact raisePoison_keeps (issueOp_keeps (entryTraffic_keeps h2 _ _ _ _ _ _ _) _ _ _ _ _ _ _) _ _ _
  · exact issueOp_keeps (noteRefusal_keeps h _) _ _ _ _ _ _ _

theorem execXgather_keeps {s : State} (h : Kept s₀ s) (core : Fin 98304) (strand : Fin 4) :
    OutKept s₀ (execXgather core strand s) := by
  unfold execXgather
  repeat' first
    | with_reducible assumption
    | with_reducible apply OutKept.next
    | with_reducible apply Kept.ite
    | with_reducible refine runEntry_keeps ?_ _ _ _ _ _ _ _ (fun _ _ _ => ?_)
    | with_reducible apply xgatherBody_keeps
    | split
    | dsimp only

theorem countBag_keeps {s : State} (h : Kept s₀ s) (eng st : Nat) : Kept s₀ (countBag s eng st) := by
  unfold countBag
  repeat' first
    | with_reducible assumption
    | with_reducible apply Kept.ite
    | with_reducible apply countEngine_keeps
    | with_reducible refine Kept.foldl (fun _ _ _ => ?_) ?_

theorem bagPut_keeps {s : State} (h : Kept s₀ s) (c i : Nat) (e : Entry) (p : (List Nat × Nat × FlagSet) × Nat) :
    Kept s₀ (bagPut c i e s p) := by
  unfold bagPut
  repeat' first
    | with_reducible assumption
    | with_reducible apply Kept.ite
    | with_reducible apply state_takeFree_keeps
    | (refine Kept.of_pair1 (by assumption) ?_)
    | with_reducible apply putAt_keeps
    | with_reducible apply countBag_keeps
    | with_reducible apply raiseEngineFlags_keeps
    | split

theorem xbagBody_keeps {s : State} (h : Kept s₀ s) (c : Nat) (i : Nat) (e : Entry) :
    Kept s₀ (xbagBody c i e s) := by
  unfold xbagBody
  repeat' first
    | with_reducible assumption
    | with_reducible apply Kept.ite
    | with_reducible apply noteRefusal_keeps
    | with_reducible apply issueOp_keeps
    | with_reducible apply consumeAt_keeps
    | with_reducible apply behalf_write_keeps
    | with_reducible apply raisePoison_keeps
    | with_reducible apply entryTraffic_keeps
    | with_reducible apply bagPut_keeps
    | (refine Kept.of_pair1 (by assumption) ?_)
    | with_reducible refine Kept.foldl (fun _ _ _ => ?_) ?_
    | with_reducible refine Kept.foldl_snd (fun _ _ _ => ?_) ?_
    | with_reducible refine Kept.foldl_snd2 (fun _ _ _ => ?_) ?_
    | with_reducible refine Kept.foldl_fst (fun _ _ _ => ?_) ?_
    | split
    | dsimp only

theorem execXbag_keeps {s : State} (h : Kept s₀ s) (core : Fin 98304) (strand : Fin 4) :
    OutKept s₀ (execXbag core strand s) := by
  unfold execXbag
  repeat' first
    | with_reducible assumption
    | with_reducible apply OutKept.next
    | with_reducible apply Kept.ite
    | with_reducible refine runEntry_keeps ?_ _ _ _ _ _ _ _ (fun _ _ _ => ?_)
    | with_reducible apply xbagBody_keeps
    | split
    | dsimp only

theorem countPort_keeps {s : State} (h : Kept s₀ s) (n k : Nat) : Kept s₀ (countPort s n k) := by
  unfold countPort
  repeat' first
    | with_reducible assumption
    | with_reducible apply Kept.ite
    | with_reducible apply count_keeps

theorem goDark_keeps {s : State} (h : Kept s₀ s) (n : Nat) : Kept s₀ (goDark s n) := by
  unfold goDark
  repeat' first
    | with_reducible assumption
    | with_reducible apply Kept.ite
    | with_reducible apply rerouteWaiting_keeps
    | with_reducible apply setPort_keeps

theorem recalibrate_keeps {s : State} (h : Kept s₀ s) (n : Nat) : Kept s₀ (recalibrate s n) := by
  unfold recalibrate
  repeat' first
    | with_reducible assumption
    | with_reducible apply Kept.ite
    | with_reducible apply goDark_keeps
    | with_reducible apply modPort_keeps

theorem execRecalibrationDue_keeps {s : State} (h : Kept s₀ s) (port : Fin 16) :
    OutKept s₀ (execRecalibrationDue port s) := by
  unfold execRecalibrationDue
  try refine OutKept.next ?_
  repeat' first
    | with_reducible assumption
    | with_reducible apply Kept.ite
    | with_reducible apply recalibrate_keeps

theorem portCtl_keeps {s : State} (h : Kept s₀ s) (n v : Nat) : Kept s₀ (portCtl s n v) := by
  unfold portCtl
  repeat' first
    | with_reducible assumption
    | with_reducible apply Kept.ite
    | with_reducible apply portDark_keeps
    | with_reducible apply recalibrate_keeps

theorem execRetrain_keeps {s : State} (h : Kept s₀ s) (fn : Fin 64) (port : Fin 16) :
    OutKept s₀ (execRetrain fn port s) := by
  unfold execRetrain
  try refine OutKept.next ?_
  repeat' first
    | with_reducible assumption
    | with_reducible apply Kept.ite
    | with_reducible refine pfWrite_keeps ?_ _ _ _ (fun _ _ => ?_)
    | with_reducible apply portCtl_keeps

theorem execRecal_keeps {s : State} (h : Kept s₀ s) (fn : Fin 64) (port : Fin 16) :
    OutKept s₀ (execRecal fn port s) := by
  unfold execRecal
  try refine OutKept.next ?_
  repeat' first
    | with_reducible assumption
    | with_reducible apply Kept.ite
    | with_reducible refine pfWrite_keeps ?_ _ _ _ (fun _ _ => ?_)
    | with_reducible apply portCtl_keeps

theorem portBack_keeps {s : State} (h : Kept s₀ s) (n : Nat) : Kept s₀ (portBack s n) := by
  unfold portBack
  repeat' first
    | with_reducible assumption
    | with_reducible apply Kept.ite
    | with_reducible apply modPort_keeps
    | with_reducible apply rerouteWaiting_keeps
    | with_reducible apply pump_keeps

theorem execRecalibrationComplete_keeps {s : State} (h : Kept s₀ s) (port : Fin 16) :
    OutKept s₀ (execRecalibrationComplete port s) := by
  unfold execRecalibrationComplete
  try refine OutKept.next ?_
  repeat' first
    | with_reducible assumption
    | with_reducible apply Kept.ite
    | with_reducible apply portBack_keeps

theorem portDown_keeps {s : State} (h : Kept s₀ s) (n cause : Nat) : Kept s₀ (portDown s n cause) := by
  unfold portDown
  repeat' first
    | with_reducible assumption
    | with_reducible apply Kept.ite
    | with_reducible apply setPort_keeps
    | with_reducible apply rerouteWaiting_keeps
    | with_reducible apply postPF_keeps

theorem execPortRetrainStart_keeps {s : State} (h : Kept s₀ s) (port : Fin 16) :
    OutKept s₀ (execPortRetrainStart port s) := by
  unfold execPortRetrainStart
  try refine OutKept.next ?_
  repeat' first
    | with_reducible assumption
    | with_reducible apply Kept.ite
    | with_reducible apply rerouteWaiting_keeps
    | with_reducible apply countPort_keeps
    | with_reducible apply setPort_keeps

theorem ackTo_keeps {s : State} (h : Kept s₀ s) (n a : Nat) : Kept s₀ (ackTo s n a) := by
  unfold ackTo
  repeat' first
    | with_reducible assumption
    | with_reducible apply Kept.ite
    | with_reducible apply goDark_keeps
    | with_reducible apply setPort_keeps

theorem resend_keeps {s : State} (h : Kept s₀ s) (n : Nat) : Kept s₀ (resend s n) := by
  unfold resend
  repeat' first
    | with_reducible assumption
    | with_reducible apply Kept.ite
    | with_reducible apply setPort_keeps
    | with_reducible apply countPort_keeps
    | with_reducible apply emitFlit_keeps
    | with_reducible refine Kept.foldl (fun _ _ _ => ?_) ?_

theorem execRetrainEnd_keeps {s : State} (h : Kept s₀ s) (port : Fin 16) (good : Bool) (farAck : Fin 65536) :
    OutKept s₀ (execRetrainEnd port good farAck s) := by
  unfold execRetrainEnd
  try refine OutKept.next ?_
  repeat' first
    | with_reducible assumption
    | with_reducible apply Kept.ite
    | with_reducible apply ackTo_keeps
    | with_reducible apply setPort_keeps
    | with_reducible apply countPort_keeps
    | with_reducible apply emitFlit_keeps
    | with_reducible apply portBack_keeps
    | with_reducible apply portDown_keeps
    | with_reducible refine OutKept.next ?_
    | with_reducible refine Kept.foldl (fun _ _ _ => ?_) ?_

theorem execTrainingIdentity_keeps {s : State} (h : Kept s₀ s) (port : Fin 16) (farId : Fin 65536)
    (farPort : Fin 16) (farPart : Fin 256) (lanes : Fin 25) :
    OutKept s₀ (execTrainingIdentity port farId farPort farPart lanes s) := by
  unfold execTrainingIdentity
  try refine OutKept.next ?_
  repeat' first
    | with_reducible assumption
    | with_reducible apply Kept.ite
    | with_reducible apply portBack_keeps
    | with_reducible apply setPort_keeps
    | with_reducible apply rerouteWaiting_keeps
    | with_reducible apply postPF_keeps
    | with_reducible refine OutKept.next ?_
    | split

theorem execReceiveOverload_keeps {s : State} (h : Kept s₀ s) (port : Fin 16) :
    OutKept s₀ (execReceiveOverload port s) := by
  unfold execReceiveOverload
  try refine OutKept.next ?_
  repeat' first
    | with_reducible assumption
    | with_reducible apply Kept.ite
    | with_reducible apply setPort_keeps
    | with_reducible refine OutKept.next ?_
    | split
    | with_reducible refine Kept.mk_congr ?_ rfl rfl rfl rfl rfl rfl

theorem execOverloadPersist_keeps {s : State} (h : Kept s₀ s) (port : Fin 16) :
    OutKept s₀ (execOverloadPersist port s) := by
  unfold execOverloadPersist
  try refine OutKept.next ?_
  repeat' first
    | with_reducible assumption
    | with_reducible apply Kept.ite
    | with_reducible apply rerouteWaiting_keeps
    | with_reducible apply postPF_keeps
    | with_reducible apply setPort_keeps

theorem execOverloadClear_keeps {s : State} (h : Kept s₀ s) (port : Fin 16) :
    OutKept s₀ (execOverloadClear port s) := by
  unfold execOverloadClear
  try refine OutKept.next ?_
  repeat' first
    | with_reducible assumption
    | with_reducible apply Kept.ite
    | with_reducible apply countPort_keeps
    | with_reducible apply setPort_keeps

theorem execOverloadTimeout_keeps {s : State} (h : Kept s₀ s) (port : Fin 16) :
    OutKept s₀ (execOverloadTimeout port s) := by
  unfold execOverloadTimeout
  try refine OutKept.next ?_
  repeat' first
    | with_reducible assumption
    | with_reducible apply Kept.ite
    | with_reducible apply portDown_keeps

theorem notifyLatch_keeps {s : State} (h : Kept s₀ s) (p : Packet) : Kept s₀ (notifyLatch s p) := by
  unfold notifyLatch
  repeat' first
    | with_reducible assumption
    | with_reducible apply Kept.ite
    | with_reducible apply latchUnderflow_keeps
    | with_reducible apply modCluster_keeps

theorem performRead_keeps {s : State} (h : Kept s₀ s) (p : Packet) : Kept s₀ (performRead s p) := by
  unfold performRead
  repeat' first
    | with_reducible assumption
    | with_reducible apply Kept.ite
    | with_reducible apply answer_keeps
    | with_reducible apply hbmFault_keeps

theorem performWrite_keeps {s : State} (h : Kept s₀ s) (p : Packet) : Kept s₀ (performWrite s p) := by
  unfold performWrite
  repeat' first
    | with_reducible assumption
    | with_reducible apply Kept.ite
    | with_reducible apply answer_keeps
    | with_reducible apply notifyLatch_keeps
    | with_reducible apply hbmStoreBytes_keeps

theorem memory_wf_foldl {α : Type} {f : Mem → α → Mem} {l : List α} {m : Mem}
    (hf : ∀ m x, Memory.wf m = true → Memory.wf (f m x) = true) (h : Memory.wf m = true) :
    Memory.wf (l.foldl f m) = true := by
  induction l generalizing m with
  | nil => exact h
  | cons x l ih => exact ih (hf m x h)

theorem hbmMasked_keeps {s : State} (h : Kept s₀ s) (a mask : Nat) (l : Line) : Kept s₀ (hbmMasked s a mask l) := by
  refine ⟨h.regs, h.sram, memory_wf_foldl (fun m i hm => ?_) h.hbm, h.loan, h.flash, h.media, h.time, h.voted, h.queue, h.fresh, h.out⟩
  split
  · exact memSet_wf _ _ hm
  · exact hm

theorem performWritePart_keeps {s : State} (h : Kept s₀ s) (p : Packet) : Kept s₀ (performWritePart s p) := by
  unfold performWritePart
  repeat' first
    | with_reducible assumption
    | with_reducible apply Kept.ite
    | with_reducible apply answer_keeps
    | with_reducible apply notifyLatch_keeps
    | with_reducible apply hbmMasked_keeps

theorem performAtomic_keeps {s : State} (h : Kept s₀ s) (p : Packet) : Kept s₀ (performAtomic s p) := by
  unfold performAtomic
  repeat' first
    | with_reducible assumption
    | with_reducible apply Kept.ite
    | with_reducible apply answer_keeps
    | with_reducible apply hbmStore_keeps
    | with_reducible apply hbmFault_keeps

theorem egressWrite_keeps {s : State} (h : Kept s₀ s) (p : Packet) : Kept s₀ (egressWrite s p) := by
  unfold egressWrite
  repeat' first
    | with_reducible assumption
    | with_reducible apply Kept.ite
    | with_reducible apply answer_keeps
    | with_reducible apply gatherWrite_keeps
    | with_reducible refine Kept.foldl (fun _ _ _ => ?_) ?_

theorem egressRead_keeps {s : State} (h : Kept s₀ s) (p : Packet) : Kept s₀ (egressRead s p) := by
  unfold egressRead
  repeat' first
    | with_reducible assumption
    | with_reducible apply Kept.ite
    | with_reducible apply answer_keeps
    | with_reducible apply fetchRead_keeps
    | with_reducible refine Kept.foldl (fun _ _ _ => ?_) ?_

theorem perform_keeps {s : State} (h : Kept s₀ s) (p : Packet) : Kept s₀ (perform s p) := by
  unfold perform
  repeat' first
    | with_reducible assumption
    | with_reducible apply Kept.ite
    | with_reducible apply egressRead_keeps
    | with_reducible apply performRead_keeps
    | with_reducible apply egressWrite_keeps
    | with_reducible apply performWrite_keeps
    | with_reducible apply performWritePart_keeps
    | with_reducible apply answer_keeps
    | with_reducible apply performAtomic_keeps
    | with_reducible apply completeReq_keeps

theorem request_keeps {s : State} (h : Kept s₀ s) (op : Nat) (eth : Bool) (header : BitVec 256) (data : List Line) :
    Kept s₀ (request op eth header data s) := by
  unfold request
  repeat' first
    | with_reducible assumption
    | with_reducible apply Kept.ite
    | with_reducible apply perform_keeps

theorem execFabricRead_keeps {s : State} (h : Kept s₀ s) (header : BitVec 256) :
    OutKept s₀ (execFabricRead header s) := by
  unfold execFabricRead
  try refine OutKept.next ?_
  repeat' first
    | with_reducible assumption
    | with_reducible apply Kept.ite
    | with_reducible apply request_keeps

theorem execFabricWrite_keeps {s : State} (h : Kept s₀ s) (header : BitVec 256) (data : List Line) :
    OutKept s₀ (execFabricWrite header data s) := by
  unfold execFabricWrite
  try refine OutKept.next ?_
  repeat' first
    | with_reducible assumption
    | with_reducible apply Kept.ite
    | with_reducible apply request_keeps

theorem execFabricWritePart_keeps {s : State} (h : Kept s₀ s) (header : BitVec 256) (data : List Line) :
    OutKept s₀ (execFabricWritePart header data s) := by
  unfold execFabricWritePart
  try refine OutKept.next ?_
  repeat' first
    | with_reducible assumption
    | with_reducible apply Kept.ite
    | with_reducible apply request_keeps

theorem execFabricAtomic_keeps {s : State} (h : Kept s₀ s) (header : BitVec 256) (data : List Line) :
    OutKept s₀ (execFabricAtomic header data s) := by
  unfold execFabricAtomic
  try refine OutKept.next ?_
  repeat' first
    | with_reducible assumption
    | with_reducible apply Kept.ite
    | with_reducible apply request_keeps

theorem execEgressWrite_keeps {s : State} (h : Kept s₀ s) (header : BitVec 256) (data : List Line) :
    OutKept s₀ (execEgressWrite header data s) := by
  unfold execEgressWrite
  try refine OutKept.next ?_
  repeat' first
    | with_reducible assumption
    | with_reducible apply Kept.ite
    | with_reducible apply request_keeps

theorem execEgressRead_keeps {s : State} (h : Kept s₀ s) (header : BitVec 256) :
    OutKept s₀ (execEgressRead header s) := by
  unfold execEgressRead
  try refine OutKept.next ?_
  repeat' first
    | with_reducible assumption
    | with_reducible apply Kept.ite
    | with_reducible apply request_keeps

theorem execEgressBlockTimeout_keeps {s : State} (h : Kept s₀ s) (ewin : Fin 256) (block : Nat) :
    OutKept s₀ (execEgressBlockTimeout ewin block s) := by
  unfold execEgressBlockTimeout
  try refine OutKept.next ?_
  repeat' first
    | with_reducible assumption
    | with_reducible apply Kept.ite
    | with_reducible apply sendBlock_keeps
    | with_reducible refine OutKept.next ?_
    | split

theorem finishFetch_keeps {s : State} (h : Kept s₀ s) (b : EgressBlock) (data : List Byte) :
    Kept s₀ (finishFetch s b data) := by
  unfold finishFetch
  repeat' first
    | with_reducible assumption
    | with_reducible apply Kept.ite
    | with_reducible apply setEgress_keeps
    | with_reducible apply answer_keeps
    | with_reducible refine Kept.foldl (fun _ _ _ => ?_) ?_

theorem execEgressRdmaComplete_keeps {s : State} (h : Kept s₀ s) (ewin : Fin 256) (block : Nat)
    (fetch good : Bool) (data : List Byte) : OutKept s₀ (execEgressRdmaComplete ewin block fetch good data s) := by
  unfold execEgressRdmaComplete
  try refine OutKept.next ?_
  repeat' first
    | with_reducible assumption
    | with_reducible apply Kept.ite
    | with_reducible apply failEgress_keeps
    | with_reducible apply finishFetch_keeps
    | with_reducible apply setEgress_keeps
    | with_reducible apply answer_keeps
    | with_reducible refine OutKept.next ?_
    | with_reducible refine Kept.foldl (fun _ _ _ => ?_) ?_
    | with_reducible refine Kept.foldl_snd (fun _ _ _ => ?_) ?_
    | with_reducible refine Kept.foldl_snd2 (fun _ _ _ => ?_) ?_
    | with_reducible refine Kept.foldl_fst (fun _ _ _ => ?_) ?_
    | split
    | with_reducible refine Kept.mk_congr ?_ rfl rfl rfl rfl rfl rfl

theorem execFabricResponse_keeps {s : State} (h : Kept s₀ s) (tag : Fin 16777216) (status : Fin 5) :
    OutKept s₀ (execFabricResponse tag status s) := by
  unfold execFabricResponse
  try refine OutKept.next ?_
  repeat' first
    | with_reducible assumption
    | with_reducible apply Kept.ite
    | with_reducible apply completeReq_keeps

theorem execFabricRequestTimeout_keeps {s : State} (h : Kept s₀ s) (tag : Fin 16777216) :
    OutKept s₀ (execFabricRequestTimeout tag s) := by
  unfold execFabricRequestTimeout
  try refine OutKept.next ?_
  repeat' first
    | with_reducible assumption
    | with_reducible apply Kept.ite
    | with_reducible apply completeReq_keeps

theorem linkNews_keeps {s : State} (h : Kept s₀ s) (n v : Nat) : Kept s₀ (linkNews s n v) := by
  unfold linkNews
  repeat' first
    | with_reducible assumption
    | with_reducible apply Kept.ite
    | with_reducible apply modPort_keeps
    | with_reducible apply ackTo_keeps
    | with_reducible apply resend_keeps
    | with_reducible apply pump_keeps

theorem returnCredits_keeps {s : State} (h : Kept s₀ s) : Kept s₀ (returnCredits s) := by
  unfold returnCredits
  repeat' first
    | with_reducible assumption
    | with_reducible apply Kept.ite
    | with_reducible apply emitFlit_keeps
    | with_reducible refine Kept.foldl (fun _ _ _ => ?_) ?_

theorem badFlit_keeps {s : State} (h : Kept s₀ s) (n : Nat) : Kept s₀ (badFlit s n) := by
  unfold badFlit
  exact countPort_keeps (setF_keeps (raiseF_keeps h _) _ _) _ _

theorem acceptFlit_keeps {s : State} (h : Kept s₀ s) (n v : Nat) : Kept s₀ (acceptFlit s n v) := by
  unfold acceptFlit
  repeat' first
    | with_reducible assumption
    | with_reducible apply Kept.ite
    | with_reducible apply badFlit_keeps
    | with_reducible apply modPort_keeps
    | with_reducible apply countPort_keeps
    | with_reducible apply leaveSlot_keeps
    | with_reducible apply setF_keeps
    | with_reducible apply raiseF_keeps
    | with_reducible apply linkNews_keeps
    | with_reducible apply perform_keeps
    | with_reducible apply forwardFlit_keeps

theorem execFabricFlitReceive_keeps {s : State} (h : Kept s₀ s) (port : Fin 16) (flit : BitVec 2048)
    (fecOk : Bool) : OutKept s₀ (execFabricFlitReceive port flit fecOk s) := by
  unfold execFabricFlitReceive
  try refine OutKept.next ?_
  repeat' first
    | with_reducible assumption
    | with_reducible apply Kept.ite
    | with_reducible apply badFlit_keeps
    | with_reducible apply modPort_keeps
    | with_reducible apply countPort_keeps
    | with_reducible apply returnCredits_keeps
    | with_reducible apply linkNews_keeps
    | with_reducible apply acceptFlit_keeps

theorem execFabricAckTimer_keeps {s : State} (h : Kept s₀ s) (port : Fin 16) :
    OutKept s₀ (execFabricAckTimer port s) := by
  unfold execFabricAckTimer
  try refine OutKept.next ?_
  repeat' first
    | with_reducible assumption
    | with_reducible apply Kept.ite
    | with_reducible apply emitFlit_keeps

theorem execDmaReadTimeout_keeps {s : State} (h : Kept s₀ s) (use : DmaUse) :
    OutKept s₀ (execDmaReadTimeout use s) := by
  unfold execDmaReadTimeout
  try refine OutKept.next ?_
  repeat' first
    | with_reducible assumption
    | with_reducible apply Kept.ite
    | with_reducible apply execDescriptorFetch_keeps
    | with_reducible apply execPromptReadComplete_keeps
    | with_reducible apply execImagePass2Complete_keeps
    | with_reducible apply execImagePass1Complete_keeps
    | with_reducible apply execPadlockCommandComplete_keeps
    | with_reducible apply execAdapterLoadComplete_keeps
    | with_reducible refine OutKept.next ?_
    | (refine OutKept.to ?_ (by assumption))
    | split

theorem beginSnapshot_keeps {s : State} (h : Kept s₀ s) (n : Nat) : Kept s₀ (beginSnapshot s n) := by
  unfold beginSnapshot
  repeat' first
    | with_reducible assumption
    | with_reducible apply Kept.ite
    | with_reducible apply snapshotCounters_keeps
    | (refine Kept.of_pair1 (by assumption) ?_)
    | with_reducible apply setTel_keeps

theorem snapGo_keeps {s : State} (h : Kept s₀ s) : Kept s₀ (snapGo s) := by
  unfold snapGo
  repeat' first
    | with_reducible assumption
    | with_reducible apply Kept.ite
    | with_reducible apply raiseF_keeps
    | with_reducible apply beginSnapshot_keeps

theorem holdRead_keeps {s : State} (h : Kept s₀ s) (n id : Nat) : Kept s₀ (holdRead s n id).2 := by
  unfold holdRead
  repeat' first
    | with_reducible assumption
    | with_reducible apply Kept.ite
    | with_reducible apply state_takeFree_keeps
    | (refine Kept.of_pair1 (by assumption) ?_)
    | with_reducible apply Kept.ite_snd
    | split

theorem traceMark_keeps {s : State} (h : Kept s₀ s) (v : Nat) : Kept s₀ (traceMark s v) := by
  unfold traceMark
  repeat' first
    | with_reducible assumption
    | with_reducible apply Kept.ite
    | with_reducible apply traceRecord_keeps

theorem traceCopyOne_keeps {s : State} (h : Kept s₀ s) (w : Nat) : Kept s₀ (traceCopyOne s w) := by
  unfold traceCopyOne
  repeat' first
    | with_reducible assumption
    | with_reducible apply Kept.ite
    | with_reducible apply state_emit_keeps
    | with_reducible apply setF_keeps

theorem traceCopy_keeps {s : State} (h : Kept s₀ s) (good : Bool) : Kept s₀ (traceCopy s good) := by
  unfold traceCopy
  repeat' first
    | with_reducible assumption
    | with_reducible apply Kept.ite
    | with_reducible apply setF_keeps
    | with_reducible apply raiseF_keeps
    | with_reducible apply setTel_keeps
    | with_reducible apply traceCopyOne_keeps
    | with_reducible refine Kept.foldl (fun _ _ _ => ?_) ?_

theorem countFix_keeps {s : State} (h : Kept s₀ s) (b : Bool) : Kept s₀ (countFix s b) := by
  unfold countFix
  repeat' first
    | with_reducible assumption
    | with_reducible apply Kept.ite
    | with_reducible apply count_keeps

theorem setTriple_keeps {s : State} (h : Kept s₀ s) (t : TripleField) {l : List Nat}
    (hl : l.length = (tripleCopies s t).1.length) : Kept s₀ (setTriple s t l) := by
  cases t with
  | life => exact setPad_keeps h ⟨hl.trans h.voted.1, h.voted.2.1, h.voted.2.2.1, h.voted.2.2.2⟩
  | svn => exact setPad_keeps h ⟨h.voted.1, hl.trans h.voted.2.1, h.voted.2.2.1, h.voted.2.2.2⟩
  | fused => exact setPad_keeps h ⟨h.voted.1, h.voted.2.1, hl.trans h.voted.2.2.1, h.voted.2.2.2⟩
  | debug => exact setPad_keeps h ⟨h.voted.1, h.voted.2.1, h.voted.2.2.1, hl.trans h.voted.2.2.2⟩
  | cur k i p => simp only [setTriple]; exact modCluster_keeps h _ _

theorem readTriple_keeps {s : State} (h : Kept s₀ s) (t : TripleField) : Kept s₀ (readTriple s t).2 := by
  unfold readTriple
  dsimp only
  refine Kept.ite_snd (count_keeps (setTriple_keeps h t ?_) _ _) h
  simp [voteField]

theorem upsetTriple_keeps {s : State} (h : Kept s₀ s) (t : TripleField) (copy flip : Nat) :
    Kept s₀ (upsetTriple s t copy flip) := by
  unfold upsetTriple
  dsimp only
  refine Kept.ite h (setTriple_keeps h t ?_)
  simp

theorem readRegister_keeps {s : State} (h : Kept s₀ s) (set : Nat) (off : Nat) :
    Kept s₀ (readRegister s set off).2 := by
  unfold readRegister
  repeat' first
    | with_reducible assumption
    | ((fail_if_no_progress first | extract_lets +onlyGivenNames z | fail); refine (have hz : Kept s₀ z := ?_; ?_); rotate_left; clear_value z)
    | (fail_if_no_progress first | extract_lets +onlyGivenNames z | fail)
    | with_reducible apply Kept.ite
    | with_reducible apply state_takeFree_keeps
    | with_reducible apply holdRead_keeps
    | with_reducible apply lookScan_keeps
    | with_reducible apply noteTriple_keeps
    | with_reducible apply readTriple_keeps
    | (refine Kept.of_pair1 (by assumption) ?_)
    | with_reducible refine Kept.foldl (fun _ _ _ => ?_) ?_
    | with_reducible refine Kept.foldl_snd (fun _ _ _ => ?_) ?_
    | with_reducible refine Kept.foldl_snd2 (fun _ _ _ => ?_) ?_
    | with_reducible refine Kept.foldl_fst (fun _ _ _ => ?_) ?_
    | with_reducible apply Kept.ite_snd
    | split

theorem readPF_keeps {s : State} (h : Kept s₀ s) (set off : Nat) : Kept s₀ (readPF s set off).2 := by
  unfold readPF
  repeat' first
    | with_reducible assumption
    | with_reducible apply Kept.ite
    | with_reducible apply readRegister_keeps
    | (refine Kept.of_pair1 (by assumption) ?_)
    | with_reducible apply Kept.ite_snd

theorem writeFields_keeps {s : State} (h : Kept s₀ s) (key : Nat) (v : Word) : Kept s₀ (writeFields s key v) := by
  unfold writeFields
  repeat' first
    | with_reducible assumption
    | with_reducible apply Kept.ite
    | with_reducible apply setReg_keeps
    | with_reducible refine Kept.foldl (fun _ _ _ => ?_) ?_
    | with_reducible refine Kept.foldl_snd (fun _ _ _ => ?_) ?_
    | with_reducible refine Kept.foldl_snd2 (fun _ _ _ => ?_) ?_
    | with_reducible refine Kept.foldl_fst (fun _ _ _ => ?_) ?_
    | split

theorem cfgCmd_keeps {s : State} (h : Kept s₀ s) (v : Nat) : Kept s₀ (cfgCmd s v) := by
  unfold cfgCmd
  repeat' first
    | with_reducible assumption
    | with_reducible apply Kept.ite
    | with_reducible apply cfgLoad_keeps
    | with_reducible apply cfgCommit_keeps
    | with_reducible apply cfgDrop_keeps
    | with_reducible apply cfgStop_keeps
    | split

theorem cfgReset_keeps {s : State} (h : Kept s₀ s) (v : Nat) : Kept s₀ (cfgReset s v) := by
  unfold cfgReset
  repeat' first
    | with_reducible assumption
    | with_reducible apply Kept.ite
    | with_reducible apply cfgDiscard_keeps
    | with_reducible apply startWarmReset_keeps
    | with_reducible apply state_takeFree_keeps
    | (refine Kept.of_pair1 (by assumption) ?_)
    | with_reducible apply coldReset_keeps

theorem tripWrite_keeps {s : State} (h : Kept s₀ s) (v : Word) : Kept s₀ (tripWrite s v) := by
  unfold tripWrite
  repeat' first
    | with_reducible assumption
    | with_reducible apply Kept.ite
    | with_reducible apply writeFields_keeps
    | with_reducible apply platformEvent_keeps

theorem sselWrite_keeps {s : State} (h : Kept s₀ s) (off : Nat) (v : Word) : Kept s₀ (sselWrite s off v) := by
  unfold sselWrite
  repeat' first
    | with_reducible assumption
    | with_reducible apply Kept.ite
    | with_reducible apply writeFields_keeps

theorem assayWrite_keeps {s : State} (h : Kept s₀ s) (off : Nat) (v : Word) : Kept s₀ (assayWrite s off v) := by
  unfold assayWrite
  repeat' first
    | with_reducible assumption
    | with_reducible apply Kept.ite
    | with_reducible apply asyCtlWrite_keeps
    | with_reducible apply raiseF_keeps
    | with_reducible apply writeFields_keeps

theorem txBufWrite_keeps {s : State} (h : Kept s₀ s) (off : Nat) (v : Word) : Kept s₀ (txBufWrite s off v) := by
  unfold txBufWrite
  repeat' first
    | with_reducible assumption
    | with_reducible apply Kept.ite
    | split
    | with_reducible refine Kept.mk_congr ?_ rfl rfl rfl rfl rfl rfl

theorem windowWrite_keeps {s : State} (h : Kept s₀ s) (k o : Nat) (v : Word) : Kept s₀ (windowWrite s k o v) := by
  unfold windowWrite
  repeat' first
    | with_reducible assumption
    | with_reducible apply Kept.ite
    | with_reducible apply tblSel_keeps
    | with_reducible apply lusCmd_keeps
    | with_reducible apply lusProg_keeps
    | with_reducible apply entryHigh_keeps
    | with_reducible apply entryLow_keeps
    | with_reducible apply writeFields_keeps
    | split

theorem fnWrite_keeps {s : State} (h : Kept s₀ s) (fn off : Nat) (v : Word) : Kept s₀ (fnWrite s fn off v) := by
  unfold fnWrite
  repeat' first
    | with_reducible assumption
    | with_reducible apply Kept.ite
    | with_reducible apply queueBase_keeps
    | with_reducible apply queueCfg_keeps
    | with_reducible apply eqCfg_keeps
    | with_reducible apply hreqCfg_keeps
    | with_reducible apply writeFields_keeps
    | split

theorem writeRegister_keeps {s : State} (h : Kept s₀ s) (off : Nat) (v : Word) : Kept s₀ (writeRegister s off v) := by
  unfold writeRegister
  repeat' first
    | with_reducible assumption
    | with_reducible apply Kept.ite
    | with_reducible apply windowWrite_keeps
    | with_reducible apply fnWrite_keeps
    | with_reducible apply timeNext_keeps
    | with_reducible apply dumpCtl_keeps
    | with_reducible apply cfgCmd_keeps
    | with_reducible apply cfgReset_keeps
    | with_reducible apply padlockCmd_keeps
    | with_reducible apply setCap_keeps
    | with_reducible apply tripWrite_keeps
    | with_reducible apply wrdEntSel_keeps
    | with_reducible apply mapGo_keeps
    | with_reducible apply assayWrite_keeps
    | with_reducible apply portCtl_keeps
    | with_reducible apply ptpTxCtl_keeps
    | with_reducible apply ptpRxStat_keeps
    | with_reducible apply qpCtl_keeps
    | with_reducible apply txBufWrite_keeps
    | with_reducible apply snapGo_keeps
    | with_reducible apply traceMark_keeps
    | with_reducible apply sselWrite_keeps
    | with_reducible apply writeFields_keeps
    | split

theorem writeVF_keeps {s : State} (h : Kept s₀ s) (fn off : Nat) (v : Word) : Kept s₀ (writeVF s fn off v) := by
  unfold writeVF
  repeat' first
    | with_reducible assumption
    | with_reducible apply Kept.ite
    | with_reducible apply raiseF_keeps
    | with_reducible apply errVfAccess_keeps
    | with_reducible apply fnWrite_keeps

theorem writeBar0_keeps {s : State} (h : Kept s₀ s) (fn off : Nat) (v : Word) : Kept s₀ (writeBar0 s fn off v) := by
  unfold writeBar0
  repeat' first
    | with_reducible assumption
    | with_reducible apply Kept.ite
    | with_reducible apply errWidth_keeps
    | with_reducible apply writeVF_keeps
    | with_reducible apply errNotReady_keeps
    | with_reducible apply writeRegister_keeps

theorem execRegisterWrite_keeps {s : State} (h : Kept s₀ s) (fn : Fin 64) (off : Fin 134217728) (value : Word) :
    OutKept s₀ (execRegisterWrite fn off value s) := by
  unfold execRegisterWrite
  try refine OutKept.next ?_
  repeat' first
    | with_reducible assumption
    | with_reducible apply Kept.ite
    | with_reducible apply writeBar0_keeps

theorem execBadWidthAccess_keeps {s : State} (h : Kept s₀ s) (fn : Fin 64) (off : Fin 134217728) (write : Bool) :
    OutKept s₀ (execBadWidthAccess fn off write s) := by
  unfold execBadWidthAccess
  try refine OutKept.next ?_
  repeat' first
    | with_reducible assumption
    | with_reducible apply Kept.ite
    | with_reducible apply errWidth_keeps
    | with_reducible apply state_emit_keeps

theorem execTripleFieldRead_keeps {s : State} (h : Kept s₀ s) (field : TripleField) (copy : Fin 3) (flip : Nat) :
    OutKept s₀ (execTripleFieldRead field copy flip s) := by
  unfold execTripleFieldRead
  try refine OutKept.next ?_
  repeat' first
    | with_reducible assumption
    | with_reducible apply Kept.ite
    | with_reducible apply readTriple_keeps
    | (refine Kept.of_pair1 (by assumption) ?_)
    | with_reducible apply upsetTriple_keeps
    | with_reducible apply noteTriple_keeps
    | with_reducible apply state_emit_keeps

theorem execSnapGo_keeps {s : State} (h : Kept s₀ s) (fn : Fin 64) : OutKept s₀ (execSnapGo fn s) := by
  unfold execSnapGo
  try refine OutKept.next ?_
  repeat' first
    | with_reducible assumption
    | with_reducible apply Kept.ite
    | with_reducible refine pfWrite_keeps ?_ _ _ _ (fun _ _ => ?_)
    | with_reducible apply snapGo_keeps

theorem mgmtAnswer_keeps {s : State} (h : Kept s₀ s) (args : List Nat) : Kept s₀ (mgmtAnswer s args) := by
  unfold mgmtAnswer
  repeat' first
    | with_reducible assumption
    | with_reducible apply Kept.ite
    | with_reducible apply count_keeps
    | with_reducible apply state_emit_keeps

theorem snapshotDone_keeps {s : State} (h : Kept s₀ s) (n : Nat) : Kept s₀ (snapshotDone s n) := by
  unfold snapshotDone
  repeat' first
    | with_reducible assumption
    | with_reducible apply Kept.ite
    | with_reducible apply setTel_keeps
    | with_reducible apply bumpWrapF_keeps
    | with_reducible apply raiseF_keeps
    | with_reducible apply mgmtAnswer_keeps
    | split
    | with_reducible refine Kept.mk_congr ?_ rfl rfl rfl rfl rfl rfl

theorem execSnapshotComplete_keeps {s : State} (h : Kept s₀ s) (set : Fin 2) :
    OutKept s₀ (execSnapshotComplete set s) := by
  unfold execSnapshotComplete
  try refine OutKept.next ?_
  repeat' first
    | with_reducible assumption
    | with_reducible apply Kept.ite
    | with_reducible apply snapshotDone_keeps

theorem sampleRecord_keeps {s : State} (h : Kept s₀ s) (c : List (Nat × Nat)) (n : Nat) (good : Bool) :
    Kept s₀ (sampleRecord s c n good) := by
  unfold sampleRecord
  repeat' first
    | with_reducible assumption
    | with_reducible apply Kept.ite
    | with_reducible apply raiseF_keeps
    | with_reducible apply setF_keeps
    | with_reducible apply state_emit_keeps

theorem execSamplerTick_keeps {s : State} (h : Kept s₀ s) (good : Bool) : OutKept s₀ (execSamplerTick good s) := by
  unfold execSamplerTick
  try refine OutKept.next ?_
  repeat' first
    | with_reducible assumption
    | with_reducible apply Kept.ite
    | with_reducible apply snapshotCounters_keeps
    | (refine Kept.of_pair1 (by assumption) ?_)
    | with_reducible apply setTel_keeps
    | with_reducible apply sampleRecord_keeps

theorem execTraceRecord_keeps {s : State} (h : Kept s₀ s) (type : Fin 256) (source : Fin 4096) (arg : Fin 1048576)
    (data : Word) (time : Nat) (fifoFull : Bool) :
    OutKept s₀ (execTraceRecord type source arg data time fifoFull s) := by
  unfold execTraceRecord
  try refine OutKept.next ?_
  repeat' first
    | with_reducible assumption
    | with_reducible apply Kept.ite
    | with_reducible apply traceRecord_keeps

theorem execTimesync_keeps {s : State} (h : Kept s₀ s) : OutKept s₀ (execTimesync s) := by
  unfold execTimesync
  try refine OutKept.next ?_
  repeat' first
    | with_reducible assumption
    | with_reducible apply Kept.ite
    | with_reducible apply traceSync_keeps

theorem execTraceHostCopy_keeps {s : State} (h : Kept s₀ s) (good : Bool) :
    OutKept s₀ (execTraceHostCopy good s) := by
  unfold execTraceHostCopy
  try refine OutKept.next ?_
  repeat' first
    | with_reducible assumption
    | with_reducible apply Kept.ite
    | with_reducible apply traceCopy_keeps

theorem execTraceMark_keeps {s : State} (h : Kept s₀ s) (fn : Fin 64) (value : Word) :
    OutKept s₀ (execTraceMark fn value s) := by
  unfold execTraceMark
  try refine OutKept.next ?_
  repeat' first
    | with_reducible assumption
    | with_reducible apply Kept.ite
    | with_reducible refine pfWrite_keeps ?_ _ _ _ (fun _ _ => ?_)
    | with_reducible apply traceMark_keeps

theorem execDynamicAddressAssign_keeps {s : State} (h : Kept s₀ s) (setdasa : Bool) (addr : Fin 128) :
    OutKept s₀ (execDynamicAddressAssign setdasa addr s) := by
  unfold execDynamicAddressAssign
  try refine OutKept.next ?_
  repeat' first
    | with_reducible assumption
    | with_reducible apply Kept.ite
    | with_reducible apply state_emit_keeps
    | with_reducible apply setTel_keeps

theorem control_keeps {s : State} (h : Kept s₀ s) (dest : Nat) (args : List Nat) : Kept s₀ (control s dest args) := by
  unfold control
  repeat' first
    | with_reducible assumption
    | with_reducible apply Kept.ite
    | with_reducible apply mgmtAnswer_keeps

theorem execSetEndpointId_keeps {s : State} (h : Kept s₀ s) (dest eid : Fin 256) :
    OutKept s₀ (execSetEndpointId dest eid s) := by
  unfold execSetEndpointId
  try refine OutKept.next ?_
  repeat' first
    | with_reducible assumption
    | with_reducible apply Kept.ite
    | with_reducible apply control_keeps
    | with_reducible apply setTel_keeps

theorem execGetEndpointId_keeps {s : State} (h : Kept s₀ s) (dest : Fin 256) :
    OutKept s₀ (execGetEndpointId dest s) := by
  unfold execGetEndpointId
  try refine OutKept.next ?_
  repeat' first
    | with_reducible assumption
    | with_reducible apply Kept.ite
    | with_reducible apply control_keeps

theorem execGetEndpointUuid_keeps {s : State} (h : Kept s₀ s) (dest : Fin 256) :
    OutKept s₀ (execGetEndpointUuid dest s) := by
  unfold execGetEndpointUuid
  try refine OutKept.next ?_
  repeat' first
    | with_reducible assumption
    | with_reducible apply Kept.ite
    | with_reducible apply control_keeps

theorem execGetMctpVersionSupport_keeps {s : State} (h : Kept s₀ s) (dest type : Fin 256) :
    OutKept s₀ (execGetMctpVersionSupport dest type s) := by
  unfold execGetMctpVersionSupport
  try refine OutKept.next ?_
  repeat' first
    | with_reducible assumption
    | with_reducible apply Kept.ite
    | with_reducible apply control_keeps

theorem execGetMessageTypeSupport_keeps {s : State} (h : Kept s₀ s) (dest : Fin 256) :
    OutKept s₀ (execGetMessageTypeSupport dest s) := by
  unfold execGetMessageTypeSupport
  try refine OutKept.next ?_
  repeat' first
    | with_reducible assumption
    | with_reducible apply Kept.ite
    | with_reducible apply control_keeps

theorem execMctpDiscard_keeps {s : State} (h : Kept s₀ s) (_type : Fin 256) :
    OutKept s₀ (execMctpDiscard _type s) := by
  unfold execMctpDiscard
  try refine OutKept.next ?_
  repeat' (with_reducible assumption)

theorem pldmAnswer_keeps {s : State} (h : Kept s₀ s) (req type code cc : Nat) (data : List Nat) :
    Kept s₀ (pldmAnswer s req type code cc data) := by
  unfold pldmAnswer
  repeat' first
    | with_reducible assumption
    | with_reducible apply Kept.ite
    | with_reducible apply mgmtAnswer_keeps

theorem pldm_keeps {s : State} (h : Kept s₀ s) (req type code : Nat) (f : State → State)
    (hf : ∀ t, Kept s₀ t → Kept s₀ (f t)) : Kept s₀ (pldm s req type code f) := by
  unfold pldm
  split
  · exact h
  · split
    · exact pldmAnswer_keeps h _ _ _ _ _
    · exact hf _ h

theorem execPldmSensorRead_keeps {s : State} (h : Kept s₀ s) (req : Fin 256) (id : Fin 65536) :
    OutKept s₀ (execPldmSensorRead req id s) := by
  unfold execPldmSensorRead
  try refine OutKept.next ?_
  repeat' first
    | with_reducible assumption
    | with_reducible apply Kept.ite
    | with_reducible refine pldm_keeps ?_ _ _ _ _ (fun _ _ => ?_)
    | with_reducible apply pldmAnswer_keeps
    | with_reducible refine OutKept.next ?_
    | split

theorem execCapEffecter_keeps {s : State} (h : Kept s₀ s) (req : Fin 256) (watts : Fin 65536) :
    OutKept s₀ (execCapEffecter req watts s) := by
  unfold execCapEffecter
  try refine OutKept.next ?_
  repeat' first
    | with_reducible assumption
    | with_reducible apply Kept.ite
    | with_reducible refine pldm_keeps ?_ _ _ _ _ (fun _ _ => ?_)
    | with_reducible apply pldmAnswer_keeps
    | with_reducible apply setCap_keeps

theorem execResetEffecter_keeps {s : State} (h : Kept s₀ s) (req value : Fin 256) :
    OutKept s₀ (execResetEffecter req value s) := by
  unfold execResetEffecter
  try refine OutKept.next ?_
  repeat' first
    | with_reducible assumption
    | with_reducible apply Kept.ite
    | with_reducible refine pldm_keeps ?_ _ _ _ _ (fun _ _ => ?_)
    | with_reducible apply cfgReset_keeps
    | with_reducible apply pldmAnswer_keeps

theorem setNor_keeps {s : State} (h : Kept s₀ s) (n : Nat) (bs : List Byte) : Kept s₀ (setNor s n bs) := by
  unfold setNor
  repeat' first
    | with_reducible assumption
    | with_reducible apply Kept.ite
    | with_reducible refine setPad_keep ?_ rfl

theorem execFirmwareUpdate_keeps {s : State} (h : Kept s₀ s) (req : Fin 256) (image : List Byte) :
    OutKept s₀ (execFirmwareUpdate req image s) := by
  unfold execFirmwareUpdate
  try refine OutKept.next ?_
  repeat' first
    | with_reducible assumption
    | with_reducible apply Kept.ite
    | with_reducible refine pldm_keeps ?_ _ _ _ _ (fun _ _ => ?_)
    | with_reducible apply setNor_keeps
    | with_reducible apply pldmAnswer_keeps

theorem regRead_keeps {s : State} (h : Kept s₀ s) (off : Nat) : Kept s₀ (regRead s off).2 := by
  unfold regRead
  repeat' first
    | with_reducible assumption
    | with_reducible apply Kept.ite
    | with_reducible apply readPF_keeps
    | (refine Kept.of_pair1 (by assumption) ?_)
    | with_reducible apply Kept.ite_snd

theorem execReadReg_keeps {s : State} (h : Kept s₀ s) (req : Fin 256) (off : Fin 134217728) :
    OutKept s₀ (execReadReg req off s) := by
  unfold execReadReg
  try refine OutKept.next ?_
  repeat' first
    | with_reducible assumption
    | with_reducible apply Kept.ite
    | with_reducible refine pldm_keeps ?_ _ _ _ _ (fun _ _ => ?_)
    | with_reducible apply regRead_keeps
    | (refine Kept.of_pair1 (by assumption) ?_)
    | with_reducible apply pldmAnswer_keeps
    | with_reducible refine OutKept.next ?_
    | split

theorem execSnap_keeps {s : State} (h : Kept s₀ s) (req : Fin 256) : OutKept s₀ (execSnap req s) := by
  unfold execSnap
  try refine OutKept.next ?_
  repeat' first
    | with_reducible assumption
    | with_reducible apply Kept.ite
    | with_reducible refine pldm_keeps ?_ _ _ _ _ (fun _ _ => ?_)
    | with_reducible apply raiseF_keeps
    | with_reducible apply beginSnapshot_keeps
    | with_reducible apply setTel_keeps

theorem execReadDump_keeps {s : State} (h : Kept s₀ s) (req : Fin 256) (slot : Fin 2) (offset : Nat)
    (len : Fin 1025) : OutKept s₀ (execReadDump req slot offset len s) := by
  unfold execReadDump
  try refine OutKept.next ?_
  repeat' first
    | with_reducible assumption
    | with_reducible apply Kept.ite
    | with_reducible refine pldm_keeps ?_ _ _ _ _ (fun _ _ => ?_)
    | with_reducible apply pldmAnswer_keeps
    | with_reducible refine OutKept.next ?_
    | split

theorem execReleaseDump_keeps {s : State} (h : Kept s₀ s) (req : Fin 256) (slot : Fin 2) :
    OutKept s₀ (execReleaseDump req slot s) := by
  unfold execReleaseDump
  try refine OutKept.next ?_
  repeat' first
    | with_reducible assumption
    | with_reducible apply Kept.ite
    | with_reducible refine pldm_keeps ?_ _ _ _ _ (fun _ _ => ?_)
    | with_reducible apply pldmAnswer_keeps
    | with_reducible apply releaseSlot_keeps

theorem execUartByteReceive_keeps {s : State} (h : Kept s₀ s) (byte : Byte) (stop : Bool) :
    OutKept s₀ (execUartByteReceive byte stop s) := by
  unfold execUartByteReceive
  try refine OutKept.next ?_
  repeat' first
    | with_reducible assumption
    | with_reducible apply Kept.ite
    | with_reducible apply count_keeps
    | with_reducible apply raiseF_keeps
    | with_reducible apply setTel_keeps

theorem takeLine_keeps {s : State} (h : Kept s₀ s) : Kept s₀ (takeLine s) := by
  unfold takeLine
  repeat' first
    | with_reducible assumption
    | with_reducible apply Kept.ite
    | with_reducible apply setTel_keeps

theorem conOK_keeps {s : State} (h : Kept s₀ s) (items : List Nat) : Kept s₀ (conOK s items) := by
  unfold conOK
  repeat' first
    | with_reducible assumption
    | with_reducible apply Kept.ite
    | with_reducible apply state_emit_keeps

theorem conERR_keeps {s : State} (h : Kept s₀ s) : Kept s₀ (conERR s) := by
  unfold conERR
  repeat' first
    | with_reducible assumption
    | with_reducible apply Kept.ite
    | with_reducible apply state_emit_keeps

theorem execConVer_keeps {s : State} (h : Kept s₀ s) : OutKept s₀ (execConVer s) := by
  unfold execConVer
  try refine OutKept.next ?_
  repeat' first
    | with_reducible assumption
    | with_reducible apply Kept.ite
    | with_reducible apply conOK_keeps
    | with_reducible apply takeLine_keeps

theorem execConStat_keeps {s : State} (h : Kept s₀ s) : OutKept s₀ (execConStat s) := by
  unfold execConStat
  try refine OutKept.next ?_
  repeat' first
    | with_reducible assumption
    | with_reducible apply Kept.ite
    | with_reducible apply conOK_keeps
    | with_reducible apply takeLine_keeps

theorem execConTime_keeps {s : State} (h : Kept s₀ s) : OutKept s₀ (execConTime s) := by
  unfold execConTime
  try refine OutKept.next ?_
  repeat' first
    | with_reducible assumption
    | with_reducible apply Kept.ite
    | with_reducible apply conOK_keeps
    | with_reducible apply takeLine_keeps

theorem execConTemp_keeps {s : State} (h : Kept s₀ s) : OutKept s₀ (execConTemp s) := by
  unfold execConTemp
  try refine OutKept.next ?_
  repeat' first
    | with_reducible assumption
    | with_reducible apply Kept.ite
    | with_reducible apply conOK_keeps
    | with_reducible apply takeLine_keeps

theorem execConBaud_keeps {s : State} (h : Kept s₀ s) (d : Nat) : OutKept s₀ (execConBaud d s) := by
  unfold execConBaud
  try refine OutKept.next ?_
  repeat' first
    | with_reducible assumption
    | with_reducible apply Kept.ite
    | with_reducible apply takeLine_keeps
    | with_reducible apply setF_keeps
    | with_reducible apply conOK_keeps
    | with_reducible apply conERR_keeps

theorem execConRd_keeps {s : State} (h : Kept s₀ s) (off : Fin 134217728) : OutKept s₀ (execConRd off s) := by
  unfold execConRd
  try refine OutKept.next ?_
  repeat' first
    | with_reducible assumption
    | with_reducible apply Kept.ite
    | with_reducible apply takeLine_keeps
    | with_reducible apply conERR_keeps
    | with_reducible apply regRead_keeps
    | (refine Kept.of_pair1 (by assumption) ?_)
    | with_reducible apply conOK_keeps
    | with_reducible refine OutKept.next ?_
    | split

theorem execConWr_keeps {s : State} (h : Kept s₀ s) (off : Fin 134217728) (value : Word) :
    OutKept s₀ (execConWr off value s) := by
  unfold execConWr
  try refine OutKept.next ?_
  repeat' first
    | with_reducible assumption
    | with_reducible apply Kept.ite
    | with_reducible apply takeLine_keeps
    | with_reducible apply conERR_keeps
    | with_reducible apply conOK_keeps
    | with_reducible apply writeBar0_keeps

theorem execConTrace_keeps {s : State} (h : Kept s₀ s) (n : Nat) : OutKept s₀ (execConTrace n s) := by
  unfold execConTrace
  try refine OutKept.next ?_
  repeat' first
    | with_reducible assumption
    | with_reducible apply Kept.ite
    | with_reducible apply takeLine_keeps
    | with_reducible apply conERR_keeps
    | with_reducible apply conOK_keeps

theorem execConsoleUnknown_keeps {s : State} (h : Kept s₀ s) : OutKept s₀ (execConsoleUnknown s) := by
  unfold execConsoleUnknown
  try refine OutKept.next ?_
  repeat' first
    | with_reducible assumption
    | with_reducible apply Kept.ite
    | with_reducible apply conERR_keeps
    | with_reducible apply takeLine_keeps

end Sys2Proof.Machine
end

