-- ==== Sys2Proof/Laws/Kept.lean ====
section
/-!
SUPPORT. What every command keeps, and what every step keeps.
-/
namespace Sys2Proof.Machine

open Sys2Proof

set_option maxRecDepth 10000

/-- Every command answers a next state that keeps what KeptBase says. -/
theorem exec_keeps {s₀ s : State} (h : Kept s₀ s) (c : Instr) : OutKept s₀ (exec c s) := by
  cases c with
  | registerWrite fn off value => exact execRegisterWrite_keeps h fn off value
  | badWidthAccess fn off write => exact execBadWidthAccess_keeps h fn off write
  | tripleFieldRead field copy flip => exact execTripleFieldRead_keeps h field copy flip
  | ageingRecalibration cluster site lo mid hi => exact execAgeingRecalibration_keeps h cluster site lo mid hi
  | sramScrubRead core store index error => exact execSramScrubRead_keeps h core store index error
  | sramScrubOverdue core bank => exact execSramScrubOverdue_keeps h core bank
  | streamLineWrite core buffer expanded => exact execStreamLineWrite_keeps h core buffer expanded
  | waitTimeout core strand => exact execWaitTimeout_keeps h core strand
  | girdleFlitReceive link back good => exact execGirdleFlitReceive_keeps h link back good
  | girdleLaneRepair link back lanes => exact execGirdleLaneRepair_keeps h link back lanes
  | girdleLinkDown link back => exact execGirdleLinkDown_keeps h link back
  | tblEmpty core strand => exact execEmpty_keeps h core strand
  | tblNop core strand => exact execNop_keeps h core strand
  | tblJump core strand => exact execJump_keeps h core strand
  | tblBranch core strand => exact execBranch_keeps h core strand
  | tblLoop core strand => exact execLoop_keeps h core strand
  | tblEndloop core strand => exact execEndloop_keeps h core strand
  | tblCall core strand => exact execCall_keeps h core strand
  | tblReturn core strand => exact execReturn_keeps h core strand
  | tblWait core strand => exact execWait_keeps h core strand
  | tblEnd core strand => exact execEnd_keeps h core strand
  | tblNotify core strand => exact execNotify_keeps h core strand
  | tblSimm core strand => exact execSimm_keeps h core strand
  | tblSalu core strand => exact execSalu_keeps h core strand
  | tblSload core strand => exact execSload_keeps h core strand
  | tblSstore core strand => exact execSstore_keeps h core strand
  | tblAmov core strand => exact execAmov_keeps h core strand
  | tblAadd core strand => exact execAadd_keeps h core strand
  | tblFlags core strand => exact execFlags_keeps h core strand
  | tblDma core strand => exact execDma_keeps h core strand
  | tblMove core strand => exact execMove_keeps h core strand
  | tblAtomic core strand => exact execAtomic_keeps h core strand
  | tblMatmul core strand => exact execMatmul_keeps h core strand
  | tblEpilogue core strand => exact execEpilogue_keeps h core strand
  | tblLustre core strand => exact execLustre_keeps h core strand
  | tblWadd core strand => exact execWadd_keeps h core strand
  | tblWmerge core strand => exact execWmerge_keeps h core strand
  | tblWread core strand => exact execWread_keeps h core strand
  | tblWclear core strand => exact execWclear_keeps h core strand
  | operationComplete core op => exact execOperationComplete_keeps h core op
  | remoteDataReturn core op => exact execRemoteDataReturn_keeps h core op
  | translationRefusalReturn core op => exact execTranslationRefusalReturn_keeps h core op
  | launchComplete core => exact execLaunchComplete_keeps h core
  | clusterStoreLineArrival core strand => exact execClusterStoreLineArrival_keeps h core strand
  | cluTblSelWrite fn cluster value => exact execCluTblSelWrite_keeps h fn cluster value
  | storeEntryLowWrite fn cluster clus index value => exact execStoreEntryLowWrite_keeps h fn cluster clus index value
  | storeEntryHighWrite fn cluster clus index value => exact execStoreEntryHighWrite_keeps h fn cluster clus index value
  | cluLusProgWrite fn cluster index value => exact execCluLusProgWrite_keeps h fn cluster index value
  | lustreSlotCommit fn cluster => exact execLustreSlotCommit_keeps h fn cluster
  | lustreSlotInvalidate fn cluster => exact execLustreSlotInvalidate_keeps h fn cluster
  | tblAstep core strand => exact execAstep_keeps h core strand
  | tblAfold core strand => exact execAfold_keeps h core strand
  | tblAnorm core strand => exact execAnorm_keeps h core strand
  | tblAlmax core strand => exact execAlmax_keeps h core strand
  | tblAlsum core strand => exact execAlsum_keeps h core strand
  | tblAlprob core strand => exact execAlprob_keeps h core strand
  | tblAmerge core strand => exact execAmerge_keeps h core strand
  | tblXselect core strand => exact execXselect_keeps h core strand
  | tblXdispatch core strand => exact execXdispatch_keeps h core strand
  | tblXreturn core strand => exact execXreturn_keeps h core strand
  | tblXgather core strand => exact execXgather_keeps h core strand
  | tblXbag core strand => exact execXbag_keeps h core strand
  | claim engine step layer claim => exact execClaim_keeps h engine step layer claim
  | sealArrival engine step layer share => exact execSeal_keeps h engine step layer share
  | groupDecide engine step layer => exact execGroupDecide_keeps h engine step layer
  | claimOutcome engine order granted => exact execClaimOutcome_keeps h engine order granted
  | dispatchedRow engine step layer pkg src order data => exact execDispatchedRow_keeps h engine step layer pkg src order data
  | returnedRow engine order data => exact execReturnedRow_keeps h engine order data
  | kvRecordApply core => exact execKvRecordApply_keeps h core
  | pageFree page => exact execPageFree_keeps h page
  | pageZeroingComplete page => exact execPageZeroingComplete_keeps h page
  | generationSweep => exact execGenerationSweep_keeps h
  | parkComplete ward => exact execParkComplete_keeps h ward
  | resumePageReturn ward index good => exact execResumePageReturn_keeps h ward index good
  | bittingLookup ward => exact execBittingLookup_keeps h ward
  | admitDescriptor origin subseq desc => exact execAdmitDescriptor_keeps h origin subseq desc
  | promptReadComplete origin subseq good tokens => exact execPromptReadComplete_keeps h origin subseq good tokens
  | pause origin subseq desc => exact execPause_keeps h origin subseq desc
  | resume origin subseq desc => exact execResume_keeps h origin subseq desc
  | cancel origin subseq desc => exact execCancel_keeps h origin subseq desc
  | orderRecordArrival r => exact execOrderRecordArrival_keeps h r
  | batchCut => exact execBatchCut_keeps h
  | batchArrival b => exact execBatchArrival_keeps h b
  | batchWaitTimeout => exact execBatchWaitTimeout_keeps h
  | keyringCopyOut ward => exact execKeyringCopyOut_keeps h ward
  | keyringWriteComplete ward seq good => exact execKeyringWriteComplete_keeps h ward seq good
  | keyringAck origin value => exact execKeyringAck_keeps h origin value
  | kdrainSend => exact execKdrainSend_keeps h
  | wrdEntSelWrite fn ward => exact execWrdEntSelWrite_keeps h fn ward
  | stepShareComplete lane sampled => exact execStepShareComplete_keeps h lane sampled
  | stepExchange x => exact execStepExchange_keeps h x
  | stepBoundary lane proposed disp => exact execStepBoundary_keeps h lane proposed disp
  | exchangeWaitTimeout lane => exact execExchangeWaitTimeout_keeps h lane
  | coreLaunch core spec => exact execCoreLaunch_keeps h core spec
  | bucketRefill bucket => exact execBucketRefill_keeps h bucket
  | map fn => exact execMap_keeps h fn
  | unmap fn => exact execUnmap_keeps h fn
  | protect fn => exact execProtect_keeps h fn
  | mapCommandComplete => exact execMapCommandComplete_keeps h
  | heatDecay => exact execHeatDecay_keeps h
  | migrationStart => exact execMigrationStart_keeps h
  | migrationCopyPass page badGranule => exact execMigrationCopyPass_keeps h page badGranule
  | migrationSwitch page => exact execMigrationSwitch_keeps h page
  | frameZeroingComplete frame => exact execFrameZeroingComplete_keeps h frame
  | loanReq borrower => exact execLoanReq_keeps h borrower
  | loanGrant lender base => exact execLoanGrant_keeps h lender base
  | loanDeny lender => exact execLoanDeny_keeps h lender
  | loanIdleExpiry slot => exact execLoanIdleExpiry_keeps h slot
  | loanReturn borrower base => exact execLoanReturn_keeps h borrower base
  | evacuationComplete slots => exact execEvacuationComplete_keeps h slots
  | flashReadComplete granule level good use => exact execFlashReadComplete_keeps h granule level good use
  | flashWrite granule offset data owner durable => exact execFlashWrite_keeps h granule offset data owner durable
  | flashProgramComplete block => exact execFlashProgramComplete_keeps h block
  | flashProgramFail block => exact execFlashProgramFail_keeps h block
  | flashEraseFail block => exact execFlashEraseFail_keeps h block
  | garbageCollection channel dst => exact execGarbageCollection_keeps h channel dst
  | wearRelocation dst => exact execWearRelocation_keeps h dst
  | readDisturbRelocation block dst => exact execReadDisturbRelocation_keeps h block dst
  | relocationPriorityRaise block => exact execRelocationPriorityRaise_keeps h block
  | ftlCheckpoint => exact execFtlCheckpoint_keeps h
  | shardDelivery dest source index alive crc payload => exact execShardDelivery_keeps h dest source index alive crc payload
  | shardTimeout dest source => exact execShardTimeout_keeps h dest source
  | hingeHostDoorbell fn index alive => exact execHingeHostDoorbell_keeps h fn index alive
  | hingePassed pkg layer => exact execHingePassed_keeps h pkg layer
  | layerCommitComplete layer => exact execLayerCommitComplete_keeps h layer
  | hingeCommitted pkg layer => exact execHingeCommitted_keeps h pkg layer
  | adapterLoadComplete slot manifest => exact execAdapterLoadComplete_keeps h slot manifest
  | assayGo fn engine ctl => exact execAssayGo_keeps h fn engine ctl
  | assayAbort fn engine ctl => exact execAssayAbort_keeps h fn engine ctl
  | scanComplete engine => exact execScanComplete_keeps h engine
  | fabricFlitReceive port flit fecOk => exact execFabricFlitReceive_keeps h port flit fecOk
  | fabricAckTimer port => exact execFabricAckTimer_keeps h port
  | portRetrainStart port => exact execPortRetrainStart_keeps h port
  | retrainEnd port good farAck => exact execRetrainEnd_keeps h port good farAck
  | trainingIdentity port farId farPort farPart lanes => exact execTrainingIdentity_keeps h port farId farPort farPart lanes
  | recalibrationDue port => exact execRecalibrationDue_keeps h port
  | recalibrationComplete port => exact execRecalibrationComplete_keeps h port
  | receiveOverload port => exact execReceiveOverload_keeps h port
  | overloadPersist port => exact execOverloadPersist_keeps h port
  | overloadClear port => exact execOverloadClear_keeps h port
  | overloadTimeout port => exact execOverloadTimeout_keeps h port
  | fabricRead header => exact execFabricRead_keeps h header
  | fabricWrite header data => exact execFabricWrite_keeps h header data
  | fabricWritePart header data => exact execFabricWritePart_keeps h header data
  | fabricAtomic header data => exact execFabricAtomic_keeps h header data
  | fabricResponse tag status => exact execFabricResponse_keeps h tag status
  | fabricRequestTimeout tag => exact execFabricRequestTimeout_keeps h tag
  | egressWrite header data => exact execEgressWrite_keeps h header data
  | egressRead header => exact execEgressRead_keeps h header
  | egressBlockTimeout ewin block => exact execEgressBlockTimeout_keeps h ewin block
  | egressRdmaComplete ewin block fetch good data => exact execEgressRdmaComplete_keeps h ewin block fetch good data
  | retrain fn port => exact execRetrain_keeps h fn port
  | recal fn port => exact execRecal_keeps h fn port
  | sqTailDoorbell fn q value whole => exact execSqTailDoorbell_keeps h fn q value whole
  | cqHeadDoorbell fn q value whole => exact execCqHeadDoorbell_keeps h fn q value whole
  | eqHeadDoorbell fn value whole => exact execEqHeadDoorbell_keeps h fn value whole
  | descriptorFetch fn q data => exact execDescriptorFetch_keeps h fn q data
  | queueCfgWrite fn q value => exact execQueueCfgWrite_keeps h fn q value
  | queueDeferredReset fn q => exact execQueueDeferredReset_keeps h fn q
  | eqCfgWrite fn value => exact execEqCfgWrite_keeps h fn value
  | hreqCfgWrite fn value => exact execHreqCfgWrite_keeps h fn value
  | msixMessage fn vector => exact execMsixMessage_keeps h fn vector
  | functionLevelReset fn => exact execFunctionLevelReset_keeps h fn
  | perst => exact execPerst_keeps h
  | bar2Access offset len data => exact execBar2Access_keeps h offset len data
  | dmaReadTimeout use => exact execDmaReadTimeout_keeps h use
  | ingressWrite qp key addr data marked => exact execIngressWrite_keeps h qp key addr data marked
  | roceOtherOpcode qp access => exact execRoceOtherOpcode_keeps h qp access
  | ethernetFrameDrop port => exact execEthernetFrameDrop_keeps h port
  | roceAckTimeout qp psn => exact execRoceAckTimeout_keeps h qp psn
  | roceNak qp kind psn => exact execRoceNak_keeps h qp kind psn
  | qpReset fn value => exact execQpReset_keeps h fn value
  | cnpReceive qp => exact execCnpReceive_keeps h qp
  | roceRateIncrease qp => exact execRoceRateIncrease_keeps h qp
  | ptpTxGo fn port value => exact execPtpTxGo_keeps h fn port value
  | ptpTxDone port => exact execPtpTxDone_keeps h port
  | ptpFrameReceive port sub bytes => exact execPtpFrameReceive_keeps h port sub bytes
  | ptpRxPop fn port value => exact execPtpRxPop_keeps h fn port value
  | syncInEdge => exact execSyncInEdge_keeps h
  | syncMissed => exact execSyncMissed_keeps h
  | timeArm fn value => exact execTimeArm_keeps h fn value
  | refclkLoss => exact execRefclkLoss_keeps h
  | load fn => exact execLoad_keeps h fn
  | commit fn => exact execCommit_keeps h fn
  | discard fn => exact execDiscard_keeps h fn
  | stop fn => exact execStop_keeps h fn
  | imagePass1Complete bytes => exact execImagePass1Complete_keeps h bytes
  | imagePass2Complete bytes => exact execImagePass2Complete_keeps h bytes
  | commitReadySend => exact execCommitReadySend_keeps h
  | commitResumeBoundary proposed disp => exact execCommitResumeBoundary_keeps h proposed disp
  | batchApplyIdle proposed disp => exact execBatchApplyIdle_keeps h proposed disp
  | warmReset => exact execWarmReset_keeps h
  | coldReset badHeader => exact execColdReset_keeps h badHeader
  | powerOnReset badHeader => exact execPowerOnReset_keeps h badHeader
  | firmwareAccepted => exact execFirmwareAccepted_keeps h
  | railsComplete good => exact execRailsComplete_keeps h good
  | hbmTrainingComplete good => exact execHbmTrainingComplete_keeps h good
  | clusterReloadComplete cluster => exact execClusterReloadComplete_keeps h cluster
  | opticsStageComplete => exact execOpticsStageComplete_keeps h
  | fabricStageComplete => exact execFabricStageComplete_keeps h
  | tenantsStageComplete => exact execTenantsStageComplete_keeps h
  | weightsStageComplete => exact execWeightsStageComplete_keeps h
  | vin48Restored => exact execVin48Restored_keeps h
  | inputUndervolt => exact execInputUndervolt_keeps h
  | undervoltRecovery => exact execUndervoltRecovery_keeps h
  | inputPowerLoss => exact execInputPowerLoss_keeps h
  | inputOvervolt => exact execInputOvervolt_keeps h
  | converterFailure => exact execConverterFailure_keeps h
  | inputSample vin iin => exact execInputSample_keeps h vin iin
  | capControl => exact execCapControl_keeps h
  | voltageTargetReached cluster => exact execVoltageTargetReached_keeps h cluster
  | fastLimitEntry => exact execFastLimitEntry_keeps h
  | fastLimitExit => exact execFastLimitExit_keeps h
  | droopDetect cluster => exact execDroopDetect_keeps h cluster
  | droopRecovery cluster => exact execDroopRecovery_keeps h cluster
  | thermalLimitStep cluster reading => exact execThermalLimitStep_keeps h cluster reading
  | overtempEntry cluster reading => exact execOvertempEntry_keeps h cluster reading
  | sensorCalibration die reference readings => exact execSensorCalibration_keeps h die reference readings
  | deadboltTrip die sensor => exact execDeadboltTrip_keeps h die sensor
  | capWrite fn value => exact execCapWrite_keeps h fn value
  | clusterDoze cluster => exact execClusterDoze_keeps h cluster
  | clusterDeep cluster => exact execClusterDeep_keeps h cluster
  | clusterWake cluster => exact execClusterWake_keeps h cluster
  | hbmScrubRead stack error => exact execHbmScrubRead_keeps h stack error
  | gatewayLoss die => exact execGatewayLoss_keeps h die
  | jobFault episode pkg => exact execJobFault_keeps h episode pkg
  | coreStopGraceExpiry => exact execCoreStopGraceExpiry_keeps h
  | deliveryWindowExpiry => exact execDeliveryWindowExpiry_keeps h
  | dumpComplete slot bad => exact execDumpComplete_keeps h slot bad
  | recoveryWarmReset => exact execRecoveryWarmReset_keeps h
  | dumpRelease fn value => exact execDumpRelease_keeps h fn value
  | program fn slot => exact execProgram_keeps h fn slot
  | revoke fn slot => exact execRevoke_keeps h fn slot
  | lock fn => exact execLock_keeps h fn
  | advanceSvn fn => exact execAdvanceSvn_keeps h fn
  | retire fn key => exact execRetire_keeps h fn key
  | nonce fn => exact execNonce_keeps h fn
  | openDebug fn => exact execOpenDebug_keeps h fn
  | closeDebug fn => exact execCloseDebug_keeps h fn
  | padlockCommandComplete data => exact execPadlockCommandComplete_keeps h data
  | nonceExpiry => exact execNonceExpiry_keeps h
  | debugTransitionComplete => exact execDebugTransitionComplete_keeps h
  | getVersion => exact execGetVersion_keeps h
  | getCapabilities => exact execGetCapabilities_keeps h
  | negotiateAlgorithms p384 sha384 => exact execNegotiateAlgorithms_keeps h p384 sha384
  | getDigests => exact execGetDigests_keeps h
  | getCertificate slot offset len => exact execGetCertificate_keeps h slot offset len
  | challenge slot nonce => exact execChallenge_keeps h slot nonce
  | getMeasurements index signed nonce => exact execGetMeasurements_keeps h index signed nonce
  | spdmUnsupported code => exact execSpdmUnsupported_keeps h code
  | jtagExtest drive => exact execExtest_keeps h drive
  | jtagIdcode => exact execIdcode_keeps h
  | jtagSamplePreload load => exact execSamplePreload_keeps h load
  | jtagDbgStat => exact execDbgStat_keeps h
  | jtagDbgNonce => exact execDbgNonce_keeps h
  | jtagDbgToken token => exact execDbgToken_keeps h token
  | jtagDbgClose => exact execDbgClose_keeps h
  | jtagIntscan => exact execIntscan_keeps h
  | jtagIntest => exact execIntest_keeps h
  | jtagBypass => exact execBypass_keeps h
  | snapGo fn => exact execSnapGo_keeps h fn
  | snapshotComplete set => exact execSnapshotComplete_keeps h set
  | samplerTick good => exact execSamplerTick_keeps h good
  | traceRecord type source arg data time fifoFull => exact execTraceRecord_keeps h type source arg data time fifoFull
  | timesync => exact execTimesync_keeps h
  | traceHostCopy good => exact execTraceHostCopy_keeps h good
  | traceMark fn value => exact execTraceMark_keeps h fn value
  | dynamicAddressAssign setdasa addr => exact execDynamicAddressAssign_keeps h setdasa addr
  | setEndpointId dest eid => exact execSetEndpointId_keeps h dest eid
  | getEndpointId dest => exact execGetEndpointId_keeps h dest
  | getEndpointUuid dest => exact execGetEndpointUuid_keeps h dest
  | getMctpVersionSupport dest type => exact execGetMctpVersionSupport_keeps h dest type
  | getMessageTypeSupport dest => exact execGetMessageTypeSupport_keeps h dest
  | mctpDiscard type => exact execMctpDiscard_keeps h type
  | pldmSensorRead req id => exact execPldmSensorRead_keeps h req id
  | capEffecter req watts => exact execCapEffecter_keeps h req watts
  | resetEffecter req value => exact execResetEffecter_keeps h req value
  | firmwareUpdate req image => exact execFirmwareUpdate_keeps h req image
  | readReg req off => exact execReadReg_keeps h req off
  | snap req => exact execSnap_keeps h req
  | readDump req slot offset len => exact execReadDump_keeps h req slot offset len
  | releaseDump req slot => exact execReleaseDump_keeps h req slot
  | uartByteReceive byte stop => exact execUartByteReceive_keeps h byte stop
  | conVer => exact execConVer_keeps h
  | conStat => exact execConStat_keeps h
  | conTime => exact execConTime_keeps h
  | conTemp => exact execConTemp_keeps h
  | conBaud d => exact execConBaud_keeps h d
  | conRd off => exact execConRd_keeps h off
  | conWr off value => exact execConWr_keeps h off value
  | conTrace n => exact execConTrace_keeps h n
  | consoleUnknown => exact execConsoleUnknown_keeps h
  | refclkRestored => exact execRefclkRestored_keeps h
  | perstDeassertion => exact execPerstDeassertion_keeps h
  | configurationRequest fn => exact execConfigurationRequest_keeps h fn
  | mirrorRefresh => exact execMirrorRefresh_keeps h
  | sensorThresholdCrossing unit reading => exact execSensorThresholdCrossing_keeps h unit reading
  | g0Loss => exact execG0Loss_keeps h

/-- A command's next state. -/
theorem exec_next {s t : State} {c : Instr} (h : s.Sound) (e : exec c s = .next t) : Kept s t :=
  (exec_keeps (Kept.refl h) c).to e

end Sys2Proof.Machine
end

