-- ==== Sys2Proof/Laws/Local.lean ====
section
/-!
SUPPORT. The entries of the Lustre unit and of attention stay within their core: their accesses are of the core's own
local SRAM, and beside it they raise the core's sticky flags alone.
-/
namespace Sys2Proof.Machine

open Sys2Proof

/-- `t` is `s` but for the local SRAM and the sticky flags of core `c`, and no flag has fallen. -/
structure LocalOnly (s t : State) (c : Nat) : Prop where
  rest  : t = { s with
            regs := t.regs
            fresh := t.fresh
            comp := { s.comp with
              sram := t.comp.sram
              sramPoison := t.comp.sramPoison } }
  bytes : ∀ b, b < sramKey c 0 ∨ sramKey c (sramSize c) ≤ b → memGet t.comp.sram b = memGet s.comp.sram b
  regs  : ∀ r, r ≠ rCLU_CORE_STAT (clusterOfCore c) (indexOfCore c) → getReg t r = getReg s r
  flags : ∃ f : BitVec 5, getReg t (rCLU_CORE_STAT (clusterOfCore c) (indexOfCore c)) =
            getReg s (rCLU_CORE_STAT (clusterOfCore c) (indexOfCore c)) ||| BitVec.ofNat 64 f.toNat

theorem LocalOnly.refl (s : State) (c : Nat) : LocalOnly s s c :=
  ⟨rfl, fun _ _ => rfl, fun _ _ => rfl, 0#5, by simp⟩

theorem LocalOnly.trans {s t u : State} {c : Nat} (h : LocalOnly s t c) (g : LocalOnly t u c) : LocalOnly s u c := by
  refine ⟨?_, fun b hb => (g.bytes b hb).trans (h.bytes b hb), fun r hr => (g.regs r hr).trans (h.regs r hr), ?_⟩
  · conv_lhs => rw [g.rest]
    rw [h.rest]
  · obtain ⟨f, hf⟩ := h.flags
    obtain ⟨k, hk⟩ := g.flags
    refine ⟨f ||| k, ?_⟩
    simp only [hk, hf, BitVec.ofNat_toNat, BitVec.or_assoc, BitVec.setWidth_or]

/-- An access whose address is aligned and whose last byte is outside SRAM lies beyond it. -/
theorem beyondSram_of_lt {size ad n al : Nat} (h : size < ad + n)
    (ha : (if al ≠ 0 ∧ ad % al ≠ 0 then [CoreFault.align] else []) = []) : beyondSram size ad n al = true := by
  have hm : al = 0 ∨ ad % al = 0 := by
    by_contra hne
    simp only [not_or] at hne
    rw [if_pos hne] at ha
    cases ha
  simp only [beyondSram, Bool.or_eq_true, Bool.and_eq_true, decide_eq_true_eq, Bool.not_eq_true',
    Bool.and_eq_false_iff, decide_eq_false_iff_not, bne_eq_false_iff_eq]
  rcases hm with rfl | hm
  · by_cases h0 : n = 0
    · left; omega
    · right; exact ⟨h, Or.inl (by omega)⟩
  · right; exact ⟨h, Or.inr hm⟩

theorem accessFault_none {s : State} {c : Nat} {a : Word} {n al : Nat} {rd : Bool}
    (h : accessFault s c a n al rd = none) : aADDR a + n ≤ sramSize c := by
  simp only [accessFault] at h
  split at h
  · cases h
  · rename_i hf
    rw [firstCause_nil_iff] at hf
    simp only [localFaults, accessFaults, List.append_eq_nil_iff] at hf
    obtain ⟨⟨⟨⟨h1, _⟩, h3⟩, _⟩, h5⟩ := hf
    have hsp : aSPACE a = spLOCAL := by
      by_contra hne
      simp [hne] at h1
    by_contra hlt
    have : aADDR a + n > sramSize c := by omega
    rw [if_pos ⟨hsp, beyondSram_of_lt this h5⟩] at h3
    cases h3

theorem sramStoreBytes_local {s : State} {c a : Nat} {bs : List Byte} (h : a + bs.length ≤ sramSize c) :
    LocalOnly s (sramStoreBytes s c a bs) c := by
  refine ⟨rfl, ?_, fun _ _ => rfl, 0#5, by simp [getReg, sramStoreBytes]⟩
  intro b hb
  apply sramStoreBytes_outside
  have h0 : sramKey c a = sramKey c 0 + a := by simp [sramKey]
  have h1 : sramKey c (sramSize c) = sramKey c 0 + sramSize c := by simp [sramKey]
  rw [h1] at hb
  rw [h0]
  generalize sramKey c 0 = z at *
  generalize sramSize c = y at *
  rcases hb with hb | hb
  · left; exact Nat.lt_of_lt_of_le hb (Nat.le_add_right _ _)
  · right; exact Nat.le_trans (by rw [Nat.add_assoc]; exact Nat.add_le_add_left h z) hb

theorem raiseCoreFlags_local (s : State) (c : Nat) (f : BitVec 5) : LocalOnly s (raiseCoreFlags s c f) c := by
  by_cases hf : f = 0#5
  · simp only [raiseCoreFlags, hf, if_true]
    exact LocalOnly.refl s c
  · simp only [raiseCoreFlags, hf, if_false]
    exact ⟨rfl, fun _ _ => rfl, fun r hr => getReg_setReg_other _ _ hr, f, getReg_setReg_same _ _ _⟩

theorem writeLocal_local {s t : State} {c : Nat} {a : Word} {al : Nat} {bs : List Byte}
    (h : writeLocal s c a al bs = .ok t) : LocalOnly s t c := by
  simp only [writeLocal] at h
  split at h
  · cases h
  · rename_i hf
    cases h
    exact sramStoreBytes_local (accessFault_none hf)

theorem writeRec_local {s t : State} {c i reg r : Nat} {v : Option Nat}
    (h : writeRec s c i reg r v = .ok t) : LocalOnly s t c := by
  cases v with
  | none => cases h; exact LocalOnly.refl s c
  | some v => exact writeLocal_local h

theorem writeRow_local {s t : State} {c : Nat} {a : Word} {code : Nat} {es : List Nat}
    (h : writeRow s c a code es = .ok t) : LocalOnly s t c := writeLocal_local h

/-- Items that each stay local stay local together. -/
theorem inOrder_local {α : Type} {c : Nat} {f : α → State → Except LocalError State}
    (hf : ∀ x s t, f x s = .ok t → LocalOnly s t c) (xs : List α) (s : State) :
    LocalOnly s (inOrder f xs s).2 c := by
  induction xs generalizing s with
  | nil => exact LocalOnly.refl s c
  | cons x xs ih =>
    simp only [inOrder]
    cases hx : f x s with
    | ok t => exact (hf x s t hx).trans (ih t)
    | error e => exact LocalOnly.refl s c

/-- Peel one bind of an item. -/
theorem bind_ok {α β : Type} {x : Except LocalError α} {f : α → Except LocalError β} {r : β}
    (h : (x >>= f) = .ok r) : ∃ a, x = .ok a ∧ f a = .ok r := by
  cases x with
  | error e => cases h
  | ok a => exact ⟨a, rfl, h⟩

theorem putBits_local {s t : State} {c : Nat} {row : Word} {al lo w v : Nat} (hb : w < 8 → lo / 8 + 1 ≤ al)
    (h : putBits s c row al lo w v = .ok t) : LocalOnly s t c := by
  simp only [putBits] at h
  split at h
  · split at h
    · cases h
    · exact writeLocal_local h
  · split at h
    · cases h
    · rename_i hw _ hf
      cases h
      have := accessFault_none hf
      have := hb (by omega)
      refine sramStoreBytes_local ?_
      simp only [length_leBytes]
      omega

/-- Column `j % n` of a tile row lies in the row's field. -/
theorem epi_fits (code j k : Nat) (h : widthOfCode code < 8) :
    widthOfCode code * (j % (shapeOf k).2) / 8 + 1 ≤ max 1 ((shapeOf k).2 * widthOfCode code / 8) := by
  have hw : widthOfCode code = 4 ∨ widthOfCode code = 0 ∨ widthOfCode code = 6 := by
    revert h
    simp only [widthOfCode]
    split <;> simp
  have hn : (shapeOf k).2 = 4 ∨ (shapeOf k).2 = 2 ∨ (shapeOf k).2 = 1 := by
    simp only [shapeOf]
    split <;> simp
  rcases hw with hw | hw | hw <;> rcases hn with hn | hn | hn <;> rw [hw, hn] <;> omega

theorem epiCell_local {c i : Nat} {e : Entry} {tl : Tile} {j : Nat} {s t : State} (h : epiCell c i e tl j s = .ok t) :
    LocalOnly s t c := by
  unfold epiCell at h
  dsimp only at h
  split at h
  all_goals
    obtain ⟨_, _, h⟩ := bind_ok h
    split at h
    all_goals
      obtain ⟨_, _, h⟩ := bind_ok h
      split at h
      all_goals
        obtain ⟨_, _, h⟩ := bind_ok h
        obtain ⟨u, hw, h⟩ := bind_ok h
        cases h
        exact (putBits_local (epi_fits _ _ _) hw).trans (raiseCoreFlags_local _ _ _)

theorem lustreElem_local {c i : Nat} {e : Entry} {a b n : Nat} {s t : State} (h : lustreElem c i e a b n s = .ok t) :
    LocalOnly s t c := by
  simp only [lustreElem] at h
  obtain ⟨x, _, h⟩ := bind_ok h
  obtain ⟨u, hw, h⟩ := bind_ok h
  cases h
  exact (writeLocal_local hw).trans (raiseCoreFlags_local _ _ _)

theorem almaxItem_local {c i : Nat} {e : Entry} {r : Nat} {s t : State} (h : almaxItem c i e r s = .ok t) :
    LocalOnly s t c := by
  simp only [almaxItem] at h
  obtain ⟨_, _, h⟩ := bind_ok h
  obtain ⟨_, _, h⟩ := bind_ok h
  obtain ⟨u, hw, h⟩ := bind_ok h
  cases h
  exact (writeRec_local hw).trans (raiseCoreFlags_local _ _ _)

theorem astepItem_local {c i : Nat} {e : Entry} {r : Nat} {s t : State} (h : astepItem c i e r s = .ok t) :
    LocalOnly s t c := by
  simp only [astepItem] at h
  obtain ⟨_, _, h⟩ := bind_ok h
  obtain ⟨_, _, h⟩ := bind_ok h
  obtain ⟨u, hw, h⟩ := bind_ok h
  obtain ⟨v, hv, h⟩ := bind_ok h
  cases h
  exact ((writeRec_local hw).trans (writeRow_local hv)).trans (raiseCoreFlags_local _ _ _)

theorem alsumItem_local {c i : Nat} {e : Entry} {r : Nat} {s t : State} (h : alsumItem c i e r s = .ok t) :
    LocalOnly s t c := by
  simp only [alsumItem] at h
  obtain ⟨_, _, h⟩ := bind_ok h
  obtain ⟨_, _, h⟩ := bind_ok h
  obtain ⟨_, _, h⟩ := bind_ok h
  obtain ⟨u, hw, h⟩ := bind_ok h
  cases h
  exact (writeLocal_local hw).trans (raiseCoreFlags_local _ _ _)

theorem alprobItem_local {c i : Nat} {e : Entry} {r : Nat} {s t : State} (h : alprobItem c i e r s = .ok t) :
    LocalOnly s t c := by
  simp only [alprobItem] at h
  obtain ⟨_, _, h⟩ := bind_ok h
  obtain ⟨_, _, h⟩ := bind_ok h
  split at h
  all_goals
    obtain ⟨_, _, h⟩ := bind_ok h
    obtain ⟨u, hw, h⟩ := bind_ok h
    obtain ⟨v, hv, h⟩ := bind_ok h
    cases h
    exact ((writeRec_local hw).trans (writeRow_local hv)).trans (raiseCoreFlags_local _ _ _)

theorem afoldElemAt_local {c i : Nat} {e : Entry} {r alpha q : Nat} {s t : State}
    (h : afoldElemAt c i e r alpha q s = .ok t) : LocalOnly s t c := by
  simp only [afoldElemAt] at h
  split at h
  all_goals
    obtain ⟨_, _, h⟩ := bind_ok h
    obtain ⟨u, hw, h⟩ := bind_ok h
    cases h
    exact (writeLocal_local hw).trans (raiseCoreFlags_local _ _ _)

theorem foldlM_local {α : Type} {c : Nat} {f : State → α → Except LocalError State}
    (hf : ∀ x s t, f s x = .ok t → LocalOnly s t c) (xs : List α) (s t : State) (h : xs.foldlM f s = .ok t) :
    LocalOnly s t c := by
  induction xs generalizing s with
  | nil => cases h; exact LocalOnly.refl _ c
  | cons x xs ih =>
    rw [List.foldlM_cons] at h
    obtain ⟨u, hu, h⟩ := bind_ok h
    exact (hf x s u hu).trans (ih u h)

theorem afoldItem_local {c i : Nat} {e : Entry} {x : Nat × Except LocalError Nat} {s t : State}
    (h : afoldItem c i e x s = .ok t) : LocalOnly s t c := by
  simp only [afoldItem] at h
  split at h
  · cases h
  · exact foldlM_local (fun _ _ _ hq => afoldElemAt_local hq) _ _ _ h

theorem anormItem_local {c i : Nat} {e : Entry} {r : Nat} {s t : State} (h : anormItem c i e r s = .ok t) :
    LocalOnly s t c := by
  simp only [anormItem] at h
  obtain ⟨_, _, h⟩ := bind_ok h
  split at h
  all_goals
    obtain ⟨_, _, h⟩ := bind_ok h
    obtain ⟨u, hw, h⟩ := bind_ok h
    obtain ⟨v, hv, h⟩ := bind_ok h
    cases h
    exact ((writeRow_local hw).trans (writeRec_local hv)).trans (raiseCoreFlags_local _ _ _)

theorem amergeItem_local {c i : Nat} {e : Entry} {r : Nat} {s t : State} (h : amergeItem c i e r s = .ok t) :
    LocalOnly s t c := by
  simp only [amergeItem] at h
  obtain ⟨_, _, h⟩ := bind_ok h
  split at h
  · exact writeLocal_local h
  · obtain ⟨_, _, h⟩ := bind_ok h
    split at h
    all_goals
      obtain ⟨_, _, h⟩ := bind_ok h
      obtain ⟨u, hw, h⟩ := bind_ok h
      obtain ⟨v, hv, h⟩ := bind_ok h
      cases h
      exact ((writeLocal_local hw).trans (writeRow_local hv)).trans (raiseCoreFlags_local _ _ _)

theorem issueOp_core (s : State) (c i : Nat) (e : Entry) (dest : Option Nat) (value : Word) (remote : Bool) (ph : OpPhase) :
    (getCore (issueOp s c i e dest value remote ph) c).tiles = (getCore s c).tiles ∧
    (getCore (issueOp s c i e dest value remote ph) c).bufs = (getCore s c).bufs := by
  simp only [issueOp]
  cases doneLatch e with
  | none => simp
  | some l => obtain ⟨b, n⟩ := l; cases b <;> simp [latchRaise, latchSet]

/-- What stays local before the operation is issued is, with its issue, an entry that stays local. -/
theorem LocalOnly.entry {s u : State} {c i op : Nat} {e : Entry} (h : Issues s c i op e)
    (g : LocalOnly (advance s c i) u c) : LocalEntry s (issueDone u c i e) c i e := by
  have hs := issueOp_same u c i e none 0 false .done
  have hc : ∀ d, getCore u d = getCore (advance s c i) d := by
    intro d; rw [g.rest]; rfl
  have hk : u.comp.clusters = s.comp.clusters := by rw [g.rest]; rfl
  have hr : ∀ r, getReg (issueDone u c i e) r = getReg u r := by
    intro r; simp only [issueDone]; rw [hs.2]; rfl
  refine ⟨h.issued _ _ _ _ (hc c) hk, ?_, ?_, ?_, ?_, ?_, ?_, ?_⟩
  · refine (h.stepped.alone.trans ?_).trans (issueOp_alone _ _ _ _ _ _ _ _)
    rw [g.rest]
    exact ⟨fun _ _ => rfl, rfl, fun _ _ => rfl, rfl⟩
  · simp only [issueDone]
    conv_lhs => rw [hs.2]
    rw [hs.2, g.rest]
    rfl
  · intro b hb
    simp only [issueDone]
    rw [hs.1.1]
    exact g.bytes b hb
  · intro r hx
    rw [hr]
    exact g.regs r hx
  · obtain ⟨f, hf⟩ := g.flags
    exact ⟨f, by rw [hr]; exact hf⟩
  · simp only [issueDone]
    rw [(issueOp_core _ _ _ _ _ _ _ _).1, hc, h.stepped.2.2.1]
  · simp only [issueDone]
    rw [(issueOp_core _ _ _ _ _ _ _ _).2, hc, h.stepped.2.2.1]

theorem runItems_local {α : Type} {s : State} {c i op : Nat} {e : Entry} (h : Issues s c i op e)
    {f : α → State → Except LocalError State} (hf : ∀ x s t, f x s = .ok t → LocalOnly s t c) (xs : List α)
    (hd : (inOrder f xs (advance s c i)).1 = none) : LocalEntry s (runItems c i e f xs (advance s c i)) c i e := by
  have := LocalOnly.entry h (inOrder_local hf xs (advance s c i))
  simpa only [runItems, hd] using this

end Sys2Proof.Machine
end

