-- ==== Sys2Proof/Laws/Run.lean ====
section
/-!
SUPPORT. Runs of several steps: a run one step longer is a step and a run, or a run and a step.
-/
namespace Sys2Proof.Machine

open Sys2Proof

theorem run_zero (s : State) : Host.Core.run Sys2Proof.core 0 s = .next s := rfl

/-- A run of one step more, taken at its start. -/
theorem run_succ_of_step {n : Nat} {s u : State} (h : step s = .next u) :
    Host.Core.run Sys2Proof.core (n + 1) s = Host.Core.run Sys2Proof.core n u := by
  have h' : Sys2Proof.core.step s = .next u := h
  simp [Host.Core.run, h']

/-- A run of one step more, taken at its end. -/
theorem run_succ_of_run {n : Nat} {s t : State} (h : Host.Core.run Sys2Proof.core n s = .next t) :
    Host.Core.run Sys2Proof.core (n + 1) s = step t := by
  induction n generalizing s with
  | zero =>
    cases h
    cases hs : step t with
    | next u => rw [run_succ_of_step hs, run_zero]; rfl
    | fault r => exact r.casesOn
    | refused r =>
      have h' : Sys2Proof.core.step t = .refused r := hs
      simp only [Host.Core.run, h']
      rfl
  | succ n ih =>
    cases hs : step s with
    | next u =>
      rw [run_succ_of_step hs] at h ⊢
      exact ih h
    | fault r => exact r.casesOn
    | refused r =>
      have h' : Sys2Proof.core.step s = .refused r := hs
      simp [Host.Core.run, h'] at h

/-- A step takes the front of the queue and keeps the rest. -/
theorem step_takes {s : State} (h : s.Sound) :
    ∃ t, step s = .next t ∧ Kept { s with pending := s.pending.tail } t := by
  have hs : ∀ l, ({ s with pending := l } : State).Sound := fun l => ⟨h.1, h.2, h.3, h.4, h.5, h.6, h.7, h.8⟩
  cases hp : s.pending with
  | nil =>
    have hk := idleTick_keeps (Kept.refl h)
    refine ⟨idleTick s, by simp [step, hp], ?_⟩
    exact ⟨hk.1, hk.2, hk.3, hk.4, hk.5, hk.6, hk.7, hk.8, by rw [hk.queue, hp]; rfl, hk.fresh, hk.out⟩
  | cons c rest =>
    have hk := exec_keeps (Kept.refl (hs rest)) c
    cases hx : exec c { s with pending := rest } with
    | next t =>
      rw [hx] at hk
      exact ⟨t, by simp [step, hp, hx], hk⟩
    | fault r => exact r.casesOn
    | refused r => rw [hx] at hk; exact hk.elim

end Sys2Proof.Machine
end

