-- ==== Sys2Proof/WellFormed.lean ====
section
/-!
DEFINITION. Well-formed commands: the checks on operands that their types do not already make. A command that fails
them names no event of the hardware: bytes past the end of a granule, a record or message that is another command's.
-/
namespace Sys2Proof

/-- A command's operands lie in its domain. -/
def Instr.wellFormed : Instr → Bool
  | .registerWrite _ _ _ => true
  | .badWidthAccess _ _ _ => true
  | .tripleFieldRead _ _ _ => true
  | .ageingRecalibration _ _ _ _ _ => true
  | .sramScrubRead _ _ _ _ => true
  | .sramScrubOverdue _ _ => true
  | .streamLineWrite _ _ _ => true
  | .waitTimeout _ _ => true
  | .girdleFlitReceive _ _ _ => true
  | .girdleLaneRepair _ _ _ => true
  | .girdleLinkDown _ _ => true
  | .tblEmpty _ _ => true
  | .tblNop _ _ => true
  | .tblJump _ _ => true
  | .tblBranch _ _ => true
  | .tblLoop _ _ => true
  | .tblEndloop _ _ => true
  | .tblCall _ _ => true
  | .tblReturn _ _ => true
  | .tblWait _ _ => true
  | .tblEnd _ _ => true
  | .tblNotify _ _ => true
  | .tblSimm _ _ => true
  | .tblSalu _ _ => true
  | .tblSload _ _ => true
  | .tblSstore _ _ => true
  | .tblAmov _ _ => true
  | .tblAadd _ _ => true
  | .tblFlags _ _ => true
  | .tblDma _ _ => true
  | .tblMove _ _ => true
  | .tblAtomic _ _ => true
  | .tblMatmul _ _ => true
  | .tblEpilogue _ _ => true
  | .tblLustre _ _ => true
  | .tblWadd _ _ => true
  | .tblWmerge _ _ => true
  | .tblWread _ _ => true
  | .tblWclear _ _ => true
  | .operationComplete _ _ => true
  | .remoteDataReturn _ _ => true
  | .translationRefusalReturn _ _ => true
  | .launchComplete _ => true
  | .clusterStoreLineArrival _ _ => true
  | .cluTblSelWrite _ _ _ => true
  | .storeEntryLowWrite _ _ _ _ _ => true
  | .storeEntryHighWrite _ _ _ _ _ => true
  | .cluLusProgWrite _ _ _ _ => true
  | .lustreSlotCommit _ _ => true
  | .lustreSlotInvalidate _ _ => true
  | .tblAstep _ _ => true
  | .tblAfold _ _ => true
  | .tblAnorm _ _ => true
  | .tblAlmax _ _ => true
  | .tblAlsum _ _ => true
  | .tblAlprob _ _ => true
  | .tblAmerge _ _ => true
  | .tblXselect _ _ => true
  | .tblXdispatch _ _ => true
  | .tblXreturn _ _ => true
  | .tblXgather _ _ => true
  | .tblXbag _ _ => true
  | .claim _ _ _ _ => true
  | .sealArrival _ _ _ _ => true
  | .groupDecide _ _ _ => true
  | .claimOutcome _ _ _ => true
  | .dispatchedRow _ _ _ _ _ _ _ => true
  | .returnedRow _ _ _ => true
  | .kvRecordApply _ => true
  | .pageFree _ => true
  | .pageZeroingComplete _ => true
  | .generationSweep => true
  | .parkComplete _ => true
  | .resumePageReturn _ _ _ => true
  | .bittingLookup _ => true
  | .admitDescriptor _ _ _ => true
  | .promptReadComplete _ _ _ _ => true
  | .pause _ _ _ => true
  | .resume _ _ _ => true
  | .cancel _ _ _ => true
  | .orderRecordArrival _ => true
  | .batchCut => true
  | .batchArrival _ => true
  | .batchWaitTimeout => true
  | .keyringCopyOut _ => true
  | .keyringWriteComplete _ _ _ => true
  | .keyringAck _ _ => true
  | .kdrainSend => true
  | .wrdEntSelWrite _ _ => true
  | .stepShareComplete _ _ => true
  | .stepExchange _ => true
  | .stepBoundary _ _ _ => true
  | .exchangeWaitTimeout _ => true
  | .coreLaunch _ _ => true
  | .bucketRefill _ => true
  | .map _ => true
  | .unmap _ => true
  | .protect _ => true
  | .mapCommandComplete => true
  | .heatDecay => true
  | .migrationStart => true
  | .migrationCopyPass _ _ => true
  | .migrationSwitch _ => true
  | .frameZeroingComplete _ => true
  | .loanReq _ => true
  | .loanGrant _ _ => true
  | .loanDeny _ => true
  | .loanIdleExpiry _ => true
  | .loanReturn _ _ => true
  | .evacuationComplete _ => true
  | .flashReadComplete _ _ _ _ => true
  | .flashWrite _ offset data _ _ => decide (offset.val + data.length ≤ 16384)
  | .flashProgramComplete _ => true
  | .flashProgramFail _ => true
  | .flashEraseFail _ => true
  | .garbageCollection _ _ => true
  | .wearRelocation _ => true
  | .readDisturbRelocation _ _ => true
  | .relocationPriorityRaise _ => true
  | .ftlCheckpoint => true
  | .shardDelivery _ _ _ _ _ _ => true
  | .shardTimeout _ _ => true
  | .hingeHostDoorbell _ _ _ => true
  | .hingePassed _ _ => true
  | .layerCommitComplete _ => true
  | .hingeCommitted _ _ => true
  | .adapterLoadComplete _ _ => true
  | .assayGo _ _ _ => true
  | .assayAbort _ _ _ => true
  | .scanComplete _ => true
  | .fabricFlitReceive _ _ _ => true
  | .fabricAckTimer _ => true
  | .portRetrainStart _ => true
  | .retrainEnd _ _ _ => true
  | .trainingIdentity _ _ _ _ _ => true
  | .recalibrationDue _ => true
  | .recalibrationComplete _ => true
  | .receiveOverload _ => true
  | .overloadPersist _ => true
  | .overloadClear _ => true
  | .overloadTimeout _ => true
  | .fabricRead _ => true
  | .fabricWrite _ _ => true
  | .fabricWritePart _ _ => true
  | .fabricAtomic _ _ => true
  | .fabricResponse _ _ => true
  | .fabricRequestTimeout _ => true
  | .egressWrite _ _ => true
  | .egressRead _ => true
  | .egressBlockTimeout _ _ => true
  | .egressRdmaComplete _ _ _ _ _ => true
  | .retrain _ _ => true
  | .recal _ _ => true
  | .sqTailDoorbell _ _ _ _ => true
  | .cqHeadDoorbell _ _ _ _ => true
  | .eqHeadDoorbell _ _ _ => true
  | .descriptorFetch _ _ _ => true
  | .queueCfgWrite _ _ _ => true
  | .queueDeferredReset _ _ => true
  | .eqCfgWrite _ _ => true
  | .hreqCfgWrite _ _ => true
  | .msixMessage _ _ => true
  | .functionLevelReset _ => true
  | .perst => true
  | .bar2Access _ len data => (match data with | some b => b.length == len | none => true)
  | .dmaReadTimeout _ => true
  | .ingressWrite _ _ _ _ _ => true
  | .roceOtherOpcode _ _ => true
  | .ethernetFrameDrop _ => true
  | .roceAckTimeout _ _ => true
  | .roceNak _ _ _ => true
  | .qpReset _ _ => true
  | .cnpReceive _ => true
  | .roceRateIncrease _ => true
  | .ptpTxGo _ _ _ => true
  | .ptpTxDone _ => true
  | .ptpFrameReceive _ _ _ => true
  | .ptpRxPop _ _ _ => true
  | .syncInEdge => true
  | .syncMissed => true
  | .timeArm _ _ => true
  | .refclkLoss => true
  | .load _ => true
  | .commit _ => true
  | .discard _ => true
  | .stop _ => true
  | .imagePass1Complete _ => true
  | .imagePass2Complete _ => true
  | .commitReadySend => true
  | .commitResumeBoundary _ _ => true
  | .batchApplyIdle _ _ => true
  | .warmReset => true
  | .coldReset _ => true
  | .powerOnReset _ => true
  | .firmwareAccepted => true
  | .railsComplete _ => true
  | .hbmTrainingComplete _ => true
  | .clusterReloadComplete _ => true
  | .opticsStageComplete => true
  | .fabricStageComplete => true
  | .tenantsStageComplete => true
  | .weightsStageComplete => true
  | .vin48Restored => true
  | .inputUndervolt => true
  | .undervoltRecovery => true
  | .inputPowerLoss => true
  | .inputOvervolt => true
  | .converterFailure => true
  | .inputSample _ _ => true
  | .capControl => true
  | .voltageTargetReached _ => true
  | .fastLimitEntry => true
  | .fastLimitExit => true
  | .droopDetect _ => true
  | .droopRecovery _ => true
  | .thermalLimitStep _ _ => true
  | .overtempEntry _ _ => true
  | .sensorCalibration _ _ _ => true
  | .deadboltTrip _ _ => true
  | .capWrite _ _ => true
  | .clusterDoze _ => true
  | .clusterDeep _ => true
  | .clusterWake _ => true
  | .hbmScrubRead _ _ => true
  | .gatewayLoss _ => true
  | .jobFault _ _ => true
  | .coreStopGraceExpiry => true
  | .deliveryWindowExpiry => true
  | .dumpComplete _ _ => true
  | .recoveryWarmReset => true
  | .dumpRelease _ _ => true
  | .program _ _ => true
  | .revoke _ _ => true
  | .lock _ => true
  | .advanceSvn _ => true
  | .retire _ _ => true
  | .nonce _ => true
  | .openDebug _ => true
  | .closeDebug _ => true
  | .padlockCommandComplete _ => true
  | .nonceExpiry => true
  | .debugTransitionComplete => true
  | .getVersion => true
  | .getCapabilities => true
  | .negotiateAlgorithms _ _ => true
  | .getDigests => true
  | .getCertificate _ _ _ => true
  | .challenge _ _ => true
  | .getMeasurements _ _ _ => true
  | .spdmUnsupported _ => true
  | .jtagExtest _ => true
  | .jtagIdcode => true
  | .jtagSamplePreload _ => true
  | .jtagDbgStat => true
  | .jtagDbgNonce => true
  | .jtagDbgToken _ => true
  | .jtagDbgClose => true
  | .jtagIntscan => true
  | .jtagIntest => true
  | .jtagBypass => true
  | .snapGo _ => true
  | .snapshotComplete _ => true
  | .samplerTick _ => true
  | .traceRecord type _ _ _ _ _ => !(decide (1 ≤ type.val) && decide (type.val ≤ 5))
  | .timesync => true
  | .traceHostCopy _ => true
  | .traceMark _ _ => true
  | .dynamicAddressAssign _ _ => true
  | .setEndpointId _ _ => true
  | .getEndpointId _ => true
  | .getEndpointUuid _ => true
  | .getMctpVersionSupport _ _ => true
  | .getMessageTypeSupport _ => true
  | .mctpDiscard type => !([0, 1, 5].contains type.val)
  | .pldmSensorRead _ _ => true
  | .capEffecter _ _ => true
  | .resetEffecter _ _ => true
  | .firmwareUpdate _ _ => true
  | .readReg _ _ => true
  | .snap _ => true
  | .readDump _ _ _ len => len.val != 0
  | .releaseDump _ _ => true
  | .uartByteReceive _ _ => true
  | .conVer => true
  | .conStat => true
  | .conTime => true
  | .conTemp => true
  | .conBaud _ => true
  | .conRd _ => true
  | .conWr _ _ => true
  | .conTrace _ => true
  | .consoleUnknown => true
  | .refclkRestored => true
  | .perstDeassertion => true
  | .configurationRequest _ => true
  | .mirrorRefresh => true
  | .sensorThresholdCrossing _ _ => true
  | .g0Loss => true

end Sys2Proof
end

