-- ==== Sys2Proof/Tests/Slice0.lean ====
section
/-!
SUPPORT. The model's own tests: ill-formed commands, small runs with results worked out from the spec, and for every
statement with hypotheses a concrete state and operands that meet them, clause by clause.
-/
namespace Sys2Proof.Tests

open Sys2Proof Sys2Proof.Machine

-- One theorem after the other: hundreds of them at once, each with a thread of its own, would not fit the memory limit.
set_option Elab.async false

/-! ### Small states -/

/-- An entry from its fields: lowest bit and value of each. -/
def entry (fields : List (Nat × Nat)) : Entry := BitVec.ofNat 128 (fields.map (fun p => p.2 * 2 ^ p.1)).sum

/-- The state after reset with some register fields set. -/
def withF (l : List (Field × Nat)) : State := l.foldl (fun s p => setF s p.1 p.2) State.reset

/-- Cluster 0 (a Crown) runs, and strand 0 of core 0 is READY at entry `e` with A registers `a` and S registers `x`. -/
def ready (e : Entry) (a x : List Nat) : State :=
  let s := withF [(fCLU_STATE_PSTATE 0, 0)]
  let v := { Strand.idle with phase := .ready, pc := some 0, context := 1 }
  let v := { v with
    areg := (a ++ List.replicate 8 0).take 8 |>.map (BitVec.ofNat 64)
    sreg := (x ++ List.replicate 16 0).take 16 |>.map (BitVec.ofNat 64) }
  { s with comp := { s.comp with
      coreStore := [(0, e)], cores := [(0, { Core.empty with strands := Core.empty.strands.set 0 v })] } }

/-- Core 0 of a state changed. -/
def core0 (f : Core → Core) (s : State) : State :=
  { s with comp := { s.comp with cores := [(0, f (getCore s 0))] } }

/-- Strand 0 of core 0 changed. -/
def strand0 (f : Strand → Strand) (s : State) : State := core0 (fun k => { k with strands := k.strands.modify 0 f }) s

/-- What `Issues` asks, as a check. -/
def issues (s : State) (c i op : Nat) (e : Entry) : Bool :=
  entryAt s c (getStrand s c i).pc == e && eOP e == op && entryOk (isCulet c) e &&
  (getStrand s c i).phase != .idle && (getStrand s c i).phase != .faulted && pstate s (clusterOfCore c) == 0 &&
  lineHeld (getStrand s c i) && !entryPoisoned s c (getStrand s c i) &&
  (windowLatches e ++ cmaskLatches e).all (fun l => latchGet s c l.1 l.2 == 0) &&
  (entryRegs e).all (fun r => (pendingOp (getCore s c) i r).isNone) &&
  (!entryRemote s c i e || decide (remoteCount (getCore s c) i < 8)) &&
  (doneLatch e).all (fun l => decide (latchGet s c l.1 l.2 < latchMax l.1)) &&
  (triedBefore (getCore s c).last i).all (fun j => !takesTurn s c j)

theorem issues_of {s : State} {c i op : Nat} {e : Entry} (h : issues s c i op e = true) : Issues s c i op e := by
  simp only [issues, Bool.and_eq_true, List.all_eq_true, Bool.or_eq_true, Bool.not_eq_true', beq_iff_eq, bne_iff_ne,
    Option.isNone_iff_eq_none, decide_eq_true_eq, Option.all_eq_true] at h
  obtain ⟨⟨⟨⟨⟨⟨⟨⟨⟨⟨⟨⟨h1, h2⟩, h3⟩, h4⟩, h5⟩, h6⟩, h7⟩, h8⟩, h9⟩, h10⟩, h11⟩, h12⟩, h13⟩ := h
  exact ⟨h1, h2, h3, ⟨h4, h5⟩, h6, h7, h8, h9, h10, fun h => h11.resolve_left (by simp [h]), h12, h13⟩

/-- What `State.Sound` asks. -/
theorem sound_of {s : State} (h : (RegFile.wf s.regs && Memory.wf s.comp.sram && Memory.wf s.tiers.hbm &&
    Memory.wf s.tiers.loanMem && Memory.wf s.flash.data && Memory.wf s.flash.media &&
    decide (-100 ≤ s.time.slew) && decide (s.time.slew ≤ 100) && decide (s.time.slewPos < 250000000) &&
    (s.time.slew != 0 || s.time.slewPos == 0) && s.padlock.life.length == 3 && s.padlock.svn.length == 3 &&
    s.padlock.fused.length == 3 && List.length s.padlock.debug == 3) = true) : s.Sound := by
  simp only [Bool.and_eq_true, decide_eq_true_eq, beq_iff_eq, Bool.or_eq_true, bne_iff_ne] at h
  obtain ⟨⟨⟨⟨⟨⟨⟨⟨⟨⟨⟨⟨⟨h1, h2⟩, h3⟩, h4⟩, h5⟩, h6⟩, h7⟩, h8⟩, h9⟩, h10⟩, h11⟩, h12⟩, h13⟩, h14⟩ := h
  exact ⟨h1, h2, h3, h4, h5, h6, ⟨h7, h8, h9, fun h => h10.resolve_left (by simp [h])⟩, ⟨h11, h12, h13, h14⟩⟩

/-! ### WellFormed refuses what each of its checks names -/

/-- A flash write past the end of its granule, a BAR2 write whose length is not that of its bytes, a trace record of a
type that the funnel or a cluster's power state emits, a discarded MCTP message of a served type, and an empty dump
read. -/
theorem test_ill_formed :
    (Instr.flashWrite 0 16383 [1, 2] 0 false).wellFormed = false ∧
    (Instr.flashWrite 0 16383 [1] 0 false).wellFormed = true ∧
    (Instr.bar2Access 0 2 (some [1])).wellFormed = false ∧ (Instr.bar2Access 0 1 (some [1])).wellFormed = true ∧
    (Instr.bar2Access 0 2 none).wellFormed = true ∧
    (Instr.traceRecord 5 0 0 0 0 false).wellFormed = false ∧ (Instr.traceRecord 6 0 0 0 0 false).wellFormed = true ∧
    (Instr.mctpDiscard 1).wellFormed = false ∧ (Instr.mctpDiscard 2).wellFormed = true ∧
    (Instr.readDump 0 0 0 0).wellFormed = false ∧ (Instr.readDump 0 0 0 1024).wellFormed = true := by decide

/-! ### Queue, tick and time -/

theorem witness_StepRunsFrontCommand :
    { State.reset with pending := [.heatDecay, .syncMissed] }.pending = Instr.heatDecay :: [.syncMissed] := by decide

/-- A correction of the time base in force. -/
def slewing (e : Int) (pos : Nat) : State := { State.reset with time := { TimeBase.reset with slew := e, slewPos := pos } }

theorem witness_EmptyQueueTicksTheTime :
    State.reset.pending = [] ∧ State.reset.time.slew = 0 ∧
    (slewing 100 249999999).pending = [] ∧ (slewing 100 249999999).time.slew ≠ 0 ∧
    (slewing 100 249999999).time.slewPos = 249999999 ∧
    (slewing (-100) 249999998).time.slew ≠ 0 ∧ (slewing (-100) 249999998).time.slewPos < 249999999 := by decide

theorem witness_CorrectionRemovesItsError : ∀ e ∈ [(-100 : Int), 100],
    (slewing e 0).pending = [] ∧ (slewing e 0).time.slew ≠ 0 ∧ -100 ≤ (slewing e 0).time.slew ∧
    (slewing e 0).time.slew ≤ 100 ∧ (slewing e 0).time.slewPos = 0 ∧ 250000000 ≤ 250000000 := by decide

/-- A legal state with two commands waiting. -/
def queued : State := { withF [(fMEM_CFG_LOW_WM, 1)] with pending := [.heatDecay, .syncMissed] }

theorem witness_EveryCommandCompletes : queued.Sound := sound_of (by decide)

theorem witness_LegalityIsKept : queued.Sound ∧ ∃ t, Machine.step queued = .next t := ⟨sound_of (by decide), _, rfl⟩

theorem witness_QueueDrains : queued.Sound ∧ queued.pending.length = 2 := ⟨sound_of (by decide), by decide⟩

/-! ### Control and scalar entries -/

theorem witness_ControlAndScalarEntries_control :
    (∀ op ∈ [0x01, 0x08, 0x09, 0x02, 0x06, 0x10, 0x11, 0x14, 0x15, 0x16, 0x03, 0x04, 0x05],
      issues (ready (entry [(0, op)]) [] []) 0 0 op (entry [(0, op)]) = true) := by decide

/-- BRANCH with each condition, taken and not: S0 is S0 or 1. -/
theorem witness_ControlAndScalarEntries_branch :
    (∀ k < 6, issues (ready (entry [(0, 0x03), (44, k), (40, 1)]) [] [0, 1]) 0 0 0x03 (entry [(0, 0x03), (44, k), (40, 1)])
      = true) := by decide

theorem witness_ControlAndScalarEntries_stack :
    (let s := strand0 (fun v => { v with stack := [some 1, some 2, some 3] }) (ready (entry [(0, 0x06)]) [] [])
     issues s 0 0 0x06 (entry [(0, 0x06)]) = true ∧ (getStrand s 0 0).stack.length < 4) ∧
    (let s := strand0 (fun v => { v with stack := [some 1] }) (ready (entry [(0, 0x07)]) [] [])
     issues s 0 0 0x07 (entry [(0, 0x07)]) = true ∧ (getStrand s 0 0).stack = some 1 :: []) := by decide

/-- LOOP with its count from S1, at the clamp and beyond it. -/
theorem witness_ControlAndScalarEntries_loop : ∀ n ∈ [2 ^ 24, 2 ^ 24 + 1, 0],
    let e := entry [(0, 0x04), (38, 1), (63, 1)]
    issues (ready e [] [0, n]) 0 0 0x04 e = true ∧ (getS (ready e [] [0, n]) 0 0 (fld e 63 4)).toNat = n := by decide

theorem witness_ControlAndScalarEntries_notify : ∀ b ∈ [false, true],
    let e := entry [(0, 0x0A), (36, b.toNat), (37, 5)]
    let s := latchRaise (ready e [] []) 0 b 5
    issues s 0 0 0x0A e = true ∧ latchGet s 0 (flag e 36) (fld e 37 6) ≠ 0 := by decide

/-- SALU with each function. -/
theorem witness_ControlAndScalarEntries_salu : ∀ k < 13,
    let e := entry [(0, 0x11), (44, 1), (81, k)]
    issues (ready e [] [5, 3]) 0 0 0x11 e = true ∧ fld e 81 4 = k := by decide

/-! ### Entries that do not issue -/

theorem witness_EntriesThatDoNotIssue_unloaded :
    tabFind (ready (entry [(0, 1)]) [] []).comp.coreStore (0 * 1024 + 1023) = none ∧
    tabFind (ready (entry [(0, 1)]) [] []).comp.clusterStore (clusterOfCore 0 * 1024 + 1023) = none := by decide

/-- What the clause on a fetched entry asks. -/
def fetched (s : State) (e : Entry) : Bool :=
  entryAt s 0 (getStrand s 0 0).pc == e && (getStrand s 0 0).phase != .idle && (getStrand s 0 0).phase != .faulted &&
  pstate s (clusterOfCore 0) == 0 && lineHeld (getStrand s 0 0) && !entryPoisoned s 0 (getStrand s 0 0) &&
  (triedBefore (getCore s 0).last 0).all (fun j => !takesTurn s 0 j)

/-- Strand 1 stands at a NOP and is tried before strand 0, which issued last. -/
theorem witness_EntriesThatDoNotIssue_turn :
    let e := entry [(0, 1)]
    let s := core0 (fun k => { k with last := 0, strands := k.strands.set 1 (getStrand (ready e [] []) 0 0) }) (ready e [] [])
    entryAt s 0 (getStrand s 0 0).pc = e ∧ (getStrand s 0 0).phase ≠ .idle ∧ (getStrand s 0 0).phase ≠ .faulted ∧
    pstate s (clusterOfCore 0) = 0 ∧ lineHeld (getStrand s 0 0) = true ∧ entryPoisoned s 0 (getStrand s 0 0) = false ∧
    ∃ j ∈ triedBefore (getCore s 0).last 0, takesTurn s 0 j = true := by decide

theorem witness_EntriesThatDoNotIssue_empty :
    fetched (ready 0 [] []) 0 = true ∧ getF (ready 0 [] []) (fCLU_CORE_STAT_FAULT_CAUSE 0 0) = 0 ∧
    (getCore (ready 0 [] []) 0).launch = none ∧
    (let s := setF (ready 0 [] []) (fCLU_CORE_STAT_FAULT_CAUSE 0 0) 1
     fetched s 0 = true ∧ getF s (fCLU_CORE_STAT_FAULT_CAUSE 0 0) ≠ 0) := by decide

/-- Valid entries of every opcode of the rows that these clauses range over. -/
def samples : List Entry := [
  entry [(0, 0x01)], entry [(0, 0x02)], entry [(0, 0x03)], entry [(0, 0x04)], entry [(0, 0x05)], entry [(0, 0x06)],
  entry [(0, 0x07)], entry [(0, 0x08)], entry [(0, 0x09)], entry [(0, 0x0A)], entry [(0, 0x10)], entry [(0, 0x11)],
  entry [(0, 0x12)], entry [(0, 0x13)], entry [(0, 0x14)], entry [(0, 0x15)], entry [(0, 0x16)], entry [(0, 0x20)],
  entry [(0, 0x22)], entry [(0, 0x30), (46, 1), (62, 3), (66, 3)], entry [(0, 0x40)], entry [(0, 0x41), (42, 1)],
  entry [(0, 0x50), (42, 1)], entry [(0, 0x51), (42, 1)], entry [(0, 0x52), (42, 1)], entry [(0, 0x53), (42, 1)],
  entry [(0, 0x60), (83, 1)], entry [(0, 0x61)], entry [(0, 0x62), (45, 1)], entry [(0, 0x63)],
  entry [(0, 0x64), (93, 1)], entry [(0, 0x65), (83, 1)], entry [(0, 0x66), (58, 1)], entry [(0, 0x70)],
  entry [(0, 0x71)], entry [(0, 0x72)], entry [(0, 0x73), (56, 1)], entry [(0, 0x74)]]

/-- Every one of them is held WAITING by core latch 0 of its window. -/
theorem witness_EntriesThatDoNotIssue_waiting : samples.all (fun e =>
    let e := e ||| entry [(11, 1)]
    let s := latchRaise (ready e [] []) 0 false 0
    fetched s e && entryOk (isCulet 0) e &&
    (windowLatches e ++ cmaskLatches e).any (fun l => latchGet s 0 l.1 l.2 != 0)) = true := by decide +kernel

/-- WAIT is held by its CMASK too. -/
theorem witness_EntriesThatDoNotIssue_cmask :
    let e := entry [(0, 0x08), (36 + 63, 1)]
    let s := latchRaise (ready e [] []) 0 false 63
    fetched s e = true ∧ entryOk (isCulet 0) e = true ∧
    ∃ l ∈ windowLatches e ++ cmaskLatches e, latchGet s 0 l.1 l.2 ≠ 0 := by decide

/-- MOVE, an entry of Culet cores: core 73728 is the first one of the first Pavilion cluster. -/
theorem witness_EntriesThatDoNotIssue_move :
    isCulet 73728 = true ∧ entryOk true (entry [(0, 0x21), (41, 64)]) = true := by decide

/-- An operation of strand 0 that writes S0. -/
def opS0 (remote : Bool) : OutOp := ⟨7, 0, 0x12, none, some 0, 9, remote, .done, none⟩

theorem witness_EntriesThatDoNotIssue_remote :
    let e := entry [(0, 0x11)]
    let s := core0 (fun k => { k with ops := [opS0 true] }) (ready e [] [])
    fetched s e = true ∧ entryOk (isCulet 0) e = true ∧
    (∀ l ∈ windowLatches e ++ cmaskLatches e, latchGet s 0 l.1 l.2 = 0) ∧
    (∃ r ∈ entryRegs e, pendingOp (getCore s 0) 0 r = some (opS0 true)) ∧ (opS0 true).remote = true := by decide

theorem witness_EntriesThatDoNotIssue_passed :
    let e := entry [(0, 0x11)]
    let s := core0 (fun k => { k with ops := [opS0 false] }) (ready e [] [])
    fetched s e = true ∧ (∀ l ∈ windowLatches e ++ cmaskLatches e, latchGet s 0 l.1 l.2 = 0) ∧
    (∃ r ∈ entryRegs e, pendingOp (getCore s 0) 0 r ≠ none) ∧
    (∀ r ∈ entryRegs e, (pendingOp (getCore s 0) 0 r).all (fun o => !o.remote) = true) := by decide

/-- A ninth device-virtual load. -/
theorem witness_EntriesThatDoNotIssue_ninth :
    let e := entry [(0, 0x12)]
    let ops := (List.range 8).map (fun n => (⟨n, 0, 0x12, none, some (n + 1), 0, true, .done, none⟩ : OutOp))
    let s := core0 (fun k => { k with ops := ops }) (ready e [2 * 2 ^ 57] [])
    fetched s e = true ∧ entryOk (isCulet 0) e = true ∧
    (∀ l ∈ windowLatches e ++ cmaskLatches e, latchGet s 0 l.1 l.2 = 0) ∧
    (∀ r ∈ entryRegs e, pendingOp (getCore s 0) 0 r = none) ∧ entryRemote s 0 0 e = true ∧
    remoteCount (getCore s 0) 0 = 8 := by decide

/-- A done latch at 255, and a cluster latch at 65,535. -/
theorem witness_EntriesThatDoNotIssue_full :
    (let e := entry [(0, 0x13), (27, 1)]
     let s := core0 (fun k => { k with latches := [(0, 255)] }) (ready e [] [])
     fetched s e = true ∧ (∀ r ∈ entryRegs e, pendingOp (getCore s 0) 0 r = none) ∧ entryRemote s 0 0 e = false ∧
     doneLatch e = some (false, 0) ∧ 255 ≤ latchGet s 0 false 0) ∧
    (let e := entry [(0, 0x13), (27, 3)]
     let s := modCluster (ready e [] []) 0 (fun k => { k with clatch := [(0, 65535)] })
     fetched s e = true ∧ doneLatch e = some (true, 0) ∧ 65535 ≤ latchGet s 0 true 0) := by decide

/-! ### Loads, stores, DMA -/

/-- SLOAD and SSTORE of the core's own memory and of core 191's, 8 bytes at its end. -/
theorem witness_LocalLoadsAndStores : ∀ a ∈ [196600, 2 ^ 57 + 191 * 2 ^ 18 + 196600],
    (let e := entry [(0, 0x12), (75, 1)]
     let s := ready e [a] []
     issues s 0 0 0x12 e = true ∧ loadStoreFaults 0 0 s e = [] ∧ aSPACE (effAddr s 0 0 e) ≠ spDV ∧
     sramPoisoned s (targetCore 0 (effAddr s 0 0 e)) (targetAddr (effAddr s 0 0 e)) (sizeBytes (fld e 75 2)) = false) ∧
    (let e := entry [(0, 0x13), (75, 1)]
     let s := ready e [a] []
     issues s 0 0 0x13 e = true ∧ loadStoreFaults 0 0 s e = [] ∧ aSPACE (effAddr s 0 0 e) ≠ spDV ∧
     Memory.wf s.comp.sram = true) := by decide

/-- Tenant 1 has page 1 mapped to frame 3 of HBM, writable or not. -/
def paged (w : Bool) (s : State) : State :=
  { s with tiers := { s.tiers with leaves := [(2 ^ 36 + 1, ⟨w, .hbm, 0, false, false, false, 3, 0, 0, 0⟩)] } }

/-- The last 8 bytes of that page, as an address register holds them. -/
def dvEnd : Nat := 2 * 2 ^ 57 + 2 * 2097152 - 8

/-- The page after it, which nothing maps. -/
def dvOut : Nat := 2 * 2 ^ 57 + 2 * 2097152

theorem witness_DeviceVirtualAccesses_refused :
    (let e := entry [(0, 0x12), (75, 1)]
     let s := paged true (ready e [dvOut] [])
     issues s 0 0 0x12 e = true ∧ loadStoreHeld .read 0 0 s e = false ∧ loadStoreFaults 0 0 s e = [] ∧
     aSPACE (effAddr s 0 0 e) = spDV ∧
     strandXlat s 0 0 (ctxOf s 0 0) .read (aADDR (effAddr s 0 0 e)) 8 ≠ .ok) ∧
    (let e := entry [(0, 0x13), (75, 1)]
     let s := paged false (ready e [dvEnd] [])
     issues s 0 0 0x13 e = true ∧ loadStoreHeld .write 0 0 s e = false ∧ loadStoreFaults 0 0 s e = [] ∧
     aSPACE (effAddr s 0 0 e) = spDV ∧
     strandXlat s 0 0 (ctxOf s 0 0) .write (aADDR (effAddr s 0 0 e)) 8 ≠ .ok) ∧
    (let e := entry [(0, 0x22)]
     let s := paged false (ready e [dvEnd] [])
     issues s 0 0 0x22 e = true ∧ atomicHeld 0 0 s e = false ∧ atomicFaults 0 0 s e = [] ∧
     strandXlat s 0 0 (ctxOf s 0 0) .atomic (aADDR (getA s 0 0 (fld e 36 3))) 8 ≠ .ok) := by decide

/-- The page of a state that `paged` has mapped is held by a migration that is about to switch it. -/
def heldPage (s : State) : State :=
  { s with tiers := { s.tiers with
    leaves := [(2 ^ 36 + 1, ⟨true, .hbm, 0, false, true, false, 3, 0, 0, 0⟩)]
    migs := [⟨2 ^ 36 + 1, .hbm, 4, [], 1, true, none⟩] } }

theorem witness_DeviceVirtualAccesses_held :
    (let e := entry [(0, 0x12), (75, 1)]
     let s := heldPage (ready e [dvEnd] [])
     issues s 0 0 0x12 e = true ∧ loadStoreHeld .read 0 0 s e = true) ∧
    (let e := entry [(0, 0x13), (75, 1)]
     let s := heldPage (ready e [dvEnd] [])
     issues s 0 0 0x13 e = true ∧ loadStoreHeld .write 0 0 s e = true) ∧
    (let e := entry [(0, 0x22)]
     let s := heldPage (ready e [dvEnd] [])
     issues s 0 0 0x22 e = true ∧ atomicHeld 0 0 s e = true) := by decide

theorem witness_DeviceVirtualAccesses_hbm :
    (let e := entry [(0, 0x12), (75, 1)]
     let s := paged false (ready e [dvEnd] [])
     let va := aADDR (effAddr s 0 0 e)
     issues s 0 0 0x12 e = true ∧ loadStoreFaults 0 0 s e = [] ∧ aSPACE (effAddr s 0 0 e) = spDV ∧
     rangeHeld s (ctxOf s 0 0) va 8 = false ∧
     (leafOf s (ctxOf s 0 0) (va / 2097152)).map Leaf.tier = some .hbm ∧ launchMaps s 0 0 .read va 8 = none ∧
     strandXlat s 0 0 (ctxOf s 0 0) .read va 8 = .ok ∧ virtHbmPoison s (ctxOf s 0 0) va 8 = none) ∧
    (let e := entry [(0, 0x13), (75, 1)]
     let s := paged true (ready e [dvEnd] [])
     let va := aADDR (effAddr s 0 0 e)
     issues s 0 0 0x13 e = true ∧ loadStoreFaults 0 0 s e = [] ∧ launchMaps s 0 0 .write va 8 = none ∧
     rangeHeld s (ctxOf s 0 0) va 8 = false ∧
     strandXlat s 0 0 (ctxOf s 0 0) .write va 8 = .ok ∧ Memory.wf s.tiers.hbm = true) ∧
    (let e := entry [(0, 0x22)]
     let s := paged true (ready e [dvEnd] [])
     let va := aADDR (getA s 0 0 (fld e 36 3))
     issues s 0 0 0x22 e = true ∧ atomicFaults 0 0 s e = [] ∧ atomicHeld 0 0 s e = false ∧
     (leafOf s (ctxOf s 0 0) (va / 2097152)).map Leaf.tier = some .hbm ∧
     (∀ n ∈ [Need.read, .write, .atomic], launchMaps s 0 0 n va 8 = none) ∧
     strandXlat s 0 0 (ctxOf s 0 0) .atomic va 8 = .ok ∧ virtHbmPoison s (ctxOf s 0 0) va 8 = none) := by decide

/-- DMA of no bytes, and of 64 bytes from core 0's memory to the end of core 5's. -/
theorem witness_DmaAndMove_dma :
    (let e := entry [(0, 0x20), (39, 1)]
     let s := ready e [0, 64] []
     issues s 0 0 0x20 e = true ∧ dmaLen s 0 0 e = 0) ∧
    (let e := entry [(0, 0x20), (39, 1), (43, 64)]
     let s := ready e [0, 2 ^ 57 + 5 * 2 ^ 18 + 196544] []
     issues s 0 0 0x20 e = true ∧ dmaLen s 0 0 e ≠ 0 ∧ dmaFaults 0 0 s e = [] ∧ aSPACE (getA s 0 0 (fld e 36 3)) ≠ spDV ∧
     aSPACE (getA s 0 0 (fld e 39 3)) ≠ spDV ∧
     dmaPoison s 0 0 (ctxOf s 0 0) (getA s 0 0 (fld e 36 3)) (dmaLen s 0 0 e) = [] ∧
     Memory.wf s.comp.sram = true) := by decide

/-- A Culet core (number 73,728, cluster 384) READY at a MOVE of one line, with that line in its bound buffer 0. -/
def moving : State :=
  let e := entry [(0, 0x21), (41, 1)]
  let s := withF [(fCLU_STATE_PSTATE 384, 0)]
  let v := { Strand.idle with phase := .ready, pc := some 0, context := 1 }
  let b : StreamBuf := ⟨some ⟨0, 0, 0, 0, 64, 0, 4, 0, 0, 0, 0, 0, 0⟩, [7#512], 63, 1, 0⟩
  { s with comp := { s.comp with
      coreStore := [(73728 * 1024, e)]
      cores := [(73728, { Core.empty with strands := Core.empty.strands.set 0 v, bufs := Core.empty.bufs.set 0 b })] } }

theorem witness_DmaAndMove_move :
    let e := entry [(0, 0x21), (41, 1)]
    issues moving 73728 0 0x21 e = true ∧ moveFaults 73728 0 moving e = [] ∧
    fld e 41 7 ≤ (getBuf moving 73728 (fld e 36 2)).lines.length ∧ Memory.wf moving.comp.sram = true := by decide

/-! ### Matrix, Lustre and attention entries -/

/-- A 4 x 4 product of K = 2 in BF16 (code 3) from local memory, the tile from zeros, itself and CREG. -/
theorem witness_MatrixProduct : ∀ i ∈ [0, 1, 2],
    let e := entry [(0, 0x30), (42, i), (46, 2), (62, 3), (66, 3), (73, 1), (76, 2), (79, 1), (92, 1)]
    let s := ready e [0x100, 0x200, 0x300] []
    issues s 0 0 0x30 e = true ∧ matmulFaults 0 0 s e = [] ∧ matmulShort 0 0 s e = false ∧
    (matOperand s 0 0 e false).poison s 0 = none ∧ (matOperand s 0 0 e true).poison s 0 = none ∧
    sramPoisoned s 0 (aADDR (getA s 0 0 (fld e 76 3))) 64 = false := by decide

/-- On a Culet core, A comes from a stream: of 128 lines, of which the buffer holds one. -/
theorem witness_MatrixProduct_short :
    let e := entry [(0, 0x30), (42, 1), (44, 3), (46, 2048), (62, 3), (66, 3), (73, 1), (79, 1), (92, 1)]
    let s := { moving with comp := { moving.comp with
      coreStore := [(73728 * 1024, e)]
      cores := [(73728, { getCore moving 73728 with
        strands := (getCore moving 73728).strands.modify 0 (fun v => { v with areg := v.areg.set 0 (BitVec.ofNat 64 (spSTREAM * 2 ^ 57)) }) })] } }
    issues s 73728 0 0x30 e = true ∧ matmulFaults 73728 0 s e = [] ∧ matmulShort 73728 0 s e = true ∧
    64 < matmulNeed s 73728 0 e 0 := by decide

/-- A BF16 identity LUSTRE of two elements in place, an EPILOGUE to FP32. -/
theorem witness_LustreEntriesStayLocal_lustre :
    (let e := entry [(0, 0x41), (39, 1), (42, 2), (58, 3), (62, 3)]
     let s := ready e [0x100, 0x200] []
     let u := advance s 0 0
     issues s 0 0 0x41 e = true ∧ lustreFaults 0 0 s e = [] ∧ fnFetch 0 0 (fld e 66 5) u = u ∧
     Memory.wf s.comp.sram = true ∧ aADDR (getA s 0 0 0) + fld e 42 16 * 2 ≤ aADDR (getA s 0 0 1) ∧
     (inOrder (lustreElem 0 0 e 0 0) (List.range 2) u).1 = none ∧
     lustreOverlap 0 0 e (inOrder (lustreElem 0 0 e 0 0) (List.range 2) u).2 =
       (inOrder (lustreElem 0 0 e 0 0) (List.range 2) u).2) := by decide

theorem witness_LustreEntriesStayLocal_epilogue :
    (let e := entry [(0, 0x40), (63, 4)]
     let s := ready e [0x100, 0x200] []
     let u := advance s 0 0
     issues s 0 0 0x40 e = true ∧ epilogueFaults 0 0 s e = [] ∧ fnFetch 0 0 (fld e 77 5) u = u ∧
     (inOrder (epiCell 0 0 e (getTile s 0 (fld e 36 6)))
        (List.range ((shapeOf (fld e 42 2)).1 * (shapeOf (fld e 42 2)).2)) u).1 = none) := by decide

/-- The state of an attention entry: records at 0x100, outputs and probabilities at 0x200, cells at 0x400. -/
def attnState (e : Entry) : State := ready e [0x100, 0x200, 0x400] []

theorem witness_LustreEntriesStayLocal_astep :
    let e := entry [(0, 0x60), (80, 1), (83, 1), (78, 1)]
    let u := advance (attnState e) 0 0
    issues (attnState e) 0 0 0x60 e = true ∧ scoreFaults (fun e => [fld e 80 3]) 0 0 (attnState e) e = [] ∧
    (inOrder (astepItem 0 0 e) (List.range (scoreRows e)) u).1.isNone = true := by decide +kernel

theorem witness_LustreEntriesStayLocal_fold :
    (let e := entry [(0, 0x61), (48, 1)]
     let u := advance (attnState e) 0 0
     issues (attnState e) 0 0 0x61 e = true ∧
     regSpaces (fun e => [fld e 48 3, fld e 67 3]) 0 0 (attnState e) e = [] ∧
     (inOrder (afoldItem 0 0 e)
        ((List.range (scoreRows e)).map (fun r => (r, readRec u 0 0 (fld e 67 3) r (flag e 70)))) u).1.isNone = true) ∧
    (let e := entry [(0, 0x62), (36, 2), (39, 1), (45, 1)]
     let u := advance (attnState e) 0 0
     issues (attnState e) 0 0 0x62 e = true ∧
     regSpaces (fun e => [fld e 36 3, fld e 39 3, fld e 42 3]) 0 0 (attnState e) e = [] ∧
     (inOrder (anormItem 0 0 e) (List.range (fld e 58 4 + 1)) u).1.isNone = true) := by decide +kernel

theorem witness_LustreEntriesStayLocal_loupe :
    (let e := entry [(0, 0x63), (78, 1)]
     let u := advance (attnState e) 0 0
     issues (attnState e) 0 0 0x63 e = true ∧ scoreFaults (fun _ => []) 0 0 (attnState e) e = [] ∧
     (inOrder (almaxItem 0 0 e) (List.range (scoreRows e)) u).1.isNone = true) ∧
    (let e := entry [(0, 0x64), (80, 2), (93, 1)]
     let u := advance (attnState e) 0 0
     issues (attnState e) 0 0 0x64 e = true ∧ scoreFaults (fun e => [fld e 80 3]) 0 0 (attnState e) e = [] ∧
     (inOrder (alsumItem 0 0 e) (List.range (scoreRows e)) u).1.isNone = true) ∧
    (let e := entry [(0, 0x65), (80, 1), (83, 1)]
     let u := advance (attnState e) 0 0
     issues (attnState e) 0 0 0x65 e = true ∧
     scoreFaults (fun e => fld e 80 3 :: (if flag e 106 then [fld e 103 3] else [])) 0 0 (attnState e) e = [] ∧
     (inOrder (alprobItem 0 0 e) (List.range (scoreRows e)) u).1.isNone = true) ∧
    (let e := entry [(0, 0x66), (42, 1), (58, 1), (45, 2)]
     let u := advance (attnState e) 0 0
     issues (attnState e) 0 0 0x66 e = true ∧
     regSpaces (fun e => fld e 36 3 :: fld e 42 3 ::
       (if flag e 87 then [] else fld e 39 3 :: fld e 45 3 :: (if flag e 89 then [fld e 90 3] else [])))
       0 0 (attnState e) e = [] ∧
     (inOrder (amergeItem 0 0 e) (List.range (fld e 54 4 + 1)) u).1.isNone = true) := by decide +kernel

/-! ### Wide accumulators -/

/-- Two cells in local memory at 0x100 (A0 of CELLS), the elements at the end of SRAM (A1). -/
def wideState (e : Entry) (src : Nat) : State := ready e [0x100, src] []

theorem witness_WideAccumulators_local :
    (let e := entry [(0, 0x50), (36, 1), (42, 2), (56, 0)]
     let s := wideState e 196600
     issues s 0 0 0x50 e = true ∧ aSPACE (wideCells s 0 0 e) = spLOCAL ∧ Memory.wf s.comp.sram = true ∧
     wideFaults (fun e => wideCount e * addendBytes e) addendBytes 0 0 s e = [] ∧
     widePoison s 0 0 (wideCells s 0 0 e) (getA s 0 0 (fld e 36 3)) 2 (2 * addendBytes e) = .none) ∧
    (let e := entry [(0, 0x51), (36, 1), (42, 2)]
     let s := wideState e 196576
     issues s 0 0 0x51 e = true ∧ wideFaults (fun e => 16 * wideCount e) (fun _ => 16) 0 0 s e = [] ∧
     aSPACE (getA s 0 0 (fld e 36 3)) = spLOCAL ∧
     widePoison s 0 0 (wideCells s 0 0 e) (getA s 0 0 (fld e 36 3)) 2 32 = .none) ∧
    (let e := entry [(0, 0x53), (42, 2)]
     let s := wideState e 0
     issues s 0 0 0x53 e = true ∧ wideFaults (fun _ => 0) (fun _ => 1) 0 0 s e = []) ∧
    (∀ f ∈ [0, 0xD],
     let e := entry [(0, 0x52), (36, 1), (42, 2), (56, f)]
     let s := wideState e 0x200
     issues s 0 0 0x52 e = true ∧ wideFaults (fun e => wideCount e * readoutBytes e) readoutBytes 0 0 s e = [] ∧
     widePoison s 0 0 (wideCells s 0 0 e) (getA s 0 0 (fld e 36 3)) 2 0 = .none) := by decide

/-- Cells in device-virtual memory that translation refuses, and two cells at the end of a page that it does not. -/
theorem witness_WideAccumulators_virtual :
    (let e := entry [(0, 0x50), (36, 1), (42, 2)]
     let s := ready e [dvOut, 0x200] []
     issues s 0 0 0x50 e = true ∧ aSPACE (wideCells s 0 0 e) = spDV ∧
     rangeHeld s (ctxOf s 0 0) (aADDR (wideCells s 0 0 e)) 32 = false ∧
     wideFaults (fun e => wideCount e * addendBytes e) addendBytes 0 0 s e = [] ∧
     strandXlat s 0 0 (ctxOf s 0 0) .write (aADDR (wideCells s 0 0 e)) 32 ≠ .ok) ∧
    (let e := entry [(0, 0x51), (36, 1), (42, 2)]
     let s := ready e [dvOut, 0x200] []
     issues s 0 0 0x51 e = true ∧ rangeHeld s (ctxOf s 0 0) (aADDR (wideCells s 0 0 e)) 32 = false ∧
     wideFaults (fun e => 16 * wideCount e) (fun _ => 16) 0 0 s e = [] ∧
     strandXlat s 0 0 (ctxOf s 0 0) .write (aADDR (wideCells s 0 0 e)) 32 ≠ .ok) ∧
    (let e := entry [(0, 0x52), (36, 1), (42, 2)]
     let s := ready e [dvOut, 0x200] []
     issues s 0 0 0x52 e = true ∧ rangeHeld s (ctxOf s 0 0) (aADDR (wideCells s 0 0 e)) 32 = false ∧
     wideFaults (fun e => wideCount e * readoutBytes e) readoutBytes 0 0 s e = [] ∧
     strandXlat s 0 0 (ctxOf s 0 0) .read (aADDR (wideCells s 0 0 e)) 32 ≠ .ok) ∧
    (let e := entry [(0, 0x53), (42, 2)]
     let s := ready e [dvOut] []
     issues s 0 0 0x53 e = true ∧ rangeHeld s (ctxOf s 0 0) (aADDR (wideCells s 0 0 e)) 32 = false ∧
     wideFaults (fun _ => 0) (fun _ => 1) 0 0 s e = [] ∧
     strandXlat s 0 0 (ctxOf s 0 0) .write (aADDR (wideCells s 0 0 e)) 32 ≠ .ok) ∧
    (let e := entry [(0, 0x53), (42, 2)]
     let s := paged true (ready e [dvEnd - 24] [])
     let va := aADDR (wideCells s 0 0 e)
     issues s 0 0 0x53 e = true ∧ rangeHeld s (ctxOf s 0 0) (aADDR (wideCells s 0 0 e)) 32 = false ∧
     wideFaults (fun _ => 0) (fun _ => 1) 0 0 s e = [] ∧ Memory.wf s.tiers.hbm = true ∧
     0 < wideCount e ∧ (leafOf s (ctxOf s 0 0) (va / 2097152)).map Leaf.tier = some .hbm ∧
     va % 2097152 + 32 = 2097152 ∧ launchMaps s 0 0 .write va 32 = none ∧
     strandXlat s 0 0 (ctxOf s 0 0) .write va 32 = .ok) := by decide

/-- 2^24, 1 and -2^24 in two orders. -/
theorem witness_WideSumsIgnoreOrder :
    let ops : List (FVal ⊕ Nat) := [.inl (elemVal 0 0x4B800000), .inl (elemVal 0 0x3F800000), .inl (elemVal 0 0xCB800000)]
    let final (l : List (FVal ⊕ Nat)) : Nat := l.foldl (fun u o => o.elim (cellAdd (-8) u) (cellMerge u)) 0
    ops.Perm ops.reverse ∧ natBits (final ops) cellWRAP 1 = 0 ∧ natBits (final ops.reverse) cellWRAP 1 = 0 :=
  ⟨(List.reverse_perm _).symm, by decide, by decide⟩

/-! ### Completions -/

theorem witness_OperationsComplete :
    (∀ o ∈ [(⟨0, 0, 0x12, some (false, 3), some 2, 5, false, .done, some 0⟩ : OutOp),
        ⟨0, 0, 0x72, none, none, 0, false, .returns [], none⟩],
      let s := latchRaise (core0 (fun k => { k with ops := [o] }) (ready 0 [] [])) 0 false 3
      findOp s 0 0 = some o ∧ mayComplete s o = true ∧ latchGet s 0 false 3 ≠ 0) ∧
    (let o : OutOp := ⟨0, 0, 0x12, some (true, 3), some 2, 5, true, .done, none⟩
     let s := strand0 (fun v => { v with phase := .remote }) (core0 (fun k => { k with ops := [o] }) (ready 0 [] []))
     findOp s 0 0 = some o ∧ o.remote = true ∧ o.phase = .done ∧ latchGet s 0 true 3 = 0) ∧
    (let o : OutOp := ⟨0, 0, 0x13, some (false, 3), none, 0, false, .refused, none⟩
     let s := core0 (fun k => { k with ops := [o] }) (ready 0 [] [])
     findOp s 0 0 = some o ∧ o.phase = .refused) := by decide

/-! ### Launches, stores, scrubs, links -/

/-- A launch without rows. -/
def launch0 : Launch := ⟨0, 0, 0, 1, 1, 0, 0, false, false, false, false, false, (0, 0), [], [], 0, [], [], [], []⟩

theorem witness_LaunchesAndStores_core :
    (let s := core0 (fun k => { k with strands := Core.empty.strands, launch := some launch0 }) (ready 0 [] [])
     (getCore s 0).launch = some launch0 ∧ (getCore s 0).allIdle = true ∧ (getCore s 0).ops = [] ∧
     launch0.done = false ∧ launch0.faulted = false ∧ s.hinge.gating = false) ∧
    (let s := strand0 (fun v => { v with pc := some (1024 + 1023) }) (ready 0 [] [])
     (getStrand s 0 0).pc = some (1024 + 1023) ∧ 0 < (getCore s 0).strands.length) ∧
    (let e := entry [(0, 0x08), (36, 1)]
     let s := latchRaise (strand0 (fun v => { v with phase := .waiting }) (ready e [] [])) 0 false 0
     (getStrand s 0 0).phase = .waiting ∧ stillHeld s 0 0 = true) ∧
    (let e := entry [(0, 0x13), (27, 1)]
     let s := core0 (fun k => { k with latches := [(0, 255)] })
       (strand0 (fun v => { v with phase := .stalled }) (ready e [] []))
     (getStrand s 0 0).phase = .stalled ∧ stillHeld s 0 0 = true) := by decide

/-- Debug access stands open and cluster 0 is idle. -/
def opened (l : List (Field × Nat)) : State := setDebug (withF l) 0xF0F0

theorem witness_LaunchesAndStores_stores :
    inWarm (opened []) = false ∧ natBits (191 : Word).toNat 0 8 ≤ 191 ∧
    (∀ b ∈ [false, true],
      storeOpen (opened []) 0 b = true ∧ storeOpen State.reset 0 b = false ∧ (getCluster (opened []) 0).staging = none ∧
      (let s := modCluster (opened []) 0 (fun k => { k with staging := some ⟨0x09, b, 1023, 0, false⟩ })
       storeOpen s 0 b = true ∧ (getCluster s 0).staging = some ⟨0x09, b, 1023, 0, false⟩ ∧
       entryOk (isPavilion 0) ((0 : Word) ++ (0x09 : Word)) = true ∧
       entryOk (isPavilion 0) ((1 : Word) ++ (0x09 : Word)) = false)) ∧
    (if bitF (opened []) (fCLU_TBL_SEL_BCAST 0) then 1 else getF (opened []) (fCLU_TBL_SEL_CORE 0)) = 0 := by decide

/-- A slot of one END micro-op (its MOP 1), and one that has none. -/
theorem witness_LaunchesAndStores_slots :
    lusOpen (opened []) 0 = true ∧ slotFault (slotWords (opened []) 0 0) = some 63 ∧
    (let s := modCluster (opened []) 0 (fun k => { k with slots := [(0, [1])] })
     lusOpen s 0 = true ∧ getF s (fCLU_LUS_SEL_SLOT 0) = 0 ∧ slotFault (slotWords s 0 0) = none) := by decide

theorem witness_ScrubsAndLinks_scrubs :
    pstate (ready 0 [] []) (clusterOfCore 0) ≤ 1 ∧ 24575 * 8 < sramSize 0 ∧ (2047 : Nat) < 2048 ∧
    (indexOfCore 0, 15) ∉ (getCluster (ready 0 [] []) (clusterOfCore 0)).scrub := by decide

/-- The state after reset with both directions of Girdle link 23. -/
def linked (there back : Girdle) : State :=
  { State.reset with comp := { State.reset.comp with girdle := [(46, there), (47, back)] } }

/-- Both directions up: no bad flit before, a replay under way, and one that has failed twice; and lanes on the last spare
and past it, whatever their number is. -/
theorem witness_ScrubsAndLinks_up :
    (∀ g ∈ [Girdle.fresh, { Girdle.fresh with replay := true, fails := 1 }, { Girdle.fresh with replay := true, fails := 2 }],
      let s := linked Girdle.fresh g
      getGirdle s (2 * 23 + 1) = g ∧ g.down = false ∧ (getGirdle s (2 * 23)).down = false) ∧
    (∃ g : Girdle, g.down = false ∧ Config.girdleSpares ≤ tabGet 0 g.repairs 15 ∧ getGirdle (linked Girdle.fresh g) 47 = g) :=
  ⟨by decide, { Girdle.fresh with repairs := [(15, Config.girdleSpares)] }, rfl, Nat.le_refl _, rfl⟩

/-- One direction is down, either one. -/
theorem witness_ScrubsAndLinks_down :
    (getGirdle (linked Girdle.fresh { Girdle.fresh with down := true }) 47).down = true ∧
    (getGirdle (linked { Girdle.fresh with down := true } Girdle.fresh) 46).down = true := by decide

/-! ### A package with an active set -/

/-- A section without items: each array's kind and records. -/
def section_ (type : Nat) (arrays : List (Nat × List Nat)) : CfgSection :=
  ⟨type, [], arrays.map (fun a => ⟨a.1, 0, a.2⟩)⟩

/-- A number from its fields: lowest bit and value of each. -/
def fieldsOf (l : List (Nat × Nat)) : Nat := (l.map (fun p => p.2 * 2 ^ p.1)).sum

/-- Tenant 1: domain 1, function 0, KV class 2, a quota of 4 requests per class, 2 reserved pages, 4 mapped pages. -/
def tenant1 : Nat := fieldsOf [(0, 1), (16, 1), (40, 2), (64, 4), (80, 4), (96, 4), (112, 4), (192, 2), (240, 4)]

/-- An image of GEN 5 for package 7 with tenant 1 and SYS, and more sections. -/
def imageOf (order : Nat) (more : List CfgSection) : CfgImage :=
  ⟨fieldsOf [(64, 5), (96, 7), (128, order)], section_ 5 [(1, [tenant1]), (2, [fieldsOf [(12, 1), (16, 8191)]])] :: more, 0, 0⟩

/-- The package with that image active, and some register fields set. -/
def active (l : List (Field × Nat)) (more : List CfgSection := []) : State :=
  { withF l with cfg := { Cfg.empty with active := some (imageOf 7 more) } }

/-! ### Bezel -/

/-- Page 9 with a record. -/
def page9 (r : PageRec) (s : State) : State := setPage s 9 r

theorem witness_PageLife :
    (let r : PageRec := ⟨1, 1, .held, 0, 0, 0, false, 0⟩
     let s := page9 r (active [])
     getPage s 9 = r ∧ r.gen + 1 < 0xFFFF ∧ (freeList s r.owner).length < tenantField s r.owner 192 32) ∧
    (let r : PageRec := ⟨0xFFFD, 2, .held, 0, 0, 0, false, 0⟩
     let s := page9 r (active [])
     getPage s 9 = r ∧ r.gen + 1 < 0xFFFF ∧ tenantField s r.owner 192 32 ≤ (freeList s r.owner).length) ∧
    (let r : PageRec := ⟨0xFFFE, 1, .held, 0, 0, 0, false, 0⟩
     getPage (page9 r (active [])) 9 = r ∧ 0xFFFF ≤ r.gen + 1) ∧
    (∀ r ∈ [(⟨1, 1, .free, 0, 0, 0, false, 0⟩ : PageRec), ⟨1, 1, .held, 1, 0, 0, false, 0⟩, ⟨1, 1, .held, 0, 0, 1, false, 0⟩],
      r.phase ≠ .held ∨ r.refs ≠ 0 ∨ r.inflight ≠ 0) ∧
    (∀ p ∈ [PagePhase.zeroing, .quarantine, .free], (getPage (page9 ⟨7, 1, p, 0, 0, 0, false, 0⟩ (active [])) 9).phase = p) := by
  decide

/-- A done launch of one row of ward 3 with one record slot, positions 64 and 65, its lines written or not. -/
def recorded (pos rowEpoch : Nat) (lines : List Nat) : Launch :=
  { launch0 with done := true, rows := [⟨3, 11, 64, 2, 64, rowEpoch⟩], slots := [(3, pos, 0)], apLines := lines }

/-- Ward 3 decoding with 64 positions committed at EPOCH 2. -/
def ward3 : WardEntry := { WardEntry.freed with
  phase := .decode, tenant := 1, committed := 64, tlen := 130, epoch := 2, limit := 200, aseq := 11, nextSeq := 5, home := 7 }

/-- A package with that ward entry; core 0 with a launch. -/
def warded (e : WardEntry) (l : Launch) : State :=
  let s := active [(fBZL_POOL_SIZE_PAGES, 100), (fBZL_LAYOUT_LDIM, 512), (fBZL_LAYOUT_LFMT, 2), (fBZL_LAYOUT_RDIM, 64),
    (fBZL_LAYOUT_LPG, 4), (fBZL_LAYOUT_G, 3)]
  let s := setWard s 3 e
  { s with comp := { s.comp with cores := [(0, { Core.empty with launch := some l })] } }

/-- The lines that a record of 512 + 64 values takes. -/
def lines0 : List Nat := List.range 18

theorem witness_KvRecords_refused :
    (∀ p ∈ [(recorded 64 2 [], RecordFate.short), (recorded 63 2 lines0, .committed), (recorded 66 2 lines0, .committed),
        (recorded 65 1 lines0, .stale)],
      let s := warded ward3 p.1
      (getCore s 0).launch = some p.1 ∧ p.1.done = true ∧ p.1.applied = false ∧
      (apertureRecords s p.1).map (recordFate s p.1) = [p.2]) ∧
    RecordFate.short ≠ .ok ∧ RecordFate.committed ≠ .ok ∧ RecordFate.stale ≠ .ok := by decide +kernel

theorem witness_KvRecords_accepted :
    let l := recorded 65 2 lines0
    let r : PageRef := ⟨9, .resident, 4, 0, false⟩
    let s := modList (page9 ⟨4, 1, .held, 1, 1, 0, false, 0⟩ (warded ward3 l)) 3 (fun x => { x with ents := [(3, r)] })
    (getCore s 0).launch = some l ∧ (apertureRecords s l).length = 1 ∧ (apertureRecords s l).map (recordFate s l) = [.ok] ∧
    tabFind (getList s 3).ents (entIndex s (65 / 64) (0 / (kvLayout s).lpg)) = some r ∧ r.loc = .resident ∧
    (entRanges s 3 (entIndex s (65 / 64) (0 / (kvLayout s).lpg))).all (fun x => !hbmPoisoned s x.1 x.2) = true ∧
    r.gen = (getPage s r.page).gen ∧ (getPage s r.page).refs ≤ 1 ∧
    natBits (getPage s r.page).scaleset (0 % (kvLayout s).lpg) 1 = 1 ∧ Memory.wf s.tiers.hbm = true := by decide +kernel

/-- Ward 3 with one page that it holds alone, at entry 0, and the park of the listed entries under way. -/
def parking (loans : Nat) (moving : List Nat) (s : State) : State :=
  let s := page9 ⟨4, 1, .held, 1, 1, 0, false, 0⟩ s
  let s := { s with tiers := { s.tiers with loans := (List.range loans).map (fun n => (n, ⟨9, 0⟩)) } }
  modList s 3 (fun x => { x with
    parking := true, moving := some moving, ents := [(0, ⟨9, .resident, 4, 0, false⟩)], leaves := [(0, 0)] })

/-- A state whose tenants of bandwidth class 0 have an empty bucket at every HBM controller. -/
def noTokens (s : State) : State := setF s (fWDN_BWC_HBM_RATE 0) 1

theorem witness_ParkLookupAndStream_park :
    (let s := parking 1 [] (warded ward3 launch0)
     (getList s 3).moving = some [] ∧ s.tiers.hbmPoison = [] ∧ (soloEnts s 3).filter (fun p => [].contains p.1) = []) ∧
    (let s := parking 1 [0] (warded ward3 launch0)
     (getList s 3).moving = some [0] ∧ s.tiers.hbmPoison = [] ∧
     ((soloEnts s 3).filter (fun p => [0].contains p.1)).map Prod.fst = [0] ∧
     (soloEnts s 3).all (fun p => genOk s p.2) = true ∧ tabHas (getList s 3).leaves 0 = true ∧
     parkTarget s (getWard s 3).ctx 1 (getWard s 3).spill = some .neighbour ∧
     allOpen s (moveCharges s (getWard s 3).ctx [9] .neighbour ((loanFramesFree s).headD 0)) = true ∧
     allOpen (noTokens s) (moveCharges (noTokens s) (getWard s 3).ctx [9] .neighbour ((loanFramesFree s).headD 0)) = false) ∧
    (let s := parking 0 [0] (warded ward3 launch0)
     (getList s 3).moving = some [0] ∧ (soloEnts s 3).all (fun p => genOk s p.2) = true ∧
     parkTarget s (getWard s 3).ctx 1 (getWard s 3).spill = none) := by decide +kernel

/-- A parked copy of a page with a CRC-32C. -/
def copy5 (crc : Nat) : ParkedCopy := ⟨.neighbour, [], [], 0, [1], crc, 1⟩

/-- Ward 3, resuming, with that copy at entry 0 and a page reserved. -/
def returning (crc : Nat) : State :=
  let s := modList (warded ward3 launch0) 3 (fun x => { x with ents := [(0, ⟨5, .neighbour, 4, 0, false⟩)], leaves := [(0, 0)] })
  let s := setInfo s 3 { WardInfo.fresh with restoring := true }
  { s with bezel := { s.bezel with
    resv := [(3, 1)], pages := [(0, ⟨1, 0, .free, 0, 0, 0, true, 0⟩)], parked := [(5, copy5 crc)] } }

theorem witness_ParkLookupAndStream_return : ∀ crc ∈ [0, 1],
    let s := returning crc
    (parkedEnts s 3).find? (fun p => p.1 == 0) = some (0, ⟨5, .neighbour, 4, 0, false⟩) ∧
    tabFind s.bezel.parked 5 = some (copy5 crc) ∧ (getInfo s 3).restoring = true ∧ tabGet 0 s.bezel.resv 3 ≠ 0 ∧
    (takePage s (getWard s 3).ctx).isSome = true ∧
    allOpen s (moveCharges s (getWard s 3).ctx [0] .neighbour 1) = true ∧ tabHas (getList s 3).leaves 0 = true ∧
    Memory.wf s.tiers.hbm = true ∧ Memory.wf (copy5 crc).bytes = true := by decide +kernel

/-- Its CRC-32C is right, or wrong. -/
theorem witness_ParkLookupAndStream_crc : ∀ off, ∃ crc,
    crc32c ((copy5 crc).returned (returning crc) []) + off = (copy5 crc).crc := fun off =>
  ⟨crc32c ((copy5 0).returned (returning 0) []) + off,
    congrArg (crc32c · + off) (by simp only [ParkedCopy.returned, copyBytes, scaleBytes]; rfl)⟩

theorem witness_ParkLookupAndStream_lookup :
    let s := { warded ward3 launch0 with bezel := { Bezel.empty with lookups := [3] } }
    3 ∈ s.bezel.lookups ∧ domainKey s (domainOf s (getWard s 3).ctx) = none := by decide

/-- A LATENT_POS stream of 64 positions of ward 3, bound on core `c`. -/
def stream0 : StreamSpec := ⟨0, 3, 0, 0, 64, 2, 4, 0, 0, 0, 0, 0, 0⟩

def streaming (c : Nat) : State :=
  let s := parking 0 [] (warded ward3 launch0)
  { s with comp := { s.comp with
    cores := [(c, { Core.empty with bufs := Core.empty.bufs.set 0 ⟨some stream0, [], 1, 0, 0⟩ })] } }

theorem witness_ParkLookupAndStream_stream : ∀ c ∈ [73728, 0],
    let s := streaming c
    let cost (s : State) := hbmCharges s (getWard s 3).ctx (streamRanges s stream0 0)
    (getBuf s c 0).bound = some stream0 ∧ (getBuf s c 0).credits ≠ 0 ∧ (getBuf s c 0).sent = 0 ∧
    0 < streamLines (kvLayout s) stream0 ∧ streamGenOk s stream0 = true ∧
    (streamRanges s stream0 0).all (fun r => !hbmPoisoned s r.1 r.2) = true ∧
    allOpen s (cost s) = true ∧ allOpen (noTokens s) (cost (noTokens s)) = false ∧
    isCulet c = decide (c = 73728) := by decide +kernel

/-! ### Admission, commands, the order stream, delivery -/

/-- An admission of tenant 1: PROMPT_LEN, MAX_LEN, DEADLINE and more. -/
def admitDesc (p m dl : Nat) (more : List (Nat × Nat) := []) : BitVec 512 :=
  BitVec.ofNat 512 (fieldsOf ([(0, 1), (16, 1), (29, 1), (48, p), (72, m), (128, dl)] ++ more))

theorem witness_AdmissionAtHome_checks :
    (let s := active [(fWRD_TS_STAT_SIZE, 1)]
     let o := Origin.pcie 0 3
     stopped s = false ∧ admitOk s o (admitDesc 3 3 0).toNat = false ∧ admitOk s o (admitDesc 2 3 0 [(8, 1)]).toNat = false ∧
     (let d := (admitDesc 2 3 0 [(17, 1)]).toNat
      admitOk s o d = true ∧ tenantRec s (dCtx d) = none) ∧
     (let d := (admitDesc 2 3 0).toNat
      admitOk s (.pcie 5 0) d = true ∧ bound s (.pcie 5 0) (dCtx d) = false) ∧
     (let d := (admitDesc 2 3 1800000001).toNat
      admitOk s o d = true ∧ tenantRec s (dCtx d) ≠ none ∧ bound s o (dCtx d) = true ∧ deadlineFar s.now (dDEADLINE d) = true) ∧
     (let d := (admitDesc 2 3 1800000000).toNat
      admitOk s o d = true ∧ deadlineFar s.now (dDEADLINE d) = false ∧
      findExtent (extentUnits (limitOf (dMAX_LEN d) (layerGroups s))) (getF s fWRD_TS_STAT_SIZE) 0 s.ward.extents = some 0 ∧
      findExtent (extentUnits (limitOf (dMAX_LEN d) (layerGroups s))) 0 0 s.ward.extents = none ∧
      admitOk (active []) o d = true ∧ getF (active []) fWRD_TS_STAT_SIZE = 0)) := by
  decide +kernel

/-- A prompt read of an ADMIT (OP 1), and one of a RESUME (OP 3). -/
theorem witness_AdmissionAtHome_prompt : ∀ op ∈ [1, 3],
    let o := Origin.pcie 0 3
    let r : PromptRead := ⟨(admitDesc 2 3 0 [(0, op - 1)]).toNat, o, 6, 0⟩
    let s := { active [(fWRD_TS_STAT_SIZE, 1)] with ward := { Ward.empty with reads := [r], extents := [(0, 1)] } }
    s.ward.reads.find? (fun r => r.origin == o && r.subseq == 6) = some r ∧ dOP r.desc = op ∧ promptPathOk s r = true ∧
    Memory.wf s.tiers.hbm = true := by decide +kernel

/-- A command on ward 3 with ASEQ 11. -/
def commandDesc (op p : Nat) (more : List (Nat × Nat) := []) : BitVec 512 :=
  BitVec.ofNat 512 (fieldsOf ([(0, op), (16, 1), (192, 3), (256, 11), (48, p)] ++ more))

theorem witness_RequestCommands :
    let s := warded ward3 launch0
    stopped s = false ∧
    (∀ op ∈ [2, 3, 4], dOP (commandDesc op 0).toNat = op ∧ dOP (commandDesc 1 0).toNat ≠ op) ∧
    (∀ p ∈ [0, 69],
      let d := (commandDesc 3 p).toNat
      dOP d = 3 ∧ deadlineFar s.now (dDEADLINE d) = false ∧ dPROMPT_LEN d = p) ∧
    (let d := (commandDesc 3 0 [(128, 1800000001)]).toNat
     dOP d = 3 ∧ deadlineFar s.now (dDEADLINE d) = true) := by decide +kernel

theorem witness_OrderStream :
    (let s := active []
     orderPkg s = ownPkg s ∧ s.cfg.active.isSome = true ∧ (∀ x ∈ s.ward.batches, x.number ≠ 1)) ∧
    (let s := { State.reset with cfg := { Cfg.empty with active := some (imageOf 8 []) } }
     orderPkg s ≠ ownPkg s) ∧
    (let s := { State.reset with ward := { Ward.empty with batches := [⟨1, 0, 1, []⟩] } }
     ∃ x ∈ s.ward.batches, x.number = 1) ∧
    (let s := active [(fGLB_TIME_STAT_SERVING, 1)]
     serving s = true ∧ stopped s = false ∧ nextHeld s = none) := by decide +kernel

/-- Ward 3 at its home package, and the delivery of its Keyring. -/
def delivering (e : WardEntry) (d : Delivery) : State := setDeliv (warded e launch0) 3 d

theorem witness_KeyringDelivery :
    (let e := { ward3 with ackReq := true, origin := Origin.pcie 0 3 }
     let d : Delivery := { Delivery.none with aseq := 11, written := 4, copied := 3, completed := 2, delivered := 1 }
     let s := delivering e d
     (getWard s 3).phase.live = true ∧ (getWard s 3).home = ownPkg s ∧ (getDeliv s 3).failed = false ∧
     (getWard s 3).origin = .pcie 0 3 ∧ s.tiers.hbmPoison = [] ∧ (getDeliv s 3).copied ≤ (getDeliv s 3).written ∧
     (getDeliv s 3).completed < 3 ∧ 3 ≤ (getDeliv s 3).copied ∧ 4 ≤ (getDeliv s 3).written ∧ (getWard s 3).aseq < 2 ^ 16 ∧
     (getWard s 3).ackReq = true ∧ (getDeliv s 3).delivered < 4 ∧
     (∃ p ∈ s.ward.deliv, p.2.drained < p.2.delivered) ∧ inWarm s = false) ∧
    (let v : Word := 4
     natBits v.toNat 0 16 = 4 ∧ (getWard (warded ward3 launch0) 4).phase = .free) := by decide +kernel

/-! ### Mapping commands -/

/-- A mapping command of tenant 1 over `n` pages from VPN 8 on, with the pages already mapped. -/
def mapState (op tenant n : Nat) (leaves : List (Nat × Leaf)) : State :=
  let s := active [(fMEM_MAP_CMD0_VPN, 8), (fMEM_MAP_CMD1_PAGES, n), (fMEM_MAP_CMD1_OP, op), (fMEM_MAP_CMD1_TENANT, tenant),
    (fMEM_MAP_CMD1_WRITE, 1), (fMEM_CFG_FRAMES, 100)]
    [section_ 1 [(1, [fieldsOf [(0, 1), (64, 100)]])]]
  { s with tiers := { s.tiers with leaves := leaves } }

def leaf0 : Leaf := ⟨true, .hbm, 0, false, false, false, 3, 40, 0, 0⟩

/-- The premises of every mapping clause. -/
def mapIdle (s : State) : Bool := !inWarm s && !bitF s fMEM_MAP_STAT_BUSY

/-- A placement of the whole range. -/
def placesAll (s : State) : Bool :=
  match placePages (mapCtx s) (bitF s fMEM_MAP_CMD1_WRITE) (getF s fMEM_MAP_CMD1_PCLASS) (getF s fMEM_MAP_CMD2_STACKS)
    (getF s fMEM_MAP_CMD0_VPN) (getF s fMEM_MAP_CMD1_PAGES) { s with tiers := { s.tiers with denied := false } } with
  | .all _ => true
  | _ => false

theorem witness_MappingCommands_refused : ∀ op ∈ [1, 2, 3], ∀ p ∈ [(1, 0, 1), (2, 4, 2)],
    let s := mapState op p.1 p.2.1 []
    mapIdle s = true ∧ getF s fMEM_MAP_CMD1_OP = op ∧ mapCheck s = some p.2.2 := by decide

theorem witness_MappingCommands_map :
    (let s := mapState 1 1 4 [(pageKey 1 11, leaf0)]
     mapIdle s = true ∧ mapCheck s = none ∧ getF s fMEM_MAP_CMD1_OP = 1 ∧ rangeMapped s 1 8 4 = true) ∧
    (let s := mapState 1 1 4 []
     mapIdle s = true ∧ mapCheck s = none ∧ getF s fMEM_MAP_CMD1_OP = 1 ∧ rangeMapped s 1 8 4 = false ∧
     mappedPages s 1 + 4 ≤ tenantField s 1 240 32 ∧ placesAll s = true) := by decide +kernel

theorem witness_MappingCommands_others :
    (∀ op ∈ [2, 3],
      let s := mapState op 1 2 [(pageKey 1 8, leaf0), (pageKey 1 9, leaf0)]
      mapIdle s = true ∧ mapCheck s = none ∧ getF s fMEM_MAP_CMD1_OP = op ∧ 2 ≤ (leavesIn s 1 8 2).length ∧
      s.tiers.leaves.Pairwise (fun p q => p.1 < q.1)) ∧
    (let m : MapCmd := ⟨255, 1, false⟩
     m.waiting = false ∧ m.status < 2 ^ fMEM_MAP_STAT_STATUS.w ∧ fMEM_MAP_STAT_STATUS.w = 8) := by decide

/-! ### Heat and migration, loans -/

/-- Tiers changed. -/
def withT (f : Tiers → Tiers) (s : State) : State := { s with tiers := f s.tiers }

/-- A page of class 2 in frame 100, and a loan held in slot 0. -/
def demoting : State :=
  withT (fun t => { t with leaves := [(pageKey 1 8, { leaf0 with pclass := 2, frame := 100 })], loans := [(0, ⟨9, 0⟩)] })
    (active [(fMEM_CFG_LOW_WM, 786431), (fMEM_MIG_MIN_RES, 0)] [section_ 1 [(1, [fieldsOf [(0, 1), (64, 100)]])]])

/-- A page of class 1 in loan frame 0. -/
def promoting : State :=
  withT (fun t => { t with leaves := [(pageKey 1 8, { leaf0 with pclass := 1, tier := .neighbour, frame := 0 })]
                           loans := [(0, ⟨9, 0⟩)] }) (active [])

theorem witness_HeatAndMigration_start :
    (let s := demoting
     freeFrames s < getF s fMEM_CFG_LOW_WM ∧ s.tiers.migs.length < 16 ∧
     sortBy coldFirst (s.tiers.leaves.filter (fun p => demotable s p.2)) = s.tiers.leaves ∧ s.tiers.leaves.length = 1 ∧
     demoteTarget (withT (fun t => { t with demoting := true }) s) { leaf0 with pclass := 2, frame := 100 } =
       .at_ .neighbour 0) ∧
    (let s := promoting
     getF s fMEM_CFG_LOW_WM ≤ freeFrames s ∧ getF s fMEM_CFG_HIGH_WM < freeFrames s ∧ s.tiers.migs.length < 16 ∧
     firstBy promoteFirst (s.tiers.leaves.filter (fun p => promotable s p.2)) = s.tiers.leaves.head? ∧
     s.tiers.leaves.length = 1 ∧ localFrame s 0 (keyVpn (pageKey 1 8)) = some (8 * 32768)) := by decide +kernel

/-- A page of tenant 1 on its way from where `l` has it. -/
def migrating (l : Leaf) (m : Migration) : State :=
  withT (fun t => { t with leaves := [(pageKey 1 8, l)], migs := [m] }) (active [])

/-- First and later passes; 64 blocks written and 65. -/
theorem witness_HeatAndMigration_pass : ∀ p ∈ [(64, 0, none), (65, 0, none), (65, 1, some [511]), (65, 2, some [])],
    let m : Migration := ⟨pageKey 1 8, .hbm, 5, List.range p.1, p.2.1, false, p.2.2⟩
    let s := migrating leaf0 m
    let cost (s : State) := copyCharges s m.page leaf0 m ((m.copying.map List.length).getD 512)
    s.tiers.migs.find? (fun m => m.page == pageKey 1 8 && !m.held) = some m ∧ tabFind s.tiers.leaves m.page = some leaf0 ∧
    (m.tier, m.frame) ≠ (leaf0.tier, leaf0.frame) ∧ allOpen s (cost s) = true ∧ Memory.wf s.tiers.hbm = true ∧
    Memory.wf s.tiers.loanMem = true ∧ Memory.wf s.flash.data = true ∧
    allOpen (noTokens s) (cost (noTokens s)) = false := by decide +kernel

/-- A page in HBM that goes to flash, and one in a loan frame that comes to HBM. -/
theorem witness_HeatAndMigration_switch :
    (∀ p ∈ [(leaf0, Tier.flash), ({ leaf0 with tier := .neighbour }, .hbm)],
     let k := pageKey 1 8
     let m : Migration := ⟨k, p.2, 5, [0, 511], 2, true, some []⟩
     let s := migrating p.1 m
     s.tiers.migs.find? (fun m => m.page == k && m.held) = some m ∧ tabFind s.tiers.leaves k = some p.1 ∧
     (m.tier, m.frame) ≠ (p.1.tier, p.1.frame) ∧ Memory.wf s.tiers.hbm = true ∧ Memory.wf s.tiers.loanMem = true ∧
     Memory.wf s.flash.data = true ∧ allOpen s (copyCharges s k p.1 m m.dirty.length) = true ∧
     frameBusy s p.1.frame (fun op => op != opREAD) = false) ∧
    (∀ f ∈ [0, 786431, 786432, 1310719],
      let s := withT (fun t => { t with zeroing := [f] }) State.reset
      f < 1310720 ∧ f ∈ s.tiers.zeroing ∧ frameBusy s (f - 786432) (fun _ => true) = false) := by decide +kernel

/-- A package with one unit to lend and two lenders in its list. -/
def lending (l : List (Field × Nat)) : State :=
  active l [section_ 1 [(1, [fieldsOf [(0, 9), (32, 4), (64, 512)]])], section_ 6 [(1, [8, 9])]]

theorem witness_LoansBetweenPackages_lender :
    (let s := lending [(fMEM_LOAN_LEND_MAX, 1)]
     carveOut s 0x09 = some (4, 512) ∧ (List.range (getF s fMEM_LOAN_LEND_MAX)).find? (fun u => !tabHas s.tiers.lent u) =
       some 0) ∧
    carveOut State.reset 0x09 = none ∧
    (let s := withT (fun t => { t with lent := [(0, 8)] }) (lending [(fMEM_LOAN_LEND_MAX, 1)])
     (List.range (getF s fMEM_LOAN_LEND_MAX)).find? (fun u => !tabHas s.tiers.lent u) = none ∧
     carveOut s 0x09 = some (4, 512) ∧ 4 * 2097152 ≤ 4 * 2097152 ∧
     tabFind s.tiers.lent ((4 * 2097152 - 4 * 2097152) / 2 ^ 30) = some 8) := by decide

theorem witness_LoansBetweenPackages_borrower :
    (let s := withT (fun t => { t with asked := some 0 }) (lending [])
     askedLender s = some 8 ∧ loanSlot s = some 0 ∧ s.tiers.mapCmd = none ∧ s.tiers.asked = some 0 ∧
     (lenders s)[0 + 1]? = some 9) ∧
    (let s := withT (fun t => { t with asked := some 1, loans := [(0, ⟨9, 0⟩)] }) (lending [])
     askedLender s = some 9 ∧ loanSlot s = some 1 ∧ s.tiers.mapCmd = none) ∧
    (∀ n ∈ [0, 1023],
      let l : Loan := ⟨9, 0⟩
      let s := withT (fun t => { t with loans := [(n, l)] }) State.reset
      tabFind s.tiers.loans n = some l ∧ loanIdle s n l = true) ∧
    (let s := withT (fun t => { t with evacuating := true }) State.reset
     let img := imageOf 7 [section_ 6 [(1, [8])]]
     let s := { s with cfg := { s.cfg with shadow := some img } }
     s.cfg.shadow = some img ∧ s.tiers.evacuating = true ∧ affectedLoans s img [] = [] ∧
     ∀ x ∈ s.tiers.lent, x.1 < imageLendMax img) := by decide +kernel

/-! ### Flash -/

/-- Flash with 32 channels, and part of its state. -/
def flashed (f : Flash → Flash) (l : List (Field × Nat) := []) : State :=
  let s := active ((fFLS_CFG_CHANNELS, 32) :: l) [section_ 1 [(1, [fieldsOf [(0, 8), (32, 4), (64, 1)]])]]
  { s with flash := f s.flash }

theorem witness_FlashAndScrub_write :
    let s := flashed (fun f => { f with buffer := (List.range 127).map (fun g => ⟨g, 1, g, false⟩) })
    [1#8].length = 1 ∧ 16383 + [1#8].length ≤ 16384 ∧ s.flash.buffer.length < bufferSize s ∧
    s.flash.buffer.length = 127 ∧ bufferSize s = 128 ∧ Memory.wf s.flash.data = true := by decide +kernel

/-- One buffered granule, durable or not; the last block of channel 31 is next. -/
def programming (durable : Bool) : State :=
  flashed (fun f => { f with buffer := [⟨3, 1, 5, durable⟩], nextChan := 31 })

/-- Wherever channel 31's NAND part has a block and a granule in it, the premises of the program clause hold for the
channel's first block (the spec leaves both numbers open). -/
theorem witness_FlashAndScrub_program (hb : 0 < Config.nandBlocks 31) (hg : 1 ≤ Config.nandGranules 31) :
    nextToProgram (programming true) = some ⟨3, 1, 5, true⟩ ∧ nextToProgram (programming false) = some ⟨3, 1, 5, false⟩ ∧
    nextChan (programming true) = some (blockChan 520093696) ∧
    blockRoom (programming true) 520093696 1 = true := by
  refine ⟨by decide, by decide, by decide, ?_⟩
  have h1 : chanUp (programming true) (blockChan 520093696) = true := by decide
  have h2 : (getBlock (programming true) 520093696).good = true := by decide
  have h3 : (getBlock (programming true) 520093696).written = 0 := by decide
  have h4 : blockChan 520093696 = 31 := by decide
  rw [h4] at h1
  simp [blockRoom, blockUp, h1, h2, h3, h4, hb, hg]

theorem witness_FlashAndScrub_others :
    getF (flashed id) fFLS_CFG_CHANNELS ≠ 0 ∧ (flashed id).fault.retired.length < 4096 := by decide

/-- Block `v` of channel 0 with valid granules 4 and 5, and block `d` with an erase count. -/
def blocks (x : FlashBlock) (d : FlashBlock) (l : List (Field × Nat) := []) : State :=
  flashed (fun f => { f with blocks := [(0, x), (1, d)], buffer := [⟨3, 1, 5, false⟩] }) l

/-- Two valid granules in a block read 1,000,000 times. -/
def full (reads : Nat) : FlashBlock := ⟨true, 0, reads, [4, 5], 2⟩

theorem blockRoom_of (s : State) (hc : chanUp s 0 = true) (b n : Nat) (hb : blockChan b = 0)
    (hg : (getBlock s b).good = true) (hw : (getBlock s b).written = 0) (hn : b % 2 ^ 24 < Config.nandBlocks 0)
    (hr : n ≤ Config.nandGranules 0) : blockRoom s b n = true := by
  rw [blockRoom, blockUp, hb]
  simp only [hc, hg, hw, decide_eq_true hn, Nat.zero_add, decide_eq_true hr, Bool.and_self]

theorem witness_FlashBlocks_fail (hb : 1 < Config.nandBlocks 0) :
    let s := blocks (full 0) .fresh
    blockUp s 0 = true ∧ (getBlock s 0).good = true ∧ s.flash.buffer ≠ [] := by
  have h : chanUp (blocks (full 0) .fresh) (blockChan 0) = true := by decide
  have h4 : blockChan 0 = 0 := by decide
  rw [h4] at h
  exact ⟨by simp [blockUp, h, h4]; omega, by decide, by decide⟩

/-- Garbage collection of channel 0 with two blocks, both written, so that none is free: the victim is the one with the
fewest valid granules, and block 0 of channel 1 has room for its copies. -/
theorem witness_FlashBlocks_collect (hb : Config.nandBlocks 0 = 2) :
    let s := flashed (fun f => { f with blocks := [(0, full 0), (1, ⟨true, 3, 0, [6], 4⟩)] })
    let d := flashed (fun f => { f with blocks := [(0, full 0), (1, ⟨true, 3, 0, [6, 7, 8], 4⟩)] })
    gcVictim s 0 = some (1, ⟨true, 3, 0, [6], 4⟩) ∧ chanUp s 0 = true ∧ chanFree s 0 * 50 < goodBlocks s 0 ∧
    gcVictim d 0 = some (0, full 0) ∧ (2 ^ 24 : Nat) ≠ 0 ∧
    (0 < Config.nandBlocks 1 → 2 ≤ Config.nandGranules 1 → blockRoom d (2 ^ 24) (full 0).valid.length = true) := by
  refine ⟨by decide, by decide, ?_, by decide, by decide, ?_⟩
  · simp only [chanFree, goodBlocks, hb]; decide
  · intro h1 h2
    have hc : chanUp (flashed (fun f => { f with blocks := [(0, full 0), (1, ⟨true, 3, 0, [6, 7, 8], 4⟩)] })) 1 = true := by
      decide
    have h4 : blockChan (2 ^ 24) = 1 := by decide
    have hg : (getBlock (flashed (fun f => { f with blocks := [(0, full 0), (1, ⟨true, 3, 0, [6, 7, 8], 4⟩)] }))
      (2 ^ 24)) = .fresh := by decide
    simp only [blockRoom, blockUp, h4, hc, hg]
    simp [FlashBlock.fresh, full, h1, h2]

theorem witness_FlashBlocks_wear (hn : Config.nandBlocks 0 = 2) (hz : ∀ c, c ≠ 0 → Config.nandBlocks c = 0)
    (hr : 2 ≤ Config.nandGranules 0) :
    let s := blocks (full 0) ⟨true, 150, 0, [], 0⟩
    leastErased s = some (0, full 0) ∧ 150 ≤ eraseMax s - eraseMin s ∧ (getBlock s 1).written = 0 ∧
    (full 0).erases < (getBlock s 1).erases ∧ blockRoom s 1 (full 0).valid.length = true := by
  refine ⟨by decide, ?_, by decide, by decide, blockRoom_of _ (by decide) 1 _ (by decide) (by decide) (by decide)
    (by rw [hn]; decide) hr⟩
  have h0 : ((upChans (blocks (full 0) ⟨true, 150, 0, [], 0⟩)).map (goodBlocks (blocks (full 0) ⟨true, 150, 0, [], 0⟩))).sum
      = 2 := by
    have hu : upChans (blocks (full 0) ⟨true, 150, 0, [], 0⟩) = List.range 32 := by decide
    rw [hu]
    have he : ∀ c ∈ List.range 32, goodBlocks (blocks (full 0) ⟨true, 150, 0, [], 0⟩) c = if c = 0 then 2 else 0 := by
      intro c _
      by_cases h : c = 0
      · subst h; simp only [goodBlocks, hn]; decide
      · simp [goodBlocks, hz c h, h]
    rw [List.map_congr_left he]; decide
  have hl : eraseMax (blocks (full 0) ⟨true, 150, 0, [], 0⟩) = 150 := by decide
  simp only [eraseMin, h0, hl]; decide

theorem witness_FlashBlocks_disturb (hb : 1 < Config.nandBlocks 0) (hr : 2 ≤ Config.nandGranules 0) :
    let s := blocks (full 10000) .fresh [(fFLS_CFG_RD_THRESH, 10)]
    getF s fFLS_CFG_RD_THRESH * 1000 ≤ (getBlock s 0).reads ∧ blockUp s 0 = true ∧ (1 : Nat) ≠ 0 ∧
    blockRoom s 1 (getBlock s 0).valid.length = true := by
  have h : chanUp (blocks (full 10000) .fresh [(fFLS_CFG_RD_THRESH, 10)]) 0 = true := by decide
  have h4 : blockChan 0 = 0 := by decide
  refine ⟨by decide, by simp [blockUp, h, h4]; omega, by decide, blockRoom_of _ h 1 _ (by decide) (by decide) (by decide)
    (by simpa using hb) ?_⟩
  have : (getBlock (blocks (full 10000) .fresh [(fFLS_CFG_RD_THRESH, 10)]) 0).valid.length = 2 := by decide
  omega

/-! ### The loader -/

/-- A manifest with one shard: group 0, offset 64, 64 bytes, hash 5 and a CRC. -/
def manifest1 (crc : Nat) : Nat :=
  fieldsOf [(224, 1), (2048, 5), (2048 + 384, crc), (2048 + 512, 64), (2048 + 576, 64)]

/-- The loader with the live copy at frame 4 and one open request. -/
def loading (f : Fetch) : State :=
  let s := active [] [section_ 1 [(1, [fieldsOf [(0, 4), (32, 4), (64, 1)]])], section_ 4 [(4, [0])],
    section_ 10 [(1, [manifest1 (crc64 [1#8])])]]
  { s with hinge := { Hinge.empty with fetches := [f] } }

/-- Shard 0 of the live copy from the other packages. -/
def fetch0 : Fetch := ⟨0, 0, 0, 65535, true, true, false, false, []⟩

theorem witness_ShardDeliveries_checks :
    let s := loading fetch0
    let m := manifest1 (crc64 [1#8])
    openFetch s 0 0 = some fetch0 ∧ destManifest s 0 = some m ∧ (1 : Nat) ≠ fetch0.index ∧
    crc64 [2#8] ≠ shardCrc (manShard m 0) ∧ crc64 [1#8] = shardCrc (manShard m 0) ∧ crc64 [1#8] < 2 ^ 64 ∧
    Memory.wf s.tiers.hbm = true ∧ destAddr s 0 (manShard m 0) = some (4 * 2097152 + 64) ∧
    s.hinge.fetches.find? (fun f => f.dest == 0 && f.source == 0 && f.sent) = some fetch0 := by decide +kernel

/-- A later shard of a request whose ALIVE is that of the one before it, and one whose ALIVE is no neighbour. -/
theorem witness_ShardDeliveries_alive :
    let f := { fetch0 with alive := 0, first := false }
    openFetch (loading f) 0 0 = some f ∧ (destManifest (loading f) 0).isSome = true ∧
    (65535 ≠ f.alive ∧ f.first = false ∧ (65535 + 1) % 65536 = f.alive) ∧ (1 ≠ f.alive ∧ (1 + 1) % 65536 ≠ f.alive) := by
  decide +kernel

/-- A payload has the hash of its shard, or it has not; the spec names the hash function and does not restate it. -/
theorem witness_ShardDeliveries_hash :
    (Config.sha384 [1#8] = 5 → Config.sha384 [1#8] = shardSha (manShard (manifest1 (crc64 [1#8])) 0)) ∧
    (Config.sha384 [1#8] ≠ 5 → Config.sha384 [1#8] ≠ shardSha (manShard (manifest1 (crc64 [1#8])) 0)) := by
  have h : shardSha (manShard (manifest1 (crc64 [1#8])) 0) = 5 := by decide +kernel
  rw [h]; exact ⟨id, id⟩

theorem witness_ShardDeliveries_doorbell :
    (let f : Fetch := ⟨0, 3, 2, 65535, true, true, false, false, []⟩
     let s := loading f
     s.hinge.fetches.find? (fun f => f.source == 2 && f.sent && !f.rung && f.index == 3 && f.alive == 65535) = some f ∧
     (∀ g ∈ s.hinge.fetches, g.source = 2 → g.sent = true)) ∧
    (loading fetch0).hinge.fetches.find? (fun f => f.source == 2 && f.sent && !f.rung && f.index == 0 && f.alive == 65535)
      = none := by decide +kernel

/-- A swap of a model of `n` layers at phase WAVE. -/
def swapping (n : Nat) (f : Hinge → Hinge) : State :=
  let s := active [(fHNG_MODEL_SWAP, 4), (fHNG_WAVE_H_STEP, 9)] [section_ 10 [(2, [fieldsOf [(208, n)]])]]
  { s with hinge := f s.hinge }

theorem witness_SwapWavefront :
    (let s := swapping 2 (fun h => { h with gating := true })
     let s := { s with warden := { s.warden with lanes := [(0, { Lane.empty with step := 8 })] } }
     s.hinge.gating = true ∧ 7 ∈ members s ∧ oldStepOpen s = true) ∧
    8 ∉ members (swapping 2 id) ∧
    (let s := swapping 2 (fun h => { h with passed := [(0, 7)] })
     stagedManifest s = some (fieldsOf [(208, 2)]) ∧ swapPhase s = 4 ∧ getF s fHNG_WAVE_COMMITTED = 0 ∧
     0 + 1 < manLayers (fieldsOf [(208, 2)]) ∧ gateHeld s s.hinge.passed 0 = true ∧ s.hinge.gating = false) := by
  decide +kernel

/-! ### Adapters and NAND reads -/

/-- A manifest of adapter 6 with a shard of 64 bytes, DOMAIN 1 and RANK 8, and its zero signatures. -/
def manifest2 : Nat :=
  fieldsOf [(0, 0x464D5A41), (32, 1), (48, 1), (96, 6), (128, 1), (224, 1), (256, 8), (320, 64),
    (2048 + 480, 0xFFFE), (2048 + 576, 64)]

/-- Slot 8191 loads adapter 6; the publisher keys are listed. -/
def adapting (h : Hinge → Hinge) : State :=
  let s := active [(fHNG_CFG_SLOT_BYTES, 1), (fHNG_SRC_HOST, 1)] [section_ 10 [(3, [77])]]
  let s := { s with hinge := h { Hinge.empty with slots := [(8191, { AdapterSlot.empty with id := 6, phase := .loading })] } }
  s

/-- An adapter that verifies is accepted; which signatures do is not this spec's. -/
theorem witness_AdapterLoadsAndNandReads_accepted (h : ∀ c d l k, Config.verifies c d l k = true) :
    let s := adapting id
    (getSlot s 8191).phase = .loading ∧ tabFind s.hinge.manifests 8191 = none ∧ bitF s fHNG_SRC_HOST = true ∧
    adapterOk s (getSlot s 8191).id manifest2 = true := by
  have hm : manifestOk manifest2 1 (modelLayers (adapting id)) = true := by decide +kernel
  have hk : (activeRecs (adapting id) 0x000A 3)[manByte manifest2 34 1]? = some 77 := by decide +kernel
  have hl : (leBytes 4736 (manifest2 >>> (8 * manMessageLen manifest2))).length == 4736 := by decide +kernel
  have hz : ((leBytes 4736 (manifest2 >>> (8 * manMessageLen manifest2))).drop 4723).all (fun b => b == 0#8) = true := by
    decide +kernel
  have hs : manifestSigned manifest2 (activeRecs (adapting id) 0x000A 3) = true := by
    simp only [manifestSigned, hk, signedBy, hl, hz, h, Bool.and_self]
  have hi : (manAdapterId manifest2 == (getSlot (adapting id) 8191).id && versionQualifies (adapting id) (manVersion manifest2)
    && decide (manByte manifest2 40 8 ≤ getF (adapting id) fHNG_CFG_SLOT_BYTES * 1048576)) = true := by decide +kernel
  refine ⟨by decide +kernel, by decide +kernel, by decide +kernel, ?_⟩
  simp only [Bool.and_eq_true] at hi
  simp only [adapterOk, hm, hs, hi.1.1, hi.1.2, hi.2, Bool.and_self]

theorem witness_AdapterLoadsAndNandReads_others :
    (let s := adapting id
     (getSlot s 8191).phase = .loading ∧ tabFind s.hinge.manifests 8191 = none ∧ adapterOk s 6 0 = false) ∧
    (let s := adapting (fun h => { h with manifests := [(8191, manifest2)], verified := [shardMark 8193 0] })
     (getSlot s 8191).phase = .loading ∧ tabFind s.hinge.manifests 8191 = some manifest2 ∧
     versionQualifies s (manVersion manifest2) = true ∧ allVerified s 8193 = true) ∧
    (let s := flashed (fun f => { f with map := [(4294967293, 536870911)] })
     tabFind s.flash.map 4294967293 = some 536870911 ∧ tabFind s.flash.map 0 = none) := by decide +kernel

/-! ### Assay -/

/-- Engines with a scannable live copy at frame 4, and a running scan on engine 31. -/
def assaying (l : List (Field × Nat)) (x : Option Scan) : State :=
  let s := active l [section_ 1 [(1, [fieldsOf [(0, 4), (32, 4), (64, 1)]])]]
  { s with assay := { Assay.empty with scans := match x with | some x => [(31, x)] | none => [] } }

/-- What every clause asks of engine 31. -/
def engineIdle (s : State) : Bool := !inWarm s && enginePresent s 31 && !s.assay.held.contains 31

/-- The scan that CTL of engine 31 asks for. -/
def asked (s : State) (ctl : Word) : Scan :=
  ⟨natBits ctl.toNat 2 26 * 4, (getReg s (rASY_ENG_START 31)).toNat, (getReg s (rASY_ENG_LEN 31)).toNat,
    (getReg s (rASY_ENG_ALIVE 31)).toNat, (getReg s (rASY_ENG_EXPECT 31)).toNat, none⟩

theorem witness_AssayEngines_go :
    (let s := setReg (setReg (assaying [] none) (rASY_ENG_START 31) (4 * 2097152)) (rASY_ENG_LEN 31) 2097152
     engineIdle s = true ∧ getScan s 31 = none ∧ scanBad s 31 (asked s 0) = false ∧ scanRange s (asked s 0) = true ∧
     scanBad s 31 (asked s (BitVec.ofNat 64 (2 ^ 4 + 2 ^ 8))) = false ∧ (asked s (BitVec.ofNat 64 (2 ^ 4 + 2 ^ 8))).virt = true) ∧
    (let s := assaying [] none
     engineIdle s = true ∧ natBits (0 : Word).toNat 1 1 = 0 ∧ scanBad s 31 (asked s 0) = true) ∧
    (let y : Scan := ⟨0, 0, 64, 0, 0, none⟩
     engineIdle (assaying [] (some y)) = true ∧ getScan (assaying [] (some y)) 31 = some y) := by decide +kernel

theorem witness_AssayEngines_end : ∀ ctl ∈ [0, 4, 8, 12, 2 ^ 7],
    let y : Scan := ⟨ctl, 4 * 2097152, 64, 0, 0, none⟩
    let s := assaying [] (some y)
    getScan s 31 = some y ∧ y.shard = none ∧ y.virt = false ∧ (∀ g ∈ granulesOf y.start y.len, g ∉ s.tiers.hbmPoison) ∧
    y.aliveEn = false ∧ y.cont = false ∧
    (let p := withT (fun t => { t with hbmPoison := [131072] }) s
     getScan p 31 = some y ∧ (granulesOf y.start y.len).find? (fun g => p.tiers.hbmPoison.contains g) = some 131072) := by
  decide +kernel

/-! ### Power -/

theorem witness_InputAndCap_above :
    (let s := withF [(fPTC_INPUT_POWER, 6001), (fPTC_CFG_PRIO, 0xE4), (fPTC_LIMITS_CROWN_FLIM, 121), (fPTC_CAP_CAP_W, 6000)]
     effectiveCap s < getF s fPTC_INPUT_POWER ∧ prioCode s 3 = 3 ∧ 120 < getF s fPTC_LIMITS_CROWN_FLIM) ∧
    (∀ n ∈ [0, 8, 9],
      let s := withF [(fPTC_INPUT_POWER, 6001), (fPTC_CFG_PRIO, 0xE4), (fPTC_LIMITS_CROWN_FLIM, 120),
        (fPTC_LIMITS_PAV_FLIM, 120), (fPTC_LIMITS_LANES, 4), (fPTC_LIMITS_HBM_SHARE, 4), (fPTC_CAP_CAP_W, 6000)]
      let s := { s with power := { s.power with above := n } }
      effectiveCap s < getF s fPTC_INPUT_POWER ∧ (∀ i < 4, stepDown s (prioCode s i) = none) ∧ s.power.above = n) := by
  decide +kernel

theorem witness_InputAndCap_below : ∀ n ∈ [0, 8],
    let s := withF [(fPTC_INPUT_POWER, 5880), (fPTC_CAP_CAP_W, 6000), (fPTC_STAT_CONV_DOWN, 0)]
    let s := { s with power := { s.power with under := n } }
    getF s fPTC_INPUT_POWER * 100 ≤ effectiveCap s * 98 ∧ s.power.under + 1 < 10 ∧ getF s fPTC_STAT_CONV_DOWN < 8 ∧
    getF (setF s fPTC_STAT_CONV_DOWN 7) fPTC_STAT_CONV_DOWN = 7 := by decide

theorem witness_OperatingPoints :
    (let s := withF [(fCLU_STATE_PSTATE 511, 0), (fPTC_CFG_THROTTLE_T, 95)]
     pstate s 511 ≠ 3 ∧ dieOfCluster 511 ∉ s.power.hot ∧
     dieReading (readSensor s 511 380) (dieOfCluster 511) = some 380 ∧ throttleT s ≤ 380) ∧
    (let s := modCluster State.reset 511 (fun k => { k with
       enmask := some (2 ^ 199), cur := [(199, List.replicate 3 (300 + 320 * 2 ^ 10 + 340 * 2 ^ 20))] })
     199 ∈ enabledSites s 511 ∧ natBits (siteCur s 511 199) 0 10 = 300) := by decide +kernel

theorem witness_ClusterSleep :
    (let s := core0 id (withF [(fCLU_STATE_PSTATE 0, 0)])
     pstate s 0 = 0 ∧ s.comp.cores.length = 1 ∧
     ∀ p ∈ s.comp.cores, clusterOfCore p.1 = 0 → p.2.strands.all Strand.quiet = true ∧ p.2.ops = []) ∧
    (let s := core0 id (withF [(fCLU_STATE_PSTATE 0, 1), (fPTC_CFG_DEEP_IDLE, 1)])
     pstate s 0 = 1 ∧ clusterIdle s 0 = true ∧ getF s fPTC_CFG_DEEP_IDLE ≠ 0) ∧
    pstate (withF [(fCLU_STATE_PSTATE 511, 2)]) 511 = 2 ∧ pstate (withF [(fCLU_STATE_PSTATE 511, 0)]) 511 = 0 ∧
    pstate (withF [(fCLU_STATE_PSTATE 511, 3)]) 511 = 3 := by decide +kernel

/-! ### Configuration -/

/-- A shadow set of GEN 6 beside the active one. -/
def shadowed (l : List (Field × Nat)) (more : List CfgSection := []) : State :=
  let s := active l more
  { s with cfg := { s.cfg with shadow := some ⟨fieldsOf [(64, 6), (96, 7), (128, 7)], [], 0, 0⟩, wanted := true } }

theorem witness_ConfigurationCommands :
    (∀ n ∈ [1, 3],
      let s := withF [(fCFG_STAT_STAGE, 5)]
      4 < getF s fCFG_STAT_STAGE ∧ getF s fCFG_STAT_STAGE ≠ 0xF ∧ getF s fCFG_STAT_SHADOW = 0 ∧
      getF (setF s fCFG_STAT_SHADOW n) fCFG_STAT_SHADOW = n ∧ 4 ≤ getF (setF s fCFG_STAT_SHADOW n) fCFG_STAT_STAGE) ∧
    (let s := withF [(fCFG_STAT_STAGE, 0xF)]
     4 ≤ getF s fCFG_STAT_STAGE ∧ getF s fCFG_STAT_STAGE = 0xF) ∧
    (let s := withF [(fCFG_STAT_STAGE, 3)]
     getF s fCFG_STAT_STAGE < 4 ∧ s.cfg.warm = false) ∧
    (let s := shadowed [(fCFG_STAT_SHADOW, 5)]
     getF s fCFG_STAT_SHADOW = 5 ∧ swapPhase s = 0 ∧ s.cfg.active.isSome = true) ∧
    (∀ n ∈ [0, 4],
      let s := shadowed [(fCFG_STAT_SHADOW, n)]
      getF s fCFG_STAT_SHADOW ≠ 5 ∧ swapPhase s = 0 ∧ s.cfg.active.isSome = true) ∧
    (let s := shadowed [(fCFG_STAT_SHADOW, 4), (fGLB_TIME_STAT_SERVING, 1)]
     serving s = true ∧ getF s fCFG_STAT_SHADOW = 4 ∧ borderCommit s = false ∧ commitReady s = true ∧ swapPhase s = 0) ∧
    (let s := shadowed [(fCFG_STAT_SHADOW, 4), (fGLB_TIME_STAT_SERVING, 1)]
     let s := { s with cfg := { s.cfg with active := some (imageOf 8 []) } }
     serving s = true ∧ borderCommit s = true) ∧
    (serving State.reset = false ∧ getF State.reset fCFG_STAT_SHADOW ≠ 4) ∧
    (let s := shadowed [(fCFG_STAT_SHADOW, 4)]
     let s := { s with tiers := { s.tiers with evacuating := true } }
     serving s = false ∧ getF s fCFG_STAT_SHADOW = 4 ∧ s.tiers.evacuating = true) := by decide

/-- A load of one image. -/
def loadingImage (l : Loading) (st : Nat) : State :=
  let s := active [(fCFG_STAT_SHADOW, st), (fCFG_STAT_STAGE, 0xD)]
  { s with cfg := { s.cfg with loading := some l, trained := true } }

/-- The smallest image that pass 1 takes: its nine sections are empty, which pass 2 refuses. -/
def image9 : List Byte :=
  leBytes 8832 (fieldsOf ([(0, 0x47465A41), (32, 1), (48, 0xB1), (64, 6), (96, 7), (128, 7), (160, 9), (192, 8832)] ++
    (([1, 2, 3, 4, 5, 6, 8, 9, 10] : List Nat).zipIdx.flatMap (fun p => [(2048 + 128 * p.2, p.1), (2048 + 128 * p.2 + 32, 4096)]))))

theorem witness_ImageLoad_refused :
    (let s := loadingImage ⟨0, 1, 0, 0⟩ 1
     s.cfg.loading = some ⟨0, 1, 0, 0⟩ ∧ s.cfg.active.isSome = true ∧ getF s fCFG_STAT_SHADOW = 1 ∧ [0#8].length = 1 ∧
     (pass1Cause s ⟨0, 1, 0, 0⟩ [0#8]).1 = some 1) ∧
    (Config.sha384 [0#8] ≠ 5 → let l : Loading := ⟨0, 1, 0, 5⟩
      getF (loadingImage l 3) fCFG_STAT_SHADOW = 3 ∧ [0#8].length = l.len ∧ Config.sha384 [0#8] ≠ l.hash) := by
  refine ⟨by decide +kernel, fun h => ⟨by decide, by decide, h⟩⟩

/-- An image that is signed passes pass 1; which signatures verify is not this spec's. -/
theorem witness_ImageLoad_pass1 (h : ∀ c d l k, Config.verifies c d l k = true) :
    let l : Loading := ⟨0, 8832, 0, 0⟩
    let s := loadingImage l 1
    let s := setPad s { s.padlock with fused := [1, 1, 1], digests := [(0, Config.sha384 [])], pairs := [(0, [])] }
    image9.length = l.len ∧ s.cfg.trained = true ∧ (pass1Cause s l image9).1 = none := by
  intro l s0 s
  have h1 : headerFormatOk (leNat image9) l.len = true := by decide +kernel
  have h2 : targetBad s (leNat image9) = false := by decide +kernel
  have h3 : generationBad s (leNat image9) = false := by decide +kernel
  have h4 : imgField (leNat image9) 18 1 = 0 := by decide +kernel
  have h5 : slotUsable s 0 = true := by
    have hp : slotProg s 0 = true := by decide
    have hr : slotRevoked s 0 = false := by decide
    have hd : slotDigestOk s 0 = true := beq_self_eq_true _
    simp [slotUsable, hp, hr, hd]
  have h6 : (image9.drop (l.len - sigBytes)).length == 4736 := by decide +kernel
  have h7 : ((image9.drop (l.len - sigBytes)).drop 4723).all (fun b => b == 0#8) = true := by decide +kernel
  refine ⟨by decide +kernel, by decide, ?_⟩
  simp only [pass1Cause, h1, h2, h3, h4, useSlot, h5, slotVerifies, signedBy, h6, h7, h, Bool.and_self, if_true,
    Bool.not_true, Bool.false_eq_true, if_false]

theorem witness_ImageLoad_pass2 :
    let l : Loading := ⟨0, 1, 0, Config.sha384 [0#8]⟩
    let s := loadingImage l 3
    let i0 := parseImage (leNat [0#8]) l.hash 0
    getF s fCFG_STAT_SHADOW = 3 ∧ [0#8].length = l.len ∧ Config.sha384 [0#8] = l.hash ∧
    ({ i0 with base := shadowBase s i0 } : CfgImage).pending = none ∧ Memory.wf s.tiers.hbm = true ∧
    sectionsFail (leNat [0#8]) { i0 with base := shadowBase s i0 } (imgDir (leNat [0#8])).zipIdx = none := by
  refine ⟨by decide, rfl, rfl, rfl, by decide, rfl⟩

theorem witness_ImageLoad_reload : ∀ k ∈ [0, 511],
    let i := imageOf 7 [section_ 2 [(1, List.replicate 512 (2 ^ 201))]]
    let s := withF [(fCFG_STAT_STAGE, 8)]
    let s := { s with cfg := { s.cfg with active := some i, reloads := [k], loading := some ⟨0, 1, 0, 0⟩ } }
    s.cfg.active = some i ∧ k ∈ s.cfg.reloads ∧ 8 ≤ getF s fCFG_STAT_STAGE ∧ i.role k ≠ 0 := by decide +kernel

/-! ### Resets and stages -/

theorem witness_ResetsLeave :
    (let s := active [(fCFG_STAT_STAGE, 0xD)]
     s.cfg.active.isSome = true ∧ getF s fGLB_FAULT_STAT_PHASE = 0 ∧ getF s fCFG_STAT_STAGE ≠ 0xF ∧
     inTransition s = false ∧ serving s = false) ∧
    (let s := { State.reset with power := { State.reset.power with lost := true } }
     s.power.lost = true ∧ s.power.tripped = false) := by decide

/-- The shortest firmware copy, SVN 2. -/
def firmware0 : List Byte := leBytes 7489 (fieldsOf [(0, 0x57465A41), (32, 1), (48, 2), (96, 7489)])

/-- A copy of that firmware is accepted. -/
theorem fwOk_firmware0 (h : ∀ c d l k, Config.verifies c d l k = true)
    (hr : Config.sha384 ((firmware0.drop 64).take 2689) = Config.fwRoot) (s : State)
    (hs : decide (voteList s.padlock.svn ≤ 2) = true) : fwOk s firmware0 = true := by
  have h1 : fwSVN firmware0 = 2 := by decide +kernel
  have h2 : (natBits (leNat (firmware0.take 64)) 0 32 == 0x57465A41 && natBits (leNat (firmware0.take 64)) 32 16 == 1
    && natBits (leNat (firmware0.take 64)) 56 8 == 0 && natBits (leNat (firmware0.take 64)) 96 32 == firmware0.length
    && natBits (leNat (firmware0.take 64)) 128 384 == 0 && decide (64 + 2689 + sigBytes ≤ firmware0.length)) = true := by
    decide +kernel
  have h3 : ((firmware0.drop (firmware0.length - sigBytes)).length == 4736 &&
    ((firmware0.drop (firmware0.length - sigBytes)).drop 4723).all (fun b => b == 0#8)) = true := by decide +kernel
  simp only [Bool.and_eq_true] at h2 h3
  simp only [fwOk, signedBy, h1, h2.1.1.1.1.1, h2.1.1.1.1.2, h2.1.1.1.2, h2.1.1.2, h2.1.2, h2.2, h3.1, h3.2, hr, h, hs,
    beq_self_eq_true, Nat.reduceLeDiff, decide_true, Bool.and_self]

/-- Firmware whose keys have the fused digest and whose signatures verify is accepted: either copy. -/
theorem witness_StartUpStages_firmware (h : ∀ c d l k, Config.verifies c d l k = true)
    (hr : Config.sha384 ((firmware0.drop 64).take 2689) = Config.fwRoot) :
    let s := withF [(fCFG_STAT_STAGE, 1)]
    let s := { s with time := { s.time with refclk := true } }
    let a := setPad s { s.padlock with nor := [(0, firmware0), (1, [])] }
    let b := setPad s { s.padlock with nor := [(0, []), (1, firmware0)] }
    getF a fCFG_STAT_STAGE = 1 ∧ a.time.refclk = true ∧ fwOk a (norCopy a 0) = true ∧
    getF b fCFG_STAT_STAGE = 1 ∧ fwOk b (norCopy b 0) = false ∧ fwOk b (norCopy b 1) = true := by
  intro s0 s a b
  have ha : norCopy a 0 = firmware0 := rfl
  have hb : norCopy b 1 = firmware0 := rfl
  have h0 : norCopy b 0 = [] := rfl
  refine ⟨by decide, by decide, by rw [ha]; exact fwOk_firmware0 h hr a (by decide), by decide, ?_,
    by rw [hb]; exact fwOk_firmware0 h hr b (by decide)⟩
  rw [h0]
  simp only [fwOk, show (natBits (leNat (([] : List Byte).take 64)) 0 32 == 0x57465A41) = false by decide, Bool.false_and]

theorem witness_StartUpStages_others :
    (let s := withF [(fCFG_STAT_STAGE, 3)]
     getF s fCFG_STAT_STAGE = 3 ∧ s.power.lost = false ∧ inTransition s = false) ∧
    (let s := active [(fCFG_STAT_SHADOW, 2)]
     let s := { s with cfg := { s.cfg with loading := some ⟨0, 1, 0, 0⟩ } }
     s.cfg.trained = false ∧ getF s fCFG_STAT_SHADOW = 2 ∧ s.cfg.active.isSome = true ∧ getF s fCFG_STAT_STAGE ≠ 0xF ∧
     s.cfg.loading = some ⟨0, 1, 0, 0⟩) ∧
    (∀ n ∈ [1, 2, 5], startHeld (active [(fGLB_FAULT_STAT_PHASE, n)]) = true) ∧
    (∀ n ∈ [9, 0xA, 0xB],
      let s := active [(fCFG_STAT_STAGE, n)]
      startHeld s = false ∧
      let s := { s with cfg := { s.cfg with warm := true } }
      getF s fCFG_STAT_STAGE = n ∧ (∀ p ∈ s.fab.ports, p.2.phase ≠ .training) ∧ s.cfg.active.isSome = true ∧
      s.cfg.warm = true) ∧
    (let s := setF (loading fetch0) fCFG_STAT_STAGE 0xC
     let s := { s with hinge := { s.hinge with verified := [shardMark 0 0] } }
     getF s fCFG_STAT_STAGE = 0xC ∧ heldShards s 0 = [0] ∧ allVerified s 0 = true ∧ s.assay.held = [] ∧
     swapPhase s ≠ 4 ∧ stopped s = false) := by decide +kernel

theorem witness_PowerAndDieLoss :
    State.reset.power.tripped = false ∧ State.reset.power.lost = false ∧ bitF State.reset fPTC_TRIP_TRIPPED = false ∧
    ({ State.reset with power := { State.reset.power with tripped := true } } : State).power.tripped = true ∧
    (∀ d < 3, d + 1 ∉ State.reset.fault.lostGw) := by decide

/-! ### Steps, launches and buckets -/

/-- A serving package with a lane 0. -/
def laned (l : Lane) (more : List (Field × Nat) := []) : State :=
  let s := active ((fGLB_TIME_STAT_SERVING, 1) :: more)
  { s with warden := { s.warden with lanes := [(0, l)] } }

/-- An exchange of lane 0. -/
def exchange (sender step : Nat) : StepExchange := ⟨0, step, sender, 0, 0, 5, [], [], 0, 0⟩

theorem witness_StepsAndBoundaries_exchange :
    (let s := laned { Lane.empty with step := 8, exch := [exchange 7 8] }
     serving s = true ∧ stopped s = false ∧ 7 ∈ members s ∧
     (∀ y ∈ (getLane s 0).exch, y.sender ≠ 7 ∨ y.step ≠ 9) ∧
     (∃ y ∈ (getLane s 0).exch, y.sender = 7 ∧ y.step = 8) ∧
     allExchanged s 0 = true ∧ earlierLane s 0 = false ∧ batchMissing s (boundaryTime s 0) = false ∧ stopped (digestCheck s 0) = false) ∧
    (let s := laned { Lane.empty with step := 8 }
     (getLane s 0).step ≠ 0 ∧ (getLane s 0).sent = false ∧ launchesDone s 0 8 = true ∧
     (∀ y ∈ (getLane s 0).exch, y.sender ≠ ownPkg s ∨ y.step ≠ 8)) ∧
    (let s := laned { Lane.empty with step := 8, sent := true }
     (getLane s 0).step ≠ 0 ∧ (getLane s 0).sent = true ∧
     (members s).find? (fun p => !(getLane s 0).now.any (fun x => x.sender == p)) = some 7) ∧
    (let s := laned Lane.empty
     let s := { s with cfg := { s.cfg with resume := some 5000 } }
     s.cfg.resume = some 5000 ∧ batchMissing s 5000 = false) := by decide +kernel

theorem witness_LaunchesAndBuckets_idle :
    let s := { active [] with ward := { Ward.empty with batches := [⟨1, 0, 0, []⟩] } }
    serving s = false ∧ getF s fGLB_FAULT_STAT_PHASE = 0 ∧ nextHeld s = some ⟨1, 0, 0, []⟩ ∧ 0 ≤ s.now := by decide

/-- Entry point 0 of table set 0: strand 0 starts at entry 3, the others stay IDLE. -/
def entryPoint0 : Nat := 3 + 2 ^ 11

/-- A Decode cluster whose table set has an entry point `r`, a step of lane 0 in flight, and cores with work. -/
def launching (r p : Nat) (cores : List (Nat × Core)) : State :=
  let s := laned { Lane.empty with step := 8 } [(fCLU_STATE_PSTATE 0, p)]
  let i := imageOf 7 [section_ 2 [(1, [fieldsOf [(201, 1)]])], section_ 3 [(3, [r])]]
  { s with cfg := { s.cfg with active := some i }, comp := { s.comp with cores := cores } }

/-- The first launch of a step on a cluster and a later one, in RUN and in DOZE, under a tenant and under SYS; core 1 has an
operation of an earlier step that raises a cluster latch. -/
theorem witness_LaunchesAndBuckets_launch : ∀ p ∈ [0, 1], ∀ r ∈ [entryPoint0, entryPoint0 + 2 ^ 512],
    ∀ k ∈ [{ Core.empty with ops := [⟨4, 0, 0, some (true, 2), none, 0, false, .done, none⟩] },
      { Core.empty with launch := some { launch0 with step := 8 } }],
    let s := launching r p [(1, k)]
    let sp : LaunchSpec := ⟨0, 0, 0, 0, [], (4, 2), [⟨1, 0, 0, []⟩], [], []⟩
    let l := getLane s sp.lane
    launchRecord s 0 sp = some r ∧ serving s = true ∧ stopped s = false ∧ sp.lane < 3 ∧ l.step ≠ 0 ∧ l.sent = false ∧
    pstate s 0 ≠ 3 ∧ coreFree (getCore s 0) = true ∧ swapPhase s ≠ 4 ∧ roleOk s 0 0 = true ∧ rowsOk s 0 r l sp = true ∧
    headsOk s 0 l sp = true ∧ shardsOk s 0 r l.step sp = true ∧ presetsOk s 0 r l.step sp = true ∧ streamsOk s sp = true ∧
    natBits r 11 1 = 1 ∧ natBits r 23 1 = 0 ∧ (launchSys s 0 r = true ↔ r ≠ entryPoint0) ∧ clusterOfCore 1 = 0 ∧
    (clusterLaunches s 0 sp.lane l.step = [] ↔ k.launch = none) := by decide +kernel

/-- A request of core 0's operation 4 that waits for `n` bytes of bucket 639. -/
def waiting (n : Nat) (reqs : List LoanReq) : HeldReq := ⟨.coreOp 0 4, 3, n, true, reqs⟩

/-- Bucket 639 with what it holds: its class is unpoliced, or has one KiB. -/
def bucket639 (rate : Nat) (held : List HeldReq) : State :=
  let s := withF [(fWDN_BWC_FAB_RATE 15, rate), (fWDN_BWC_FAB_DEPTH 15, 1)]
  { s with warden := { Warden.empty with buckets := [(639, ⟨0, held⟩)] } }

theorem witness_LaunchesAndBuckets_bucket :
    (∀ rate ∈ [0, 1], ∀ held ∈ [[waiting 1 []], [waiting 1024 [], waiting 1 []], [waiting 1 [], waiting 1023 [], waiting 1 []]],
      let s := bucket639 rate held
      (getBucket s 639).held = held ∧ (∀ h ∈ held, h.reqs = []) ∧ (bucketPoliced s 639 = true ↔ rate = 1) ∧
      bucketDepth s 639 = 1024) ∧
    (∀ rate ∈ [0, 1],
      let h := waiting 64 [⟨0, .none, 0, opREAD, 1, 0, []⟩]
      let s := bucket639 rate [h]
      (getBucket s 639).held = [h] ∧ bucketDepth s 639 ≠ 0 ∧ (bucketPoliced s 639 = false ↔ rate = 0)) := by decide

/-! ### Faults and recovery -/

theorem witness_FaultsStopThePackage :
    (0xFFFF : Nat) < 2 ^ 16 ∧ stopped State.reset = false ∧
    (let s := withF [(fGLB_FAULT_STAT_PHASE, 1), (fGLB_FAULT_STAT_OWN, 1)]
     let s := { s with fault := { s.fault with graceEnd := false } }
     stopped s = true ∧ getF s fGLB_FAULT_STAT_OWN = 1 ∧ s.fault.graceEnd = false ∧ (1 : Nat) ≠ 0x0007 ∧ (1 : Nat) ≠ 0x0100) := by
  decide

/-- A stopped package. -/
def halted (l : List (Field × Nat)) (f : FaultSt → FaultSt) : State :=
  let s := active ((fGLB_FAULT_STAT_PHASE, 1) :: l)
  { s with fault := f { s.fault with windowEnd := false, graceEnd := false } }

theorem witness_RecoveryCommands :
    (getF State.reset fGLB_FAULT_STAT_EPISODE < 1 ∧ 0 ∉ State.reset.fault.lostGw ∧ stopped State.reset = false ∧
      0 ≤ getF State.reset fGLB_FAULT_STAT_EPISODE) ∧
    (stopped (halted [] id) = true ∧ (halted [] id).fault.graceEnd = false ∧ (halted [] id).fault.want = none ∧
      (halted [] id).fault.windowEnd = false) ∧
    (∀ p ∈ [(0, 0), (2, 1)],
      let s := halted [(fGLB_DUMP_STAT_STATE 0, p.1)] (fun f => { f with want := some 1 })
      s.fault.want = some 1 ∧ chooseSlot s = some p.2 ∧ p.2 < 2) ∧
    (∀ n < 2,
      let x : DumpSlot := ⟨1, 4, 1, 0, []⟩
      let s := halted [] (fun f => { f with dumping := [(n, 1)], slots := [(n, x)] })
      tabFind s.fault.dumping n = some 1 ∧ (1 : Nat) ≠ 2 ∧ tabFind s.fault.slots n = some x) ∧
    (let s := halted [(fGLB_FAULT_STAT_PHASE, 2)] (fun f => { f with dumped := true, windowEnd := true, graceEnd := true })
     getF s fGLB_FAULT_STAT_PHASE = 2 ∧ s.fault.dumped = true ∧ s.fault.windowEnd = true ∧ s.fault.graceEnd = true ∧
     s.cfg.active.isSome = true ∧ getF s fCFG_STAT_STAGE ≠ 0xF) ∧
    (let v : Word := 1
     natBits v.toNat 0 1 = 1 ∧ natBits v.toNat 1 1 = 0 ∧ dumpState (withF [(fGLB_DUMP_STAT_STATE 0, 3)]) 0 = 3) := by
  decide

/-! ### Host queues and the endpoint -/

/-- Queue 63 of function 63 with its ring sizes at 4,096 entries. -/
def queue63 (h : HostQueue) (en : Nat) (l : List (Field × Nat) := []) : State :=
  let s := withF ((fGLB_Q_CFG_EN 63 63, en) :: (fGLB_Q_CFG_SQ_LOG 63 63, 8) :: (fGLB_Q_CFG_CQ_LOG 63 63, 8) :: l)
  setHQ s 63 63 h

theorem witness_HostQueues :
    getF (queue63 .reset 1) (fGLB_Q_CFG_EN 63 63) = 1 ∧ getF (queue63 .reset 0) (fGLB_Q_CFG_EN 63 63) ≠ 1 ∧
    (getHQ (queue63 { HostQueue.reset with owed := 1 } 0) 63 63).owed ≠ 0 ∧ (getHQ (queue63 .reset 0) 63 63).owed = 0 ∧
    natBits (0x1FF : Word).toNat 8 1 = 1 ∧ ¬ natBits (0x1FF : Word).toNat 0 4 ≤ 8 ∧ natBits (0x188 : Word).toNat 0 4 ≤ 8 ∧
    (let h := getHQ (queue63 { HostQueue.reset with resetAt := true } 1) 63 63
     h.resetAt = true ∧ h.owed = 0) ∧
    (let s := withF [(fGLB_EQ_CFG_EN 63, 1), (fGLB_EQ_CFG_LOG 63, 0)]
     getF s (fGLB_EQ_CFG_EN 63) = 1 ∧ (15 : Word).toNat % 4096 < ringSize (getF s (fGLB_EQ_CFG_LOG 63)) ∧
     getF State.reset (fGLB_EQ_CFG_EN 63) = 0 ∧ natBits (0x10 : Word).toNat 4 1 = 1) ∧
    (let s := queue63 { HostQueue.reset with tail := 1, owed := 4094 } 1
     let h := getHQ s 63 63
     h.resetAt = false ∧ (4095 : Word).toNat % 4096 < ringSize (getF s (fGLB_Q_CFG_SQ_LOG 63 63)) ∧
     (4095 : Word).toNat % 4096 < ringSize (getF s (fGLB_Q_CFG_CQ_LOG 63 63)) ∧ h.stopped = false ∧ h.head ≠ h.tail ∧
     stopped s = false ∧ getF s fCFG_STAT_STOPPING = 0 ∧
     getF (queue63 .reset 1 [(fCFG_STAT_STOPPING, 1)]) fCFG_STAT_STOPPING = 1 ∧ h.owed + h.unread + 1 < ringSize (getF s (fGLB_Q_CFG_CQ_LOG 63 63))) ∧
    (let s := setF (queue63 .reset 1) (fGLB_Q_CFG_SQ_LOG 63 63) 0
     getF s (fGLB_Q_CFG_EN 63 63) = 1 ∧ ringSize (getF s (fGLB_Q_CFG_SQ_LOG 63 63)) ≤ (16 : Word).toNat % 4096) ∧
    (∀ n ∈ [1, 4], 1 ≤ (BitVec.ofNat 512 n).toNat % 256 ∧ (BitVec.ofNat 512 n).toNat % 256 ≤ 4) := by decide +kernel

theorem witness_EndpointEvents :
    (63 * 128 + 65 ∈ ({ State.reset with host := { HostIf.empty with msixPend := [63 * 128 + 65] } } : State).host.msixPend) ∧
    (let s := active [] [section_ 1 [(1, [fieldsOf [(0, 0xA), (8, 1), (32, 4), (64, 1)]])]]
     getF s (fGLB_BAR2_BASE_BASE 0) = 0 ∧ hostVisible s (5 * 0x200000 - 8) 8 = true ∧
     hostVisible s (5 * 0x200000 - 7) 8 = false ∧ hostVisible s (4 * 0x200000 - 1) 8 = false ∧
     hostVisible s (4 * 0x200000) [1#8].length = true ∧ Memory.wf s.tiers.hbm = true) := by decide

/-! ### RoCE, PTP and time -/

/-- Queue pair 16383, VALID, port 3, key 9, with rings of 16. -/
def pair (p : QPair) : State :=
  let s := active []
  { s with host := { s.host with qpEntry := [(16383, fieldsOf [(0, 1), (1, 3), (192, 9)])], qps := [(16383, p)] } }

theorem witness_RocePairs :
    (let s := pair .reset
     let e := qpEntry s 16383
     qpValid s 16383 = true ∧ (getQP s 16383).err = false ∧ natBits e 192 32 ≠ 8 ∧ natBits e 192 32 = 9 ∧
     0x4040 < 0x4040 + [1#8].length ∧ (getQP s 16383).lastCnp = none ∧ (16320 : Nat) = 64 * 255 ∧
     (leBytes 64 4).length = 64 ∧ leNat (leBytes 64 4) % 256 = 4 ∧ stopped s = false ∧
     getF s fCFG_STAT_STOPPING = 0 ∧ getF (setF s fCFG_STAT_STOPPING 1) fCFG_STAT_STOPPING = 1 ∧
     qpValid (setF s fCFG_STAT_STOPPING 1) 16383 = true ∧ ethLost s 3 = false ∧ qpPort s 16383 = 3 ∧
     ethLost { s with fault := { s.fault with lostGw := [3] } } 3 = true ∧
     (leBytes 63 4).length < 64 ∧ (leBytes 8 4095).length = 8) ∧
    (let s := pair { QPair.reset with lastCnp := some 0, owed := 14 }
     (getQP s 16383).lastCnp = some 0 ∧ s.now < 0 + 50000 ∧
     (getQP s 16383).owed + qpUnread s 16383 + 1 < ringSize (natBits (qpEntry s 16383) 320 4)) ∧
    (∀ n ∈ [0, 6, 7],
      let p := getQP (pair { QPair.reset with retries := n, ackPsn := 5 }) 16383
      (if p.ackPsn = 5 then p.retries else 0) = n) ∧
    (let s := pair { QPair.reset with err := true }
     let w := BitVec.ofNat 64 (16383 + 2 ^ 14)
     (getQP s 16383).err = true ∧ inWarm s = false ∧ w.toNat % 2 ^ 14 = 16383 ∧ natBits w.toNat 14 1 = 1) := by
  decide +kernel

/-- The time base at a device time. -/
def atTime (ns : Nat) (l : List (Field × Nat)) : State :=
  let s := withF l
  { s with time := { s.time with ticks := ns * 5 / 2, firstEdge := false } }

theorem witness_PtpAndTime :
    (inWarm State.reset = false ∧ natBits (0x400 : Word).toNat 10 1 = 1 ∧ getF State.reset (fETH_PTP_TXCTL_BUSY 3) ≠ 1 ∧
      ethLost State.reset 3 = false ∧
      ethLost { State.reset with fault := { State.reset.fault with lostGw := [3] } } 3 = true) ∧
    (∀ t ∈ [0, 1],
      let s := withF [(fETH_PTP_TXCTL_BUSY 3, 1), (fETH_PTP_TXCTL_TS 3, t)]
      ethLost s 3 = false ∧ getF s (fETH_PTP_TXCTL_BUSY 3) = 1 ∧ getF s (fETH_PTP_TXCTL_TS 3) = t) ∧
    (∀ n ∈ [15, 16],
      let s := { State.reset with host := { HostIf.empty with ptpRx := [(3, List.replicate n ⟨[], 0, false⟩)] } }
      ethLost s 3 = false ∧ (tabGet [] s.host.ptpRx 3).length = n) ∧ natBits (0x4000 : Word).toNat 14 1 = 1 ∧
    (∀ p ∈ [(1000, true), (1002, false), (999999000, true), (999998998, false)],
      let s := atTime p.1 []
      (s.time.firstEdge = true ∨ (-1000 ≤ edgeError s.now ∧ edgeError s.now ≤ 1000)) ↔ p.2 = true) ∧
    (let s := atTime 0 [(fGLB_TIME_NEXT_ARM, 1), (fGLB_TIME_NEXT_VALUE, 2000000000)]
     getF s fGLB_TIME_NEXT_ARM = 1 ∧ getF s fGLB_TIME_NEXT_VALUE % 2 = 0) ∧
    (∀ e ∈ [(100, true), (102, false)],
      (-100 ≤ edgeError (atTime e.1 []).now ∧ edgeError (atTime e.1 []).now ≤ 100) ↔ e.2 = true) ∧
    State.reset.time.refclk = true ∧
    (let w := BitVec.ofNat 64 (2 ^ 63 + 1000000000)
     w.toNat % 2 ^ 63 % 1000000000 = 0 ∧ w.toNat / 2 ^ 63 = 1 ∧ getF State.reset fGLB_TIME_STAT_SERVING = 0 ∧
     getF (withF [(fGLB_TIME_STAT_SERVING, 1)]) fGLB_TIME_STAT_SERVING = 1 ∧ (1 : Word).toNat % 2 ^ 63 % 1000000000 ≠ 0) := by
  decide +kernel

/-! ### Padlock, test port and attestation -/

/-- The island with an operation waiting. -/
def island (op : Nat) (f : Padlock → Padlock) : State :=
  setPad State.reset (f { Padlock.empty with queue := [⟨op, 0, 0x5A3C, 0, []⟩] })

/-- Slots 0 and 1 hold pairs of their fused digests. -/
def keyed (op prog : Nat) : State :=
  island op (fun p => { p with
    fused := [prog, prog, prog], digests := [(0, Config.sha384 []), (1, Config.sha384 [])], pairs := [(0, []), (1, [])] })

theorem keyed_usable : slotUsable (keyed 2 5) 1 = true ∧ slotUsable (keyed 3 1) 0 = true := by
  have h1 : slotProg (keyed 2 5) 1 = true := by decide
  have h2 : slotRevoked (keyed 2 5) 1 = false := by decide
  have h3 : slotProg (keyed 3 1) 0 = true := by decide
  have h4 : slotRevoked (keyed 3 1) 0 = false := by decide
  have h5 : slotDigestOk (keyed 2 5) 1 = true := beq_self_eq_true (Config.sha384 [])
  have h6 : slotDigestOk (keyed 3 1) 0 = true := beq_self_eq_true (Config.sha384 [])
  simp [slotUsable, h1, h2, h3, h4, h5, h6]

theorem witness_PadlockCommands_slots :
    (getF State.reset fPDL_STAT_BUSY ≠ 1 ∧ getF (withF [(fPDL_STAT_BUSY, 1)]) fPDL_STAT_BUSY = 1) ∧
    (let s := island 1 id
     lifeCode s = 0x5A5A ∧ slotProg s 3 = false ∧ (List.replicate 2689 0#8).length = 2689) ∧
    lifeCode (island 1 (fun p => { p with life := [0, 0, 0] })) ≠ 0x5A5A ∧
    (lifeCode (keyed 2 5) ≠ 0x6996 ∧ ∃ m, m ≠ 0 ∧ slotUsable (keyed 2 5) m = true) ∧
    (∀ m, slotUsable (keyed 2 1) m = true → m = 0) ∧ (lifeCode (keyed 3 1) = 0x5A5A ∧ ∃ m, slotUsable (keyed 3 1) m = true) := by
  refine ⟨by decide, by decide +kernel, by decide, ⟨by decide, 1, by decide, keyed_usable.1⟩, ?_, by decide, 0,
    keyed_usable.2⟩
  intro m h
  have h0 : m < 4 ∧ slotProg (keyed 2 1) m = true := by
    simp only [slotUsable, Bool.and_eq_true, decide_eq_true_eq] at h
    exact ⟨h.1.1.1, h.1.1.2⟩
  have h1 : ∀ n < 4, slotProg (keyed 2 1) n = true → n = 0 := by decide
  exact h1 m h0.1 h0.2

theorem witness_PadlockCommands_states :
    lifeCode (island 4 (fun p => { p with life := [0xA5A5, 0xA5A5, 0] })) = 0xA5A5 ∧
    (let s := island 5 (fun p => { p with life := [0xA5A5, 0xA5A5, 0xA5A5] })
     lifeCode s = 0xA5A5 ∧ (0x5A3C : Nat) = 0x5A3C ∧ serving s = false) ∧ lifeCode (island 5 id) ≠ 0xA5A5 ∧
    (let s := setF (island 7 id) fGLB_TIME_STAT_SERVING 1
     debugCode s = 0x0F0F ∧ serving s = true) ∧
    debugCode (island 8 id) ≠ 0xF0F0 ∧
    (let s := island 8 (fun p => { p with debug := [0xF0F0, 0xF0F0, 0xF0F0] })
     debugCode s = 0xF0F0 ∧ lifeCode s ≠ 0x6996 ∧ serving s = false) ∧
    (∀ d ∈ [0x33CC, 0xCC33],
      let s := setPad (withF [(fCFG_STAT_STAGE, 3)]) { Padlock.empty with debug := [d, d, d] }
      let s := { s with cfg := { s.cfg with trained := true } }
      inTransition s = true ∧ cfgStage s = 3 ∧ s.cfg.trained = true) ∧
    inTransition State.reset = false := by decide

theorem witness_TestPortAndAttestation :
    State.reset.padlock.queue = [] ∧
    (∀ p ∈ [(1, true), (4, true), (5, false), (15, false)], extestOk (withF [(fCFG_STAT_STAGE, p.1)]) = p.2) ∧
    debugOpen (setPad State.reset { Padlock.empty with debug := [0xF0F0, 0xF0F0, 0] }) = true ∧
    debugOpen State.reset = false ∧
    (∀ p ∈ [(1, false), (2, false), (3, true)], endpointUp (withF [(fCFG_STAT_STAGE, p.1)]) = p.2) ∧
    (15 : Fin 16) ≠ 0 ∧ (5 : Nat) ≤ 5 ∧ (255 : Nat) = 255 := by decide

/-! ### BAR0 -/

theorem witness_RegisterAccess :
    (1 % 8 ≠ 0 ∧ 134217727 % 8 ≠ 0) ∧
    (∀ o ∈ [0x28, 0x7FF8, 0x8840, 134217720],
      o % 8 = 0 ∧ ¬ (0x8000 ≤ o ∧ o < 0x8840) ∧ 0x28 ≤ o ∧ o ≠ rGLB_TIME ∧ o ≠ rPDL_CMD ∧ o ≠ rPDL_CMD_ADDR) ∧
    (let s := { withF [(fCFG_STAT_STAGE, 7)] with cfg := { Cfg.empty with warm := true } }
     rWRD_ERR % 8 = 0 ∧ regSpecOf rWRD_ERR ≠ none ∧ inWarm s = true ∧ warmBlock rWRD_ERR = true) ∧
    (134217720 % 8 = 0 ∧ regSpecOf 134217720 = none) ∧ 0x8010 + 0x20 * 63 < 134217728 ∧ rPTC_CAP < 134217728 ∧
    rPDL_CMD_ADDR < 134217728 ∧ rGLB_ERR < 134217728 ∧
    getF State.reset fGLB_ERR_INFO_VALID = 0 ∧ getF (withF [(fGLB_ERR_INFO_VALID, 1)]) fGLB_ERR_INFO_VALID = 1 ∧
    (let s := setPad State.reset { Padlock.empty with svn := [3, 1, 65] }
     tripleCopies s .svn = ([3, 1, 65], 0, 7) ∧ [3, 1, 65].length = 3) ∧
    tripleCopies State.reset .debug = ([0x0F0F, 0x0F0F, 0x0F0F], 0, 16) := by decide +kernel

/-! ### Telemetry, management and console -/

/-- The telemetry with part of its state, and some fields. -/
def traced (l : List (Field × Nat)) (f : Tel → Tel) : State :=
  let s := withF l
  { s with tel := f s.tel }

theorem witness_TelemetryAndTrace :
    tabHas State.reset.tel.filling 0 = false ∧ tabHas (traced [] (fun t => { t with filling := [(0, [])] })).tel.filling 0 = true ∧
    (let s := traced [] (fun t => { t with filling := [(1, [(3, 1)])], snapReq := some 8 })
     tabFind s.tel.filling 1 = some [(3, 1)] ∧ s.tel.snapReq = some 8) ∧
    getF State.reset fTEL_SRING_CFG_EN = 0 ∧ getF (withF [(fTEL_SRING_CFG_EN, 1)]) fTEL_SRING_CFG_EN = 1 ∧
    (let s := traced [(fTEL_TRACE_CTL_EN, 1), (fTEL_TRACE_CTL_GROUPS, 1)] (fun t => { t with lastSync := some 8388608 })
     traceEmits s 0x1FF 0x10 = true ∧ (0x10 : Nat) ≠ 0x01 ∧ (0x10 : Nat) ≠ 0x1F ∧ traceOpen s = true ∧
     traceDelta s 0 = some (-8388608) ∧ traceDelta s 16777215 = some 8388607 ∧ s.tel.trace.length < traceDepth) ∧
    (let s := withF [(fTEL_TRACE_CTL_EN, 0), (fTEL_TRACE_CTL_GROUPS, 0)]
     traceEmits s 0x1FF 0x10 = false ∧ traceOpen s = false ∧ traceEmits s 0x231 0x10 = true) ∧
    (let s := traced [(fTEL_TRACE_CTL_MODE, 2), (fTEL_TRACE_STAT_WPTR, 4095)] (fun t => { t with trace := [1, 2] })
     getF s fTEL_TRACE_CTL_MODE = 2 ∧ traceFrozen s = false ∧
     min s.tel.trace.length (traceRing s - (4095 + 2 ^ 32 - getF s fTEL_TRACE_RPTR_RPTR) % 2 ^ 32) = 1) := by decide

theorem witness_ManagementAndConsole :
    (let s := withF [(fCFG_STAT_STAGE, 3)]
     endpointUp s = true ∧ s.tel.i3cAddr = none ∧ s.tel.snapReq ≠ some 8 ∧ (0xFE : Nat) ≠ 0 ∧ (0xFE : Nat) ≠ 0xFF ∧
     tabHas s.tel.filling 1 = false ∧ s.tel.rxFifo.length < 64 ∧ debugOpen s = false) ∧
    (let s := traced [(fCFG_STAT_STAGE, 3)] (fun t => { t with eid := 0xFE, snapReq := some 8 })
     endpointUp s = true ∧ s.tel.eid ≠ 0 ∧ 0xFE = s.tel.eid ∧ s.tel.snapReq = some 8) ∧
    sensorReading State.reset 10 = some 0 ∧ sensorReading State.reset 6 = none ∧ fwOk State.reset [] = false ∧
    (rGLB_ERR % 8 = 0 ∧ rGLB_ERR < 0x8000 ∧ regSpecOf rGLB_ERR ≠ none ∧ rGLB_ERR ≠ rGLB_TIME ∧
      regSpecOf 134217720 = none) ∧
    (let s := active [(fGLB_DUMP_STAT_STATE 1, 2)] [section_ 1 [(1, [fieldsOf [(0, 0xB), (32, 4), (64, 1)]])]]
     2 ≤ dumpState s 1 ∧ dumpPlace s 1 = some (4 * 0x200000, 0x200000) ∧ 0x200000 - 1024 + 1024 ≤ 0x200000 ∧
     dumpState s 0 < 2) ∧
    debugOpen (setPad State.reset { Padlock.empty with debug := [0xF0F0, 0, 0xF0F0] }) = true := by
  decide +kernel

/-! ### The router -/

/-- Layer 0: two experts, K 1, CF 16, one element a row, in FP16 and out FP32; its map at HBM address 0. -/
def layer0 : Nat := fieldsOf [(0, 1), (14, 16), (21, 1), (35, 2), (43, 1)]

/-- Core 0 with an entry, and layer 0 whose expert 0 is this package's, engine 0. -/
def routing (e : Entry) (a x : List Nat) (sram : Mem) : State :=
  let s := paged true (ready e a x)
  { s with
    cfg := { Cfg.empty with active := some (imageOf 7 [section_ 4 [(2, [layer0])]]) }
    tiers := { s.tiers with hbm := [(0, 7#8)] }
    comp := { s.comp with sram := sram } }

/-- The state has no poison and its SRAM is in canonical form. -/
def clean (s : State) : Bool :=
  s.comp.sramPoison == [] && s.tiers.hbmPoison == [] && s.tiers.loanPoison == [] && s.flash.poison == [] &&
  Memory.wf s.comp.sram

/-- Tenant 1's mapped page, as an address register holds its base. -/
def dvBase : Nat := 2 * 2 ^ 57 + 2097152

theorem witness_RouterEntries_select : ∀ f ∈ [0, 1, 2, 3],
    let e := entry [(0, 0x70), (39, 1), (42, 2), (45, f), (47, 1), (59, 8)]
    let s := routing e [0, 64, 128] [0, 1] []
    clean s = true ∧ issues s 0 0 0x70 e = true ∧ xselectFaults 0 0 s e = [] ∧ xselCount s 0 0 e = 1 ∧
    (selectToken 1 (if flag e 45 then some [0, 0] else none) (flag e 46) [0, 0]).1.isSome = true := by decide +kernel

theorem witness_RouterEntries_dispatch : ∀ p ∈ [(0, []), (1, []), (1, [(5, 4#8)])],
    let e := entry [(0, 0x71), (39, 1), (42, 2), (45, 3), (48, 4), (51, 1), (73, 16)]
    let s := routing e [0, 64, dvBase, 128, dvEnd] [0, p.1] p.2
    let r := layerRec s (xdLayer e)
    let d : Dispatch := ⟨0, nextId s 0, 0, 1, xdCount s 0 0 e, lyK r, getA s 0 0 0, getA s 0 0 2, getA s 0 0 3, getA s 0 0 4,
      16, 0, false, []⟩
    clean s = true ∧ issues s 0 0 0x71 e = true ∧ xdispatchFaults 0 0 s e = [] ∧ xdispatchBusy 0 0 s e = false ∧ d.ctx = ctxOf s 0 0 ∧
    xdXlat (advance s 0 0) d r = .ok ∧ (∀ t < xdCount s 0 0 e, nanToken s d t = false) ∧
    ((List.range (xdCount s 0 0 e)).flatMap (tokenClaims s d 64)).length = p.2.length := by decide +kernel

/-- The group of step 1's layer 0 at engine 0, decided, with one grant of one claim. -/
def claim0 : Claim := ⟨9, 1, 3, 0, 0x3F800000, 3, 64⟩

def granted0 : OwnGroup := ⟨1, 0, [claim0], [], true, 1, [⟨0, [claim0], [], false⟩]⟩

/-- Gateway die 0 lost: engine 0 with it, and Ethernet port 0. -/
def without0 (s : State) : State := { s with fault := { s.fault with lostGw := [0] } }

/-- Each of the four waits while its engine is lost, and while a page that it touches is held. -/
theorem witness_RouterEntries_waits : ∀ f ∈ [without0, heldPage],
    (let e := entry [(0, 0x71), (39, 1), (42, 2), (45, 3), (48, 4), (51, 1), (73, 16)]
     let s := f (routing e [0, 64, dvBase, 128, dvEnd] [0, 1] [(5, 4#8)])
     issues s 0 0 0x71 e = true ∧ xdispatchBusy 0 0 s e = true) ∧
    (let e := entry [(0, 0x72), (39, 1), (43, 2), (47, 3), (51, 4)]
     let s := f (routing e [dvBase] [0, 0, 1, 0] [])
     let s := { s with router := { s.router with engines :=
       [(0, { Engine.empty with own := [granted0] })] } }
     issues s 0 0 0x72 e = true ∧ xreturnBusy 0 0 s e = true) ∧
    (let e := entry [(0, 0x73), (39, 1), (42, 2), (45, 3), (48, 1), (52, 2), (56, 1)]
     let s := f (routing e [0, dvBase, 64, dvEnd] [0, 1, 1] [])
     issues s 0 0 0x73 e = true ∧ xgatherBusy 0 0 s e = true) ∧
    (let e := entry [(0, 0x74), (36, 4), (39, 1), (42, 2), (45, 3), (48, 5), (52, 1), (56, 2), (60, 15), (91, 6), (94, 64), (110, 64)]
     let s := f (routing e [0, 0, dvBase, 128, 192, 256, dvEnd] [0, 1, 1] [(4, 1#8)])
     issues s 0 0 0x74 e = true ∧ xbagBusy 0 0 s e = true) := by decide +kernel

theorem witness_RouterEntries_return :
    (∀ n ∈ [0, 1],
      let e := entry [(0, 0x72), (39, 1), (43, 2), (47, 3), (51, 4)]
      let s := routing e [dvBase] [0, 0, n, 0] []
      let s := { s with router := { s.router with engines := [(0, { Engine.empty with own := [granted0] })] } }
      clean s = true ∧ issues s 0 0 0x72 e = true ∧ xreturnFaults 0 0 s e = [] ∧ xreturnBusy 0 0 s e = false ∧
      returnRows s 0 0 e = some (0, [claim0]) ∧ 0 + n ≤ [claim0].length ∧
      (∀ j < n, xlatAt (advance s 0 0) 0 0 .read (plusBytes (getA s 0 0 0) (j * 4)) (outBytes (layerRec s 0)) = .ok)) ∧
    (let e := entry [(0, 0x72), (39, 1), (43, 2), (47, 3), (51, 4)]
     let s := routing e [dvBase] [0, 0, 1, 1] []
     issues s 0 0 0x72 e = true ∧ xreturnFaults 0 0 s e = [] ∧ xreturnBusy 0 0 s e = false ∧
     returnRows s 0 0 e = none) := by decide +kernel

theorem witness_RouterEntries_gather : ∀ rows ∈ [0, 1],
    let e := entry [(0, 0x73), (39, 1), (42, 2), (45, 3), (48, 1), (52, 2), (56, 1)]
    let s := routing e [0, dvBase, 64, dvEnd] [0, 1, rows] []
    let row := indexKind rows (sramLoad s 0 0 4)
    clean s = true ∧ issues s 0 0 0x73 e = true ∧ xgatherFaults 0 0 s e = [] ∧ xgatherBusy 0 0 s e = false ∧ xgCount s 0 0 e = 1 ∧
    aSPACE (getA s 0 0 2) = spLOCAL ∧ aSPACE (getA s 0 0 3) = spDV ∧ (row = none ↔ rows = 0) ∧
    tableXlat (advance s 0 0) 0 0 (getA s 0 0 1) 64 64 [row] = .ok ∧
    xlatAt (advance s 0 0) 0 0 .write (getA s 0 0 3) 1 = .ok := by decide +kernel

/-- Bags of no member and of one. -/
theorem witness_RouterEntries_bag : ∀ n ∈ [[], [(4, 1#8)]],
    let e := entry [(0, 0x74), (36, 4), (39, 1), (42, 2), (45, 3), (48, 5), (52, 1), (56, 2), (60, 15), (91, 6), (94, 64), (110, 64)]
    let s := routing e [0, 0, dvBase, 128, 192, 256, dvEnd] [0, 1, 1] n
    let d := bagDesc s 0 0 e 0
    clean s = true ∧ issues s 0 0 0x74 e = true ∧ xbagFaults 0 0 s e = [] ∧ xbagBusy 0 0 s e = false ∧ xbCount s 0 0 e = 1 ∧
    aSPACE (getA s 0 0 3) = spLOCAL ∧ aSPACE (getA s 0 0 6) = spDV ∧
    (bagMembers (advance s 0 0) 0 0 e d).1.length = n.length ∧
    tableXlat (advance s 0 0) 0 0 (getA s 0 0 2) 64 (xbDim e * xbInBytes e)
      ((bagMembers (advance s 0 0) 0 0 e d).1.map (fun m => some m.1)) = .ok ∧
    xlatAt (advance s 0 0) 0 0 .write (getA s 0 0 6) 1 = .ok := by decide +kernel

/-- Engine 0 with a group of step 1's layer 0 as owner, and a dispatch as source. -/
def engine0 (g : List OwnGroup) (d : List Dispatch) : State :=
  let s := routing 0 [] [] []
  { s with router := { s.router with engines := [(0, ⟨[], [⟨1, 0, false, d⟩], g, 4, []⟩)] } }

/-- A dispatch of one token with a slot. -/
def dispatch0 (decided dropped : Bool) : Dispatch :=
  ⟨0, 0, 0, 1, 1, 1, 0, BitVec.ofNat 64 dvBase, 128, BitVec.ofNat 64 dvEnd, 16, 0, false, [⟨3, 0, 0, 0, 0x3F800000, 3, 64, decided, dropped, false⟩]⟩

theorem witness_RouterMessages_owner :
    (let s := engine0 [] []
     let g := ownGroup (getEngine s 0) 1 0
     lyValid (layerRec s 0) = true ∧ expertOwner s 0 claim0.expert = (ownPkg s, 0) ∧ g.decided = false ∧
     sealOf g 9 1 = none ∧ claimsOf g 9 1 ≤ 0 ∧ decidable s g = false) ∧
    (let s := engine0 [⟨1, 0, [claim0], [⟨9, 1, 1, 1⟩], false, 0, []⟩] []
     let g := ownGroup (getEngine s 0) 1 0
     sealOf g 9 1 = some ⟨9, 1, 1, 1⟩ ∧ 1 ≤ claimsOf g 9 1 ∧ g.decided = false) ∧
    (let s := engine0 [granted0] []
     (ownGroup (getEngine s 0) 1 0).decided = true ∧ engineLost s 0 = false ∧ engineLost (without0 s) 0 = true ∧
     granted0.grants.find? (fun x => x.claims.any (fun y => y.pkg == 9 && y.engine == 1 && y.order == 3)) =
       some ⟨0, [claim0], [], false⟩) ∧
    (let c : Claim := { claim0 with pkg := 7, engine := 1 }
     let s := engine0 [⟨1, 0, [c], [⟨7, 0, 0, 0⟩, ⟨7, 1, 1, 1⟩, ⟨7, 2, 0, 0⟩, ⟨7, 3, 0, 0⟩], false, 0, []⟩] []
     let g := ownGroup (getEngine s 0) 1 0
     g.decided = false ∧ lyValid (layerRec s 0) = true ∧ decidable s g = true ∧ expertOwner s 0 0 = (ownPkg s, 0)) := by
  decide +kernel

/-- The owner's buffer page under SYS, open and held. -/
theorem witness_RouterMessages_row : ∀ held ∈ [false, true],
    let s := engine0 [granted0] []
    let l : Leaf := ⟨true, .hbm, 0, false, held, false, 3, 0, 0, 0⟩
    let s := withT (fun t => { t with
      leaves := [(pageKey ctxSYS 0, l)], migs := if held then [⟨pageKey ctxSYS 0, .hbm, 4, [], 1, true, none⟩] else [] }) s
    let va := natBits (mapEntry s 0 0) 64 57 + 64
    let n := rowSize (layerRec s 0)
    rangeHeld s ctxSYS va n = held ∧ engineLost s 0 = false ∧ leafOf s ctxSYS (va / 2097152) = some l ∧
    va % 2097152 + n ≤ 2097152 ∧ (held = false → rangeXlat s ctxSYS .write va n = .ok) ∧ Memory.wf s.tiers.hbm = true := by
  decide +kernel

theorem witness_RouterMessages_source :
    (let s := engine0 [] [dispatch0 false false]
     let held (s : State) := (openClaim (getEngine s 0) 3).map (fun x => outcomeHeld s x.1 x.2.1 x.2.2)
     (openClaim (getEngine s 0) 3).map (fun x => x.2.2.decided) = some false ∧ engineLost s 0 = false ∧
     held s = some false ∧ held (heldPage s) = some true ∧
     (openClaim (getEngine s 0) 3).map (fun x =>
       x.2.1.behalf.xlat s .read (rowAddr s x.1 x.2.1 x.2.2) (rowSize (layerRec s x.1.layer))) = some .ok) ∧
    (let s := engine0 [] [dispatch0 true false]
     engineLost s 0 = false ∧ (findClaim (getEngine s 0) 3).map (fun x => (x.2.2.decided, x.2.2.dropped)) = some (true, false) ∧
     aSPACE (plusBytes (dispatch0 true false).cells 0) = spLOCAL ∧
     sramPoisoned s 0 128 (16 * lyH (layerRec s 0)) = false ∧ Memory.wf s.comp.sram = true) := by decide +kernel

/-! ### Fabric ports -/

/-- Port 15 in a state. -/
def ported (p : Port) (l : List (Field × Nat) := []) : State :=
  let s := active l
  { s with fab := { s.fab with ports := [(15, p)] } }

theorem leBytes_add (n v c : Nat) : leBytes n (v + c * 256 ^ n) = leBytes n v := by
  induction n generalizing v with
  | zero => rfl
  | succ n ih =>
    have h1 : v + c * 256 ^ (n + 1) = v + 256 * (c * 256 ^ n) := by
      rw [Nat.pow_succ, Nat.mul_comm (256 ^ n), Nat.mul_left_comm]
    simp only [leBytes, h1, Nat.add_mul_div_left v _ (by omega : 0 < 256), ih]
    congr 1
    apply BitVec.eq_of_toNat_eq
    simp only [BitVec.toNat_ofNat]
    omega

theorem crcBit_lt {c : Nat} (h : c < 2 ^ 32) : crcBit (crcAlg 1) c < 2 ^ 32 := by
  have hp : (crcAlg 1).poly < 2 ^ 32 := by decide
  have hc : c / 2 < 2 ^ 32 := by omega
  unfold crcBit
  simp only [show (crcAlg 1).refl = true from rfl, if_true]
  split
  · exact Nat.xor_lt_two_pow hc hp
  · exact hc

theorem crcFeed_lt (bs : List Byte) {c : Nat} (h : c < 2 ^ 32) : crcFeed (crcAlg 1) c bs < 2 ^ 32 := by
  have step (l : List Nat) {c : Nat} (h : c < 2 ^ 32) :
      l.foldl (fun c _ => crcBit (crcAlg 1) c) c < 2 ^ 32 := by
    induction l generalizing c with
    | nil => exact h
    | cons x l ih => exact ih (crcBit_lt h)
  induction bs generalizing c with
  | nil => exact h
  | cons b bs ih =>
    refine ih (step _ ?_)
    simp only [show (crcAlg 1).refl = true from rfl, if_true]
    exact Nat.xor_lt_two_pow h (by have := b.isLt; omega)

theorem crc32c_lt (bs : List Byte) : crc32c bs < 2 ^ 32 :=
  Nat.xor_lt_two_pow (crcFeed_lt bs (by decide)) (by decide)

/-- A flit of a header word with its CRC-32C, or with another one. -/
def flitOf (v : Nat) (good : Bool) : BitVec 2048 :=
  let c := crc32c (leBytes 252 v)
  BitVec.ofNat 2048 (v + (if good then c else (c + 1) % 2 ^ 32) * 2 ^ 2016)

/-- The CRC of `flitOf` is as asked, and its header word is the one given. -/
theorem flitOf_spec {v : Nat} (h : v < 2 ^ 128) (good : Bool) :
    (crc32c (leBytes 252 (flitOf v good).toNat) = natBits (flitOf v good).toNat 2016 32 ↔ good = true) ∧
    natBits (flitOf v good).toNat 0 128 = v := by
  have hc := crc32c_lt (leBytes 252 v)
  generalize hk : (if good then crc32c (leBytes 252 v) else (crc32c (leBytes 252 v) + 1) % 2 ^ 32) = k
  have hk2 : k < 2 ^ 32 := by subst hk; split <;> omega
  have h256 : (256 : Nat) ^ 252 = 2 ^ 2016 := by rw [show (256 : Nat) = 2 ^ 8 from rfl, ← Nat.pow_mul]
  have hv : v < 2 ^ 2016 := Nat.lt_of_lt_of_le h (Nat.pow_le_pow_right (by decide) (by decide))
  have hm : (2 : Nat) ^ 2048 = 2 ^ 2016 * 2 ^ 32 := by rw [← Nat.pow_add]
  have hq : (2 : Nat) ^ 2016 = 2 ^ 1888 * 2 ^ 128 := by rw [← Nat.pow_add]
  have hn : (flitOf v good).toNat = v + k * 256 ^ 252 := by
    simp only [flitOf, hk, BitVec.toNat_ofNat, h256, hm]
    have hk3 := Nat.mul_le_mul_right (2 ^ 2016) (Nat.le_sub_one_of_lt hk2)
    generalize 2 ^ 2016 = P at *
    exact Nat.mod_eq_of_lt (by omega)
  have hb : natBits (v + k * 256 ^ 252) 2016 32 = k := by
    simp only [natBits, Nat.shiftRight_eq_div_pow, h256]
    rw [Nat.add_mul_div_right _ _ (Nat.two_pow_pos 2016), Nat.div_eq_of_lt hv, Nat.zero_add, Nat.mod_eq_of_lt hk2]
  have hl : natBits (v + k * 256 ^ 252) 0 128 = v := by
    simp only [natBits, Nat.shiftRight_zero, h256, hq]
    rw [← Nat.mul_assoc, Nat.add_mul_mod_self_right, Nat.mod_eq_of_lt h]
  rw [hn, hb, hl, leBytes_add]
  refine ⟨?_, rfl⟩
  subst hk
  cases good <;> simp
  omega

theorem witness_FabricPorts_flits :
    (getPort (ported .reset) 15).phase ≠ .up ∧
    (getPort (ported { Port.reset with phase := .up }) 15).phase = .up ∧
    (getPort (ported { Port.reset with phase := .up }) 15).expSeq = 0 ∧
    (∀ q ∈ [1, 32767], seqLe q 65535 = false) ∧ (∀ q ∈ [32768, 65535], seqLe q 65535 = true) ∧
    (∀ q ∈ [0, 1, 32767, 32768, 65535], q < 2 ^ 128 ∧ natBits q 0 16 = q ∧ natBits q 33 3 ≠ 7 ∧
      natBits (flitOf q true).toNat 0 128 = q ∧
      crc32c (leBytes 252 (flitOf q true).toNat) = natBits (flitOf q true).toNat 2016 32 ∧
      crc32c (leBytes 252 (flitOf q false).toNat) ≠ natBits (flitOf q false).toNat 2016 32) := by
  refine ⟨by decide +kernel, by decide +kernel, by decide +kernel, by decide, by decide, fun q hq => ?_⟩
  have h : q < 2 ^ 128 ∧ natBits q 0 16 = q ∧ natBits q 33 3 ≠ 7 := by
    revert q; decide
  refine ⟨h.1, h.2.1, h.2.2, (flitOf_spec h.1 true).2, (flitOf_spec h.1 true).1.2 rfl, fun hc => ?_⟩
  exact absurd ((flitOf_spec h.1 false).1.1 hc) (by decide)

theorem witness_FabricPorts_phases :
    (let s := ported { Port.reset with phase := .up, overlit := true, replay := [{ Flit.idle with resent := 8 }] }
     (getPort s 15).phase = .up ∧ 8 ≤ (getPort s 15).resends ∧ (getPort s 15).overlit = true) ∧
    (∀ f ∈ [0, 1, 2],
      let s := ported { Port.reset with phase := .retrain, fails := f }
      (getPort s 15).phase = .retrain ∧ ((getPort s 15).fails + 1 < 3 ↔ f < 2)) ∧
    (let s := ported { Port.reset with phase := .training }
       [(fFAB_PORT_CFG_EXP_ID 15, 9), (fFAB_PORT_CFG_EXP_PORT 15, 3), (fFAB_CFG_PARTITION, 2)]
     (getPort s 15).phase = .training ∧ 9 = getF s (fFAB_PORT_CFG_EXP_ID 15) ∧ 3 = getF s (fFAB_PORT_CFG_EXP_PORT 15) ∧
     2 = getF s fFAB_CFG_PARTITION ∧ 4 ≠ getF s (fFAB_PORT_CFG_EXP_PORT 15)) ∧
    (getPort (ported { Port.reset with phase := .recal }) 15).phase = .recal ∧
    mayRecal (ported { Port.reset with phase := .up, lanes := 24 }) 15 = true ∧
    (let f : Flit := ⟨0, 0, false, 0, [], 0, 0, false, none, 0⟩
     let s := ported { Port.reset with phase := .up, replay := [f] }
     mayRecal s 15 = true ∧ (getPort s 15).replay ≠ []) ∧
    mayRecal (ported .reset) 15 = false ∧ inWarm (ported .reset) = false ∧
    (∀ p ∈ [PortPhase.held, .down, .recable, .overload],
      (getPort (ported { Port.reset with phase := p, overlit := true }) 15).phase = p) := by decide +kernel

/-! ### Fabric operations -/

/-- A packet to this package from package 9. -/
def toHere (op ng addr bmask ewin : Nat) (eth : Bool) : Packet :=
  ⟨op, false, false, ng, 0, 7, 9, 5, addr, bmask, 0, ewin, eth, []⟩

/-- What the operation clauses ask of a header. -/
def comes (s : State) (op : Nat) (eth : Bool) (p : Packet) : Bool :=
  headerLegal p.header && (Packet.ofHeader p.header []).op == op && (Packet.ofHeader p.header []).eth == eth &&
  (Packet.ofHeader p.header []).dest == ownPkg s && !(Packet.ofHeader p.header []).notify

theorem witness_FabricOperations_hbm :
    let s := active []
    (∀ x ∈ [(opREAD, 3, 0x18000000000 - 192, 0), (opWRITE, 3, 0x18000000000 - 192, 0), (opWRITEPART, 1, 0x18000000000 - 64, 1),
        (opATOMIC, 1, 0x18000000000 - 8, 13)],
      let p := toHere x.1 x.2.1 x.2.2.1 x.2.2.2 0 false
      comes s x.1 false p = true ∧ packetExists (Packet.ofHeader p.header []) = true ∧
      hbmPoisoned s x.2.2.1 192 = false) ∧ Memory.wf s.tiers.hbm = true ∧
    (let p := toHere opREAD 3 (0x18000000000 - 128) 0 0 false
     comes s opREAD false p = true ∧ packetExists (Packet.ofHeader p.header []) = false) := by decide +kernel

theorem witness_FabricOperations_responses :
    (active []).fab.reqs.find? (fun r => r.tag == 0xFFFFFF) = none ∧
    (let r : FabReq := ⟨0xFFFFFF, 9, 1, 0, 8, .coreOp 0 0, .reg⟩
     let s := { State.reset with fab := { Fabric.empty with reqs := [r] } }
     s.fab.reqs.find? (fun r => r.tag == 0xFFFFFF) = some r ∧ r.agent = .coreOp 0 0) ∧
    tabHas State.reset.hinge.manifests 8191 = false := by decide

/-- Egress window 255: VALID, reads and writes, 4,096 bytes, queue pair 16383; and blocks. -/
def egressed (bs : List EgressBlock) : State :=
  let s := pair .reset
  { s with fab := { s.fab with ewins := [(255, fieldsOf [(2, 1), (3, 1), (4, 1), (8, 16383), (128, 4096)])], egress := bs } }

theorem witness_FabricOperations_egress :
    (let s := egressed []
     (∀ x ∈ [(opWRITE, 3904, true), (opREAD, 3904, true), (opWRITE, 4096, false), (opREAD, 4096, false)],
       let p := toHere x.1 3 x.2.1 0 255 true
       comes s x.1 true p = true ∧ 0 < p.ng ∧ p.addr % 4096 + 64 * p.ng ≤ 4096 ∧
       ewinAllows s 255 (if x.1 = opREAD then 3 else 4) p.addr (64 * p.ng) = x.2.2 ∧
       openBlock s 255 (p.addr / 4096) = none) ∧
     (s.fab.egress.filter (fun b => !b.sent && !b.fetch)).length < 512 ∧ ewinQp s 255 = 16383 ∧
     qpValid s 16383 = true ∧ (getQP s 16383).err = false) ∧
    (let b : EgressBlock := ⟨255, 0, [(0, 1#8), (2, 1#8)], [(9, 5)], [], false, false, 0⟩
     openBlock (egressed [b]) 255 0 = some b) ∧
    (let b : EgressBlock := ⟨255, 0, [], [], [], true, false, 1⟩
     (egressed [b]).fab.egress.find? (fun b => b.ewin == 255 && b.block == 0 && b.sent && b.fetch == false) = some b ∧
     b.ops ≤ 1 ∧ b.acks = []) := by decide +kernel

/-! ### The spec's own worked numbers -/

/-- Table 13-1: the check value of the nine ASCII bytes "123456789" under each polynomial. -/
theorem test_crc_check_values :
    [0, 1, 2, 3].map (fun p => crcOf p ([0x31, 0x32, 0x33, 0x34, 0x35, 0x36, 0x37, 0x38, 0x39].map (BitVec.ofNat 8))) =
      [0x6C40DF5F0B497347, 0xE3069283, 0xCBF43926, 0x29B1] := by decide +kernel

/-- The example after R209: 5,032 converts to E4M3 code 0x7E with OVF_SAT and 22.1268 to 0x5B. -/
theorem test_epilogue_codes :
    convertOut 3 true 0x459D4000 = (0x7E, flOvfSat ||| flInexact) ∧ (convertOut 3 true 0x41B103AF).1 = 0x5B := by
  decide +kernel

/-- The Note after Table 02-4: 464 lies halfway between 448 and 480 and takes the even neighbour. -/
theorem test_e4m3_halfway : (convertOut 3 false 0x43E80000).1 = 0x7E := by decide +kernel

/-- The five addends of the wide-accumulator example: 2^24, 1, -2^24, 0.001 and 0.75 in FP32. -/
def addends : List Nat := [0x4B800000, 0x3F800000, 0xCB800000, 0x3A83126F, 0x3F400000]

/-- That example, in both orders: N = 448, UNF and INEXACT, and an FP32 read-out of 1.75. -/
theorem test_wide_sum_example : ∀ l ∈ [addends, addends.reverse],
    let n := l.foldl (fun n b => cellAdd (-8) n (dec32 b)) 0
    cellSum n = 448 ∧ natBits n cellUNF 1 = 1 ∧ natBits n cellINEXACT 1 = 1 ∧ natBits n cellOVF 1 = 0 ∧
    (cellRead 0 false (-8) n).1 = 0x3FE00000 := by decide +kernel

/-- The Keyring example: sequence 7, token 48,213, log-probability FP16 0xB980, a rejected draft, written 38,250,000 ns
after admission. -/
theorem test_keyring_example :
    keyringWord 48213 7 0xB980 false true false false 0x247A610 = 0x000247A61002B980 * 2 ^ 64 + 0x000000070000BC55 := by
  decide +kernel

/-- The deadline example: at 0xFFFF_F000 microseconds a deadline of 0x0000_1000 is 8,192 away and one of 0x6C00_0000 is
more than 30 minutes away. -/
theorem test_deadline_example :
    ahead (0xFFFFF000 * 1000) 0x1000 = 8192 ∧ deadlineFar (0xFFFFF000 * 1000) 0x1000 = false ∧
    deadlineFar (0xFFFFF000 * 1000) 0x6C000000 = true := by decide +kernel

/-- The page example after R260: 320 bytes a position, five frames a page, layer 5 position 8 at 0x1_9800 and 0x1_D200. -/
theorem test_page_example :
    let s := withF [(fBZL_LAYOUT_LDIM, 512), (fBZL_LAYOUT_LFMT, 9), (fBZL_LAYOUT_RDIM, 64), (fBZL_LAYOUT_LPG, 8),
      (fBZL_POOL_BASE_BASE, 0)]
    (kvLayout s).pb = 320 ∧ (kvLayout s).fpp = 5 ∧ latentAddr s 0 5 8 = 0x19800 ∧ ropeAddr s 0 5 8 = 0x1D200 := by
  decide +kernel

/-- The numbering example: core C7:19.143 is global core 46,799, and its cluster window, at 0x04F3_0000, names CLUSTER 19,
DIE 7 and a CORE_BASE of 46,656. -/
theorem test_cluster_id_example :
    rCLU_ID (clusterOfCore 46799) = 0x04F30000 ∧
    (let v := (readRegister .reset 0 0x04F30000).1
     natBits v 0 5 = 19 ∧ natBits v 8 4 = 7 ∧ natBits v 12 1 = 0 ∧ natBits v 16 8 = 200 ∧ natBits v 24 8 = 192 ∧
     natBits v 32 17 = 46656) ∧ rCLU_ID (clusterOfCore 86794) = 0x05C40000 := by decide +kernel

/-- The example of block-exact accumulation: 64 x 64 and twice 2^-6 x 2^-6 sum to 4,096 + 2^-11 exactly. -/
theorem test_block_example :
    floatBlock [(decodeF fmtE4M3 0x68, decodeF fmtE4M3 0x68), (decodeF fmtE4M3 0x08, decodeF fmtE4M3 0x08),
      (decodeF fmtE4M3 0x08, decodeF fmtE4M3 0x08)] 0 = (0x45800001, flNone) := by decide +kernel

end Sys2Proof.Tests
end

section
/-!
PROOFS. BAR0 accesses: the record of a refused access (21 R684), what a write leaves in the fields of a register
(00 R21), and the vote, repair and count of /T fields (00 R25).
-/
namespace Sys2Proof.Machine

open Sys2Proof

/-! ### Refused accesses -/

theorem getF_glbErrInfo_raiseF (s : State) {f g : Field} (hf : f.reg = rGLB_ERR) (hg : g.reg = rGLB_ERR_INFO) :
    getF (raiseF s f) g = getF s g := getF_setF_reg s 1 (by rw [hf, hg]; decide)

/-- With a capture held, a further error raises its bit alone. -/
theorem globalError_of_captured {s : State} {f : Field} (kind off fn : Nat) (write : Bool) (hf : f.reg = rGLB_ERR)
    (h : getF s fGLB_ERR_INFO_VALID = 1) : globalError s kind f off fn write = raiseF s f :=
  if_pos (by rw [bitF, getF_glbErrInfo_raiseF s hf rfl, h]; rfl)

/-- With no capture held, an error is captured: kind, function, direction and offset. -/
theorem globalError_of_free {s : State} {f : Field} (kind off fn : Nat) (write : Bool) (hf : f.reg = rGLB_ERR)
    (h : getF s fGLB_ERR_INFO_VALID = 0) :
    globalError s kind f off fn write = setReg (raiseF s f) rGLB_ERR_INFO (BitVec.ofNat 64
      (off % 2 ^ 27 + (if write then 2 ^ 27 else 0) + (fn % 64) * 2 ^ 28 + kind * 2 ^ 34 + 2 ^ 37)) :=
  if_neg (by rw [bitF, getF_glbErrInfo_raiseF s hf rfl, h]; decide)

theorem globalError_regs (s : State) (kind : Nat) (f : Field) (off fn : Nat) (write : Bool) :
    globalError s kind f off fn write = { s with regs := (globalError s kind f off fn write).regs } := by
  simp only [globalError]
  split <;> rfl

theorem getReg_globalError_other (s : State) {f : Field} (kind off fn : Nat) (write : Bool) {r : Nat}
    (hf : f.reg = rGLB_ERR) (h : r ≠ rGLB_ERR) (hi : r ≠ rGLB_ERR_INFO) :
    getReg (globalError s kind f off fn write) r = getReg s r := by
  have hr : getReg (raiseF s f) r = getReg s r := getReg_setF_other s 1 (by rwa [hf])
  simp only [globalError]
  split
  · exact hr
  · rw [getReg_setReg_other _ _ hi, hr]

theorem bitF_globalError (s : State) {f : Field} (kind off fn : Nat) (write : Bool) (hf : f.reg = rGLB_ERR)
    (hw : f.w = 1) (hlo : f.lo < 64) : bitF (globalError s kind f off fn write) f = true := by
  have hb := bitF_raiseF_same s hw hlo
  simp only [globalError]
  split
  · exact hb
  · rwa [bitF, getF_setReg_other _ _ (by rw [hf]; decide)]

/-- `t` is `s` with an access at `off` by function `fn` recorded under the bit `f` of GLB_ERR, captured where no capture
was held. -/
def Noted (s t : State) (f : Field) (off fn : Nat) : Prop :=
  bitF t f = true ∧ t = { s with regs := t.regs } ∧
  (∀ r, r ≠ rGLB_ERR → r ≠ rGLB_ERR_INFO → getReg t r = getReg s r) ∧
  (getF s fGLB_ERR_INFO_VALID = 1 → getReg t rGLB_ERR_INFO = getReg s rGLB_ERR_INFO) ∧
  (getF s fGLB_ERR_INFO_VALID = 0 →
    getF t fGLB_ERR_INFO_VALID = 1 ∧ getF t fGLB_ERR_INFO_OFFSET = off ∧ getF t fGLB_ERR_INFO_FUNCTION = fn)

theorem natBits_eq_div (n lo w : Nat) : natBits n lo w = n / 2 ^ lo % 2 ^ w := by
  rw [natBits, Nat.shiftRight_eq_div_pow]

/-- The fields of a captured access (21 R684, GLB_ERR_INFO). -/
theorem errInfo_fields {off fn kind d : Nat} (ho : off < 2 ^ 27) (hf : fn < 64) (hk : kind < 8)
    (hd : d = 0 ∨ d = 2 ^ 27) :
    let v := (BitVec.ofNat 64 (off % 2 ^ 27 + d + (fn % 64) * 2 ^ 28 + kind * 2 ^ 34 + 2 ^ 37)).toNat
    natBits v 37 1 = 1 ∧ natBits v 0 27 = off ∧ natBits v 28 6 = fn := by
  simp only [natBits_eq_div, BitVec.toNat_ofNat]
  refine ⟨?_, ?_, ?_⟩ <;> omega

theorem globalError_noted (s : State) {f : Field} {kind off fn : Nat} (write : Bool) (hf : f.reg = rGLB_ERR)
    (hw : f.w = 1) (hlo : f.lo < 64) (ho : off < 2 ^ 27) (hfn : fn < 64) (hk : kind < 8) :
    Noted s (globalError s kind f off fn write) f off fn := by
  refine ⟨bitF_globalError s kind off fn write hf hw hlo, globalError_regs s kind f off fn write,
    fun r => getReg_globalError_other s kind off fn write hf, fun h => ?_, fun h => ?_⟩
  · rw [globalError_of_captured kind off fn write hf h]
    exact getReg_setF_other s 1 (by rw [hf]; decide)
  · rw [globalError_of_free kind off fn write hf h]
    have hd : (if write = true then 2 ^ 27 else 0) = 0 ∨ (if write = true then 2 ^ 27 else 0) = 2 ^ 27 := by
      cases write <;> simp
    simp only [getF, fGLB_ERR_INFO_VALID, fGLB_ERR_INFO_OFFSET, fGLB_ERR_INFO_FUNCTION, getReg_setReg_same]
    exact errInfo_fields ho hfn hk hd

theorem errWidth_noted (s : State) {off fn : Nat} (write : Bool) (ho : off < 2 ^ 27) (hfn : fn < 64) :
    Noted s (errWidth s off fn write) fGLB_ERR_WIDTH off fn :=
  globalError_noted s write rfl rfl (by decide) ho hfn (by decide)

theorem errVfAccess_noted (s : State) {off fn : Nat} (ho : off < 2 ^ 27) (hfn : fn < 64) :
    Noted s (errVfAccess s off fn) fGLB_ERR_VF_ACCESS off fn :=
  globalError_noted s true rfl rfl (by decide) ho hfn (by decide)

theorem errNotReady_noted (s : State) {off fn : Nat} (ho : off < 2 ^ 27) (hfn : fn < 64) :
    Noted s (errNotReady s off fn) fGLB_ERR_NOT_READY off fn :=
  globalError_noted s true rfl rfl (by decide) ho hfn (by decide)

theorem exec_badWidthAccess_write (fn : Fin 64) (off : Fin 134217728) (s : State) :
    exec (.badWidthAccess fn off true) s = .next (errWidth s off fn true) := rfl

theorem exec_badWidthAccess_read (fn : Fin 64) (off : Fin 134217728) (s : State) :
    exec (.badWidthAccess fn off false) s = .next ((errWidth s off fn false).emit .readData [0]) := rfl

theorem bitF_errWidth_read (s : State) (off fn : Nat) :
    bitF ((errWidth s off fn false).emit .readData [0]) fGLB_ERR_WIDTH = true :=
  bitF_globalError s 0 off fn false rfl rfl (by decide)

/-- A read of a wrong width gives zero, and beside that changes registers alone. -/
theorem errWidth_read_frame (s : State) (off fn : Nat) :
    let t := (errWidth s off fn false).emit .readData [0]
    t.out = s.out ++ [⟨.readData, [0]⟩] ∧ t = { s with regs := t.regs, out := t.out } := by
  have hr : errWidth s off fn false = { s with regs := (errWidth s off fn false).regs } := globalError_regs s ..
  generalize errWidth s off fn false = u at hr ⊢
  rw [hr]
  exact ⟨rfl, rfl⟩

/-! ### What a write leaves in a register's fields -/

/-- Two fields of a register that share no bit. -/
def FieldSpec.Apart (f g : FieldSpec) : Prop := f.lo + f.w ≤ g.lo ∨ g.lo + g.w ≤ f.lo

theorem FieldSpec.Apart.symm {f g : FieldSpec} (h : f.Apart g) : g.Apart f := Or.symm h

/-- The fields of a row lie within the register and share no bit. -/
def RegSpec.Tidy (r : RegSpec) : Prop := r.fields.Pairwise FieldSpec.Apart ∧ ∀ f ∈ r.fields, f.lo + f.w ≤ 64

/-- A field of a row after a write takes its value from itself and the write alone. -/
theorem natBits_writeField_congr (off new : Nat) {a b : Nat} (f : FieldSpec)
    (h : natBits a f.lo f.w = natBits b f.lo f.w) :
    natBits (writeField off new a f) f.lo f.w = natBits (writeField off new b f) f.lo f.w := by
  unfold writeField
  cases f.acc <;> simp only [h, natBits_natSetBits_same]
  split
  · exact h
  · simp only [natBits_natSetBits_same]

/-- A write leaves a register's number, or replaces the field in it. -/
theorem writeField_cases (off new held : Nat) (f : FieldSpec) :
    writeField off new held f = held ∨ ∃ x, writeField off new held f = natSetBits held f.lo f.w x := by
  simp only [writeField]
  split
  · split
    · exact .inl rfl
    · exact .inr ⟨_, rfl⟩
  · exact .inr ⟨_, rfl⟩
  · exact .inr ⟨_, rfl⟩
  · exact .inl rfl

theorem natBits_writeField_other (off new held : Nat) {f g : FieldSpec} (h : f.Apart g) :
    natBits (writeField off new held g) f.lo f.w = natBits held f.lo f.w := by
  obtain e | ⟨x, e⟩ := writeField_cases off new held g
  · rw [e]
  · rw [e, natBits_natSetBits_other h]

theorem natBits_foldl_writeField_other (off new held : Nat) {f : FieldSpec} {l : List FieldSpec}
    (h : ∀ g ∈ l, f.Apart g) : natBits (l.foldl (writeField off new) held) f.lo f.w = natBits held f.lo f.w := by
  induction l generalizing held with
  | nil => rfl
  | cons g l ih =>
    rw [List.foldl_cons, ih _ fun g' hg' => h g' (List.mem_cons_of_mem _ hg'),
      natBits_writeField_other off new held (h g List.mem_cons_self)]

/-- A write of a register leaves in a field what the write of that field alone leaves. -/
theorem natBits_foldl_writeField (off new held : Nat) {f : FieldSpec} {l : List FieldSpec}
    (hl : l.Pairwise FieldSpec.Apart) (hf : f ∈ l) :
    natBits (l.foldl (writeField off new) held) f.lo f.w = natBits (writeField off new held f) f.lo f.w := by
  induction l generalizing held with
  | nil => cases hf
  | cons g l ih =>
    obtain ⟨hg, hp⟩ := List.pairwise_cons.1 hl
    rw [List.foldl_cons]
    rcases List.mem_cons.1 hf with rfl | hf
    · exact natBits_foldl_writeField_other off new _ hg
    · rw [ih _ hp hf]
      exact natBits_writeField_congr off new f (natBits_writeField_other off new held (hg f hf).symm)

theorem writeField_lt (off new : Nat) {held : Nat} {f : FieldSpec} (hh : held < 2 ^ 64) (hf : f.lo + f.w ≤ 64) :
    writeField off new held f < 2 ^ 64 := by
  obtain e | ⟨x, e⟩ := writeField_cases off new held f
  · rwa [e]
  · rw [e]
    exact natSetBits_lt hh hf

theorem foldl_writeField_lt (off new : Nat) {held : Nat} {l : List FieldSpec} (hh : held < 2 ^ 64)
    (hl : ∀ f ∈ l, f.lo + f.w ≤ 64) : l.foldl (writeField off new) held < 2 ^ 64 := by
  induction l generalizing held with
  | nil => exact hh
  | cons f l ih =>
    exact ih (writeField_lt off new hh (hl f List.mem_cons_self)) fun g hg => hl g (List.mem_cons_of_mem _ hg)

theorem writeFields_regs (s : State) (key : Nat) (v : Word) :
    writeFields s key v = { s with regs := (writeFields s key v).regs } := by
  unfold writeFields
  split <;> rfl

theorem getReg_writeFields_other (s : State) {key r : Nat} (v : Word) (h : r ≠ key) :
    getReg (writeFields s key v) r = getReg s r := by
  unfold writeFields
  split
  · rfl
  · exact getReg_setReg_other s _ h

/-- A field of a written register, in terms of the write of that field alone. -/
theorem natBits_writeFields (s : State) {key : Nat} (v : Word) {r : RegSpec} {f : FieldSpec}
    (hr : regSpecOf key = some r) (ht : r.Tidy) (hf : f ∈ r.fields) :
    natBits (getReg (writeFields s key v) key).toNat f.lo f.w =
      natBits (writeField (key % 0x8000000) v.toNat (getReg s key).toNat f) f.lo f.w := by
  obtain ⟨hp, hw⟩ := ht
  simp only [writeFields, hr, getReg_setReg_same, BitVec.toNat_ofNat]
  rw [Nat.mod_eq_of_lt (foldl_writeField_lt _ _ (getReg s key).isLt hw), natBits_foldl_writeField _ _ _ hp hf]

/-- An RW field takes the value written, unless its encoding is reserved. -/
theorem natBits_writeField_rw {off new held : Nat} {f : FieldSpec} (ha : f.acc = .rw)
    (hr : reservedValue off f.lo (natBits new f.lo f.w) = false) :
    natBits (writeField off new held f) f.lo f.w = natBits new f.lo f.w := by
  simp only [writeField, ha, hr, Bool.false_eq_true, if_false, natBits_natSetBits_same]
  exact Nat.mod_eq_of_lt (natBits_lt new f.lo f.w)

/-- A W1C bit falls where 1 is written and stays where 0 is. -/
theorem natBits_writeField_w1c {off new held : Nat} {f : FieldSpec} (ha : f.acc = .w1c) (hw : f.w = 1) :
    natBits (writeField off new held f) f.lo 1 = if natBits new f.lo 1 = 1 then 0 else natBits held f.lo 1 := by
  have hx := natBits_lt new f.lo 1
  have hy := natBits_lt held f.lo 1
  have h : natBits (writeField off new held f) f.lo 1 =
      (natBits held f.lo 1 - (natBits held f.lo 1 &&& natBits new f.lo 1)) % 2 ^ 1 := by
    simp only [writeField, ha, hw, natBits_natSetBits_same]
  rw [h]
  generalize natBits new f.lo 1 = x at *
  generalize natBits held f.lo 1 = y at *
  interval_cases x <;> interval_cases y <;> rfl

/-! ### The paths of a BAR0 write -/

theorem writeBar0_misaligned (s : State) (fn : Nat) {off : Nat} (v : Word) (h : off % 8 ≠ 0) :
    writeBar0 s fn off v = errWidth s off fn true := if_pos h

theorem writeBar0_vf (s : State) {fn off : Nat} (v : Word) (h : off % 8 = 0) (hfn : fn ≠ 0) :
    writeBar0 s fn off v = writeVF s fn off v := by
  simp [writeBar0, h, hfn]

theorem writeBar0_reserved (s : State) {off : Nat} (v : Word) (h : off % 8 = 0) (hs : regSpecOf off = none) :
    writeBar0 s 0 off v = s := by
  simp [writeBar0, h, hs]

theorem writeBar0_closed {s : State} {off : Nat} (v : Word) (h : off % 8 = 0) (hs : regSpecOf off ≠ none)
    (hw : inWarm s = true) (hb : warmBlock off = true) : writeBar0 s 0 off v = errNotReady s off 0 := by
  simp [writeBar0, h, hs, hw, hb]

/-- A PF's write to a register outside the blocks of a warm reset reaches it. -/
theorem writeBar0_open (s : State) {off : Nat} (v : Word) (h : off % 8 = 0) (hs : regSpecOf off ≠ none)
    (hb : warmBlock off = false) : writeBar0 s 0 off v = writeRegister s off v := by
  simp [writeBar0, h, hs, hb]

/-- A VF's write to the common map, other than the identification block and the time, is recorded. -/
theorem writeVF_common (s : State) (fn : Nat) {off : Nat} (v : Word) (hw : ¬ (0x8000 ≤ off ∧ off < 0x8840))
    (hi : 0x28 ≤ off) (ht : off ≠ rGLB_TIME) (hc : off ≠ rPDL_CMD) (ha : off ≠ rPDL_CMD_ADDR) :
    writeVF s fn off v = errVfAccess s off fn := by
  have h1 : ¬ (off = rPDL_CMD ∨ off = rPDL_CMD_ADDR) := not_or.2 ⟨hc, ha⟩
  have h2 : ¬ (off < 0x28 ∨ off = rGLB_TIME) := not_or.2 ⟨not_lt.2 hi, ht⟩
  rw [writeVF, if_neg h1, if_neg hw, if_neg h2]

theorem queueCfg_offset (q : Nat) (hq : q < 64) : 0x8000 ≤ 0x8010 + 0x20 * q ∧ 0x8010 + 0x20 * q < 0x8800 ∧
    (0x8010 + 0x20 * q) % 8 = 0 ∧ (0x8010 + 0x20 * q) % 0x20 = 0x10 ∧ (0x8010 + 0x20 * q - 0x8000) / 0x20 = q := by
  omega

theorem regSpecOf_queueCfg : ∀ q : Fin 64, regSpecOf (0x8010 + 0x20 * q) ≠ none := by decide +kernel

theorem fnWrite_queueCfg (s : State) (fn : Nat) {q : Nat} (v : Word) (hq : q < 64) :
    fnWrite s fn (0x8010 + 0x20 * q) v = queueCfg s fn q v.toNat := by
  obtain ⟨-, hlt, -, hmod, hdiv⟩ := queueCfg_offset q hq
  simp only [fnWrite, hlt, hmod, hdiv, if_true]

/-- A write of GLB_Qq_CFG, by any function, is the command of that queue of that function. -/
theorem writeBar0_queueCfg (s : State) (fn : Nat) (q : Fin 64) (v : Word) :
    writeBar0 s fn (0x8010 + 0x20 * q) v = queueCfg s fn q v.toNat := by
  obtain ⟨hge, hlt, h8, -, -⟩ := queueCfg_offset q q.isLt
  have hs := regSpecOf_queueCfg q
  have hcmd : ¬ (0x8010 + 0x20 * (q : Nat) = rPDL_CMD ∨ 0x8010 + 0x20 * (q : Nat) = rPDL_CMD_ADDR) := by
    simp only [rPDL_CMD, rPDL_CMD_ADDR]; omega
  have hpf : ¬ (0x8010 + 0x20 * (q : Nat) = 0x8820 ∨ 0x8010 + 0x20 * (q : Nat) = 0x8828 ∨
      0x8010 + 0x20 * (q : Nat) = 0x8830) := by omega
  have hwin : 0x8000 ≤ 0x8010 + 0x20 * (q : Nat) ∧ 0x8010 + 0x20 * (q : Nat) < 0x8840 := by omega
  rw [← fnWrite_queueCfg s fn v q.isLt]
  by_cases hfn : fn = 0
  · have hb : warmBlock (0x8010 + 0x20 * (q : Nat)) = false := by
      simp [warmBlock]; omega
    subst hfn
    rw [writeBar0_open s v h8 hs hb, writeRegister, if_neg (by omega), if_pos hwin]
  · have hn : ¬ (regSpecOf (0x8010 + 0x20 * (q : Nat))).isNone = true := by simpa using hs
    rw [writeBar0_vf s v h8 hfn, writeVF, if_neg hcmd, if_pos hwin, if_neg hpf, if_neg hn]

theorem writeBar0_cap (s : State) (v : Word) : writeBar0 s 0 rPTC_CAP v = setCap s (v.toNat % 65536) :=
  writeBar0_open s v (by decide) (by decide +kernel) (by decide)

theorem regSpecOf_pdlCmdAddr : regSpecOf rPDL_CMD_ADDR = some ⟨.glob, 0x200048, 0x0, 1, [⟨3, 61, .rw, 0x0⟩]⟩ := by
  decide +kernel

theorem writeBar0_pdlCmdAddr (s : State) (v : Word) :
    writeBar0 s 0 rPDL_CMD_ADDR v = writeFields s rPDL_CMD_ADDR v :=
  writeBar0_open s v (by decide) (by decide +kernel) (by decide)

theorem getF_writeFields_pdlCmdAddr (s : State) (v : Word) :
    getF (writeFields s rPDL_CMD_ADDR v) fPDL_CMD_ADDR_ADDR = v.toNat / 8 := by
  have hf := natBits_writeFields s v (f := ⟨3, 61, .rw, 0x0⟩) regSpecOf_pdlCmdAddr
    ⟨List.pairwise_singleton _ _, by simp⟩ List.mem_cons_self
  rw [natBits_writeField_rw rfl rfl] at hf
  have hv := v.isLt
  rw [show getF (writeFields s rPDL_CMD_ADDR v) fPDL_CMD_ADDR_ADDR = natBits v.toNat 3 61 from hf, natBits_eq_div]
  omega

/-- The row of GLB_ERR: five W1C bits. -/
def glbErrRow : RegSpec := ⟨.glob, 0x100, 0x0, 1, (List.range 5).map fun b => ⟨b, 1, .w1c, 0x0⟩⟩

theorem regSpecOf_glbErr : regSpecOf rGLB_ERR = some glbErrRow := by decide +kernel

theorem glbErrRow_tidy : glbErrRow.Tidy := by
  simp [RegSpec.Tidy, glbErrRow, FieldSpec.Apart, List.range_succ]

theorem writeBar0_glbErr (s : State) (v : Word) : writeBar0 s 0 rGLB_ERR v = writeFields s rGLB_ERR v :=
  writeBar0_open s v (by decide) (by simp [regSpecOf_glbErr]) (by decide)

theorem natBits_writeFields_glbErr (s : State) (v : Word) {b : Nat} (hb : b < 5) :
    natBits (getReg (writeFields s rGLB_ERR v) rGLB_ERR).toNat b 1 =
      if natBits v.toNat b 1 = 1 then 0 else natBits (getReg s rGLB_ERR).toNat b 1 := by
  have hf : (⟨b, 1, .w1c, 0x0⟩ : FieldSpec) ∈ glbErrRow.fields := List.mem_map.2 ⟨b, List.mem_range.2 hb, rfl⟩
  exact (natBits_writeFields s v regSpecOf_glbErr glbErrRow_tidy hf).trans (natBits_writeField_w1c rfl rfl)

/-! ### The vote of three copies -/

theorem testBit_vote3 (a b c i : Nat) : (vote3 a b c).testBit i =
    (a.testBit i && b.testBit i || a.testBit i && c.testBit i || b.testBit i && c.testBit i) := by
  simp [vote3]

theorem vote3_first (a c : Nat) : vote3 a c c = c := by
  apply Nat.eq_of_testBit_eq
  intro i
  rw [testBit_vote3]
  cases a.testBit i <;> cases c.testBit i <;> rfl

theorem vote3_second (b c : Nat) : vote3 c b c = c := by
  apply Nat.eq_of_testBit_eq
  intro i
  rw [testBit_vote3]
  cases b.testBit i <;> cases c.testBit i <;> rfl

theorem vote3_third (c d : Nat) : vote3 c c d = c := by
  apply Nat.eq_of_testBit_eq
  intro i
  rw [testBit_vote3]
  cases c.testBit i <;> cases d.testBit i <;> rfl

theorem voteList_same (c : Nat) : voteList [c, c, c] = c := vote3_first c c

/-- One copy that differs is outvoted. -/
theorem voteList_modify (c : Nat) (copy : Fin 3) (f : Nat → Nat) : voteList ([c, c, c].modify copy f) = c := by
  match copy with
  | 0 => exact vote3_first _ c
  | 1 => exact vote3_second _ c
  | 2 => exact vote3_third c _

/-- A field of the vote is the vote of the field. -/
theorem natBits_vote3 (a b c lo w : Nat) :
    natBits (vote3 a b c) lo w = vote3 (natBits a lo w) (natBits b lo w) (natBits c lo w) := by
  apply Nat.eq_of_testBit_eq
  intro i
  simp only [testBit_natBits, testBit_vote3]
  cases decide (i < w) <;> simp

/-- A bit of the vote is set where two copies or more have it. -/
theorem testBit_voteList {l : List Nat} (hl : l.length = 3) (i : Nat) :
    (voteList l).testBit i = true ↔ 2 ≤ l.countP (fun d => d.testBit i) := by
  obtain ⟨a, b, c, rfl⟩ := List.length_eq_three.1 hl
  simp only [voteList, List.getD_cons_zero, List.getD_cons_succ, testBit_vote3, List.countP_cons, List.countP_nil]
  cases a.testBit i <;> cases b.testBit i <;> cases c.testBit i <;> decide

/-- Copies that agree in a field agree with their vote. -/
theorem natBits_voteList_of_agree {l : List Nat} {lo w x : Nat} (hl : l.length = 3)
    (h : ∀ d ∈ l, natBits d lo w = x) : natBits (voteList l) lo w = x := by
  obtain ⟨a, b, c, rfl⟩ := List.length_eq_three.1 hl
  simp only [List.forall_mem_cons] at h
  obtain ⟨ha, hb, hc, -⟩ := h
  simp only [voteList, List.getD_cons_zero, List.getD_cons_succ, natBits_vote3, ha, hb, hc, vote3_first]

theorem natBits_of_not_copiesDiffer {l : List Nat} {lo w : Nat} (h : copiesDiffer l lo w = false) :
    ∀ d ∈ l, natBits d lo w = natBits (voteList l) lo w := by
  simpa [copiesDiffer] using h

/-- Three copies differ from their vote in a field when two of them differ there. -/
theorem copiesDiffer_iff {l : List Nat} {lo w : Nat} (hl : l.length = 3) :
    copiesDiffer l lo w = true ↔ ∃ d ∈ l, ∃ e ∈ l, natBits d lo w ≠ natBits e lo w := by
  constructor
  · intro h
    obtain ⟨d, hd, hne⟩ : ∃ d ∈ l, natBits d lo w ≠ natBits (voteList l) lo w := by simpa [copiesDiffer] using h
    by_contra hc
    push Not at hc
    exact hne (natBits_voteList_of_agree hl fun e he => hc e he d hd).symm
  · rintro ⟨d, hd, e, he, hne⟩
    by_contra hc
    have ha := natBits_of_not_copiesDiffer (Bool.eq_false_iff.2 hc)
    exact hne ((ha d hd).trans (ha e he).symm)

theorem voteField_length (l : List Nat) (lo w : Nat) : (voteField l lo w).length = l.length := List.length_map _

theorem natBits_mem_voteField {l : List Nat} {lo w d : Nat} (h : d ∈ voteField l lo w) :
    natBits d lo w = natBits (voteList l) lo w := by
  obtain ⟨c, -, rfl⟩ := List.mem_map.1 h
  rw [natBits_natSetBits_same, Nat.mod_eq_of_lt (natBits_lt _ lo w)]

theorem natSetBits_natSetBits (c lo w y z : Nat) :
    natSetBits (natSetBits c lo w y) lo w z = natSetBits c lo w z := by
  apply Nat.eq_of_testBit_eq
  intro i
  simp only [testBit_natSetBits]
  split_ifs <;> rfl

theorem natSetBits_natBits_self (c lo w : Nat) : natSetBits c lo w (natBits c lo w) = c := by
  apply Nat.eq_of_testBit_eq
  intro i
  rw [testBit_natSetBits, testBit_natBits]
  split_ifs with h1 h2
  · rfl
  · simp [show i - lo < w by omega, show lo + (i - lo) = i by omega]
  · rfl

/-- What an upset turns over in one copy of a field. -/
def upsetField (lo w flip : Nat) (c : Nat) : Nat := natSetBits c lo w (natBits c lo w ^^^ (flip % 2 ^ w))

/-- The vote repairs one upset copy of three alike. -/
theorem voteField_upset (c lo w flip : Nat) (copy : Fin 3) :
    voteField ([c, c, c].modify copy (upsetField lo w flip)) lo w = [c, c, c] := by
  have hr : natSetBits (upsetField lo w flip c) lo w (natBits c lo w) = c := by
    rw [upsetField, natSetBits_natSetBits, natSetBits_natBits_self]
  unfold voteField
  rw [voteList_modify]
  match copy with
  | 0 => simp [hr, natSetBits_natBits_self]
  | 1 => simp [hr, natSetBits_natBits_self]
  | 2 => simp [hr, natSetBits_natBits_self]

/-- An upset that turns over a bit of the field changes the field. -/
theorem natBits_upsetField_ne {c lo w flip : Nat} (h : flip % 2 ^ w ≠ 0) :
    natBits (upsetField lo w flip c) lo w ≠ natBits c lo w := by
  have hlt := Nat.xor_lt_two_pow (natBits_lt c lo w) (Nat.mod_lt flip (Nat.two_pow_pos w))
  rw [upsetField, natBits_natSetBits_same, Nat.mod_eq_of_lt hlt]
  intro he
  exact h (by simpa using he)

theorem copiesDiffer_upset {c lo w flip : Nat} (copy : Fin 3) (h : flip % 2 ^ w ≠ 0) :
    copiesDiffer ([c, c, c].modify copy (upsetField lo w flip)) lo w = true := by
  have hne := natBits_upsetField_ne (c := c) (lo := lo) h
  unfold copiesDiffer
  rw [voteList_modify]
  match copy with
  | 0 => simp [hne]
  | 1 => simp [hne]
  | 2 => simp [hne]

/-! ### Reads of /T fields -/

theorem tripleCopies_congr {s t : State} (hp : t.padlock = s.padlock) (hc : t.comp = s.comp) (x : TripleField) :
    tripleCopies t x = tripleCopies s x := by
  cases x with
  | cur k i p => simp only [tripleCopies, curCopies, getCluster, hc]
  | _ => simp only [tripleCopies, hp]

/-- The copies of a field read as they were set; the field keeps its place. -/
theorem tripleCopies_setTriple (s : State) (x : TripleField) (l : List Nat) :
    tripleCopies (setTriple s x l) x = (l, (tripleCopies s x).2) := by
  cases x with
  | cur k i p => simp [tripleCopies, setTriple, curCopies]
  | _ => rfl

theorem setTriple_frame (s : State) (x : TripleField) (l : List Nat) :
    ∃ p c, setTriple s x l = { s with padlock := p, comp := c } := by
  cases x <;> exact ⟨_, _, rfl⟩

theorem noteTriple_frame (s : State) : ∃ r, noteTriple s = { s with regs := r } := by
  simp only [noteTriple]
  split <;> exact ⟨_, rfl⟩

theorem tabGet_count (s : State) (id n : Nat) :
    tabGet 0 (count s id n).tel.counters id = (tabGet 0 s.tel.counters id + n) % 2 ^ 64 := by
  simp [count, tabMod]

theorem readTriple_value {s : State} {x : TripleField} {l : List Nat} {lo w : Nat} (h : tripleCopies s x = (l, lo, w)) :
    (readTriple s x).1 = natBits (voteList l) lo w := by
  simp only [readTriple, h]
  split <;> rfl

theorem readTriple_agree {s : State} {x : TripleField} {l : List Nat} {lo w : Nat} (h : tripleCopies s x = (l, lo, w))
    (hd : copiesDiffer l lo w = false) : (readTriple s x).2 = s := by
  simp [readTriple, h, hd]

theorem readTriple_differ {s : State} {x : TripleField} {l : List Nat} {lo w : Nat} (h : tripleCopies s x = (l, lo, w))
    (hd : copiesDiffer l lo w = true) : (readTriple s x).2 = count (setTriple s x (voteField l lo w)) 2 1 := by
  simp [readTriple, h, hd]

theorem readTriple_frame (s : State) (x : TripleField) :
    ∃ te p c, (readTriple s x).2 = { s with tel := te, padlock := p, comp := c } := by
  obtain ⟨⟨l, lo, w⟩, h⟩ : ∃ y, tripleCopies s x = y := ⟨_, rfl⟩
  cases hd : copiesDiffer l lo w with
  | false => exact ⟨_, _, _, readTriple_agree h hd⟩
  | true =>
    obtain ⟨p, c, e⟩ := setTriple_frame s x (voteField l lo w)
    rw [readTriple_differ h hd, e]
    exact ⟨_, _, _, rfl⟩

/-- The copies after a read: rewritten to their vote where they differ. -/
theorem tripleCopies_readTriple {s : State} {x : TripleField} {l : List Nat} {lo w : Nat}
    (h : tripleCopies s x = (l, lo, w)) :
    tripleCopies (readTriple s x).2 x = (if copiesDiffer l lo w then voteField l lo w else l, lo, w) := by
  cases hd : copiesDiffer l lo w with
  | false => rw [readTriple_agree h hd, h]; rfl
  | true =>
    have hc : tripleCopies (count (setTriple s x (voteField l lo w)) 2 1) x =
        tripleCopies (setTriple s x (voteField l lo w)) x := tripleCopies_congr rfl rfl x
    rw [readTriple_differ h hd, hc, tripleCopies_setTriple, h]
    rfl

/-- Telemetry counter 2 counts the reads that repair. -/
theorem corrections_readTriple {s : State} {x : TripleField} {l : List Nat} {lo w : Nat}
    (h : tripleCopies s x = (l, lo, w)) :
    tabGet 0 (readTriple s x).2.tel.counters 2 =
      if copiesDiffer l lo w then (tabGet 0 s.tel.counters 2 + 1) % 2 ^ 64 else tabGet 0 s.tel.counters 2 := by
  cases hd : copiesDiffer l lo w with
  | false => rw [readTriple_agree h hd]; rfl
  | true =>
    obtain ⟨p, c, e⟩ := setTriple_frame s x (voteField l lo w)
    rw [readTriple_differ h hd, tabGet_count, e]
    rfl

/-- TRIPLE_FIELD_READ gives the voted value out, and leaves the copies and the counter as the read does. -/
theorem exec_tripleFieldRead (s : State) (x : TripleField) (copy : Fin 3) (flip : Nat) :
    let u := upsetTriple s x copy flip
    ∃ t, exec (.tripleFieldRead x copy flip) s = .next t ∧ t.out = u.out ++ [⟨.readData, [(readTriple u x).1]⟩] ∧
      tripleCopies t x = tripleCopies (readTriple u x).2 x ∧ t.tel = (readTriple u x).2.tel ∧
      t = { u with out := t.out, tel := t.tel, regs := t.regs, padlock := t.padlock, comp := t.comp } := by
  intro u
  have he : exec (.tripleFieldRead x copy flip) s =
      .next (noteTriple ((readTriple u x).2.emit .readData [(readTriple u x).1])) := rfl
  obtain ⟨r, hn⟩ := noteTriple_frame ((readTriple u x).2.emit .readData [(readTriple u x).1])
  obtain ⟨te, p, c, hr⟩ := readTriple_frame u x
  rw [hn] at he
  refine ⟨_, he, ?_, tripleCopies_congr rfl rfl x, rfl, ?_⟩
  · rw [hr]; rfl
  · rw [hr]; rfl

theorem upsetTriple_none (s : State) (x : TripleField) (copy : Fin 3) {lo w flip : Nat} {l : List Nat}
    (h : tripleCopies s x = (l, lo, w)) (hf : flip % 2 ^ w = 0) : upsetTriple s x copy flip = s := by
  simp [upsetTriple, h, hf]

theorem upsetTriple_some {s : State} {x : TripleField} (copy : Fin 3) {lo w flip : Nat} {l : List Nat}
    (h : tripleCopies s x = (l, lo, w)) (hf : flip % 2 ^ w ≠ 0) :
    upsetTriple s x copy flip = setTriple s x (l.modify copy (upsetField lo w flip)) := by
  simp only [upsetTriple, h, hf, if_false]
  rfl

/-- The read of a /T field: every bit by majority, and the copies agree with the value read after it; a read that finds
them apart is one correction. -/
theorem tripleFieldRead_votes {s : State} {x : TripleField} {l : List Nat} {lo w : Nat} (copy : Fin 3)
    (h : tripleCopies s x = (l, lo, w)) (hl : l.length = 3) :
    ∃ t v, exec (.tripleFieldRead x copy 0) s = .next t ∧ t.out = s.out ++ [⟨.readData, [v]⟩] ∧
      v < 2 ^ w ∧ (∀ b, b < w → (v.testBit b = true ↔ 2 ≤ l.countP (fun d => d.testBit (lo + b)))) ∧
      (∀ d ∈ (tripleCopies t x).1, natBits d lo w = v) ∧ (tripleCopies t x).1.length = 3 ∧
      tabGet 0 t.tel.counters 2 = (if ∃ d ∈ l, ∃ e ∈ l, natBits d lo w ≠ natBits e lo w then
        (tabGet 0 s.tel.counters 2 + 1) % 2 ^ 64 else tabGet 0 s.tel.counters 2) ∧
      t = { s with out := t.out, tel := t.tel, regs := t.regs, padlock := t.padlock, comp := t.comp } := by
  obtain ⟨t, ht, hout, hcopies, htel, hframe⟩ := exec_tripleFieldRead s x copy 0
  rw [upsetTriple_none s x copy h (Nat.zero_mod _)] at hout hcopies htel hframe
  rw [readTriple_value h] at hout
  rw [tripleCopies_readTriple h] at hcopies
  refine ⟨t, _, ht, hout, natBits_lt _ lo w, fun b hb => ?_, ?_, ?_, ?_, hframe⟩
  · rw [testBit_natBits, decide_eq_true hb, Bool.true_and, testBit_voteList hl]
  · rw [hcopies]
    cases hd : copiesDiffer l lo w with
    | false => exact natBits_of_not_copiesDiffer hd
    | true => exact fun d => natBits_mem_voteField
  · rw [hcopies]
    cases copiesDiffer l lo w with
    | false => exact hl
    | true => exact (voteField_length l lo w).trans hl
  · rw [htel, corrections_readTriple h]
    exact if_congr (copiesDiffer_iff hl) rfl rfl

/-- One upset copy of three alike does not show in the read: it is written back, and the correction is counted. -/
theorem tripleFieldRead_repairs {s : State} {x : TripleField} {c lo w : Nat} (copy : Fin 3) (flip : Nat)
    (h : tripleCopies s x = ([c, c, c], lo, w)) :
    ∃ t, exec (.tripleFieldRead x copy flip) s = .next t ∧
      t.out = s.out ++ [⟨.readData, [natBits c lo w]⟩] ∧ tripleCopies t x = ([c, c, c], lo, w) ∧
      tabGet 0 t.tel.counters 2 =
        (if flip % 2 ^ w = 0 then tabGet 0 s.tel.counters 2 else (tabGet 0 s.tel.counters 2 + 1) % 2 ^ 64) ∧
      t = { s with out := t.out, tel := t.tel, regs := t.regs, padlock := t.padlock, comp := t.comp } := by
  obtain ⟨t, ht, hout, hcopies, htel, hframe⟩ := exec_tripleFieldRead s x copy flip
  by_cases hf : flip % 2 ^ w = 0
  · rw [upsetTriple_none s x copy h hf] at hout hcopies htel hframe
    have hd : copiesDiffer [c, c, c] lo w = false := by simp [copiesDiffer, voteList_same]
    rw [readTriple_value h, voteList_same] at hout
    rw [readTriple_agree h hd] at hcopies htel
    rw [if_pos hf]
    exact ⟨t, ht, hout, hcopies.trans h, by rw [htel], hframe⟩
  · rw [upsetTriple_some copy h hf] at hout hcopies htel hframe
    have hu := tripleCopies_setTriple s x ([c, c, c].modify copy (upsetField lo w flip))
    rw [h] at hu
    rw [readTriple_value hu, voteList_modify] at hout
    rw [tripleCopies_readTriple hu, copiesDiffer_upset copy hf, if_pos rfl, voteField_upset] at hcopies
    have hcount := corrections_readTriple hu
    rw [copiesDiffer_upset copy hf, if_pos rfl, ← htel] at hcount
    obtain ⟨p, co, e⟩ := setTriple_frame s x ([c, c, c].modify copy (upsetField lo w flip))
    rw [e] at hout hcount hframe
    rw [if_neg hf]
    exact ⟨t, ht, hout, hcopies, hcount, hframe⟩

/-! ### The obligation -/

/-- Settles O54: each path of a BAR0 write, the write of a register's fields, and the two lemmas on reads of /T
fields. -/
theorem registerAccess : Obligations.RegisterAccess := by
  unfold Obligations.RegisterAccess
  intro fn q off w x copy flip c lo n s o noted writes common
  have hwrites {t : State} (h : writeBar0 s fn o w = t) : writes t := congrArg Host.Outcome.next h
  refine ⟨?_, ?_, ?_, ?_, ?_, ?_, ?_, ?_, ?_, ?_, fun l m k => tripleFieldRead_votes copy,
    tripleFieldRead_repairs copy flip⟩
  · intro h8
    exact ⟨_, hwrites (writeBar0_misaligned s fn w h8), errWidth_noted s true off.isLt fn.isLt⟩
  · exact ⟨_, exec_badWidthAccess_write fn off s, errWidth_noted s true off.isLt fn.isLt⟩
  · exact ⟨_, exec_badWidthAccess_read fn off s, bitF_errWidth_read s off fn, errWidth_read_frame s off fn⟩
  · rintro h8 hfn ⟨hw, hi, ht, hc, ha⟩
    have hne : (fn : Nat) ≠ 0 := fun e => hfn (Fin.ext e)
    exact ⟨_, hwrites ((writeBar0_vf s w h8 hne).trans (writeVF_common s fn w hw hi ht hc ha)),
      errVfAccess_noted s off.isLt fn.isLt⟩
  · rintro h8 rfl hs hw hb
    exact ⟨_, hwrites (writeBar0_closed w h8 hs hw hb), errNotReady_noted s off.isLt (fn := 0) (by decide)⟩
  · rintro h8 rfl hs
    exact hwrites (writeBar0_reserved s w h8 hs)
  · intro ho
    exact hwrites (ho ▸ writeBar0_queueCfg s fn q w)
  · rintro rfl ho
    exact hwrites (ho ▸ writeBar0_cap s w)
  · rintro rfl ho
    exact ⟨_, hwrites (ho ▸ writeBar0_pdlCmdAddr s w), getF_writeFields_pdlCmdAddr s w, writeFields_regs s _ w,
      fun r => getReg_writeFields_other s w⟩
  · rintro rfl ho
    exact ⟨_, hwrites (ho ▸ writeBar0_glbErr s w), fun b => natBits_writeFields_glbErr s w, writeFields_regs s _ w,
      fun r => getReg_writeFields_other s w⟩

end Sys2Proof.Machine
end

section
/-!
SUPPORT. The order of arrival at a wide accumulator (02 R92-R94). A cell apart from WRAP is a sum modulo 2^120, six
flags and the bits above WRAP. An arrival adds to the first, ORs into the second, and either leaves or clears the third,
so two arrivals commute. Where WRAP ends clear these parts are the whole cell.
-/
namespace Sys2Proof.Machine

open Sys2Proof

/-! ### Bits of a flagged cell -/

theorem natBits_or (a b lo w : Nat) : natBits (a ||| b) lo w = natBits a lo w ||| natBits b lo w := by
  apply Nat.eq_of_testBit_eq
  intro i
  simp only [testBit_natBits, Nat.testBit_or, Bool.and_or_distrib_left]

theorem cellFlag_eq_or (cell bit : Nat) (b : Bool) : cellFlag cell bit b = cell ||| cellFlag 0 bit b := by
  cases b <;> simp [cellFlag]

/-- A flag bit above the sum leaves the sum alone. -/
theorem ofNat_cellFlag (cell : Nat) {bit : Nat} (b : Bool) (h : 120 ≤ bit) :
    BitVec.ofNat 120 (cellFlag cell bit b) = BitVec.ofNat 120 cell := by
  apply BitVec.eq_of_getLsbD_eq
  intro i hi
  cases b
  · rfl
  · have hne : bit ≠ i := by omega
    simp only [cellFlag, if_true, BitVec.getLsbD_ofNat, Nat.testBit_or, Nat.testBit_two_pow_of_ne hne, Bool.or_false]

/-- A flag bit below bit 127 leaves the bits from there on alone. -/
theorem cellFlag_shiftRight (cell : Nat) {bit : Nat} (b : Bool) (h : bit < 127) :
    cellFlag cell bit b >>> 127 = cell >>> 127 := by
  have hp : 2 ^ bit >>> 127 = 0 := by
    rw [Nat.shiftRight_eq_div_pow, Nat.div_eq_of_lt (Nat.pow_lt_pow_right (by decide) h)]
  cases b
  · rfl
  · simp [cellFlag, Nat.shiftRight_or_distrib, hp]

/-! ### The sum as a word of 120 bits -/

theorem natToInt_eq_toInt (w n : Nat) : natToInt (w + 1) n = (BitVec.ofNat (w + 1) n).toInt := by
  simp only [natToInt, BitVec.toInt_eq_toNat_cond, BitVec.toNat_ofNat, Nat.add_sub_cancel, Nat.pow_succ]
  split_ifs <;> omega

theorem ofNat_intToNat (w : Nat) (z : Int) : BitVec.ofNat w (intToNat w z) = BitVec.ofInt w z := by
  apply BitVec.eq_of_toNat_eq
  rw [BitVec.toNat_ofNat, BitVec.toNat_ofInt, intToNat, Nat.mod_eq_of_lt]
  have := Int.emod_lt_of_pos z (show (0 : Int) < (2 ^ w : Nat) by positivity)
  omega

/-! ### A cell apart from WRAP -/

/-- What a cell holds apart from WRAP: the running sum modulo 2^120, the flags OVF to NINF and the bits above WRAP. -/
@[ext] structure CellParts where
  sum : BitVec 120
  flags : Nat
  upper : Nat

/-- The parts of a cell (Table 02-6). -/
def cellParts (cell : Nat) : CellParts := ⟨BitVec.ofNat 120 cell, natBits cell 120 6, cell >>> 127⟩

theorem cellParts_sum (cell : Nat) : (cellParts cell).sum = BitVec.ofInt 120 (cellSum cell) := by
  rw [cellSum, natToInt_eq_toInt, BitVec.ofInt_toInt, cellParts]

/-- The parts of a cell and its WRAP bit are the whole cell. -/
theorem eq_of_cellParts_eq {a b : Nat} (h : cellParts a = cellParts b)
    (hw : natBits a cellWRAP 1 = natBits b cellWRAP 1) : a = b := by
  obtain ⟨hsum, hflags, hupper⟩ := CellParts.mk.inj h
  apply Nat.eq_of_testBit_eq
  intro i
  rcases lt_or_ge i 120 with h0 | h0
  · simpa only [BitVec.getLsbD_ofNat, h0, decide_true, Bool.true_and] using congrArg (·.getLsbD i) hsum
  rcases lt_or_ge i 126 with h1 | h1
  · simpa [testBit_natBits, show i - 120 < 6 by omega, Nat.add_sub_cancel' h0] using
      congrArg (·.testBit (i - 120)) hflags
  rcases Nat.eq_or_lt_of_le h1 with rfl | h2
  · simpa only [testBit_natBits, cellWRAP, Nat.zero_lt_one, decide_true, Bool.true_and] using
      congrArg (·.testBit 0) hw
  · simpa [Nat.add_sub_cancel' h2] using congrArg (·.testBit (i - 127)) hupper

/-- A flag bit is ORed into the flags; WRAP is not among them. -/
theorem cellParts_cellFlag (cell : Nat) {bit : Nat} (b : Bool) (h : 120 ≤ bit) (h' : bit < 127) :
    cellParts (cellFlag cell bit b) =
      { cellParts cell with flags := (cellParts cell).flags ||| natBits (cellFlag 0 bit b) 120 6 } := by
  ext1
  · exact ofNat_cellFlag cell b h
  · rw [cellParts, cellFlag_eq_or, natBits_or]
    rfl
  · exact cellFlag_shiftRight cell b h'

/-- Writing the sum bits replaces the sum alone. -/
theorem cellParts_natSetBits (cell v : Nat) :
    cellParts (natSetBits cell 0 120 v) = { cellParts cell with sum := BitVec.ofNat 120 v } := by
  ext1
  · apply BitVec.eq_of_toNat_eq
    simpa [natBits, cellParts] using natBits_natSetBits_same cell 0 120 v
  · exact natBits_natSetBits_other (.inr (by decide))
  · apply Nat.eq_of_testBit_eq
    intro i
    simp only [cellParts, Nat.testBit_shiftRight, testBit_natSetBits]
    rw [if_neg (by omega), if_neg (by omega)]

/-- A new sum replaces the sum and may set WRAP, no more. -/
theorem cellParts_cellWithSum (cell : Nat) (z : Int) :
    cellParts (cellWithSum cell z) = { cellParts cell with sum := BitVec.ofInt 120 z } := by
  have hw (b : Bool) : natBits (cellFlag 0 cellWRAP b) 120 6 = 0 := by cases b <;> rfl
  rw [cellWithSum, cellParts_cellFlag _ _ (by decide) (by decide), cellParts_natSetBits, ofNat_intToNat, hw,
    Nat.or_zero]

/-! ### Arrivals -/

/-- Sums add, flags are ORed, and what stands above WRAP stays. -/
def CellParts.add (p q : CellParts) : CellParts := ⟨p.sum + q.sum, p.flags ||| q.flags, p.upper⟩

/-- An addend does to a cell what it does to a cleared one, added to what the cell holds. -/
theorem cellParts_cellAdd (anchor : Int) (cell : Nat) (x : FVal) :
    cellParts (cellAdd anchor cell x) = (cellParts cell).add (cellParts (cellAdd anchor 0 x)) := by
  have h0 : cellParts 0 = ⟨0, 0, 0⟩ := rfl
  match x with
  | .nan | .inf false | .inf true =>
    simp [cellAdd, cellParts_cellFlag, cellNAN, cellPINF, cellNINF, CellParts.add, h0]
  | .fin neg m e =>
    have hs : cellSum 0 = 0 := rfl
    simp [cellAdd, cellParts_cellFlag, cellParts_cellWithSum, cellOVF, cellUNF, cellINEXACT, CellParts.add, h0, hs,
      BitVec.ofInt_add, cellParts_sum, Nat.or_assoc]

/-- A merge adds the other cell and leaves nothing above WRAP. -/
theorem cellParts_cellMerge (a b : Nat) :
    cellParts (cellMerge a b) = { (cellParts a).add (cellParts b) with upper := 0 } := by
  rw [cellMerge, cellParts_cellWithSum]
  ext1
  · rw [BitVec.ofInt_add, ← cellParts_sum, ← cellParts_sum, CellParts.add]
  · apply Nat.eq_of_testBit_eq
    intro i
    by_cases h : i < 6
    · simp [cellParts, CellParts.add, testBit_natBits, h, show i < 7 by omega]
    · simp [cellParts, CellParts.add, testBit_natBits, h]
  · have hlt := Nat.or_lt_two_pow (natBits_lt a 120 7) (natBits_lt b 120 7)
    change (natBits a 120 7 ||| natBits b 120 7) <<< 120 >>> 127 = 0
    rw [Nat.shiftLeft_eq, Nat.shiftRight_eq_div_pow]
    omega

/-- An addend or a merge that arrives at a cell. -/
def cellArrive (anchor : Int) (cell : Nat) (o : FVal ⊕ Nat) : Nat := o.elim (cellAdd anchor cell) (cellMerge cell)

/-- What an arrival does to a cell apart from WRAP. -/
def CellParts.arrive (anchor : Int) (p : CellParts) : FVal ⊕ Nat → CellParts
  | .inl x => p.add (cellParts (cellAdd anchor 0 x))
  | .inr c => { p.add (cellParts c) with upper := 0 }

theorem cellParts_cellArrive (anchor : Int) (cell : Nat) (o : FVal ⊕ Nat) :
    cellParts (cellArrive anchor cell o) = (cellParts cell).arrive anchor o := by
  cases o with
  | inl x => exact cellParts_cellAdd anchor cell x
  | inr c => exact cellParts_cellMerge cell c

/-- Two arrivals commute: their sums and flags do, and a merge among them clears what stands above WRAP either way. -/
theorem CellParts.arrive_right_comm (anchor : Int) (p : CellParts) (a b : FVal ⊕ Nat) :
    (p.arrive anchor a).arrive anchor b = (p.arrive anchor b).arrive anchor a := by
  cases a <;> cases b <;> exact CellParts.ext (add_right_comm _ _ _) (Nat.or_right_comm _ _ _) rfl

/-- The parts apart from WRAP do not depend on the order of arrival, even where the sum has wrapped. -/
theorem cellParts_foldl_perm (anchor : Int) (cell : Nat) {ops ops' : List (FVal ⊕ Nat)} (h : ops.Perm ops') :
    cellParts (ops.foldl (cellArrive anchor) cell) = cellParts (ops'.foldl (cellArrive anchor) cell) := by
  have hom (l : List (FVal ⊕ Nat)) :
      l.foldl (CellParts.arrive anchor) (cellParts cell) = cellParts (l.foldl (cellArrive anchor) cell) :=
    List.foldl_hom cellParts fun u o => (cellParts_cellArrive anchor u o).symm
  rw [← hom, ← hom]
  exact h.foldl_eq' (fun a _ b _ p => CellParts.arrive_right_comm anchor p a b) _

/-- Settles O16: two orders of arrival leave the same parts apart from WRAP, and with WRAP clear these are the whole
cell, so that every read-out is the same too. -/
theorem wideSumsIgnoreOrder : Obligations.WideSumsIgnoreOrder := by
  unfold Obligations.WideSumsIgnoreOrder
  intro anchor cell ops ops' arrive final hperm hwrap hwrap'
  have hcell : final ops = final ops' :=
    eq_of_cellParts_eq (cellParts_foldl_perm anchor cell hperm) (hwrap.trans hwrap'.symm)
  exact ⟨hcell, fun code sat => by rw [hcell]⟩

end Sys2Proof.Machine
end

section
/-!
PROOFS. Entries that do not issue (04 R153, R167, R176, R177; 03 R131, R132, R136, R714): the stop of a core at a fault,
what `gate` answers for an entry that stands at issue, and the command of every opcode run through `gate`. What holds an
entry is decided before its opcode's own checks and conditions, so one argument serves all opcodes.
-/
namespace Sys2Proof.Machine

open Sys2Proof

/-! ### Slots that nothing has loaded -/

theorem tabGet_of_tabFind_none {α : Type} (d : α) {t : List (Nat × α)} {i : Nat} (h : tabFind t i = none) :
    tabGet d t i = d := by
  induction t with
  | nil => rfl
  | cons p t ih =>
    obtain ⟨hp, ht⟩ : p.1 ≠ i ∧ tabFind t i = none := by simpa [tabFind] using h
    rw [tabGet, if_neg hp, ih ht]

theorem entryAt_coreStore_unloaded {s : State} {c p : Nat} (hp : p < 1024)
    (h : tabFind s.comp.coreStore (c * 1024 + p) = none) : entryAt s c (some p) = 0#128 := by
  rw [entryAt, if_pos hp, tabGet_of_tabFind_none _ h]

theorem entryAt_clusterStore_unloaded {s : State} {c p : Nat}
    (h : tabFind s.comp.clusterStore (clusterOfCore c * 1024 + p) = none) : entryAt s c (some (1024 + p)) = 0#128 := by
  rw [entryAt, if_neg (by omega), Nat.add_sub_cancel_left, tabGet_of_tabFind_none _ h]

/-- EMPTY is no defined opcode, on any core. -/
theorem entryOk_empty (pav : Bool) : entryOk pav 0#128 = false := rfl

/-! ### The stop of a core at a fault -/

/-- A strand after its core has stopped. -/
def Strand.stopped (t : Strand) : Strand := if t.phase = .idle then t else { t with phase := .faulted }

theorem getStrand_stopStrands (s : State) (c j : Nat) :
    getStrand (modCore s c stopStrands) c j = (getStrand s c j).stopped := by
  rw [getStrand, getCore_modCore_same]
  exact List.getD_map _ Strand.idle Strand.stopped

/-- A fault of a core that has recorded one only stops the strands (R714). -/
theorem coreFault_recorded {s : State} {c i : Nat} (f : CoreFault)
    (h : getF s (fCLU_CORE_STAT_FAULT_CAUSE (clusterOfCore c) (indexOfCore c)) ≠ 0) :
    coreFault s c i f = modCore s c stopStrands := if_neg h

/-- The record of a core's fault: its cause and its strand. -/
def recordCoreFault (s : State) (c i : Nat) (f : CoreFault) : State :=
  setF (setF s (fCLU_CORE_STAT_FAULT_CAUSE (clusterOfCore c) (indexOfCore c)) f.code)
    (fCLU_CORE_STAT_FAULT_STRAND (clusterOfCore c) (indexOfCore c)) i

theorem launchFault_none {s : State} {c : Nat} (h : (getCore s c).launch = none) (context : Nat) :
    launchFault s c context = s := by
  simp [launchFault, h]

/-- The first fault of a core without a launch record stops the strands, and is recorded and reported. -/
theorem coreFault_first {s : State} {c i : Nat} (f : CoreFault)
    (h : getF s (fCLU_CORE_STAT_FAULT_CAUSE (clusterOfCore c) (indexOfCore c)) = 0) (hl : (getCore s c).launch = none) :
    coreFault s c i f =
      (recordCoreFault (modCore s c stopStrands) c i f).emit .report [c, i, f.code, (getStrand s c i).context] := by
  have hstop : (getCore (modCore s c stopStrands) c).launch = none := by rw [getCore_modCore_same]; exact hl
  refine (if_pos h).trans (launchFault_none ?_ _)
  exact hstop

theorem cause_recordCoreFault (s : State) (c i : Nat) (f : CoreFault) :
    getF (recordCoreFault s c i f) (fCLU_CORE_STAT_FAULT_CAUSE (clusterOfCore c) (indexOfCore c)) = f.code := by
  calc getF (recordCoreFault s c i f) (fCLU_CORE_STAT_FAULT_CAUSE (clusterOfCore c) (indexOfCore c))
    _ = getF (setF s (fCLU_CORE_STAT_FAULT_CAUSE (clusterOfCore c) (indexOfCore c)) f.code)
          (fCLU_CORE_STAT_FAULT_CAUSE (clusterOfCore c) (indexOfCore c)) :=
        getF_setF_disj _ _ rfl (by decide : 16 + 2 ≤ 64) (.inl (by decide : 8 + 8 ≤ 16))
    _ = f.code % 2 ^ 8 := getF_setF_same _ _ (by decide : 8 + 8 ≤ 64)
    _ = f.code := by cases f <;> rfl

theorem strand_recordCoreFault (s : State) (c : Nat) (i : Fin 4) (f : CoreFault) :
    getF (recordCoreFault s c i f) (fCLU_CORE_STAT_FAULT_STRAND (clusterOfCore c) (indexOfCore c)) = i := by
  rw [recordCoreFault, getF_setF_same _ _ (by decide : 16 + 2 ≤ 64)]
  exact Nat.mod_eq_of_lt i.isLt

theorem getReg_recordCoreFault_other (s : State) {c i r : Nat} (f : CoreFault)
    (h : r ≠ rCLU_CORE_STAT (clusterOfCore c) (indexOfCore c)) : getReg (recordCoreFault s c i f) r = getReg s r := by
  rw [recordCoreFault, getReg_setF_other _ _ h, getReg_setF_other _ _ h]

/-! ### The waits of an entry -/

section Waits

variable {s : State} {c i : Nat} {e : Entry}

/-- Every latch of the entry's window and mask is zero. -/
def LatchesZero (s : State) (c : Nat) (e : Entry) : Prop :=
  ∀ l ∈ windowLatches e ++ cmaskLatches e, latchGet s c l.1 l.2 = 0

theorem LatchesZero.any (h : LatchesZero s c e) :
    (windowLatches e ++ cmaskLatches e).any (fun l => latchGet s c l.1 l.2 != 0) = false :=
  List.any_eq_false.2 fun l hl => by simp [h l hl]

theorem waitGate_waiting (h : ∃ l ∈ windowLatches e ++ cmaskLatches e, latchGet s c l.1 l.2 ≠ 0) (short busy : Bool) :
    waitGate s c i e short busy = .hold .waiting := by
  obtain ⟨l, hl, hne⟩ := h
  exact if_pos (List.any_eq_true.2 ⟨l, hl, by simpa using hne⟩)

theorem waitGate_remote (hz : LatchesZero s c e)
    (h : ∃ r ∈ entryRegs e, ∃ o, pendingOp (getCore s c) i r = some o ∧ o.remote = true) (short busy : Bool) :
    waitGate s c i e short busy = .hold .remote := by
  obtain ⟨r, hr, o, ho, hrem⟩ := h
  have ha : ((entryRegs e).filterMap (pendingOp (getCore s c) i)).any (fun o => o.remote) = true :=
    List.any_eq_true.2 ⟨o, List.mem_filterMap.2 ⟨r, hr, ho⟩, hrem⟩
  simp [waitGate, hz.any, ha]

theorem waitGate_passedOver (hz : LatchesZero s c e)
    (h : ∃ r ∈ entryRegs e, pendingOp (getCore s c) i r ≠ none)
    (hl : ∀ r ∈ entryRegs e, ∀ o, pendingOp (getCore s c) i r = some o → o.remote = false) (short busy : Bool) :
    waitGate s c i e short busy = .hold .ready := by
  have ha : ((entryRegs e).filterMap (pendingOp (getCore s c) i)).any (fun o => o.remote) = false := by
    refine List.any_eq_false.2 fun o ho => ?_
    obtain ⟨r, hr, hp⟩ := List.mem_filterMap.1 ho
    simp [hl r hr o hp]
  have hn : (entryRegs e).filterMap (pendingOp (getCore s c) i) ≠ [] := by
    obtain ⟨r, hr, hp⟩ := h
    exact fun hnil => hp (List.filterMap_eq_nil_iff.1 hnil r hr)
  simp only [waitGate, hz.any, ha, Bool.false_eq_true, if_false, if_pos hn]

/-- The registers of the entry are settled: what holds it is the number of remote accesses or its done latch. -/
theorem waitGate_settled (hz : LatchesZero s c e) (hs : ∀ r ∈ entryRegs e, pendingOp (getCore s c) i r = none)
    (short busy : Bool) :
    waitGate s c i e short busy =
      if entryRemote s c i e && decide (8 ≤ remoteCount (getCore s c) i) then .hold .remote
      else if (doneLatch e).any (fun l => decide (latchMax l.1 ≤ latchGet s c l.1 l.2)) then .hold .stalled
      else if busy then .hold .ready
      else if short then .hold .stalled
      else .go e := by
  simp only [waitGate, hz.any, List.filterMap_eq_nil_iff.2 hs, List.any_nil, Bool.false_eq_true, if_false, ne_eq,
    not_true_eq_false]

theorem waitGate_eightRemote (hz : LatchesZero s c e) (hs : ∀ r ∈ entryRegs e, pendingOp (getCore s c) i r = none)
    (hr : entryRemote s c i e = true) (h8 : 8 ≤ remoteCount (getCore s c) i) (short busy : Bool) :
    waitGate s c i e short busy = .hold .remote := by
  simp [waitGate_settled hz hs, hr, h8]

theorem waitGate_stalled (hz : LatchesZero s c e) (hs : ∀ r ∈ entryRegs e, pendingOp (getCore s c) i r = none)
    (hr : entryRemote s c i e = true → remoteCount (getCore s c) i < 8)
    (h : ∃ l, doneLatch e = some l ∧ latchMax l.1 ≤ latchGet s c l.1 l.2) (short busy : Bool) :
    waitGate s c i e short busy = .hold .stalled := by
  obtain ⟨l, hl, hmax⟩ := h
  have hf : (entryRemote s c i e && decide (8 ≤ remoteCount (getCore s c) i)) = false := by simpa using hr
  simp [waitGate_settled hz hs, hf, hl, hmax]

end Waits

/-! ### The gate -/

/-- Entry `e` stands fetched at strand `i` of core `c`, which is awake and whose cluster runs, and no strand that the
sequencer tries before it takes its turn: what becomes of it is decided by the entry. -/
structure AtIssue (s : State) (c i : Nat) (e : Entry) : Prop where
  here  : entryAt s c (getStrand s c i).pc = e
  awake : (getStrand s c i).phase ≠ .idle
  alive : (getStrand s c i).phase ≠ .faulted
  power : pstate s (clusterOfCore c) = 0
  line  : lineHeld (getStrand s c i) = true
  clean : entryPoisoned s c (getStrand s c i) = false
  turn  : ∀ j ∈ triedBefore (getCore s c).last i, takesTurn s c j = false

section Gate

variable {s : State} {c i op : Nat} {e : Entry} {chk : Entry → List CoreFault} {short busy : Entry → Bool}

/-- A strand that is tried before this one takes the cycle (R131). -/
theorem gate_pass_of_turn (h : ∃ j ∈ triedBefore (getCore s c).last i, takesTurn s c j = true) :
    gate s c i op chk short busy = .pass :=
  if_pos (Bool.or_eq_true_iff.2 (.inr (List.any_eq_true.2 h)))

theorem AtIssue.noTurn (h : AtIssue s c i e) : (triedBefore (getCore s c).last i).any (takesTurn s c) = false :=
  List.any_eq_false.2 fun j hj => by simp [h.turn j hj]

theorem AtIssue.gate_reserved (h : AtIssue s c i e) (hop : eOP e = op) (hv : entryOk (isCulet c) e = false) :
    gate s c i op chk short busy = .fault .entryReserved := by
  simp [gate, h.here, h.awake, h.alive, h.power, h.line, h.clean, h.noTurn, hop, hv]

theorem AtIssue.gate_hold (h : AtIssue s c i e) (hop : eOP e = op) (hv : entryOk (isCulet c) e = true) {ph : StrandPhase}
    (hw : waitGate s c i e (short e) (busy e) = .hold ph) : gate s c i op chk short busy = .hold ph := by
  simp [gate, h.here, h.awake, h.alive, h.power, h.line, h.clean, h.noTurn, hop, hv, hw]

end Gate

/-! ### The commands of the entries -/

/-- The opcodes of the tables, each with the command that runs it. -/
def opcodeRows (c : Fin 98304) (i : Fin 4) : List (Nat × Instr) := [
  (0x01, .tblNop c i), (0x02, .tblJump c i), (0x03, .tblBranch c i), (0x04, .tblLoop c i), (0x05, .tblEndloop c i),
  (0x06, .tblCall c i), (0x07, .tblReturn c i), (0x08, .tblWait c i), (0x09, .tblEnd c i), (0x0A, .tblNotify c i),
  (0x10, .tblSimm c i), (0x11, .tblSalu c i), (0x12, .tblSload c i), (0x13, .tblSstore c i), (0x14, .tblAmov c i),
  (0x15, .tblAadd c i), (0x16, .tblFlags c i), (0x20, .tblDma c i), (0x21, .tblMove c i), (0x22, .tblAtomic c i),
  (0x30, .tblMatmul c i), (0x40, .tblEpilogue c i), (0x41, .tblLustre c i), (0x50, .tblWadd c i),
  (0x51, .tblWmerge c i), (0x52, .tblWread c i), (0x53, .tblWclear c i), (0x60, .tblAstep c i), (0x61, .tblAfold c i),
  (0x62, .tblAnorm c i), (0x63, .tblAlmax c i), (0x64, .tblAlsum c i), (0x65, .tblAlprob c i), (0x66, .tblAmerge c i),
  (0x70, .tblXselect c i), (0x71, .tblXdispatch c i), (0x72, .tblXreturn c i), (0x73, .tblXgather c i),
  (0x74, .tblXbag c i)]

/-- The gate answers `g` whatever an opcode adds: its checks, and when it is short of lines or busy. -/
def GateIs (s : State) (c i op : Nat) (g : Gate) : Prop :=
  ∀ chk short busy, gate s c i op chk short busy = g

/-- A command runs the entry of its opcode. -/
def RunsEntry (s : State) (c i op : Nat) (a : Instr) : Prop :=
  ∃ chk short busy body, exec a s = .next (runEntry op chk short busy body c i s)

/-- MATMUL takes up lines only where these alone hold it. -/
theorem matmul_runsEntry {s : State} {c : Fin 98304} {i : Fin 4} {g : Gate} (hg : GateIs s c i 0x30 g) :
    RunsEntry s c i 0x30 (.tblMatmul c i) :=
  ⟨_, _, _, _, congrArg Host.Outcome.next (if_neg fun h => h.2 ((hg _ _ _).trans ((hg _ _ _).symm.trans h.1)))⟩

/-- Where the gate does not turn on what an opcode adds, the command of every row runs its entry, and no more. -/
theorem opcodeRows_runEntry {s : State} {c : Fin 98304} {i : Fin 4} {g : Gate} {p : Nat × Instr}
    (hp : p ∈ opcodeRows c i) (hg : GateIs s c i p.1 g) : RunsEntry s c i p.1 p.2 := by
  simp only [opcodeRows, List.mem_cons, List.not_mem_nil, or_false] at hp
  obtain rfl | rfl | rfl | rfl | rfl | rfl | rfl | rfl | rfl | rfl | rfl | rfl | rfl | rfl | rfl | rfl | rfl | rfl |
    rfl | rfl | rfl | rfl | rfl | rfl | rfl | rfl | rfl | rfl | rfl | rfl | rfl | rfl | rfl | rfl | rfl | rfl | rfl |
    rfl | rfl := hp
  -- MATMUL, row 21, is the one command that does more than run its entry.
  pick_goal 21
  · exact matmul_runsEntry hg
  all_goals exact ⟨_, _, _, _, rfl⟩

theorem opcodeRows_pass {s : State} {c : Fin 98304} {i : Fin 4} {p : Nat × Instr} (hp : p ∈ opcodeRows c i)
    (hg : GateIs s c i p.1 .pass) : exec p.2 s = .next s := by
  obtain ⟨chk, short, busy, body, he⟩ := opcodeRows_runEntry hp hg
  rw [he, runEntry, hg]

theorem opcodeRows_hold {s : State} {c : Fin 98304} {i : Fin 4} {p : Nat × Instr} {ph : StrandPhase}
    (hp : p ∈ opcodeRows c i) (hg : GateIs s c i p.1 (.hold ph)) : exec p.2 s = .next (setPhase s c i ph) := by
  obtain ⟨chk, short, busy, body, he⟩ := opcodeRows_runEntry hp hg
  rw [he, runEntry, hg]

/-- An entry at issue that `waitGate` holds, short and busy or not, changes only the state of its strand. -/
theorem AtIssue.held {s : State} {c : Fin 98304} {i : Fin 4} {e : Entry} (h : AtIssue s c i e)
    (hv : entryOk (isCulet c) e = true) {p : Nat × Instr} (hp : p ∈ opcodeRows c i) (hop : eOP e = p.1)
    {ph : StrandPhase} (hw : ∀ short busy, waitGate s c i e short busy = .hold ph) :
    ∃ t, exec p.2 s = .next t ∧ OnlyStrand s t c i { getStrand s c i with phase := ph } :=
  ⟨_, opcodeRows_hold hp fun _ _ _ => h.gate_hold hop hv (hw _ _), modStrand_only _ (awake_lt h.awake)⟩

theorem exec_tblEmpty_pass {s : State} {c : Fin 98304} {i : Fin 4} (hg : GateIs s c i 0x00 .pass) :
    exec (.tblEmpty c i) s = .next s := by
  change Host.Outcome.next (runEntry 0x00 _ _ _ _ c i s) = _
  rw [runEntry, hg]

/-- EMPTY at issue faults (R153). -/
theorem AtIssue.exec_tblEmpty {s : State} {c : Fin 98304} {i : Fin 4} (h : AtIssue s c i 0#128) :
    exec (.tblEmpty c i) s = .next (coreFault s c i .entryReserved) := by
  change Host.Outcome.next (runEntry 0x00 _ _ _ _ c i s) = _
  rw [runEntry, h.gate_reserved (op := 0x00) rfl (entryOk_empty _)]
  rfl

/-! ### The obligation -/

/-- Settles O9: the unloaded slots, the turn of another strand, the fault of EMPTY after another and as the first, and
the five holds. -/
theorem entriesThatDoNotIssue : Obligations.EntriesThatDoNotIssue := by
  unfold Obligations.EntriesThatDoNotIssue
  intro c i s e v stopped cause strand rows ready settled
  refine ⟨fun p hp => entryAt_coreStore_unloaded hp, fun p _ => entryAt_clusterStore_unloaded,
    fun hhere hawake halive hpower hline hclean => ⟨fun ht => ?_, fun ht he => ?_, fun ht hv p hp hop => ?_⟩⟩
  · exact ⟨exec_tblEmpty_pass fun _ _ _ => gate_pass_of_turn ht,
      fun p hp => opcodeRows_pass hp fun _ _ _ => gate_pass_of_turn ht⟩
  · have h : AtIssue s c i 0#128 := ⟨hhere.trans he, hawake, halive, hpower, hline, hclean, ht⟩
    refine ⟨_, h.exec_tblEmpty, rfl, fun hc => ?_, fun hc hl => ?_⟩
    · rw [coreFault_recorded _ hc]
      exact ⟨getStrand_stopStrands s c, fun d hd => getCore_modCore_other s _ hd, rfl⟩
    · rw [coreFault_first _ hc hl]
      exact ⟨getStrand_stopStrands s c, (getF_congr (emit_regs ..) _).trans (cause_recordCoreFault ..),
        (getF_congr (emit_regs ..) _).trans (strand_recordCoreFault ..), rfl,
        fun r hr => (getReg_congr (emit_regs ..) r).trans (getReg_recordCoreFault_other _ _ hr)⟩
  · have h : AtIssue s c i e := ⟨hhere, hawake, halive, hpower, hline, hclean, ht⟩
    exact ⟨fun hw => h.held hv hp hop (waitGate_waiting hw),
      fun hz hr => h.held hv hp hop (waitGate_remote hz hr),
      fun hz hr hl => h.held hv hp hop (waitGate_passedOver hz hr hl),
      fun ⟨hz, hs⟩ hr h8 => h.held hv hp hop (waitGate_eightRemote hz hs hr h8),
      fun ⟨hz, hs⟩ hr hd => h.held hv hp hop (waitGate_stalled hz hs hr hd)⟩

end Sys2Proof.Machine
end
